-- ==== Sys2Proof/Word.lean ====
section
/-! DEFINITION. The word types of the device: 32-bit cells and register words (R278, R24) and memory bytes. -/

namespace Sys2Proof

/-- A cell of a data stack, a register word, an item of an Arcade. -/
abbrev Word := BitVec 32

/-- A byte of a memory, a flash page or a message. -/
abbrev Byte := BitVec 8

end Sys2Proof
end

