-- ==== Sys2Proof/Machine/Kinds.lean ====
section
/-! DEFINITION. Who sends an access, and other small closed sets that commands and State share. -/

namespace Sys2Proof.Machine

/-- A requester of register accesses: a thread by its device-wide index, a host function (function k carries Quarter k,
R359), or the debug port (R463). Each has its own snapshot and holding register (R34, R35). -/
inductive Req where
  | thr (t : Fin 64) | fn (q : Fin 4) | dbg
deriving DecidableEq, Repr

/-- A head-link burst as a receiver gets it (R157-R159, R169, R170): the pilot seed that matches best, the bytes of each codeword as
received, data and then parity, and the SNR of each data carrier in a probe, in 0.25 dB. -/
structure HlRx where
  seed : Nat
  cws : List (List Byte)
  snr : List Byte
deriving DecidableEq, Repr

/-- Who asks for a Plaza transfer (R178): a port, the Crossing engine, the Clocktower or a Lamplighter with a packet or record; a
thread; host BAR 0; Arcade DMA; the Archive; an instruction-cache fill; the MP0 prefetch. -/
inductive PzReq where
  | packet | thr (t : Fin 64) | bar0 | dma | archive | fetch | prefetch
deriving DecidableEq, Repr

/-- A target of the Plaza (R177): a memory port, the Market, the Arcade store, control blocks and GP, or the registers of a port. -/
inductive PzTgt where
  | mp | market | arcades | ctl | port
deriving DecidableEq, Repr

/-- What a port sees of another controller's message (R116, R120, R133): its START, within it a roll-call with the lowest address
that the other requesters answer, where one does, and its STOP. -/
inductive TwMsg where
  | start
  | roll (other : Option (Fin 128))
  | stop
deriving DecidableEq, Repr

/-- A symbol of a ring port's line (R331, R332): a data byte, a control code, or a received code violation. -/
inductive RgSym where
  | d (b : Byte)
  | k (b : Byte)
  | bad
deriving DecidableEq, Repr

/-- A part of a message on a two-wire bus (R116): START, STOP, or a byte, sent most significant bit first, with its acknowledge
bit (true = ACK, driven low). -/
inductive TwTok where
  | start | stop
  | byte (b : Byte) (ack : Bool)
deriving DecidableEq, Repr

/-- A configuration request to a function (R357, R358, R430): a read of a word of configuration space, or host software
setting bus mastering, MSI-X enable and function mask, the max payload size (128 or 256 bytes), a BAR address, or ASPM
L1. -/
inductive CfgReq where
  | read (word : Fin 1024)
  | busMaster (on : Bool)
  | msix (on mask : Bool)
  | payload (big : Bool)
  | bar0 (base : BitVec 44)
  | bar2 (base : BitVec 48)
  | aspmL1 (on : Bool)
deriving DecidableEq, Repr

/-- Where a register access of a host or the debug port goes: an offset from 0x4000_0000 (BAR 0, control space and GP), or
an offset of BAR 2 of the function (R21, R366). -/
inductive RegTarget where
  | ctl (off : Fin 1114112)
  | bar2 (off : Fin 65536)
deriving DecidableEq, Repr

/-- What a wake detector meets (R445): a change of pin k of PM_AON_WKPIN, or its level, as (before, now); a fall of SDA at a
two-wire port and the level of SCL; energy on a ring receive pair, with its amplitude in mVppd and its time in ns; a square wave
there, with amplitude, periods and Hz; a tone on a head link, as energy or as a Bell, with amplitude, Hz and unbroken ns; an
electrical-idle exit; HPn_WAKE_N held low by another agent; an AON alarm. -/
inductive WakeSig where
  | pin (k : Fin 128) (before now : Bool)
  | twoWire (m : Fin 8) (scl : Bool)
  | ringEnergy (p : Fin 2) (mv ns : Nat)
  | ringBell (p : Fin 2) (mv periods hz : Nat)
  | headEnergy (n : Fin 2) (mv hz ns : Nat)
  | headBell (n : Fin 2) (mv hz ns : Nat)
  | idleExit (p : Fin 2)
  | wakePin (p : Fin 2)
  | alarm (x : Fin 2)
deriving DecidableEq, Repr

/-- The source code of R445. -/
def WakeSig.code : WakeSig → Nat
  | .pin _ _ _ => 1
  | .twoWire _ _ => 2
  | .ringEnergy _ _ _ => 3
  | .ringBell _ _ _ _ => 4
  | .headEnergy _ _ _ _ => 5
  | .headBell _ _ _ _ => 6
  | .idleExit _ => 7
  | .wakePin _ => 8
  | .alarm x => 9 + x.val

/-- The element of PM_AON_WKPIN of a pin source; 0 for the others. -/
def WakeSig.pinOf : WakeSig → Nat
  | .pin k _ _ => k.val
  | _ => 0

end Sys2Proof.Machine
end

