-- ==== Sys2Proof/Syntax.lean ====
section
/-! DEFINITION. The commands of the device: one constructor per row of the opcode table, in the table's order. An operand says
who sends the command, which unit it names, and what arrives from outside. The instructions of the stack programs begin with
i; t is the thread that issues, by its device-wide index (R254). `req` is the requester of a register access (R22), `ph` and
`p` of an edge its interpolator phase (R65), `m` and `ms` CK_CORE cycles of parking beyond those that idle steps
have counted (R51). -/

namespace Sys2Proof

open Sys2Proof.Machine

/-- A command of the device. -/
inductive Instr where
  /-- TICK (R37): The tick index exceeds its highest value so far and a tick occurs, taking up staged values and resetting the per-tick state. -/
  | tick
  /-- STAGE_CLOSE (R39): 160 ns before the coming tick, the staged copies of all ST fields are captured together. -/
  | stageClose
  /-- TICK_RELEASE (R45): LT reaches the tick plus a thread's release offset, and a new activation of the thread begins. -/
  | tickRelease (t : Fin 64)
  /-- WAKE_RELEASE (R47): A wake is presented to a Block and either begins an activation or sets the thread's pending-wake bit. -/
  | wakeRelease (t : Fin 64)
  /-- BOLLARD_SUSPEND (R52): A thread whose usage count has reached its budget is suspended, its overrun is counted and its Quarter is notified. -/
  | bollardSuspend (t : Fin 64) (m : Nat)
  /-- CT_INCR_LO_WRITE (R67): A write replaces the shared pending low part of a domain increment. -/
  | ctIncrLoWrite (req : Req) (x : Bool) (w : Word)
  /-- CT_INCR_HI_WRITE (R67): A write of the high part commits it together with the pending low part as the new increment. -/
  | ctIncrHiWrite (req : Req) (x : Bool) (w : Word)
  /-- CT_DT_WRITE (R69): A write of the domain time commits a step equal to the written value minus T_x. -/
  | ctDtWrite (req : Req) (x : Bool) (high : Bool) (w : Word)
  /-- CT_SRV_CFG_WRITE (R72): A write of the servo configuration enables or disables the servo and seeds the integral term. -/
  | ctSrvCfgWrite (req : Req) (x : Bool) (w : Word)
  /-- OFFSET_MEASUREMENT (R71): An offset measurement of a domain is processed by the servo, which either steps the domain or updates its increment. -/
  | offsetMeasurement (x : Bool)
  /-- DOMAIN_SILENCE (R73): A silence reaches LOSSN × MINT µs, so LOST is set and a LOCKED domain enters HOLDOVER. -/
  | domainSilence (x : Bool)
  /-- DOMAIN_SWITCH (R75): A write of CT_CTRL.SEL switches LT to the other domain and sets D. -/
  | domainSwitch (req : Req) (w : Word)
  /-- SLEW_CONVERGED (R77): The carried offset D reaches 0, so CONV clears and the quality of LT reverts to the domain state. -/
  | slewConverged
  /-- AON_EDGE_STAMP (R82): A rising AON edge is stamped and the entry record is written to the PD_AON latch. -/
  | aonEdgeStamp
  /-- AON_CAL_WINDOW (R81): A window of 2^CALW AON edges ends and AON_CAL is recomputed. -/
  | aonCalWindow
  /-- LT_RECONSTRUCT (R83): After a CURFEW wake, the first AON edge reconstructs LT from the entry snapshot and sets the domain states. -/
  | ltReconstruct
  /-- FP_LAUNCH (R94): An enabled launch entry reaches its instant and the controller port starts a frame, stamping its Milestone. -/
  | fpLaunch (n : Fin 32) (i : Fin 8)
  /-- FP_FRAME_END (R92): A frame reaches its end and its received words are delivered as a packet to the Plaza. -/
  | fpFrameEnd (n : Fin 32) (rx : List Bool)
  /-- FP_GO (R99): FP_CMD.GO requests a command launch, which starts at once or stays pending. -/
  | fpGo (req : Req) (n : Fin 32)
  /-- FP_PENDING_LAUNCH (R99): A pending command launch starts at the first edge at which the port is idle. -/
  | fpPendingLaunch (n : Fin 32)
  /-- FP_SELECT_RELEASE (R100): TRAIL after the frame end, the port drives the select pin to its inactive level. -/
  | fpSelectRelease (n : Fin 32)
  /-- FP_ARM (R111): FP_CMD.ARM arms a target reply tagged with the sequence number of the last frame that ended. -/
  | fpArm (req : Req) (n : Fin 32)
  /-- FP_DISCARD (R111): FP_CMD.DISCARD clears the armed reply. -/
  | fpDiscard (req : Req) (n : Fin 32)
  /-- FP_SELECT_START (R111): A target select period starts, its Milestone is stamped and a reply is chosen. -/
  | fpSelectStart (n : Fin 32) (p : Fin 32)
  /-- FP_SELECT_END (R110): A target select period ends and the frame is accepted and delivered, or rejected, by its edge count. -/
  | fpSelectEnd (n : Fin 32) (rx : List Bool)
  /-- TW_GO (R124): TW_CMD.GO requests a controller transaction, which starts at once or stays pending. -/
  | twGo (req : Req) (n : Fin 8)
  /-- TW_TRANSACTION_START (R124): A pending transaction starts once the port is idle and the bus is free. -/
  | twTransactionStart (n : Fin 8)
  /-- TW_TRANSACTION_END (R122): A controller transaction ends with its status and is delivered as a record. -/
  | twTransactionEnd (n : Fin 8) (nack : Option (Fin 67)) (rx : List Byte)
  /-- TW_ARBITRATION_LOSS (R125): The controller sends 1 and sees 0, or sees a foreign START or STOP, and loses arbitration. -/
  | twArbitrationLoss (n : Fin 8) (byte : Fin 67) (bt : Fin 9)
  /-- TW_ARBITRATION_RETRY (R126): After a loss, the transaction starts again from the beginning once the bus is free, or ends with status 3 when the retries are used up. -/
  | twArbitrationRetry (n : Fin 8)
  /-- TW_BUS_FREE (R120): tBUF passes after a STOP, or after enable with both lines high, and the bus becomes free. -/
  | twBusFree (n : Fin 8)
  /-- IN_BAND_REQUEST (R128): SDA rises after a low period on a free bus, which is classified as spurious or as a request. -/
  | inBandRequest (n : Fin 8) (d : Nat)
  /-- TW_HANG (R128): SDA stays low for over 20 µs on a free bus, so HANG is set and counted. -/
  | twHang (n : Fin 8)
  /-- ROLL_CALL (R130): A roll-call with address 0x03 starts once tBUF has passed after a request. -/
  | rollCall (n : Fin 8)
  /-- ROLL_CALL_END (R130): A roll-call ends with the winning requester's address, or with NOANS counted. -/
  | rollCallEnd (n : Fin 8) (winner : Option (Fin 128))
  /-- TW_REQ (R133): TW_CMD.REQ raises an in-band request from the port in its target role. -/
  | twReq (req : Req) (n : Fin 8)
  /-- TW_REQUEST_RELEASE (R133): After holding SDA low for 5 µs, the port releases it to end its own request. -/
  | twRequestRelease (n : Fin 8)
  /-- TW_UNREQ (R133): TW_CMD.UNREQ withdraws a request raised by REQ. -/
  | twUnreq (req : Req) (n : Fin 8)
  /-- SCL_LOW_TIMEOUT (R134): SCL is held low for SCLTO ms, so SCLLTO is set and any transaction ends with status 4. -/
  | sclLowTimeout (n : Fin 8)
  /-- SDA_LOW_TIMEOUT (R134): SDA is held low for SDATO ms on a free bus, so SDALTO is set and a bus clear may start. -/
  | sdaLowTimeout (n : Fin 8)
  /-- TW_CLEAR (R135): TW_CMD.CLEAR starts a bus clear with up to nine SCL pulses. -/
  | twClear (req : Req) (n : Fin 8)
  /-- BUS_CLEAR_END (R135): A bus clear ends with a STOP and CLRD, or with STUCK after the ninth pulse. -/
  | busClearEnd (n : Fin 8) (ok : Bool)
  /-- POWER_PULSE_END (R136): The PWRT power pulse on STUCK ends and the power pin is released. -/
  | powerPulseEnd (n : Fin 8)
  /-- POWER_WAIT_END (R136): PWRWAIT after the power pulse expires and one further bus clear runs. -/
  | powerWaitEnd (n : Fin 8)
  /-- TW_PRST (R138): TW_CMD.PRST stops the port and enables it again with the line check. -/
  | twPrst (req : Req) (n : Fin 8)
  /-- TW_TARGET_WRITE (R139): A write addressed to the port's own address is received and delivered as a record. -/
  | twTargetWrite (n : Fin 8) (data : List Byte)
  /-- TW_TARGET_READ (R139): A read addressed to the port's own address is served from the armed reply, or with 0xFF. -/
  | twTargetRead (n : Fin 8) (k : Fin 256)
  /-- HL_SUPERFRAME (R150): At the superframe start the hub sends its down burst with its header and schedules the up burst. -/
  | hlSuperframe (n : Fin 2) (ph : Fin 4) (sect : Option (List Word))
  /-- HL_DOWN_BURST_RX (R163): A node decodes a down burst and its header, which set its timing, state, tables and time measurement. -/
  | hlDownBurstRx (n : Fin 2) (rx : HlRx)
  /-- HL_UP_BURST_TX (R153): The node launches its up burst at UR − δ. -/
  | hlUpBurstTx (n : Fin 2)
  /-- HL_UP_BURST_RX (R165): The hub receives an up burst, decodes its header, updates its ranging and delivers its segments. -/
  | hlUpBurstRx (n : Fin 2) (rx : HlRx)
  /-- HL_LINK_LOSS (R173): NLOSS consecutive superframes pass without a decoded header, so the link enters DOWN or SEARCH. -/
  | hlLinkLoss (n : Fin 2)
  /-- HL_LRST (R173): HL_CMD.LRST restarts the link. -/
  | hlLrst (req : Req) (n : Fin 2)
  /-- HL_BELL (R174): HL_CMD.BELL sends the 10 MHz Bell from the next tick. -/
  | hlBell (req : Req) (n : Fin 2)
  /-- HL_BELL_END (R174): The 100 µs Bell ends and BELLACT clears. -/
  | hlBellEnd (n : Fin 2)
  /-- HL_PRBNOW (R170): HL_CMD.PRBNOW requests a probe in both directions in the next superframe. -/
  | hlPrbnow (req : Req) (n : Fin 2)
  /-- HL_TBLCMD_GO (R171): HL_TBLCMD.GO starts a table load from the shadow table. -/
  | hlTblcmdGo (req : Req) (n : Fin 2) (up : Bool) (tab : Fin 8)
  /-- HL_TABLE_LOAD_RETRY (R171): No TABLE_ACK arrives within 4 superframes, so TABLE_LOAD is sent again or the load fails. -/
  | hlTableLoadRetry (n : Fin 2)
  /-- HL_TABLE_COMMIT (R171): At superframe a + 9, the table is replaced with the pending content and G toggles. -/
  | hlTableCommit (n : Fin 2)
  /-- PACKET_ROUTE (R183): A packet presented to the Plaza is sent, whole, to every destination of its enabled route entries. -/
  | packetRoute (typ : Fin 16) (idx : Fin 256)
  /-- PLAZA_TRANSFER_COMPLETE (R181): A Plaza transfer completes at its target after arbitration by class. -/
  | plazaTransferComplete (r : PzReq) (g : PzTgt) (cycles : Nat) (fourth : Bool)
  /-- CROSSING_PASS (R191): The engine serves a queue entry, evaluating every reading cell to depth 4. -/
  | crossingPass (delay : Nat)
  /-- CROSSING_DEADLINE (R192): LT reaches a cell's interval end plus GRACE, and a deadline entry joins the queue. -/
  | crossingDeadline (c : Fin 128)
  /-- XC_RESET (R196): XC_CMD.RESET returns a cell to its initial state. -/
  | xcReset (req : Req) (c : Fin 128)
  /-- XC_REARM (R212): XC_CMD.REARM re-arms a stopped ONESHOT ETA cell. -/
  | xcRearm (req : Req) (c : Fin 128)
  /-- PIN_EDGE (R205): A filtered pin edge is accepted and stamped, and feeds the pin monitor and the capture path. -/
  | pinEdge (n : Fin 96) (lvl : Bool) (p : Fin 32)
  /-- PIN_STUCK (R208): A level stays active for STUCKT ms, so the monitor produces STUCK. -/
  | pinStuck (n : Fin 96)
  /-- ARCADE_IDLE_TIMEOUT (R231): The idle timer reaches TIDLE, so the closed tail is released with bit 19 and the Quarter is notified. -/
  | arcadeIdleTimeout (a : Fin 64)
  /-- ARCADE_FLUSH (R232): ARC_CMD.FLUSH discards complete packets and leaves a flush pending until the next close. -/
  | arcadeFlush (req : Req) (a : Fin 64)
  /-- IN_UNPARK (R224): An item becomes readable and a thread parked on IN is unparked with it. -/
  | inUnpark (t : Fin 64) (m : Nat)
  /-- LL_CMD_ARM (R242): LL_CMD.ARM arms the Lamplighter for the instant in LL_ARMT. -/
  | llCmdArm (req : Req) (n : Fin 16)
  /-- LL_CANCEL (R244): LL_CMD.CANCEL removes the pending arm and ends a train after its current pulse. -/
  | llCancel (req : Req) (n : Fin 16)
  /-- LL_COMMIT (R243): LT reaches the arm instant less 32 ns, and the pulse is committed, placed late or dropped. -/
  | llCommit (n : Fin 16)
  /-- LL_PULSE_RISE (R241): The placed rising edge of a pulse is driven on the pin. -/
  | llPulseRise (n : Fin 16)
  /-- LL_PULSE_FALL (R240): The falling edge of a pulse is placed at the arm instant plus WID. -/
  | llPulseFall (n : Fin 16)
  /-- GP_OUTSET_WRITE (R252): A write of GP_OUTSET sets the named bits of the output register. -/
  | gpOutsetWrite (req : Req) (k : Fin 3) (w : Word)
  /-- GP_OUTCLR_WRITE (R252): A write of GP_OUTCLR clears the named bits of the output register. -/
  | gpOutclrWrite (req : Req) (k : Fin 3) (w : Word)
  /-- DIVISION_COMPLETE (R266): The divider finishes after 34 cycles, writes the result and passes to the next waiting thread. -/
  | divisionComplete (b : Fin 4) (m : Nat)
  /-- STORE_DRAIN (R268): A store-buffer entry drains, freeing the entry for a waiting store. -/
  | storeDrain (b : Fin 4) (i : Fin 4) (ms : List Nat)
  /-- ICACHE_FILL_COMPLETE (R258): A cache line fill completes and unparks the threads waiting on it. -/
  | icacheFillComplete (b : Fin 4) (ms : List Nat)
  /-- MEMORY_LOAD_COMPLETE (R265): The data of a Market, window, control-space or GP load arrives and the thread is unparked. -/
  | memoryLoadComplete (t : Fin 64) (m : Nat)
  /-- YIELD_END (R298): The 16 cycles after YIELD end and the thread becomes ready again. -/
  | yieldEnd (t : Fin 64)
  /-- ENTRY_TAKEN (R302): A pending entry is taken at an issue boundary, saving the PC, the repeat state and the flags. -/
  | entryTaken (t : Fin 64) (m : Nat)
  /-- BK_BTBINV (R276): BK_CMD.BTBINV removes every branch target buffer entry. -/
  | bkBtbinv (req : Req) (b : Fin 4)
  /-- BK_ICINV (R276): BK_CMD.ICINV invalidates the instruction cache and the line buffer. -/
  | bkIcinv (req : Req) (b : Fin 4)
  /-- UNDEFINED_OPCODE (R311): An undefined opcode raises UNDEF. -/
  | undefinedOpcode (t : Fin 64) (op : Byte)
  /-- NOP (R315): Does nothing. -/
  | iNop (t : Fin 64)
  /-- DUP (R315): Duplicates TOS. -/
  | iDup (t : Fin 64)
  /-- DROP (R315): Discards TOS. -/
  | iDrop (t : Fin 64)
  /-- SWAP (R315): Swaps TOS and NOS. -/
  | iSwap (t : Fin 64)
  /-- OVER (R315): Copies NOS to the top. -/
  | iOver (t : Fin 64)
  /-- NIP (R315): Discards NOS. -/
  | iNip (t : Fin 64)
  /-- TUCK (R315): Copies TOS below NOS. -/
  | iTuck (t : Fin 64)
  /-- ROT (R315): Rotates the third cell to the top. -/
  | iRot (t : Fin 64)
  /-- MINUS_ROT (R315): Rotates TOS to the third position. -/
  | iMinusRot (t : Fin 64)
  /-- TWO_DUP (R315): Duplicates the top two cells. -/
  | iTwoDup (t : Fin 64)
  /-- TWO_DROP (R315): Discards the top two cells. -/
  | iTwoDrop (t : Fin 64)
  /-- TWO_SWAP (R315): Swaps the top two pairs. -/
  | iTwoSwap (t : Fin 64)
  /-- TWO_OVER (R315): Copies the second pair to the top. -/
  | iTwoOver (t : Fin 64)
  /-- PICK (R315): Copies cell n below TOS to the top. -/
  | iPick (t : Fin 64) (n : Byte)
  /-- ROLL (R315): Moves cell n to TOS. -/
  | iRoll (t : Fin 64) (n : Byte)
  /-- DEPTH (R315): Pushes the data stack depth. -/
  | iDepth (t : Fin 64)
  /-- TO_R (R315): Moves TOS to the return stack. -/
  | iToR (t : Fin 64)
  /-- R_FROM (R315): Moves the top return entry to the data stack. -/
  | iRFrom (t : Fin 64)
  /-- R_FETCH (R315): Copies the top return entry to the data stack. -/
  | iRFetch (t : Fin 64)
  /-- RDROP (R315): Discards the top return entry. -/
  | iRdrop (t : Fin 64)
  /-- ADD (R316): Adds two cells. -/
  | iAdd (t : Fin 64)
  /-- SUB (R316): Subtracts TOS from NOS. -/
  | iSub (t : Fin 64)
  /-- NEG (R316): Negates TOS. -/
  | iNeg (t : Fin 64)
  /-- ADC (R316): Adds two cells and the carry, for Lane threads. -/
  | iAdc (t : Fin 64)
  /-- SBC (R316): Subtracts with borrow, for Lane threads. -/
  | iSbc (t : Fin 64)
  /-- CMP (R316): Sets the flags of a − b and pops both cells. -/
  | iCmp (t : Fin 64)
  /-- MUL (R316): Pushes the low 32 bits of the product. -/
  | iMul (t : Fin 64)
  /-- MULH (R316): Pushes the high 32 bits of the signed product. -/
  | iMulh (t : Fin 64)
  /-- MULHU (R316): Pushes the high 32 bits of the unsigned product. -/
  | iMulhu (t : Fin 64)
  /-- DIV (R266): Requests the shared divider for a signed division, parking the thread until it completes. -/
  | iDiv (t : Fin 64)
  /-- DIVU (R316): Requests the divider for an unsigned division. -/
  | iDivu (t : Fin 64)
  /-- AND (R316): Bitwise AND. -/
  | iAnd (t : Fin 64)
  /-- OR (R316): Bitwise OR. -/
  | iOr (t : Fin 64)
  /-- XOR (R316): Bitwise exclusive OR. -/
  | iXor (t : Fin 64)
  /-- NOT (R316): Bitwise complement. -/
  | iNot (t : Fin 64)
  /-- SHL (R316): Logical left shift. -/
  | iShl (t : Fin 64)
  /-- SHR (R316): Logical right shift. -/
  | iShr (t : Fin 64)
  /-- SAR (R316): Arithmetic right shift. -/
  | iSar (t : Fin 64)
  /-- ROL (R316): Rotates left by n mod 32. -/
  | iRol (t : Fin 64)
  /-- ROR (R316): Rotates right by n mod 32. -/
  | iRor (t : Fin 64)
  /-- ADDI (R316): Adds the sign-extended immediate. -/
  | iAddi (t : Fin 64) (k : Byte)
  /-- MIN (R316): Signed minimum. -/
  | iMin (t : Fin 64)
  /-- MAX (R316): Signed maximum. -/
  | iMax (t : Fin 64)
  /-- MINU (R316): Unsigned minimum. -/
  | iMinu (t : Fin 64)
  /-- MAXU (R316): Unsigned maximum. -/
  | iMaxu (t : Fin 64)
  /-- ABS (R316): Absolute value. -/
  | iAbs (t : Fin 64)
  /-- SEXTB (R316): Sign-extends from bit 7. -/
  | iSextb (t : Fin 64)
  /-- SEXTH (R316): Sign-extends from bit 15. -/
  | iSexth (t : Fin 64)
  /-- BSWAP (R316): Reverses the four bytes. -/
  | iBswap (t : Fin 64)
  /-- FLG_FETCH (R316): Pushes the flags, for Lane threads. -/
  | iFlgFetch (t : Fin 64)
  /-- FLG_STORE (R316): Sets the flags from TOS, for Lane threads. -/
  | iFlgStore (t : Fin 64)
  /-- LDB (R317): Loads a byte, zero-extended. -/
  | iLdb (t : Fin 64)
  /-- LDBS (R317): Loads a byte, sign-extended. -/
  | iLdbs (t : Fin 64)
  /-- LDH (R317): Loads a half, zero-extended. -/
  | iLdh (t : Fin 64)
  /-- LDHS (R317): Loads a half, sign-extended. -/
  | iLdhs (t : Fin 64)
  /-- LDW (R317): Loads a word. -/
  | iLdw (t : Fin 64)
  /-- STB (R317): Stores a byte. -/
  | iStb (t : Fin 64)
  /-- STH (R317): Stores a half. -/
  | iSth (t : Fin 64)
  /-- STW (R317): Stores a word. -/
  | iStw (t : Fin 64)
  /-- LDWO (R317): Loads the word at a + 4n. -/
  | iLdwo (t : Fin 64) (n : Byte)
  /-- STWO (R317): Stores a word at a + 4n. -/
  | iStwo (t : Fin 64) (n : Byte)
  /-- ST_PLUS (R317): Stores a word and advances the address by 4. -/
  | iStPlus (t : Fin 64)
  /-- STB_PLUS (R317): Stores a byte and advances the address by 1. -/
  | iStbPlus (t : Fin 64)
  /-- LDW_PLUS (R317): Loads a word and advances the address by 4. -/
  | iLdwPlus (t : Fin 64)
  /-- MOVW (R318): Copies a word within data TCM and advances both addresses. -/
  | iMovw (t : Fin 64)
  /-- MOVB (R318): Copies a byte within data TCM and advances both addresses. -/
  | iMovb (t : Fin 64)
  /-- XCHG (R317): Atomically exchanges a word in memory. -/
  | iXchg (t : Fin 64)
  /-- K (R319): Pushes a small constant from 0 to 16. -/
  | iK (t : Fin 64) (n : Fin 17)
  /-- KM1 (R319): Pushes 0xFFFF_FFFF. -/
  | iKm1 (t : Fin 64)
  /-- LIT (R319): Pushes a sign-extended 8-bit literal. -/
  | iLit (t : Fin 64) (k : Byte)
  /-- LITU (R319): Pushes a zero-extended 8-bit literal. -/
  | iLitu (t : Fin 64) (k : Byte)
  /-- LIT16 (R319): Pushes a sign-extended 16-bit literal. -/
  | iLit16 (t : Fin 64) (k : BitVec 16)
  /-- LIT32 (R319): Pushes a 32-bit literal. -/
  | iLit32 (t : Fin 64) (k : Word)
  /-- LITH (R319): Pushes a literal into the upper half. -/
  | iLith (t : Fin 64) (k : BitVec 16)
  /-- CRC_B (R289): Performs one CRC byte step with polynomial register p. -/
  | iCrcB (t : Fin 64) (p : Fin 4)
  /-- CRC_W (R289): Performs four CRC byte steps on a word. -/
  | iCrcW (t : Fin 64) (p : Fin 4)
  /-- CRCM (R320): Performs a CRC byte step on the byte at an address in data TCM and advances it. -/
  | iCrcm (t : Fin 64) (p : Fin 4)
  /-- PAR (R291): Pushes the parity of x. -/
  | iPar (t : Fin 64)
  /-- POPC (R291): Pushes the population count of x. -/
  | iPopc (t : Fin 64)
  /-- CLZ (R291): Pushes the count of leading zeros of x. -/
  | iClz (t : Fin 64)
  /-- BREV (R291): Reverses the low n bits of x. -/
  | iBrev (t : Fin 64) (n : Byte)
  /-- IN (R224): Reads one item of an Arcade, parking the thread where none is readable. -/
  | iIn (t : Fin 64) (n : Byte)
  /-- OUT (R221): Writes one item to the thread's producer Arcade. -/
  | iOut (t : Fin 64) (n : Byte)
  /-- INM (R322): Reads one Arcade item and stores it at an address in data TCM. -/
  | iInm (t : Fin 64) (n : Byte)
  /-- OUTM (R322): Writes the word at an address in data TCM to an Arcade. -/
  | iOutm (t : Fin 64) (n : Byte)
  /-- GPS (R323): Sets the output register bit of a GPIO pin. -/
  | iGps (t : Fin 64) (n : Byte)
  /-- GPC (R323): Clears the output register bit of a GPIO pin. -/
  | iGpc (t : Fin 64) (n : Byte)
  /-- MILE (R300): Pushes the Short Milestone of the instruction's issue. -/
  | iMile (t : Fin 64)
  /-- ARM (R324): Arms a Lamplighter for a Short Milestone and pushes the arm status. -/
  | iArm (t : Fin 64)
  /-- WAIT (R46): Ends the activation until the next wake or tick release. -/
  | iWait (t : Fin 64)
  /-- WAITTICK (R46): Ends the activation until the next tick release. -/
  | iWaittick (t : Fin 64)
  /-- YIELD (R298): Makes a Lane thread not ready for 16 cycles. -/
  | iYield (t : Fin 64)
  /-- SYNCI (R271): Drains the thread's stores and invalidates the cached code in a range. -/
  | iSynci (t : Fin 64)
  /-- FENCE (R29): Waits until the thread's earlier writes have taken effect and its stores have drained. -/
  | iFence (t : Fin 64)
  /-- EVT (R299): Sends a wake or an entry signal to a thread. -/
  | iEvt (t : Fin 64)
  /-- ENTRY (R301): Sets the entry vector and enables entry. -/
  | iEntry (t : Fin 64)
  /-- ENTOFF (R301): Disables entry. -/
  | iEntoff (t : Fin 64)
  /-- RETE (R303): Returns from an entry handler, restoring the PC, the repeat state and the flags. -/
  | iRete (t : Fin 64)
  /-- REP (R292): Repeats the next instruction n times, admitting entry between iterations. -/
  | iRep (t : Fin 64) (op : Byte)
  /-- REPX (R292): Repeats the next instruction up to 255 times, deferring entry. -/
  | iRepx (t : Fin 64) (op : Byte)
  /-- RPT_FETCH (R296): Pushes RPT. -/
  | iRptFetch (t : Fin 64)
  /-- RPT_STORE (R296): Sets RPT from TOS. -/
  | iRptStore (t : Fin 64)
  /-- BRA (R329): Always branches, with an 8-bit displacement. -/
  | iBra (t : Fin 64) (d : Byte)
  /-- BRA_W (R329): Always branches, with a 16-bit displacement. -/
  | iBraW (t : Fin 64) (d : BitVec 16)
  /-- BZ (R329): Branches where the popped cell is 0. -/
  | iBz (t : Fin 64) (d : Byte)
  /-- BNZ (R329): Branches where the popped cell is not 0. -/
  | iBnz (t : Fin 64) (d : Byte)
  /-- BZ_W (R329): BZ with a 16-bit displacement. -/
  | iBzW (t : Fin 64) (d : BitVec 16)
  /-- BNZ_W (R329): BNZ with a 16-bit displacement. -/
  | iBnzW (t : Fin 64) (d : BitVec 16)
  /-- CALL (R329): Calls a relative target and pushes the return address. -/
  | iCall (t : Fin 64) (d : BitVec 16)
  /-- CALLI (R329): Calls the address in TOS. -/
  | iCalli (t : Fin 64)
  /-- JMPI (R329): Jumps to the address in TOS. -/
  | iJmpi (t : Fin 64)
  /-- RET (R329): Returns to the address popped from the return stack. -/
  | iRet (t : Fin 64)
  /-- DJNZ (R329): Decrements TOS and branches where it is not 0. -/
  | iDjnz (t : Fin 64) (d : Byte)
  /-- AVENUE_BEQ (R286): Avenue compare-and-branch where a = b, rel8. -/
  | iAvenueBeq (t : Fin 64) (d : Byte)
  /-- AVENUE_BNE (R286): Avenue compare-and-branch where a ≠ b, rel8. -/
  | iAvenueBne (t : Fin 64) (d : Byte)
  /-- AVENUE_BLT (R286): Avenue compare-and-branch where a < b signed, rel8. -/
  | iAvenueBlt (t : Fin 64) (d : Byte)
  /-- AVENUE_BGE (R286): Avenue compare-and-branch where a ≥ b signed, rel8. -/
  | iAvenueBge (t : Fin 64) (d : Byte)
  /-- AVENUE_BLTU (R286): Avenue compare-and-branch where a < b unsigned, rel8. -/
  | iAvenueBltu (t : Fin 64) (d : Byte)
  /-- AVENUE_BGEU (R286): Avenue compare-and-branch where a ≥ b unsigned, rel8. -/
  | iAvenueBgeu (t : Fin 64) (d : Byte)
  /-- AVENUE_BGT (R286): Avenue compare-and-branch where a > b signed, rel8. -/
  | iAvenueBgt (t : Fin 64) (d : Byte)
  /-- AVENUE_BLE (R286): Avenue compare-and-branch where a ≤ b signed, rel8. -/
  | iAvenueBle (t : Fin 64) (d : Byte)
  /-- AVENUE_BEQ_W (R286): Avenue compare-and-branch where a = b, rel16. -/
  | iAvenueBeqW (t : Fin 64) (d : BitVec 16)
  /-- AVENUE_BNE_W (R286): Avenue compare-and-branch where a ≠ b, rel16. -/
  | iAvenueBneW (t : Fin 64) (d : BitVec 16)
  /-- AVENUE_BLT_W (R286): Avenue compare-and-branch where a < b signed, rel16. -/
  | iAvenueBltW (t : Fin 64) (d : BitVec 16)
  /-- AVENUE_BGE_W (R286): Avenue compare-and-branch where a ≥ b signed, rel16. -/
  | iAvenueBgeW (t : Fin 64) (d : BitVec 16)
  /-- AVENUE_BLTU_W (R286): Avenue compare-and-branch where a < b unsigned, rel16. -/
  | iAvenueBltuW (t : Fin 64) (d : BitVec 16)
  /-- AVENUE_BGEU_W (R286): Avenue compare-and-branch where a ≥ b unsigned, rel16. -/
  | iAvenueBgeuW (t : Fin 64) (d : BitVec 16)
  /-- AVENUE_BGT_W (R286): Avenue compare-and-branch where a > b signed, rel16. -/
  | iAvenueBgtW (t : Fin 64) (d : BitVec 16)
  /-- AVENUE_BLE_W (R286): Avenue compare-and-branch where a ≤ b signed, rel16. -/
  | iAvenueBleW (t : Fin 64) (d : BitVec 16)
  /-- LANE_BEQ (R288): Lane flag branch where Z = 1. -/
  | iLaneBeq (t : Fin 64) (d : Byte)
  /-- LANE_BNE (R288): Lane flag branch where Z = 0. -/
  | iLaneBne (t : Fin 64) (d : Byte)
  /-- LANE_BCS (R288): Lane flag branch where C = 1. -/
  | iLaneBcs (t : Fin 64) (d : Byte)
  /-- LANE_BCC (R288): Lane flag branch where C = 0. -/
  | iLaneBcc (t : Fin 64) (d : Byte)
  /-- LANE_BMI (R288): Lane flag branch where N = 1. -/
  | iLaneBmi (t : Fin 64) (d : Byte)
  /-- LANE_BPL (R288): Lane flag branch where N = 0. -/
  | iLaneBpl (t : Fin 64) (d : Byte)
  /-- LANE_BVS (R288): Lane flag branch where V = 1. -/
  | iLaneBvs (t : Fin 64) (d : Byte)
  /-- LANE_BVC (R288): Lane flag branch where V = 0. -/
  | iLaneBvc (t : Fin 64) (d : Byte)
  /-- LANE_BHI (R288): Lane flag branch where C = 1 and Z = 0. -/
  | iLaneBhi (t : Fin 64) (d : Byte)
  /-- LANE_BLS (R288): Lane flag branch where C = 0 or Z = 1. -/
  | iLaneBls (t : Fin 64) (d : Byte)
  /-- LANE_BGE (R288): Lane flag branch where N = V. -/
  | iLaneBge (t : Fin 64) (d : Byte)
  /-- LANE_BLT (R288): Lane flag branch where N ≠ V. -/
  | iLaneBlt (t : Fin 64) (d : Byte)
  /-- LANE_BGT (R288): Lane flag branch where Z = 0 and N = V. -/
  | iLaneBgt (t : Fin 64) (d : Byte)
  /-- LANE_BLE (R288): Lane flag branch where Z = 1 or N ≠ V. -/
  | iLaneBle (t : Fin 64) (d : Byte)
  /-- LANE_BEQ_W (R288): Lane flag branch where Z = 1, rel16. -/
  | iLaneBeqW (t : Fin 64) (d : BitVec 16)
  /-- LANE_BNE_W (R288): Lane flag branch where Z = 0, rel16. -/
  | iLaneBneW (t : Fin 64) (d : BitVec 16)
  /-- TRAP (R310): Raises TRAP with n recorded. -/
  | iTrap (t : Fin 64) (n : Byte)
  /-- BREAK (R310): Enters HALT where a debugger has enabled breakpoints, and otherwise raises BREAK. -/
  | iBreak (t : Fin 64)
  /-- CSM_LAUNCH (R336): The master launches the cycle-start mark at the cycle's nominal start. -/
  | csmLaunch (ph : Fin 32)
  /-- CSM_RECEIVE (R337): A node receives and forwards a CSM, updating ACC, INC and the CRC. -/
  | csmReceive (ph : Fin 32) (lat : Fin 129) (turn : Fin 16001) (bytes : List Byte)
  /-- CSM_RETURN (R336): The CSM returns to the master, which terminates it and measures RTT. -/
  | csmReturn (ph : Fin 32) (turn : Fin 16001) (bytes : List Byte)
  /-- ECHO_RECEIVE (R338): An ECHO arrives and the downstream link delay is updated. -/
  | echoReceive (ph : Fin 32) (bytes : List Byte)
  /-- SLOT_FRAME_SEND (R340): A transmit slot's frame leaves at its offset from the CSM. -/
  | slotFrameSend (i : Fin 8)
  /-- RG_POST (R340): RG_SLOTCMD.POST commits the slot buffer contents for the next frame. -/
  | rgPost (req : Req) (m : Fin 256)
  /-- RING_FRAME_RECEIVE (R344): A Parliar frame is received, then forwarded or removed and delivered on a matching filter. -/
  | ringFrameReceive (ph : Fin 32) (lat : Fin 129) (syms : List RgSym)
  /-- CSM_MISS (R345): No CSM arrives within CLEN + 1 µs, so CSLOST is set and a port event is sent. -/
  | csmMiss
  /-- RG_RX_LOCK (R331): A ring receiver gains lock. -/
  | rgRxLock (p : Fin 2) (groups : List (Fin 1024))
  /-- RG_RX_LOCK_LOST (R331): A ring receiver loses lock after four code violations. -/
  | rgRxLockLost (p : Fin 2) (groups : List (Fin 1024))
  /-- TRANSMIT_PLL_LOSS (R352): The ring transmit PLL loses lock and the Kerb closes at once. -/
  | transmitPllLoss
  /-- KERB_OPEN (R353): The conditions for opening hold, and the opening of the Kerb begins at the transition offset. -/
  | kerbOpen
  /-- KERB_OPEN_COMPLETE (R353): The neighbours are aligned, KST becomes 2 and a port event is sent. -/
  | kerbOpenComplete
  /-- KERB_CLOSE (R353): A closing of the Kerb begins, at once or at the transition offset. -/
  | kerbClose
  /-- KERB_CLOSE_COMPLETE (R353): The neighbours are aligned through the switch, KST becomes 0 and a port event is sent. -/
  | kerbCloseComplete
  /-- RG_KCLOSE (R352): RG_CMD.KCLOSE closes the Kerb now. -/
  | rgKclose (req : Req)
  /-- RG_BELL (R355): RG_CMD.BELL0 or BELL1 sends the ring Bell from the next tick. -/
  | rgBell (req : Req) (p : Fin 2)
  /-- RG_BELL_END (R355): The 102.4 µs ring Bell ends and BELLACT clears. -/
  | rgBellEnd (p : Fin 2)
  /-- ETHERNET_FRAME_RECEIVE (R347): A 1000BASE-X frame is received and forwarded, terminated or processed. -/
  | ethernetFrameReceive (p : Fin 2) (res : Nat) (bytes : List Byte)
  /-- PTP_SYNC_RECEIVE (R348): A Sync is received, giving a measurement for a one-step Sync or awaiting its Follow_Up. -/
  | ptpSyncReceive (p : Fin 2) (ph : Fin 32) (dom : Fin 256) (sq : Fin 65536) (two : Bool) (origin : Nat) (corr : Int)
  /-- PTP_FOLLOW_UP_RECEIVE (R348): A Follow_Up completes a two-step Sync measurement. -/
  | ptpFollowUpReceive (p : Fin 2) (dom : Fin 256) (sq : Fin 65536) (origin : Nat) (corr : Int)
  /-- FOLLOW_UP_TIMEOUT (R348): No Follow_Up arrives within 2^SYNCLOG s, so the Sync gives no measurement. -/
  | followUpTimeout (x : Fin 2)
  /-- PTP_SYNC_SEND (R346): A master instance sends Sync every 2^SYNCLOG s. -/
  | ptpSyncSend (x : Fin 2)
  /-- PTP_ANNOUNCE_SEND (R346): A master instance sends Announce from RG_PTPANN. -/
  | ptpAnnounceSend (x : Fin 2)
  /-- PDELAY_REQ_SEND (R349): A port sends Pdelay_Req every 2^PDLOG s. -/
  | pdelayReqSend (p : Fin 2) (ph : Fin 32)
  /-- PDELAY_REQ_RECEIVE (R346): A received Pdelay_Req is answered with a two-step response. -/
  | pdelayReqReceive (p : Fin 2) (ph : Fin 32) (sq : Fin 65536) (who : BitVec 80) (turn : Nat)
  /-- PDELAY_RESP_RECEIVE (R349): A Pdelay exchange completes and meanLinkDelay is updated. -/
  | pdelayRespReceive (p : Fin 2) (ph : Fin 32) (sq : Fin 65536) (t2 : Int) (t3 : Int)
  /-- PDELAY_TIMEOUT (R349): A Pdelay response is not complete within 2^PDLOG s and is counted. -/
  | pdelayTimeout (p : Fin 2)
  /-- BAR0_READ_TIMEOUT (R361): A BAR 0 read not served within 50 µs completes with all ones. -/
  | bar0ReadTimeout (q : Fin 4) (off : Fin 1048576) (at_ : Nat)
  /-- PCIE_CONFIG_REQUEST (R430): A configuration request is answered, or answered with retry status during LOAD. -/
  | pcieConfigRequest (q : Fin 4) (c : CfgReq)
  /-- FUNCTION_LEVEL_RESET (R362): An FLR resets the function's configuration state and requests a QUARTER RESET. -/
  | functionLevelReset (q : Fin 4)
  /-- PERST_RELEASE (R482): HPn_PERST_N rises, resetting both of the port's Quarters and starting link training. -/
  | perstRelease (p : Fin 2)
  /-- HOST_LINK_L0 (R441): A host link returns to L0 on the host's initiative. -/
  | hostLinkL0 (p : Fin 2)
  /-- HP_CPI_WRITE (R367): A write of HP_CPI submits commands, or is discarded where it runs too far ahead. -/
  | hpCpiWrite (req : Req) (q : Fin 4) (w : Word)
  /-- RESERVED_COMMAND (R369): A reserved mailbox opcode receives status 1. -/
  | reservedCommand (q : Fin 4)
  /-- NOP_COMMAND (R369): The mailbox NOP command posts status 0. -/
  | nopCommand (q : Fin 4)
  /-- QUOTA (R379): The supervisor sets a quota, which takes effect at the next tick. -/
  | quota (q : Fin 4)
  /-- QUARTER_RESET (R382): A QUARTER_RESET command requests a reset of a Quarter at the next tick. -/
  | quarterReset (q : Fin 4)
  /-- THREAD_RESTART (R384): THREAD_RESTART requests a thread restart at the next tick. -/
  | threadRestart (q : Fin 4)
  /-- PIN_GET (R369): Returns the input levels and output registers of the Quarter's pins. -/
  | pinGet (q : Fin 4)
  /-- PIN_SET (R369): Sets and clears output-register bits of the Quarter's pins. -/
  | pinSet (q : Fin 4)
  /-- MODE (R439): Requests a change of operating mode. -/
  | mode (q : Fin 4)
  /-- DEVICE_RESET (R369): The supervisor resets the device within 10 µs. -/
  | deviceReset (q : Fin 4)
  /-- WAKE (R369): The mailbox WAKE sends a wake or entry signal as EVT does. -/
  | wake (q : Fin 4)
  /-- USER_COMMAND (R371): A user command is copied to the mailbox thread, which is woken or signalled. -/
  | userCommand (q : Fin 4)
  /-- HP_UDONE_WRITE (R371): The mailbox thread completes a user command and the response is posted. -/
  | hpUdoneWrite (req : Req) (q : Fin 4) (w : Word)
  /-- USER_COMMAND_TIMEOUT (R371): No HP_UDONE within UCTO ms, so status 5 is posted. -/
  | userCommandTimeout (q : Fin 4)
  /-- HP_DRCFG_WRITE (R373): A write of a descriptor ring configuration enables, disables or binds the ring. -/
  | hpDrcfgWrite (req : Req) (q : Fin 4) (r : Fin 16) (w : Word)
  /-- HP_DRPI_WRITE (R373): A write of HP_DRPI posts descriptors, or is discarded where it runs too far ahead. -/
  | hpDrpiWrite (req : Req) (q : Fin 4) (r : Fin 16) (w : Word)
  /-- DMA_TRANSFER (R374): A ring's descriptor is taken and its transfer of readable Arcade items starts. -/
  | dmaTransfer (q : Fin 4) (r : Fin 16) (n : Nat)
  /-- DMA_TRANSFER_COMPLETE (R374): A transfer ends, its descriptor is written back, and DRCI advances. -/
  | dmaTransferComplete (q : Fin 4) (r : Fin 16)
  /-- MSIX_PENDING_SEND (R377): A held MSI-X message is sent once its vector is unmasked and sending is permitted. -/
  | msixPendingSend (q : Fin 4) (vec : Fin 16)
  /-- HP_WDKICK (R386): A kick with key 0xA5 arms or restarts the Quarter's watchdog. -/
  | hpWdkick (req : Req) (q : Fin 4)
  /-- HP_WDOG_WRITE (R386): A write of HP_WDOG disarms the watchdog and sets a new period and action. -/
  | hpWdogWrite (req : Req) (q : Fin 4) (w : Word)
  /-- WATCHDOG_EXPIRY (R386): The watchdog count reaches PERIOD and its ACTION applies. -/
  | watchdogExpiry (q : Fin 4)
  /-- XIP_MISS_FILL (R390): A waiting XIP miss starts a line fill from the flash. -/
  | xipMissFill
  /-- XIP_FILL_COMPLETE (R390): A prefetch-buffer line fill completes and its waiting requests are served. -/
  | xipFillComplete (bytes : List Byte)
  /-- MP0_CTL_HOLD_WRITE (R391): A write of MP0_CTL.HOLD holds or releases XIP, and releasing invalidates the prefetch buffer. -/
  | mp0CtlHoldWrite (req : Req) (hold : Bool)
  /-- MP0_INVPF (R391): MP0_CTL.INVPF invalidates the prefetch buffer. -/
  | mp0Invpf (req : Req) (hold : Bool)
  /-- MP0_RAW_GO (R391): MP0_RAWCMD.GO starts a raw flash command under HOLD. -/
  | mp0RawGo (req : Req) (w : Word)
  /-- MP0_RAW_COMPLETE (R391): A raw flash command completes. -/
  | mp0RawComplete (bytes : List Byte)
  /-- SCRUB_READ (R397): The scrubber reads the next word of a region when a free cycle arrives. -/
  | scrubRead (rg : Fin 15)
  /-- SCRUB_WRITEBACK (R397): A corrected word is written back in a further free cycle. -/
  | scrubWriteback
  /-- MP_PSNCLR_WRITE (R396): A write of MP_PSNCLR writes a word as zero and clears its poison. -/
  | mpPsnclrWrite (req : Req) (w : Word)
  /-- MP_ECC_INJ_ARM (R400): Arms the injection of nibble flips into the next write of a region. -/
  | mpEccInjArm (req : Req) (rg : Fin 16) (m : BitVec 24)
  /-- MP1_READ (R404): Reads, decodes and decrypts a page into MP1_PGBUF. -/
  | mp1Read (req : Req) (b : Fin 65536) (p : Fin 256)
  /-- MP1_READRAW (R404): Reads a raw page into MP1_PGBUF. -/
  | mp1Readraw (req : Req) (b : Fin 65536) (p : Fin 256)
  /-- MP1_PROGRAM (R405): Programs a page with the block's erase count, encrypted and encoded. -/
  | mp1Program (req : Req) (b : Fin 65536) (p : Fin 256)
  /-- MP1_ERASE (R405): Erases a block and records its next erase count. -/
  | mp1Erase (req : Req) (b : Fin 65536) (p : Fin 256)
  /-- MP1_BBTSCAN (R406): Searches for the bad block table and loads it. -/
  | mp1Bbtscan (req : Req) (b : Fin 65536) (p : Fin 256)
  /-- MP1_STATUS_POLL (R401): Every POLL µs the status feature is read to detect the end of an array operation. -/
  | mp1StatusPoll (st : Byte)
  /-- MP1_OP_COMPLETE (R407): An MP1 operation ends and its status is shown. -/
  | mp1OpComplete (pages : List (List Byte))
  /-- MP1_TIMEOUT (R401): An operation not finished within TOUT ms ends with status 5. -/
  | mp1Timeout
  /-- PATROL_READ (R408): Every PINT ms the patrol reads a page and reports weak pages into its FIFO. -/
  | patrolRead
  /-- MP1_PATRES_READ (R408): A read of MP1_PATRES returns and removes a patrol entry. -/
  | mp1PatresRead (req : Req)
  /-- TAT_INTEGRATE (R409): Once per second the time-at-temperature weight of the current bin is added. -/
  | tatIntegrate
  /-- RESET_END (R479): Reset ends, BOOT is sampled, and LOAD begins reading the boot source. -/
  | resetEnd (boot : Fin 4) (ns : Nat)
  /-- MAP_LOAD_COMPLETE (R428): The last Map byte has arrived, and the signature, A1–A3 and PSTORE are checked. -/
  | mapLoadComplete
  /-- PUSH_GO (R431): SYS_PUSHCTL.GO hands a chunk of a pushed Map to the loader. -/
  | pushGo (req : Req) (len : Fin 16384) (last : Bool)
  /-- PUSH_CHUNK_TAKEN (R431): The loader takes the chunk and READY is set again. -/
  | pushChunkTaken
  /-- PUSH_ABORT (R431): SYS_PUSHCTL.ABORT ends the push without an error. -/
  | pushAbort (req : Req)
  /-- PUSH_TIMEOUT (R431): More than 10 s pass between chunks, so the push ends with error 0x11. -/
  | pushTimeout
  /-- SYS_PROFCMD (R433): The supervisor requests a switch to a class-0 profile. -/
  | sysProfcmd (req : Req) (p : Fin 4)
  /-- PROFILE_COPY_COMPLETE (R432): The profile's entries are copied into the switch buffer and wait for stage close. -/
  | profileCopyComplete
  /-- HOST_LINK_WAIT_END (R443): The host links reach L2/L3 Ready or HLTO expires during entry to WATCH or CURFEW. -/
  | hostLinkWaitEnd (l20 : Bool) (l21 : Bool)
  /-- MODE_ENTRY_ACCEPT (R443): The units have stopped, entry is accepted and its Milestone is latched. -/
  | modeEntryAccept
  /-- ISOLATION_COMPLETE (R443): Isolation completes, the level sources are sampled and the power switches open. -/
  | isolationComplete (levels : List WakeSig) (writing : Bool)
  /-- PM_MODEREQ_WRITE (R443): In WATCH, a write of PM_MODEREQ requests CURFEW or a return to RETM. -/
  | pmModereqWrite (req : Req) (w : Word)
  /-- WAKE_DETECT (R446): An enabled wake source is detected and latched, and the wake sequence begins. -/
  | wakeDetect (sig : WakeSig)
  /-- WATCH_RESTORE_COMPLETE (R449): The restore of the Map to the re-powered domains completes, or fails with fault 6. -/
  | watchRestoreComplete
  /-- PM_MONITOR_SAMPLE (R452): Every millisecond the PM measures temperature and supplies and sets OOR or TWARN. -/
  | pmMonitorSample (tj : BitVec 16) (vin : BitVec 16) (vcore : BitVec 16) (ildo : BitVec 16) (ovc : Bool) (ovin : Bool) (aonBad : Bool)
  /-- PLL_LOCK_LOSS (R452): The core or time PLL loses lock or the reference stops, which is a device fault. -/
  | pllLockLoss (time : Bool)
  /-- AUTO_RESTART (R455): After ARST × 100 ms in SAFE the device resets itself. -/
  | autoRestart
  /-- POWER_ON (R479): VIN crosses the power-on threshold and the power-up sequence starts. -/
  | powerOn
  /-- REFERENCE_DETECT (R479): The 25 MHz reference is detected and the core buck soft-starts. -/
  | referenceDetect
  /-- RESET_PIN (R453): RESET_N is held low for at least 1 µs and the device resets. -/
  | resetPin (ns : Nat)
  /-- BROWN_OUT (R453): VCORE stays below the brown-out threshold for 1 µs, so the device resets into SAFE. -/
  | brownOut (mv : Nat) (ns : Nat)
  /-- POWER_OFF (R480): VIN falls below the falling threshold, so the device enters OFF and the Kerb closes. -/
  | powerOff
  /-- HALTREQ (R464): LC_DBGCTL.HALTREQ enters HALT at every thread's next issue boundary. -/
  | haltreq (bken : Bool)
  /-- RESUME (R464): LC_DBGCTL.RESUME leaves HALT for the mode in which it was entered. -/
  | resume (bken : Bool)
  /-- DBGACC (R463): A DBGACC operation performs one read or write with supervisor thread rights. -/
  | dbgacc (op : Fin 4) (a : Word) (w : Word)
  /-- IDCODE (R462): The IDCODE instruction returns 0xB486_43A5. -/
  | idcode
  /-- EXTEST (R462): The EXTEST boundary-scan instruction. -/
  | extest
  /-- SAMPLE_PRELOAD (R462): The SAMPLE/PRELOAD boundary-scan instruction. -/
  | samplePreload
  /-- BYPASS (R462): The BYPASS instruction, also selected by closed or other codes. -/
  | bypass (code : Fin 32)
  /-- BLANK_TO_MAKER (R465): LC_CMD OP 7 moves BLANK or RETURN to MAKER with a fresh slot. -/
  | blankToMaker (req : Req)
  /-- MAKER_TO_OPEN (R465): LC_CMD OP 1 moves MAKER to OPEN. -/
  | makerToOpen (req : Req)
  /-- KEYFUSE (R465): LC_CMD OP 2 fuses the customer key from LC_KEYBUF into the current slot. -/
  | keyfuse (req : Req)
  /-- OPEN_TO_SEALED (R465): LC_CMD OP 3 seals the device. -/
  | openToSealed (req : Req)
  /-- SEALED_TO_RETURN (R465): LC_CMD OP 4 with a return token moves SEALED to RETURN and erases the slot's keys. -/
  | sealedToReturn (req : Req)
  /-- TOPEN (R465): LC_CMD OP 5 with a Torrala token opens debug for one reset period. -/
  | topen (req : Req)
  /-- SCRAP (R465): LC_CMD OP 6, written twice within 1 ms, moves the device to SCRAP. -/
  | scrap (req : Req)
  /-- SCRAP_CONFIRM_EXPIRY (R465): 1 ms passes after the first OP 6 without the second, and the confirmation lapses. -/
  | scrapConfirmExpiry
  /-- LC_PROGRAM_COMPLETE (R466): The state fuse copies are programmed and verified, and the device resets. -/
  | lcProgramComplete (ok0 : Bool) (ok1 : Bool) (ok2 : Bool)
  /-- REGISTER_WRITE (R24): A write to a register with no row of its own, filtered by Quarter, staged or committed by access type. -/
  | registerWrite (req : Req) (a : RegTarget) (w : Word) (be : Fin 16)
  /-- REGISTER_READ (R34): A host or debug read of a register with behaviour of its own clears RC fields, latches a wide-register snapshot, or is refused and flagged. -/
  | registerRead (req : Req) (a : RegTarget)
  /-- MESSAGE_OF_ANOTHER_CONTROLLER (R120): A START by another controller makes the bus busy, and the message that follows, a roll-call included, is answered under R133 or ignored. -/
  | messageOfAnotherController (n : Fin 8) (m : TwMsg)
  /-- AON_CRYSTAL_FAILURE (R84): The 32.768 kHz crystal fails and the AON counter runs from the internal RC, which makes a later reconstruction AONBAD. -/
  | aonCrystalFailure
  /-- AON_CRYSTAL_STABLE (R479): The 32.768 kHz crystal becomes stable and the AON counter leaves the internal RC. -/
  | aonCrystalStable
  /-- TRANSMIT_PLL_LOCK (R352): The ring transmit PLL gains lock, which is one of the conditions for the Kerb to open. -/
  | transmitPllLock
  /-- HOST_LINK_TRAINED (R362): A host link finishes training and reaches L0, which sets DLUP and releases HPn_WAKE_N. -/
  | hostLinkTrained (p : Fin 2) (fast : Bool)
  /-- HOST_LINK_DOWN (R443): A host link goes down, clearing DLUP and HP_QSTAT.ACT, and counts as down for the wait of R443 step 2. -/
  | hostLinkDown (p : Fin 2)
  /-- HOST_LINK_L1_ENTRY (R442): In DOZE a host port initiates L1 once its link has been idle for 2 µs. -/
  | hostLinkL1Entry (p : Fin 2)
  /-- MAP_SECTION_READ (R427): The last byte of the Map header or of a section arrives from the boot source, and its CRC and fields are checked and the section applied, or a load error stops the load. -/
  | mapSectionRead (rd : Option (List Byte))
  /-- PATROL_READ_COMPLETE (R408): A patrol page read ends, a weak page is pushed into the FIFO, and a command written during the read starts. -/
  | patrolReadComplete (page : List Byte)
  /-- LC_COMMAND_COMPLETE (R465): A KEYFUSE or TOPEN command finishes its verification or fusing, sets LC_STATUS.RES and clears BUSY without a reset. -/
  | lcCommandComplete
deriving DecidableEq, Repr

end Sys2Proof
end

