-- ==== Sys2Proof/Config.lean ====
section
/-! DEFINITION. What the spec leaves open, as constants without a body: nothing in Lean can evaluate them, so every
claim holds whatever they are. Each is named in the assumption log. -/

namespace Sys2Proof.Config

/-- A fresh free value, applied to the counter `State.free` (notes/assumptions/2.md). -/
opaque freeWord : Nat → Word

/-- Whether a displayed value that falls between two steps of its unit is shown as the upper one: the spec gives
CT_SRV_x_FREQ, CT_SRV_x_INTG and CT_DOFF a unit and no rounding (notes/assumptions/5.md). -/
opaque roundsUp : Int → Bool

/-- What the decoder makes of an error of three or more bytes, given by its flipped nibbles: none where it reports the
word uncorrectable, else the change of the data that it miscorrects (R393, notes/assumptions/6.md). -/
opaque rsMiscorrects : BitVec 24 → Option (BitVec 64)

/-- A word of a function's configuration space whose content the spec does not give (R357, notes/assumptions/17.md). -/
opaque cfgWord : Nat → Nat → BitVec 32

/-- Torrala's public key, fixed in the device (R467, notes/assumptions/44.md). -/
opaque torralaKey : Nat × Nat

end Sys2Proof.Config
end

