-- ==== Sys2Proof/Machine/Registers.lean ====
section
/-! DEFINITION. The register map: every register and every field that the chapters of spec/ define, with its
offset, its array dimensions, its access type (R24), its Reset value (R25) and its reserved encodings (R26).
A field whose Reset column reads "Map" has reset 0 here (notes/assumptions/3.md). -/

namespace Sys2Proof.Machine

/-- The access types of R24. -/
inductive Acc where
  | rw | ro | wo | w1c | w1s | rc | st
deriving DecidableEq, Repr

/-- The register names of the chapters; where a chapter writes x for a domain or an index, the name leaves it out and
the index is an array dimension. -/
inductive Reg where
  | SYS_ID
  | SYS_MODE
  | SYS_STATUS
  | SYS_BOOT
  | SYS_LOADERR
  | SYS_LOADOFS
  | SYS_MAPID
  | SYS_PROF
  | SYS_PROFCMD
  | SYS_PUSHCTL
  | SYS_PUSHSTAT
  | CT_CTRL
  | CT_SLEW
  | CT_STATUS
  | CT_LT_W0
  | CT_LT_W1
  | CT_LT_W2
  | CT_LT_FRAC
  | CT_DOFF_LO
  | CT_DOFF_HI
  | CT_AON_CFG
  | CT_AON_DRIFT
  | CT_AON_CAL_LO
  | CT_AON_CAL_HI
  | CT_WAKE_LT_LO
  | CT_WAKE_LT_HI
  | CT_WAKE_DAON_LO
  | CT_WAKE_DAON_HI
  | CT_WAKE_UNC
  | CT_WAKE_STAT
  | CT_INCR_LO
  | CT_INCR_HI
  | CT_DT_W0
  | CT_DT_W1
  | CT_SRV_CFG
  | CT_SRV_KP
  | CT_SRV_KI
  | CT_SRV_LIM
  | CT_SRV_STEP
  | CT_SRV_MINT
  | CT_SRV_LOCK
  | CT_SRV_OFS
  | CT_SRV_FREQ
  | CT_SRV_INTG
  | CT_SRV_STAT
  | CT_TICK_PERIOD
  | CT_TICK_PHASE
  | CT_TICK_POS
  | CT_TICK_CNT_LO
  | CT_TICK_CNT_HI
  | CT_TICK_NEXT_LO
  | CT_TICK_NEXT_HI
  | CT_TICK_SKIP
  | CT_TICK_STATUS
  | LL_CFG
  | LL_WIDTH
  | LL_PER
  | LL_CNT
  | LL_ARMT_LO
  | LL_ARMT_HI
  | LL_CMD
  | LL_STAT
  | LL_NEXT_LO
  | LL_NEXT_HI
  | LL_CNTS
  | LL_CAPCFG
  | LL_CAPSTAT
  | PZ_CFG
  | PZ_STATUS
  | PZ_UNROUTED
  | PZ_AMAX
  | PZ_RSRC
  | PZ_RDST
  | XC_STATUS
  | XC_DROP
  | XC_EVMAX
  | XC_LOAD
  | XC_CFG
  | XC_INA
  | XC_INB
  | XC_P0
  | XC_P1
  | XC_P2
  | XC_P3
  | XC_OUT
  | XC_ACT
  | XC_ARMOFS
  | XC_STAT
  | XC_CNT
  | XC_VAL
  | XC_CMD
  | XC_PMCFG
  | XC_PMSTAT
  | ARC_IDLEN0
  | ARC_IDLEN1
  | ARC_OVWN0
  | ARC_OVWN1
  | ARC_CFG
  | ARC_REGION
  | ARC_TIDLE
  | ARC_QCAP
  | ARC_LEVEL
  | ARC_LIMIT
  | ARC_LOST
  | ARC_STAT
  | ARC_CNT
  | ARC_WPTR
  | ARC_RPTR
  | ARC_RLPTR
  | ARC_CMD
  | BK_CTL
  | BK_STATUS
  | BK_CMD
  | BK_CNT0
  | BK_CNT1
  | BK_PAIRN
  | BK_CRCP
  | BK_CRCC
  | BK_TCFG
  | BK_TENTRY
  | BK_BUDGET
  | BK_ADMIT
  | BK_USED
  | BK_OVERRUN
  | BK_TSTAT
  | BK_TPC
  | BK_FCODE
  | BK_FPC
  | BK_FADDR0
  | BK_FADDR1
  | FP_CFG
  | FP_CLK
  | FP_SEL
  | FP_RPL
  | FP_CMD
  | FP_STATUS
  | FP_ERR
  | FP_DROP
  | FP_TSTAT
  | FP_RJCNT
  | FP_TCNT
  | FP_IDLEPAT
  | FP_REJPAT
  | FP_LAUNCH
  | FP_TXBUF
  | TW_CFG
  | TW_TO
  | TW_CLR
  | TW_XCFG
  | TW_CMD
  | TW_STATUS
  | TW_XSTAT
  | TW_CNT
  | TW_IBR
  | TW_TGT
  | TW_TXBUF
  | TW_TGTBUF
  | RG_CFG
  | RG_CYC
  | RG_KERB
  | RG_CMD
  | RG_STATUS
  | RG_KSTAT
  | RG_CYCN
  | RG_RTT
  | RG_DELAY
  | RG_CAL
  | RG_ERR0
  | RG_ERR1
  | RG_SLOT
  | RG_SLOTCMD
  | RG_RXF
  | RG_PTPCFG
  | RG_PTPSTAT
  | RG_PTPANN
  | RG_PTPUTC
  | RG_CLKID_LO
  | RG_CLKID_HI
  | RG_MAC_LO
  | RG_MAC_HI
  | RG_ETHERR
  | RG_PDCFG
  | RG_PDLY
  | RG_SLOTBUF
  | HL_CFG
  | HL_LAYOUT
  | HL_RAMPLV0
  | HL_RAMPLV1
  | HL_PA
  | HL_TX
  | HL_LINK
  | HL_ASYM
  | HL_SECT
  | HL_SECT2
  | HL_CMD
  | HL_STATUS
  | HL_DELAY
  | HL_TURN
  | HL_ERR
  | HL_ERR2
  | HL_CAL
  | HL_TBLCMD
  | HL_TBLSTAT
  | HL_TBLSHD
  | HL_TBL
  | HL_SNR
  | HP_LSTAT
  | HP_SUPQ
  | HP_QSTAT
  | HP_FLTADDR
  | HP_CPI
  | HP_CCI
  | HP_RPI
  | HP_NPI
  | HP_NCI
  | HP_NLOST
  | HP_VMAP
  | HP_WDOG
  | HP_WDKICK
  | HP_WDCNT
  | HP_DRCFG
  | HP_DRPI
  | HP_DRCI
  | HP_DRST
  | HP_UCMD
  | HP_URSP
  | HP_UDONE
  | HP_UCFG
  | HP_QQUOTA
  | MP0_CFG
  | MP0_CTL
  | MP0_STAT
  | MP0_RAWCMD
  | MP0_RAWADDR
  | MP0_RAWBUF
  | MP1_CFG
  | MP1_GEOM
  | MP1_OPS0
  | MP1_OPS1
  | MP1_CMD
  | MP1_STAT
  | MP1_CWFAIL0
  | MP1_CWFAIL1
  | MP1_ECNT
  | MP1_ECNTDEF
  | MP1_EPEND
  | MP1_POLL
  | MP1_BBTBLK
  | MP1_PAT
  | MP1_PATPOS
  | MP1_PATRES
  | MP1_PATSTAT
  | MP1_TATCFG
  | MP1_TAT_LO
  | MP1_TAT_HI
  | MP1_TATW
  | MP1_PGBUF
  | MP1_BBT
  | MP_ECC_CFG
  | MP_ECC_STAT
  | MP_ECC_LASTADDR
  | MP_ECC_INJ
  | MP_PSNCLR
  | MP_ECC_CNT
  | PM_CFG
  | PM_STATUS
  | PM_MON
  | PM_MON2
  | PM_TWARN
  | PM_MODEREQ
  | PM_AON_CFG
  | PM_AON_WKEN
  | PM_AON_WKSTAT
  | PM_AON_WKCNT_LO
  | PM_AON_WKCNT_HI
  | PM_AON_CNT_LO
  | PM_AON_CNT_HI
  | PM_AON_ALARM_LO
  | PM_AON_ALARM_HI
  | PM_AON_CWIN_W0
  | PM_AON_CWIN_W1
  | PM_AON_CWIN_W2
  | PM_AON_RSTCAUSE
  | PM_AON_SAFE
  | PM_AON_WKPIN
  | LC_STATE
  | LC_UID_LO
  | LC_UID_HI
  | LC_NONCE
  | LC_CMD
  | LC_STATUS
  | LC_KEYBUF
  | LC_TOKEN
  | LC_DBGCTL
  | LC_DBGSTAT
  | GP_IN
  | GP_OUT
  | GP_OUTSET
  | GP_OUTCLR
  | GP_OE
  | GP_CFG
deriving DecidableEq, Repr

/-- A field: its register, its bits hi to lo, its access type, its Reset value and its reserved encodings as inclusive
ranges. -/
structure Field where
  reg : Reg
  hi : Nat
  lo : Nat
  acc : Acc
  reset : Nat
  bad : List (Nat × Nat) := []
deriving DecidableEq, Repr

/-- A register: its offset from 0x4000_0000, its array dimensions (count, stride) outermost first, whether it is staged
(R27) and its fields; a bit in no field is reserved. -/
structure RegDesc where
  off : Nat
  dims : List (Nat × Nat)
  staged : Bool
  fields : List Field
deriving DecidableEq, Repr

namespace F

def SYS_ID_ID : Field := ⟨.SYS_ID, 31, 0, .ro, 0x486400b0, []⟩
def SYS_MODE_TGT : Field := ⟨.SYS_MODE, 15, 12, .ro, 0, []⟩
def SYS_MODE_PEND : Field := ⟨.SYS_MODE, 8, 8, .ro, 0, []⟩
def SYS_MODE_RETM : Field := ⟨.SYS_MODE, 7, 4, .ro, 3, []⟩
def SYS_MODE_MODE : Field := ⟨.SYS_MODE, 3, 0, .ro, 2, []⟩
def SYS_STATUS_MODECHG : Field := ⟨.SYS_STATUS, 1, 1, .w1c, 0, []⟩
def SYS_STATUS_RSVW : Field := ⟨.SYS_STATUS, 0, 0, .w1c, 0, []⟩
def SYS_BOOT_UNVER : Field := ⟨.SYS_BOOT, 8, 8, .ro, 0, []⟩
def SYS_BOOT_FALLBK : Field := ⟨.SYS_BOOT, 7, 7, .ro, 0, []⟩
def SYS_BOOT_SRC : Field := ⟨.SYS_BOOT, 6, 5, .ro, 0, []⟩
def SYS_BOOT_STRAP : Field := ⟨.SYS_BOOT, 1, 0, .ro, 0, []⟩
def SYS_LOADERR_SECT : Field := ⟨.SYS_LOADERR, 23, 16, .ro, 0, []⟩
def SYS_LOADERR_DETAIL : Field := ⟨.SYS_LOADERR, 15, 8, .ro, 0, []⟩
def SYS_LOADERR_CODE : Field := ⟨.SYS_LOADERR, 7, 0, .ro, 0, []⟩
def SYS_LOADOFS_PROF : Field := ⟨.SYS_LOADOFS, 31, 24, .ro, 0, []⟩
def SYS_LOADOFS_OFS : Field := ⟨.SYS_LOADOFS, 23, 0, .ro, 0, []⟩
def SYS_MAPID_ID : Field := ⟨.SYS_MAPID, 31, 0, .ro, 0, []⟩
def SYS_PROF_REF : Field := ⟨.SYS_PROF, 7, 7, .w1c, 0, []⟩
def SYS_PROF_BUSY : Field := ⟨.SYS_PROF, 6, 6, .ro, 0, []⟩
def SYS_PROF_PEND : Field := ⟨.SYS_PROF, 5, 5, .ro, 0, []⟩
def SYS_PROF_REQP : Field := ⟨.SYS_PROF, 3, 2, .ro, 0, []⟩
def SYS_PROF_ACTIVE : Field := ⟨.SYS_PROF, 1, 0, .ro, 0, []⟩
def SYS_PROFCMD_GO : Field := ⟨.SYS_PROFCMD, 31, 31, .wo, 0, []⟩
def SYS_PROFCMD_PROF : Field := ⟨.SYS_PROFCMD, 1, 0, .wo, 0, []⟩
def SYS_PUSHCTL_GO : Field := ⟨.SYS_PUSHCTL, 31, 31, .wo, 0, []⟩
def SYS_PUSHCTL_LAST : Field := ⟨.SYS_PUSHCTL, 30, 30, .wo, 0, []⟩
def SYS_PUSHCTL_ABORT : Field := ⟨.SYS_PUSHCTL, 29, 29, .wo, 0, []⟩
def SYS_PUSHCTL_LENW : Field := ⟨.SYS_PUSHCTL, 13, 0, .wo, 0, [(8193, 16383)]⟩
def SYS_PUSHSTAT_READY : Field := ⟨.SYS_PUSHSTAT, 31, 31, .ro, 0, []⟩
def SYS_PUSHSTAT_DONE : Field := ⟨.SYS_PUSHSTAT, 30, 30, .ro, 0, []⟩
def SYS_PUSHSTAT_ERR : Field := ⟨.SYS_PUSHSTAT, 29, 29, .ro, 0, []⟩
def SYS_PUSHSTAT_CMDREF : Field := ⟨.SYS_PUSHSTAT, 28, 28, .w1c, 0, []⟩
def SYS_PUSHSTAT_RECV : Field := ⟨.SYS_PUSHSTAT, 23, 0, .ro, 0, []⟩
def CT_CTRL_STEPLT : Field := ⟨.CT_CTRL, 3, 2, .rw, 0, [(3, 3)]⟩
def CT_CTRL_AUTOSW : Field := ⟨.CT_CTRL, 1, 1, .rw, 0, []⟩
def CT_CTRL_SEL : Field := ⟨.CT_CTRL, 0, 0, .rw, 0, []⟩
def CT_SLEW_SLEW : Field := ⟨.CT_SLEW, 9, 0, .rw, 0x64, [(0, 0), (501, 1023)]⟩
def CT_STATUS_WAKE : Field := ⟨.CT_STATUS, 6, 6, .w1c, 0, []⟩
def CT_STATUS_LTSTEP : Field := ⟨.CT_STATUS, 5, 5, .w1c, 0, []⟩
def CT_STATUS_SWM : Field := ⟨.CT_STATUS, 4, 4, .w1c, 0, []⟩
def CT_STATUS_SWA : Field := ⟨.CT_STATUS, 3, 3, .w1c, 0, []⟩
def CT_STATUS_CONV : Field := ⟨.CT_STATUS, 2, 2, .ro, 0, []⟩
def CT_STATUS_LTQ : Field := ⟨.CT_STATUS, 1, 0, .ro, 1, []⟩
def CT_LT_W0_LT : Field := ⟨.CT_LT_W0, 31, 0, .ro, 0, []⟩
def CT_LT_W1_LT : Field := ⟨.CT_LT_W1, 31, 0, .ro, 0, []⟩
def CT_LT_W2_LT : Field := ⟨.CT_LT_W2, 31, 0, .ro, 0, []⟩
def CT_LT_FRAC_LT : Field := ⟨.CT_LT_FRAC, 31, 0, .ro, 0, []⟩
def CT_DOFF_LO_DOFF : Field := ⟨.CT_DOFF_LO, 31, 0, .ro, 0, []⟩
def CT_DOFF_HI_DOFF : Field := ⟨.CT_DOFF_HI, 31, 0, .ro, 0, []⟩
def CT_AON_CFG_CALV : Field := ⟨.CT_AON_CFG, 8, 8, .ro, 0, []⟩
def CT_AON_CFG_CALW : Field := ⟨.CT_AON_CFG, 4, 0, .rw, 0xa, [(0, 7), (17, 31)]⟩
def CT_AON_DRIFT_DRIFT : Field := ⟨.CT_AON_DRIFT, 19, 0, .rw, 0xc350, [(0, 0), (1000001, 1048575)]⟩
def CT_AON_CAL_LO_CAL : Field := ⟨.CT_AON_CAL_LO, 31, 0, .ro, 0x94000000, []⟩
def CT_AON_CAL_HI_CAL : Field := ⟨.CT_AON_CAL_HI, 31, 0, .ro, 0x7735, []⟩
def CT_WAKE_LT_LO_LTE : Field := ⟨.CT_WAKE_LT_LO, 31, 0, .ro, 0, []⟩
def CT_WAKE_LT_HI_LTE : Field := ⟨.CT_WAKE_LT_HI, 31, 0, .ro, 0, []⟩
def CT_WAKE_DAON_LO_DAON : Field := ⟨.CT_WAKE_DAON_LO, 31, 0, .ro, 0, []⟩
def CT_WAKE_DAON_HI_DAON : Field := ⟨.CT_WAKE_DAON_HI, 15, 0, .ro, 0, []⟩
def CT_WAKE_UNC_UNC : Field := ⟨.CT_WAKE_UNC, 31, 0, .ro, 0, []⟩
def CT_WAKE_STAT_PREV : Field := ⟨.CT_WAKE_STAT, 2, 2, .ro, 0, []⟩
def CT_WAKE_STAT_AONBAD : Field := ⟨.CT_WAKE_STAT, 1, 1, .ro, 0, []⟩
def CT_WAKE_STAT_RECON : Field := ⟨.CT_WAKE_STAT, 0, 0, .ro, 0, []⟩
def CT_INCR_LO_INCRL : Field := ⟨.CT_INCR_LO, 31, 0, .rw, 0, []⟩
def CT_INCR_HI_INCRH : Field := ⟨.CT_INCR_HI, 15, 0, .rw, 0x400, [(0, 1022), (1025, 65535)]⟩
def CT_DT_W0_DT : Field := ⟨.CT_DT_W0, 31, 0, .rw, 0, []⟩
def CT_DT_W1_DT : Field := ⟨.CT_DT_W1, 31, 0, .rw, 0, []⟩
def CT_SRV_CFG_SWQ : Field := ⟨.CT_SRV_CFG, 17, 16, .rw, 1, []⟩
def CT_SRV_CFG_LOSSN : Field := ⟨.CT_SRV_CFG, 15, 8, .rw, 8, [(0, 0)]⟩
def CT_SRV_CFG_PPSCH : Field := ⟨.CT_SRV_CFG, 7, 4, .rw, 0, []⟩
def CT_SRV_CFG_SRC : Field := ⟨.CT_SRV_CFG, 3, 1, .rw, 0, [(6, 7)]⟩
def CT_SRV_CFG_EN : Field := ⟨.CT_SRV_CFG, 0, 0, .rw, 0, []⟩
def CT_SRV_KP_GAIN : Field := ⟨.CT_SRV_KP, 31, 0, .rw, 0, []⟩
def CT_SRV_KI_GAIN : Field := ⟨.CT_SRV_KI, 31, 0, .rw, 0, []⟩
def CT_SRV_LIM_LIM : Field := ⟨.CT_SRV_LIM, 18, 0, .rw, 0x7a120, [(0, 0), (500001, 524287)]⟩
def CT_SRV_STEP_STEP : Field := ⟨.CT_SRV_STEP, 31, 0, .rw, 0, []⟩
def CT_SRV_MINT_MINT : Field := ⟨.CT_SRV_MINT, 23, 0, .rw, 0xf4240, [(0, 0)]⟩
def CT_SRV_LOCK_LOCKN : Field := ⟨.CT_SRV_LOCK, 23, 16, .rw, 4, [(0, 0)]⟩
def CT_SRV_LOCK_LOCKTH : Field := ⟨.CT_SRV_LOCK, 15, 0, .rw, 0x64, [(0, 0)]⟩
def CT_SRV_OFS_OFS : Field := ⟨.CT_SRV_OFS, 31, 0, .ro, 0, []⟩
def CT_SRV_FREQ_PPB : Field := ⟨.CT_SRV_FREQ, 31, 0, .ro, 0, []⟩
def CT_SRV_INTG_PPB : Field := ⟨.CT_SRV_INTG, 31, 0, .ro, 0, []⟩
def CT_SRV_STAT_MEASN : Field := ⟨.CT_SRV_STAT, 31, 16, .rc, 0, []⟩
def CT_SRV_STAT_INCRW : Field := ⟨.CT_SRV_STAT, 5, 5, .w1c, 0, []⟩
def CT_SRV_STAT_LOCKD : Field := ⟨.CT_SRV_STAT, 4, 4, .w1c, 0, []⟩
def CT_SRV_STAT_STEPD : Field := ⟨.CT_SRV_STAT, 3, 3, .w1c, 0, []⟩
def CT_SRV_STAT_LOST : Field := ⟨.CT_SRV_STAT, 2, 2, .w1c, 0, []⟩
def CT_SRV_STAT_STATE : Field := ⟨.CT_SRV_STAT, 1, 0, .ro, 1, []⟩
def CT_TICK_PERIOD_PERIOD4 : Field := ⟨.CT_TICK_PERIOD, 17, 0, .st, 0x3d09, [(0, 2499), (250001, 262143)]⟩
def CT_TICK_PHASE_PHASE4 : Field := ⟨.CT_TICK_PHASE, 17, 0, .st, 0, []⟩
def CT_TICK_POS_SC : Field := ⟨.CT_TICK_POS, 31, 31, .ro, 0, []⟩
def CT_TICK_POS_POS : Field := ⟨.CT_TICK_POS, 19, 0, .ro, 0, []⟩
def CT_TICK_CNT_LO_CNT : Field := ⟨.CT_TICK_CNT_LO, 31, 0, .ro, 0, []⟩
def CT_TICK_CNT_HI_CNT : Field := ⟨.CT_TICK_CNT_HI, 31, 0, .ro, 0, []⟩
def CT_TICK_NEXT_LO_NEXT : Field := ⟨.CT_TICK_NEXT_LO, 31, 0, .ro, 0xf424, []⟩
def CT_TICK_NEXT_HI_NEXT : Field := ⟨.CT_TICK_NEXT_HI, 31, 0, .ro, 0, []⟩
def CT_TICK_SKIP_SKIPN : Field := ⟨.CT_TICK_SKIP, 15, 0, .rc, 0, []⟩
def CT_TICK_STATUS_PCHG : Field := ⟨.CT_TICK_STATUS, 1, 1, .w1c, 0, []⟩
def CT_TICK_STATUS_SKIP : Field := ⟨.CT_TICK_STATUS, 0, 0, .w1c, 0, []⟩
def LL_CFG_PIN : Field := ⟨.LL_CFG, 14, 8, .st, 0x7f, [(96, 126)]⟩
def LL_CFG_REC : Field := ⟨.LL_CFG, 5, 4, .st, 2, [(3, 3)]⟩
def LL_CFG_LATEP : Field := ⟨.LL_CFG, 3, 3, .st, 0, []⟩
def LL_CFG_POL : Field := ⟨.LL_CFG, 2, 2, .st, 0, []⟩
def LL_CFG_MODE : Field := ⟨.LL_CFG, 1, 1, .st, 0, []⟩
def LL_CFG_EN : Field := ⟨.LL_CFG, 0, 0, .st, 0, []⟩
def LL_WIDTH_WID : Field := ⟨.LL_WIDTH, 23, 0, .st, 0x20, [(0, 31)]⟩
def LL_PER_PER : Field := ⟨.LL_PER, 31, 0, .st, 0, []⟩
def LL_CNT_CNT : Field := ⟨.LL_CNT, 15, 0, .st, 0, []⟩
def LL_ARMT_LO_ARMT : Field := ⟨.LL_ARMT_LO, 31, 0, .rw, 0, []⟩
def LL_ARMT_HI_ARMT : Field := ⟨.LL_ARMT_HI, 31, 0, .rw, 0, []⟩
def LL_CMD_CANCEL : Field := ⟨.LL_CMD, 1, 1, .wo, 0, []⟩
def LL_CMD_ARM : Field := ⟨.LL_CMD, 0, 0, .wo, 0, []⟩
def LL_STAT_PINCONF : Field := ⟨.LL_STAT, 10, 10, .w1c, 0, []⟩
def LL_STAT_CFGERR : Field := ⟨.LL_STAT, 9, 9, .w1c, 0, []⟩
def LL_STAT_QREF : Field := ⟨.LL_STAT, 8, 8, .w1c, 0, []⟩
def LL_STAT_LATE : Field := ⟨.LL_STAT, 7, 7, .w1c, 0, []⟩
def LL_STAT_PSRC : Field := ⟨.LL_STAT, 6, 5, .ro, 0, []⟩
def LL_STAT_COMMIT : Field := ⟨.LL_STAT, 4, 4, .ro, 0, []⟩
def LL_STAT_TRAIN : Field := ⟨.LL_STAT, 3, 3, .ro, 0, []⟩
def LL_STAT_PULSE : Field := ⟨.LL_STAT, 2, 2, .ro, 0, []⟩
def LL_STAT_ARMED : Field := ⟨.LL_STAT, 1, 1, .ro, 0, []⟩
def LL_STAT_ACT : Field := ⟨.LL_STAT, 0, 0, .ro, 0, []⟩
def LL_NEXT_LO_NEXT : Field := ⟨.LL_NEXT_LO, 31, 0, .ro, 0, []⟩
def LL_NEXT_HI_NEXT : Field := ⟨.LL_NEXT_HI, 31, 0, .ro, 0, []⟩
def LL_CNTS_FIRED : Field := ⟨.LL_CNTS, 31, 16, .rc, 0, []⟩
def LL_CNTS_LATEN : Field := ⟨.LL_CNTS, 15, 8, .rc, 0, []⟩
def LL_CNTS_DROPN : Field := ⟨.LL_CNTS, 7, 0, .rc, 0, []⟩
def LL_CAPCFG_CLIM : Field := ⟨.LL_CAPCFG, 15, 8, .st, 0, []⟩
def LL_CAPCFG_EDGE : Field := ⟨.LL_CAPCFG, 2, 1, .st, 0, [(3, 3)]⟩
def LL_CAPCFG_EN : Field := ⟨.LL_CAPCFG, 0, 0, .st, 0, []⟩
def LL_CAPSTAT_LVL : Field := ⟨.LL_CAPSTAT, 31, 31, .ro, 0, []⟩
def LL_CAPSTAT_OVERN : Field := ⟨.LL_CAPSTAT, 23, 16, .rc, 0, []⟩
def LL_CAPSTAT_SEQ : Field := ⟨.LL_CAPSTAT, 15, 0, .ro, 0, []⟩
def PZ_CFG_BSHN : Field := ⟨.PZ_CFG, 3, 0, .st, 4, [(0, 3), (9, 15)]⟩
def PZ_STATUS_ACONT : Field := ⟨.PZ_STATUS, 2, 2, .w1c, 0, []⟩
def PZ_STATUS_ABND : Field := ⟨.PZ_STATUS, 1, 1, .w1c, 0, []⟩
def PZ_STATUS_UNRT : Field := ⟨.PZ_STATUS, 0, 0, .w1c, 0, []⟩
def PZ_UNROUTED_UNRN : Field := ⟨.PZ_UNROUTED, 15, 0, .rc, 0, []⟩
def PZ_AMAX_AMAX : Field := ⟨.PZ_AMAX, 15, 0, .rc, 0, []⟩
def PZ_RSRC_EN : Field := ⟨.PZ_RSRC, 31, 31, .st, 0, []⟩
def PZ_RSRC_TYPE : Field := ⟨.PZ_RSRC, 11, 8, .st, 0, [(15, 15)]⟩
def PZ_RSRC_INDEX : Field := ⟨.PZ_RSRC, 7, 0, .st, 0, []⟩
def PZ_RDST_D2 : Field := ⟨.PZ_RDST, 29, 20, .st, 0x3ff, [(64, 127), (319, 319), (383, 1022)]⟩
def PZ_RDST_D1 : Field := ⟨.PZ_RDST, 19, 10, .st, 0x3ff, [(64, 127), (319, 319), (383, 1022)]⟩
def PZ_RDST_D0 : Field := ⟨.PZ_RDST, 9, 0, .st, 0x3ff, [(64, 127), (319, 319), (383, 1022)]⟩
def XC_STATUS_QREF : Field := ⟨.XC_STATUS, 2, 2, .w1c, 0, []⟩
def XC_STATUS_OVF : Field := ⟨.XC_STATUS, 1, 1, .w1c, 0, []⟩
def XC_STATUS_EVLATE : Field := ⟨.XC_STATUS, 0, 0, .w1c, 0, []⟩
def XC_DROP_N : Field := ⟨.XC_DROP, 15, 0, .rc, 0, []⟩
def XC_EVMAX_N : Field := ⟨.XC_EVMAX, 15, 0, .rc, 0, []⟩
def XC_LOAD_EVN : Field := ⟨.XC_LOAD, 23, 0, .ro, 0, []⟩
def XC_CFG_GRACE : Field := ⟨.XC_CFG, 31, 24, .st, 0, []⟩
def XC_CFG_PRIM : Field := ⟨.XC_CFG, 7, 4, .st, 0, [(9, 15)]⟩
def XC_CFG_EN : Field := ⟨.XC_CFG, 0, 0, .st, 0, []⟩
def XC_INA_SGN : Field := ⟨.XC_INA, 31, 31, .st, 0, []⟩
def XC_INA_WIDM1 : Field := ⟨.XC_INA, 30, 26, .st, 0x1f, []⟩
def XC_INA_LSB : Field := ⟨.XC_INA, 25, 21, .st, 0, []⟩
def XC_INA_WSEL : Field := ⟨.XC_INA, 20, 13, .st, 0, []⟩
def XC_INA_EVM : Field := ⟨.XC_INA, 9, 9, .st, 0, []⟩
def XC_INA_SRC : Field := ⟨.XC_INA, 8, 0, .st, 0x1ff, []⟩
def XC_INB_SGN : Field := ⟨.XC_INB, 31, 31, .st, 0, []⟩
def XC_INB_WIDM1 : Field := ⟨.XC_INB, 30, 26, .st, 0x1f, []⟩
def XC_INB_LSB : Field := ⟨.XC_INB, 25, 21, .st, 0, []⟩
def XC_INB_WSEL : Field := ⟨.XC_INB, 20, 13, .st, 0, []⟩
def XC_INB_EVM : Field := ⟨.XC_INB, 9, 9, .st, 0, []⟩
def XC_INB_SRC : Field := ⟨.XC_INB, 8, 0, .st, 0x1ff, []⟩
def XC_P0_P : Field := ⟨.XC_P0, 31, 0, .st, 0, []⟩
def XC_P1_P : Field := ⟨.XC_P1, 31, 0, .st, 0, []⟩
def XC_P2_P : Field := ⟨.XC_P2, 31, 0, .st, 0, []⟩
def XC_P3_P : Field := ⟨.XC_P3, 31, 0, .st, 0, []⟩
def XC_OUT_AMASK : Field := ⟨.XC_OUT, 26, 16, .st, 0, []⟩
def XC_OUT_RMASK : Field := ⟨.XC_OUT, 10, 0, .st, 0, []⟩
def XC_ACT_WEN : Field := ⟨.XC_ACT, 31, 31, .st, 0, []⟩
def XC_ACT_WBLK : Field := ⟨.XC_ACT, 27, 26, .st, 0, []⟩
def XC_ACT_WTHR : Field := ⟨.XC_ACT, 25, 22, .st, 0, []⟩
def XC_ACT_LEN : Field := ⟨.XC_ACT, 21, 21, .st, 0, []⟩
def XC_ACT_LLN : Field := ⟨.XC_ACT, 20, 17, .st, 0, []⟩
def XC_ACT_PMODE : Field := ⟨.XC_ACT, 8, 7, .st, 0, [(3, 3)]⟩
def XC_ACT_PIN : Field := ⟨.XC_ACT, 6, 0, .st, 0, [(96, 127)]⟩
def XC_ARMOFS_ARMOFS : Field := ⟨.XC_ARMOFS, 31, 0, .st, 0, []⟩
def XC_STAT_Q : Field := ⟨.XC_STAT, 31, 31, .ro, 0, []⟩
def XC_STAT_CFGERR : Field := ⟨.XC_STAT, 30, 30, .w1c, 0, []⟩
def XC_STAT_DEPTH : Field := ⟨.XC_STAT, 29, 29, .w1c, 0, []⟩
def XC_STAT_ARMREF : Field := ⟨.XC_STAT, 28, 28, .w1c, 0, []⟩
def XC_STAT_WREF : Field := ⟨.XC_STAT, 27, 27, .w1c, 0, []⟩
def XC_STAT_REPL : Field := ⟨.XC_STAT, 23, 16, .rc, 0, []⟩
def XC_STAT_SEQ : Field := ⟨.XC_STAT, 15, 0, .ro, 0, []⟩
def XC_CNT_EVN : Field := ⟨.XC_CNT, 31, 16, .rc, 0, []⟩
def XC_CNT_LATE : Field := ⟨.XC_CNT, 15, 8, .rc, 0, []⟩
def XC_CNT_SHORT : Field := ⟨.XC_CNT, 7, 0, .rc, 0, []⟩
def XC_VAL_VAL : Field := ⟨.XC_VAL, 31, 0, .ro, 0, []⟩
def XC_CMD_REARM : Field := ⟨.XC_CMD, 1, 1, .wo, 0, []⟩
def XC_CMD_RESET : Field := ⟨.XC_CMD, 0, 0, .wo, 0, []⟩
def XC_PMCFG_STUCKT : Field := ⟨.XC_PMCFG, 31, 20, .st, 0, []⟩
def XC_PMCFG_EBUD : Field := ⟨.XC_PMCFG, 19, 12, .st, 0, []⟩
def XC_PMCFG_POL : Field := ⟨.XC_PMCFG, 9, 9, .st, 0, []⟩
def XC_PMCFG_EN : Field := ⟨.XC_PMCFG, 8, 8, .st, 0, []⟩
def XC_PMCFG_FILT : Field := ⟨.XC_PMCFG, 7, 0, .st, 0, []⟩
def XC_PMSTAT_LVL : Field := ⟨.XC_PMSTAT, 31, 31, .ro, 0, []⟩
def XC_PMSTAT_STUCKA : Field := ⟨.XC_PMSTAT, 30, 30, .ro, 0, []⟩
def XC_PMSTAT_OVER : Field := ⟨.XC_PMSTAT, 29, 29, .ro, 0, []⟩
def XC_PMSTAT_UNRES : Field := ⟨.XC_PMSTAT, 23, 16, .rc, 0, []⟩
def XC_PMSTAT_OVERN : Field := ⟨.XC_PMSTAT, 15, 0, .rc, 0, []⟩
def ARC_IDLEN0_IDLE : Field := ⟨.ARC_IDLEN0, 31, 0, .w1c, 0, []⟩
def ARC_IDLEN1_IDLE : Field := ⟨.ARC_IDLEN1, 31, 0, .w1c, 0, []⟩
def ARC_OVWN0_OVW : Field := ⟨.ARC_OVWN0, 31, 0, .w1c, 0, []⟩
def ARC_OVWN1_OVW : Field := ⟨.ARC_OVWN1, 31, 0, .w1c, 0, []⟩
def ARC_CFG_PTHR : Field := ⟨.ARC_CFG, 29, 26, .st, 0, []⟩
def ARC_CFG_PBLK : Field := ⟨.ARC_CFG, 25, 24, .st, 0, []⟩
def ARC_CFG_CTHR : Field := ⟨.ARC_CFG, 21, 18, .st, 0, []⟩
def ARC_CFG_CBLK : Field := ⟨.ARC_CFG, 17, 16, .st, 0, []⟩
def ARC_CFG_CTTH : Field := ⟨.ARC_CFG, 15, 8, .st, 0x10, [(0, 0)]⟩
def ARC_CFG_CTEN : Field := ⟨.ARC_CFG, 4, 4, .st, 0, []⟩
def ARC_CFG_PROD : Field := ⟨.ARC_CFG, 3, 3, .st, 0, []⟩
def ARC_CFG_CONS : Field := ⟨.ARC_CFG, 2, 1, .st, 0, [(2, 3)]⟩
def ARC_CFG_EN : Field := ⟨.ARC_CFG, 0, 0, .st, 0, []⟩
def ARC_REGION_BASE : Field := ⟨.ARC_REGION, 24, 16, .st, 0, []⟩
def ARC_REGION_SIZE : Field := ⟨.ARC_REGION, 9, 0, .st, 1, [(0, 0), (513, 1023)]⟩
def ARC_TIDLE_TIDLE : Field := ⟨.ARC_TIDLE, 15, 0, .st, 0, []⟩
def ARC_QCAP_QCAP : Field := ⟨.ARC_QCAP, 9, 0, .ro, 0, []⟩
def ARC_LEVEL_N : Field := ⟨.ARC_LEVEL, 18, 0, .ro, 0, []⟩
def ARC_LIMIT_N : Field := ⟨.ARC_LIMIT, 18, 0, .ro, 0, []⟩
def ARC_LOST_LOST : Field := ⟨.ARC_LOST, 31, 0, .rc, 0, []⟩
def ARC_STAT_RDREF : Field := ⟨.ARC_STAT, 8, 8, .w1c, 0, []⟩
def ARC_STAT_PREF : Field := ⟨.ARC_STAT, 7, 7, .w1c, 0, []⟩
def ARC_STAT_CFGERR : Field := ⟨.ARC_STAT, 6, 6, .w1c, 0, []⟩
def ARC_STAT_TOOLONG : Field := ⟨.ARC_STAT, 5, 5, .w1c, 0, []⟩
def ARC_STAT_OVW : Field := ⟨.ARC_STAT, 4, 4, .w1c, 0, []⟩
def ARC_STAT_LIMACT : Field := ⟨.ARC_STAT, 3, 3, .ro, 0, []⟩
def ARC_STAT_CTA : Field := ⟨.ARC_STAT, 2, 2, .ro, 0, []⟩
def ARC_STAT_FLP : Field := ⟨.ARC_STAT, 1, 1, .ro, 0, []⟩
def ARC_STAT_ACT : Field := ⟨.ARC_STAT, 0, 0, .ro, 0, []⟩
def ARC_CNT_FLUSHN : Field := ⟨.ARC_CNT, 31, 16, .rc, 0, []⟩
def ARC_CNT_PKTN : Field := ⟨.ARC_CNT, 15, 0, .rc, 0, []⟩
def ARC_WPTR_PTR : Field := ⟨.ARC_WPTR, 17, 0, .ro, 0, []⟩
def ARC_RPTR_PTR : Field := ⟨.ARC_RPTR, 17, 0, .ro, 0, []⟩
def ARC_RLPTR_PTR : Field := ⟨.ARC_RLPTR, 17, 0, .ro, 0, []⟩
def ARC_CMD_FLUSH : Field := ⟨.ARC_CMD, 0, 0, .wo, 0, []⟩
def BK_CTL_DET : Field := ⟨.BK_CTL, 0, 0, .st, 0, []⟩
def BK_STATUS_DETA : Field := ⟨.BK_STATUS, 12, 12, .ro, 0, []⟩
def BK_STATUS_SBN : Field := ⟨.BK_STATUS, 11, 9, .ro, 0, []⟩
def BK_STATUS_DIVBUSY : Field := ⟨.BK_STATUS, 8, 8, .ro, 0, []⟩
def BK_STATUS_DIVOWN : Field := ⟨.BK_STATUS, 3, 0, .ro, 0, []⟩
def BK_CMD_BTBINV : Field := ⟨.BK_CMD, 1, 1, .wo, 0, []⟩
def BK_CMD_ICINV : Field := ⟨.BK_CMD, 0, 0, .wo, 0, []⟩
def BK_CNT0_ICMISS : Field := ⟨.BK_CNT0, 31, 16, .rc, 0, []⟩
def BK_CNT0_BTBMISS : Field := ⟨.BK_CNT0, 15, 0, .rc, 0, []⟩
def BK_CNT1_DIVAB : Field := ⟨.BK_CNT1, 31, 16, .rc, 0, []⟩
def BK_CNT1_SBFULL : Field := ⟨.BK_CNT1, 15, 0, .rc, 0, []⟩
def BK_PAIRN_PAIRN : Field := ⟨.BK_PAIRN, 31, 0, .rc, 0, []⟩
def BK_CRCP_POLY : Field := ⟨.BK_CRCP, 31, 0, .st, 0, []⟩
def BK_CRCC_REFL : Field := ⟨.BK_CRCC, 2, 2, .st, 0, []⟩
def BK_CRCC_WID : Field := ⟨.BK_CRCC, 1, 0, .st, 0, [(3, 3)]⟩
def BK_TCFG_EN : Field := ⟨.BK_TCFG, 31, 31, .ro, 0, []⟩
def BK_TCFG_CLASS : Field := ⟨.BK_TCFG, 30, 30, .ro, 0, []⟩
def BK_TCFG_OWNQ : Field := ⟨.BK_TCFG, 29, 28, .ro, 0, []⟩
def BK_TCFG_RELEN : Field := ⟨.BK_TCFG, 27, 27, .ro, 0, []⟩
def BK_TCFG_RELOFS : Field := ⟨.BK_TCFG, 17, 0, .ro, 0, []⟩
def BK_TENTRY_ENTRY : Field := ⟨.BK_TENTRY, 31, 0, .ro, 0, []⟩
def BK_BUDGET_BUDGET : Field := ⟨.BK_BUDGET, 19, 0, .ro, 0, []⟩
def BK_ADMIT_NA : Field := ⟨.BK_ADMIT, 31, 28, .ro, 0, []⟩
def BK_ADMIT_MT : Field := ⟨.BK_ADMIT, 27, 20, .ro, 0, []⟩
def BK_ADMIT_WCET : Field := ⟨.BK_ADMIT, 19, 0, .ro, 0, []⟩
def BK_USED_USED : Field := ⟨.BK_USED, 19, 0, .ro, 0, []⟩
def BK_OVERRUN_OVN : Field := ⟨.BK_OVERRUN, 15, 0, .rc, 0, []⟩
def BK_TSTAT_LOST : Field := ⟨.BK_TSTAT, 31, 24, .rc, 0, []⟩
def BK_TSTAT_ADMIT_BROKEN : Field := ⟨.BK_TSTAT, 23, 23, .ro, 0, []⟩
def BK_TSTAT_ADMITX : Field := ⟨.BK_TSTAT, 22, 22, .w1c, 0, []⟩
def BK_TSTAT_CONC : Field := ⟨.BK_TSTAT, 21, 21, .w1c, 0, []⟩
def BK_TSTAT_TCM_EXIT : Field := ⟨.BK_TSTAT, 20, 20, .w1c, 0, []⟩
def BK_TSTAT_PEND : Field := ⟨.BK_TSTAT, 19, 19, .ro, 0, []⟩
def BK_TSTAT_STATE : Field := ⟨.BK_TSTAT, 18, 16, .ro, 0, []⟩
def BK_TSTAT_RSD : Field := ⟨.BK_TSTAT, 12, 9, .ro, 0, []⟩
def BK_TSTAT_DSD : Field := ⟨.BK_TSTAT, 8, 4, .ro, 0, []⟩
def BK_TPC_PC : Field := ⟨.BK_TPC, 31, 0, .ro, 0, []⟩
def BK_FCODE_SPLIT : Field := ⟨.BK_FCODE, 15, 15, .ro, 0, []⟩
def BK_FCODE_FIRSTW : Field := ⟨.BK_FCODE, 14, 14, .ro, 0, []⟩
def BK_FCODE_CODE : Field := ⟨.BK_FCODE, 7, 0, .ro, 0, []⟩
def BK_FPC_ADDR : Field := ⟨.BK_FPC, 31, 0, .ro, 0, []⟩
def BK_FADDR0_ADDR : Field := ⟨.BK_FADDR0, 31, 0, .ro, 0, []⟩
def BK_FADDR1_ADDR : Field := ⟨.BK_FADDR1, 31, 0, .ro, 0, []⟩
def FP_CFG_FLEN : Field := ⟨.FP_CFG, 23, 16, .st, 0, []⟩
def FP_CFG_WLEN : Field := ⟨.FP_CFG, 12, 8, .st, 0x1f, [(0, 2)]⟩
def FP_CFG_SXT : Field := ⟨.FP_CFG, 6, 6, .st, 0, []⟩
def FP_CFG_LSBF : Field := ⟨.FP_CFG, 5, 5, .st, 0, []⟩
def FP_CFG_CMODE : Field := ⟨.FP_CFG, 4, 3, .st, 0, []⟩
def FP_CFG_ROLE : Field := ⟨.FP_CFG, 2, 1, .st, 0, [(2, 3)]⟩
def FP_CFG_EN : Field := ⟨.FP_CFG, 0, 0, .st, 0, []⟩
def FP_CLK_RXDLY : Field := ⟨.FP_CLK, 19, 16, .st, 0, []⟩
def FP_CLK_DIVK : Field := ⟨.FP_CLK, 9, 0, .st, 0x64, [(0, 1), (1001, 1023)]⟩
def FP_SEL_TRAIL : Field := ⟨.FP_SEL, 31, 24, .st, 0, []⟩
def FP_SEL_SELREL : Field := ⟨.FP_SEL, 11, 10, .st, 0, [(3, 3)]⟩
def FP_SEL_SELCHK : Field := ⟨.FP_SEL, 9, 9, .st, 0, []⟩
def FP_SEL_SELPOL : Field := ⟨.FP_SEL, 8, 8, .st, 0, []⟩
def FP_SEL_SELPIN : Field := ⟨.FP_SEL, 6, 0, .st, 0x7f, [(96, 126)]⟩
def FP_RPL_FILL : Field := ⟨.FP_RPL, 2, 2, .st, 0, []⟩
def FP_RPL_RPLOFS : Field := ⟨.FP_RPL, 1, 0, .st, 0, []⟩
def FP_CMD_DISCARD : Field := ⟨.FP_CMD, 2, 2, .wo, 0, []⟩
def FP_CMD_ARM : Field := ⟨.FP_CMD, 1, 1, .wo, 0, []⟩
def FP_CMD_GO : Field := ⟨.FP_CMD, 0, 0, .wo, 0, []⟩
def FP_STATUS_CFGREJ : Field := ⟨.FP_STATUS, 8, 8, .w1c, 0, []⟩
def FP_STATUS_CMDREF : Field := ⟨.FP_STATUS, 7, 7, .w1c, 0, []⟩
def FP_STATUS_OFSP : Field := ⟨.FP_STATUS, 6, 6, .w1c, 0, []⟩
def FP_STATUS_REJ : Field := ⟨.FP_STATUS, 5, 5, .w1c, 0, []⟩
def FP_STATUS_SKIP : Field := ⟨.FP_STATUS, 4, 4, .w1c, 0, []⟩
def FP_STATUS_PEND : Field := ⟨.FP_STATUS, 3, 3, .ro, 0, []⟩
def FP_STATUS_ARMED : Field := ⟨.FP_STATUS, 2, 2, .ro, 0, []⟩
def FP_STATUS_BUSY : Field := ⟨.FP_STATUS, 1, 1, .ro, 0, []⟩
def FP_STATUS_ACT : Field := ⟨.FP_STATUS, 0, 0, .ro, 0, []⟩
def FP_ERR_PRIME : Field := ⟨.FP_ERR, 31, 24, .rc, 0, []⟩
def FP_ERR_CMDLOST : Field := ⟨.FP_ERR, 23, 16, .rc, 0, []⟩
def FP_ERR_NOSEL : Field := ⟨.FP_ERR, 15, 8, .rc, 0, []⟩
def FP_ERR_SKIPN : Field := ⟨.FP_ERR, 7, 0, .rc, 0, []⟩
def FP_DROP_CUT : Field := ⟨.FP_DROP, 31, 16, .rc, 0, []⟩
def FP_DROP_DROPN : Field := ⟨.FP_DROP, 15, 0, .rc, 0, []⟩
def FP_TSTAT_RJCAUSE : Field := ⟨.FP_TSTAT, 17, 16, .ro, 0, []⟩
def FP_TSTAT_TSEQ : Field := ⟨.FP_TSTAT, 15, 0, .ro, 0, []⟩
def FP_RJCNT_RJLONG : Field := ⟨.FP_RJCNT, 31, 16, .rc, 0, []⟩
def FP_RJCNT_RJPART : Field := ⟨.FP_RJCNT, 15, 0, .rc, 0, []⟩
def FP_TCNT_LATERPL : Field := ⟨.FP_TCNT, 31, 16, .rc, 0, []⟩
def FP_TCNT_EMPTY : Field := ⟨.FP_TCNT, 15, 0, .rc, 0, []⟩
def FP_IDLEPAT_PAT : Field := ⟨.FP_IDLEPAT, 31, 0, .rw, 0, []⟩
def FP_REJPAT_PAT : Field := ⟨.FP_REJPAT, 31, 0, .rw, 0xffffffff, []⟩
def FP_LAUNCH_EN : Field := ⟨.FP_LAUNCH, 31, 31, .st, 0, []⟩
def FP_LAUNCH_OFS5 : Field := ⟨.FP_LAUNCH, 17, 0, .st, 0, [(200000, 262143)]⟩
def FP_TXBUF_TXW : Field := ⟨.FP_TXBUF, 31, 0, .rw, 0, []⟩
def TW_CFG_OWNADDR : Field := ⟨.TW_CFG, 25, 16, .st, 0, []⟩
def TW_CFG_OWN10 : Field := ⟨.TW_CFG, 15, 15, .st, 0, []⟩
def TW_CFG_FILT : Field := ⟨.TW_CFG, 14, 12, .st, 3, []⟩
def TW_CFG_IBREN : Field := ⟨.TW_CFG, 11, 10, .st, 0, [(2, 3)]⟩
def TW_CFG_RATE : Field := ⟨.TW_CFG, 9, 8, .st, 0, [(3, 3)]⟩
def TW_CFG_ROLE : Field := ⟨.TW_CFG, 2, 1, .st, 0, [(3, 3)]⟩
def TW_CFG_EN : Field := ⟨.TW_CFG, 0, 0, .st, 0, []⟩
def TW_TO_AUTOCLR : Field := ⟨.TW_TO, 16, 16, .st, 1, []⟩
def TW_TO_SDATO : Field := ⟨.TW_TO, 14, 8, .st, 0x19, [(0, 0), (101, 127)]⟩
def TW_TO_SCLTO : Field := ⟨.TW_TO, 6, 0, .st, 0x19, [(0, 0), (101, 127)]⟩
def TW_CLR_PWRWAIT : Field := ⟨.TW_CLR, 31, 24, .st, 0xa, []⟩
def TW_CLR_PWRT : Field := ⟨.TW_CLR, 23, 16, .st, 0xa, [(0, 0)]⟩
def TW_CLR_AUTOPWR : Field := ⟨.TW_CLR, 9, 9, .st, 0, []⟩
def TW_CLR_PWRPOL : Field := ⟨.TW_CLR, 8, 8, .st, 0, []⟩
def TW_CLR_PWRPIN : Field := ⟨.TW_CLR, 6, 0, .st, 0x7f, [(96, 126)]⟩
def TW_XCFG_RETRY : Field := ⟨.TW_XCFG, 31, 28, .rw, 3, []⟩
def TW_XCFG_RLEN : Field := ⟨.TW_XCFG, 27, 22, .rw, 0, [(33, 63)]⟩
def TW_XCFG_WLEN : Field := ⟨.TW_XCFG, 21, 16, .rw, 0, [(33, 63)]⟩
def TW_XCFG_A10 : Field := ⟨.TW_XCFG, 10, 10, .rw, 0, []⟩
def TW_XCFG_ADDR : Field := ⟨.TW_XCFG, 9, 0, .rw, 0, []⟩
def TW_CMD_UNREQ : Field := ⟨.TW_CMD, 4, 4, .wo, 0, []⟩
def TW_CMD_REQ : Field := ⟨.TW_CMD, 3, 3, .wo, 0, []⟩
def TW_CMD_PRST : Field := ⟨.TW_CMD, 2, 2, .wo, 0, []⟩
def TW_CMD_CLEAR : Field := ⟨.TW_CMD, 1, 1, .wo, 0, []⟩
def TW_CMD_GO : Field := ⟨.TW_CMD, 0, 0, .wo, 0, []⟩
def TW_STATUS_CMDREF : Field := ⟨.TW_STATUS, 9, 9, .w1c, 0, []⟩
def TW_STATUS_STUCK : Field := ⟨.TW_STATUS, 8, 8, .ro, 0, []⟩
def TW_STATUS_CLRD : Field := ⟨.TW_STATUS, 7, 7, .w1c, 0, []⟩
def TW_STATUS_SDALTO : Field := ⟨.TW_STATUS, 6, 6, .w1c, 0, []⟩
def TW_STATUS_SCLLTO : Field := ⟨.TW_STATUS, 5, 5, .w1c, 0, []⟩
def TW_STATUS_HANG : Field := ⟨.TW_STATUS, 4, 4, .w1c, 0, []⟩
def TW_STATUS_PEND : Field := ⟨.TW_STATUS, 3, 3, .ro, 0, []⟩
def TW_STATUS_BUSY : Field := ⟨.TW_STATUS, 2, 2, .ro, 0, []⟩
def TW_STATUS_XACT : Field := ⟨.TW_STATUS, 1, 1, .ro, 0, []⟩
def TW_STATUS_ACT : Field := ⟨.TW_STATUS, 0, 0, .ro, 0, []⟩
def TW_XSTAT_TRIES : Field := ⟨.TW_XSTAT, 19, 16, .ro, 0, []⟩
def TW_XSTAT_BITI : Field := ⟨.TW_XSTAT, 15, 12, .ro, 0, []⟩
def TW_XSTAT_BYTEI : Field := ⟨.TW_XSTAT, 11, 4, .ro, 0, []⟩
def TW_XSTAT_CODE : Field := ⟨.TW_XSTAT, 3, 0, .ro, 0, []⟩
def TW_CNT_NOREPLY : Field := ⟨.TW_CNT, 31, 24, .rc, 0, []⟩
def TW_CNT_CMDLOST : Field := ⟨.TW_CNT, 23, 16, .rc, 0, []⟩
def TW_CNT_NACKN : Field := ⟨.TW_CNT, 15, 8, .rc, 0, []⟩
def TW_CNT_ARBL : Field := ⟨.TW_CNT, 7, 0, .rc, 0, []⟩
def TW_IBR_HANGN : Field := ⟨.TW_IBR, 31, 24, .rc, 0, []⟩
def TW_IBR_NOANS : Field := ⟨.TW_IBR, 23, 16, .rc, 0, []⟩
def TW_IBR_SPUR : Field := ⟨.TW_IBR, 15, 8, .rc, 0, []⟩
def TW_IBR_REQN : Field := ⟨.TW_IBR, 7, 0, .rc, 0, []⟩
def TW_TGT_ARM : Field := ⟨.TW_TGT, 8, 8, .rw, 0, []⟩
def TW_TGT_TLEN : Field := ⟨.TW_TGT, 5, 0, .rw, 0, [(33, 63)]⟩
def TW_TXBUF_BYTES : Field := ⟨.TW_TXBUF, 31, 0, .rw, 0, []⟩
def TW_TGTBUF_BYTES : Field := ⟨.TW_TGTBUF, 31, 0, .rw, 0, []⟩
def RG_CFG_TCEN : Field := ⟨.RG_CFG, 18, 18, .st, 0, []⟩
def RG_CFG_ADDR : Field := ⟨.RG_CFG, 17, 10, .st, 0, [(255, 255)]⟩
def RG_CFG_PMASTER : Field := ⟨.RG_CFG, 9, 9, .st, 0, []⟩
def RG_CFG_UPP : Field := ⟨.RG_CFG, 8, 8, .st, 0, []⟩
def RG_CFG_PERS : Field := ⟨.RG_CFG, 1, 0, .st, 0, [(3, 3)]⟩
def RG_CYC_MODE : Field := ⟨.RG_CYC, 31, 31, .st, 0, []⟩
def RG_CYC_KM1 : Field := ⟨.RG_CYC, 21, 18, .st, 0, []⟩
def RG_CYC_CSOFS : Field := ⟨.RG_CYC, 17, 0, .st, 0, [(250000, 262143)]⟩
def RG_KERB_RLYT : Field := ⟨.RG_KERB, 19, 16, .st, 0, []⟩
def RG_KERB_KOFS : Field := ⟨.RG_KERB, 15, 1, .st, 0, []⟩
def RG_KERB_OPEN : Field := ⟨.RG_KERB, 0, 0, .st, 0, []⟩
def RG_CMD_KCLOSE : Field := ⟨.RG_CMD, 2, 2, .wo, 0, []⟩
def RG_CMD_BELL1 : Field := ⟨.RG_CMD, 1, 1, .wo, 0, []⟩
def RG_CMD_BELL0 : Field := ⟨.RG_CMD, 0, 0, .wo, 0, []⟩
def RG_STATUS_CMDREF : Field := ⟨.RG_STATUS, 9, 9, .w1c, 0, []⟩
def RG_STATUS_BELLACT : Field := ⟨.RG_STATUS, 8, 8, .ro, 0, []⟩
def RG_STATUS_CFGERR : Field := ⟨.RG_STATUS, 7, 7, .w1c, 0, []⟩
def RG_STATUS_DJUMP : Field := ⟨.RG_STATUS, 6, 6, .w1c, 0, []⟩
def RG_STATUS_CSLATE : Field := ⟨.RG_STATUS, 5, 5, .w1c, 0, []⟩
def RG_STATUS_CSLOST : Field := ⟨.RG_STATUS, 4, 4, .w1c, 0, []⟩
def RG_STATUS_LCHG : Field := ⟨.RG_STATUS, 3, 3, .w1c, 0, []⟩
def RG_STATUS_KCHG : Field := ⟨.RG_STATUS, 2, 2, .w1c, 0, []⟩
def RG_STATUS_RXL1 : Field := ⟨.RG_STATUS, 1, 1, .ro, 0, []⟩
def RG_STATUS_RXL0 : Field := ⟨.RG_STATUS, 0, 0, .ro, 0, []⟩
def RG_KSTAT_KTRN : Field := ⟨.RG_KSTAT, 31, 16, .rc, 0, []⟩
def RG_KSTAT_CAUSE : Field := ⟨.RG_KSTAT, 7, 4, .ro, 1, []⟩
def RG_KSTAT_KST : Field := ⟨.RG_KSTAT, 1, 0, .ro, 0, []⟩
def RG_CYCN_V : Field := ⟨.RG_CYCN, 31, 0, .ro, 0, []⟩
def RG_RTT_V : Field := ⟨.RG_RTT, 31, 0, .ro, 0, []⟩
def RG_DELAY_V : Field := ⟨.RG_DELAY, 31, 0, .ro, 0, []⟩
def RG_CAL_RXLAT : Field := ⟨.RG_CAL, 31, 16, .ro, 0x550, []⟩
def RG_CAL_TXLAT : Field := ⟨.RG_CAL, 15, 0, .ro, 0x258, []⟩
def RG_ERR0_CRCERR : Field := ⟨.RG_ERR0, 31, 24, .rc, 0, []⟩
def RG_ERR0_CODEERR : Field := ⟨.RG_ERR0, 23, 16, .rc, 0, []⟩
def RG_ERR0_ORPHAN : Field := ⟨.RG_ERR0, 15, 8, .rc, 0, []⟩
def RG_ERR0_CSMISS : Field := ⟨.RG_ERR0, 7, 0, .rc, 0, []⟩
def RG_ERR1_SLOTCOL : Field := ⟨.RG_ERR1, 31, 24, .rc, 0, []⟩
def RG_ERR1_FWDDROP : Field := ⟨.RG_ERR1, 23, 16, .rc, 0, []⟩
def RG_ERR1_SLOTSKIP : Field := ⟨.RG_ERR1, 15, 8, .rc, 0, []⟩
def RG_ERR1_NOCSM : Field := ⟨.RG_ERR1, 7, 0, .rc, 0, []⟩
def RG_SLOT_EN : Field := ⟨.RG_SLOT, 31, 31, .st, 0, []⟩
def RG_SLOT_LEN : Field := ⟨.RG_SLOT, 25, 19, .st, 0, [(65, 127)]⟩
def RG_SLOT_OFS8 : Field := ⟨.RG_SLOT, 18, 0, .st, 0x25, [(0, 36)]⟩
def RG_SLOTCMD_POST : Field := ⟨.RG_SLOTCMD, 7, 0, .wo, 0, []⟩
def RG_RXF_EN : Field := ⟨.RG_RXF, 31, 31, .st, 0, []⟩
def RG_RXF_SRCADR : Field := ⟨.RG_RXF, 15, 8, .st, 1, [(0, 0), (255, 255)]⟩
def RG_RXF_ALLS : Field := ⟨.RG_RXF, 3, 3, .st, 0, []⟩
def RG_RXF_SLOT : Field := ⟨.RG_RXF, 2, 0, .st, 0, []⟩
def RG_PTPCFG_EN : Field := ⟨.RG_PTPCFG, 31, 31, .st, 0, []⟩
def RG_PTPCFG_DOM : Field := ⟨.RG_PTPCFG, 23, 16, .st, 0, [(128, 255)]⟩
def RG_PTPCFG_SYNCLOG : Field := ⟨.RG_PTPCFG, 15, 12, .st, 0, [(5, 8)]⟩
def RG_PTPCFG_ANNLOG : Field := ⟨.RG_PTPCFG, 11, 8, .st, 0, [(5, 8)]⟩
def RG_PTPCFG_STEP : Field := ⟨.RG_PTPCFG, 3, 3, .st, 0, []⟩
def RG_PTPCFG_PORT : Field := ⟨.RG_PTPCFG, 2, 2, .st, 0, []⟩
def RG_PTPCFG_ROLE : Field := ⟨.RG_PTPCFG, 1, 0, .st, 0, [(3, 3)]⟩
def RG_PTPSTAT_SYNCN : Field := ⟨.RG_PTPSTAT, 31, 16, .rc, 0, []⟩
def RG_PTPSTAT_SEQ : Field := ⟨.RG_PTPSTAT, 15, 0, .ro, 0, []⟩
def RG_PTPANN_ANN : Field := ⟨.RG_PTPANN, 31, 0, .st, 0xf8fea080, []⟩
def RG_PTPUTC_UTCV : Field := ⟨.RG_PTPUTC, 16, 16, .st, 0, []⟩
def RG_PTPUTC_UTCO : Field := ⟨.RG_PTPUTC, 15, 0, .st, 0, []⟩
def RG_CLKID_LO_ID : Field := ⟨.RG_CLKID_LO, 31, 0, .st, 0, []⟩
def RG_CLKID_HI_ID : Field := ⟨.RG_CLKID_HI, 31, 0, .st, 0, []⟩
def RG_MAC_LO_ID : Field := ⟨.RG_MAC_LO, 31, 0, .st, 0, []⟩
def RG_MAC_HI_ID : Field := ⟨.RG_MAC_HI, 15, 0, .st, 0, []⟩
def RG_ETHERR_FCSERR : Field := ⟨.RG_ETHERR, 31, 24, .rc, 0, []⟩
def RG_ETHERR_DROPOWN : Field := ⟨.RG_ETHERR, 23, 16, .rc, 0, []⟩
def RG_ETHERR_UNSUP : Field := ⟨.RG_ETHERR, 15, 8, .rc, 0, []⟩
def RG_ETHERR_PDTO : Field := ⟨.RG_ETHERR, 7, 0, .rc, 0, []⟩
def RG_PDCFG_EN : Field := ⟨.RG_PDCFG, 31, 31, .st, 0, []⟩
def RG_PDCFG_PDLOG : Field := ⟨.RG_PDCFG, 3, 0, .st, 0, [(5, 8)]⟩
def RG_PDLY_VAL : Field := ⟨.RG_PDLY, 31, 31, .ro, 0, []⟩
def RG_PDLY_DLY : Field := ⟨.RG_PDLY, 23, 0, .ro, 0, []⟩
def RG_SLOTBUF_W : Field := ⟨.RG_SLOTBUF, 31, 0, .rw, 0, []⟩
def HL_CFG_FIXTAB : Field := ⟨.HL_CFG, 19, 17, .st, 0, []⟩
def HL_CFG_AUTOTAB : Field := ⟨.HL_CFG, 16, 16, .st, 0, []⟩
def HL_CFG_RAMPN : Field := ⟨.HL_CFG, 15, 12, .st, 4, [(0, 0), (9, 15)]⟩
def HL_CFG_NUP : Field := ⟨.HL_CFG, 11, 8, .st, 8, [(0, 0)]⟩
def HL_CFG_NDN : Field := ⟨.HL_CFG, 7, 4, .st, 4, [(0, 0)]⟩
def HL_CFG_ROLE : Field := ⟨.HL_CFG, 2, 1, .st, 0, [(2, 3)]⟩
def HL_CFG_EN : Field := ⟨.HL_CFG, 0, 0, .st, 0, []⟩
def HL_LAYOUT_UGAP : Field := ⟨.HL_LAYOUT, 29, 16, .st, 0x300, []⟩
def HL_LAYOUT_SFOFS : Field := ⟨.HL_LAYOUT, 13, 0, .st, 0x80, []⟩
def HL_RAMPLV0_LV4 : Field := ⟨.HL_RAMPLV0, 31, 24, .st, 0xff, []⟩
def HL_RAMPLV0_LV3 : Field := ⟨.HL_RAMPLV0, 23, 16, .st, 0xc0, []⟩
def HL_RAMPLV0_LV2 : Field := ⟨.HL_RAMPLV0, 15, 8, .st, 0x80, []⟩
def HL_RAMPLV0_LV1 : Field := ⟨.HL_RAMPLV0, 7, 0, .st, 0x40, []⟩
def HL_RAMPLV1_LV7 : Field := ⟨.HL_RAMPLV1, 23, 16, .st, 0xff, []⟩
def HL_RAMPLV1_LV6 : Field := ⟨.HL_RAMPLV1, 15, 8, .st, 0xff, []⟩
def HL_RAMPLV1_LV5 : Field := ⟨.HL_RAMPLV1, 7, 0, .st, 0xff, []⟩
def HL_PA_PALEAD : Field := ⟨.HL_PA, 31, 26, .st, 0x10, []⟩
def HL_PA_PAON : Field := ⟨.HL_PA, 25, 16, .st, 0x320, []⟩
def HL_PA_PAOFF : Field := ⟨.HL_PA, 9, 0, .st, 0, []⟩
def HL_TX_TXLVL : Field := ⟨.HL_TX, 7, 0, .st, 0xc0, [(0, 0)]⟩
def HL_LINK_PRBINT : Field := ⟨.HL_LINK, 23, 16, .st, 0, []⟩
def HL_LINK_SRCH : Field := ⟨.HL_LINK, 15, 8, .st, 0x40, [(0, 0)]⟩
def HL_LINK_NLOSS : Field := ⟨.HL_LINK, 7, 0, .st, 0x10, [(0, 0)]⟩
def HL_ASYM_ASYM : Field := ⟨.HL_ASYM, 15, 0, .st, 0, []⟩
def HL_SECT_AOFS : Field := ⟨.HL_SECT, 31, 16, .st, 0, []⟩
def HL_SECT_HYS : Field := ⟨.HL_SECT, 15, 8, .st, 4, []⟩
def HL_SECT_ASH : Field := ⟨.HL_SECT, 4, 0, .st, 0, [(17, 31)]⟩
def HL_SECT2_AWORD : Field := ⟨.HL_SECT2, 5, 0, .st, 0, [(0, 0), (55, 63)]⟩
def HL_CMD_PRBNOW : Field := ⟨.HL_CMD, 2, 2, .wo, 0, []⟩
def HL_CMD_LRST : Field := ⟨.HL_CMD, 1, 1, .wo, 0, []⟩
def HL_CMD_BELL : Field := ⟨.HL_CMD, 0, 0, .wo, 0, []⟩
def HL_STATUS_CMDREF : Field := ⟨.HL_STATUS, 13, 13, .w1c, 0, []⟩
def HL_STATUS_BELLACT : Field := ⟨.HL_STATUS, 12, 12, .ro, 0, []⟩
def HL_STATUS_LINKCHG : Field := ⟨.HL_STATUS, 11, 11, .w1c, 0, []⟩
def HL_STATUS_TBLMIS : Field := ⟨.HL_STATUS, 10, 10, .w1c, 0, []⟩
def HL_STATUS_NOFIT : Field := ⟨.HL_STATUS, 9, 9, .w1c, 0, []⟩
def HL_STATUS_BASEU : Field := ⟨.HL_STATUS, 8, 8, .ro, 1, []⟩
def HL_STATUS_UTAB : Field := ⟨.HL_STATUS, 7, 5, .ro, 0, []⟩
def HL_STATUS_DTAB : Field := ⟨.HL_STATUS, 4, 2, .ro, 0, []⟩
def HL_STATUS_STATE : Field := ⟨.HL_STATUS, 1, 0, .ro, 0, []⟩
def HL_DELAY_DVAL : Field := ⟨.HL_DELAY, 16, 16, .ro, 0, []⟩
def HL_DELAY_DELAY : Field := ⟨.HL_DELAY, 15, 0, .ro, 0, []⟩
def HL_TURN_TURN : Field := ⟨.HL_TURN, 31, 0, .ro, 0, []⟩
def HL_ERR_TBLMISN : Field := ⟨.HL_ERR, 31, 24, .rc, 0, []⟩
def HL_ERR_SFSKIP : Field := ⟨.HL_ERR, 23, 16, .rc, 0, []⟩
def HL_ERR_HDRLOST : Field := ⟨.HL_ERR, 15, 8, .rc, 0, []⟩
def HL_ERR_CWFAIL : Field := ⟨.HL_ERR, 7, 0, .rc, 0, []⟩
def HL_ERR2_MGMTUNK : Field := ⟨.HL_ERR2, 31, 24, .rc, 0, []⟩
def HL_ERR2_DROPSEG : Field := ⟨.HL_ERR2, 23, 16, .rc, 0, []⟩
def HL_ERR2_CWCORR : Field := ⟨.HL_ERR2, 15, 0, .rc, 0, []⟩
def HL_CAL_RXLAT : Field := ⟨.HL_CAL, 31, 16, .ro, 0x208, []⟩
def HL_CAL_TXLAT : Field := ⟨.HL_CAL, 15, 0, .ro, 0x138, []⟩
def HL_TBLCMD_GO : Field := ⟨.HL_TBLCMD, 4, 4, .wo, 0, []⟩
def HL_TBLCMD_DIR : Field := ⟨.HL_TBLCMD, 3, 3, .wo, 0, []⟩
def HL_TBLCMD_TAB : Field := ⟨.HL_TBLCMD, 2, 0, .wo, 0, []⟩
def HL_TBLSTAT_SFNEFF : Field := ⟨.HL_TBLSTAT, 31, 16, .ro, 0, []⟩
def HL_TBLSTAT_ST : Field := ⟨.HL_TBLSTAT, 1, 0, .ro, 0, []⟩
def HL_TBLSHD_CODES : Field := ⟨.HL_TBLSHD, 29, 0, .rw, 0x12492492, []⟩
def HL_TBL_CODES : Field := ⟨.HL_TBL, 29, 0, .ro, 0x12492492, []⟩
def HL_SNR_SNR : Field := ⟨.HL_SNR, 31, 0, .ro, 0, []⟩
def HP_LSTAT_DLUP : Field := ⟨.HP_LSTAT, 8, 8, .ro, 0, []⟩
def HP_LSTAT_LST : Field := ⟨.HP_LSTAT, 4, 2, .ro, 0, []⟩
def HP_LSTAT_SPD : Field := ⟨.HP_LSTAT, 1, 0, .ro, 0, []⟩
def HP_SUPQ_MODEPERM : Field := ⟨.HP_SUPQ, 7, 4, .ro, 0, []⟩
def HP_SUPQ_SUPQ : Field := ⟨.HP_SUPQ, 1, 0, .ro, 0, []⟩
def HP_QSTAT_RDTO : Field := ⟨.HP_QSTAT, 9, 9, .w1c, 0, []⟩
def HP_QSTAT_UPEND : Field := ⟨.HP_QSTAT, 8, 8, .ro, 0, []⟩
def HP_QSTAT_LATEDONE : Field := ⟨.HP_QSTAT, 7, 7, .w1c, 0, []⟩
def HP_QSTAT_WDEXP : Field := ⟨.HP_QSTAT, 6, 6, .w1c, 0, []⟩
def HP_QSTAT_NOVF : Field := ⟨.HP_QSTAT, 5, 5, .w1c, 0, []⟩
def HP_QSTAT_CMDERR : Field := ⟨.HP_QSTAT, 4, 4, .w1c, 0, []⟩
def HP_QSTAT_FLT : Field := ⟨.HP_QSTAT, 3, 3, .w1c, 0, []⟩
def HP_QSTAT_QRDONE : Field := ⟨.HP_QSTAT, 2, 2, .w1c, 0, []⟩
def HP_QSTAT_QRP : Field := ⟨.HP_QSTAT, 1, 1, .ro, 0, []⟩
def HP_QSTAT_ACT : Field := ⟨.HP_QSTAT, 0, 0, .ro, 0, []⟩
def HP_FLTADDR_W : Field := ⟨.HP_FLTADDR, 31, 31, .ro, 0, []⟩
def HP_FLTADDR_THR : Field := ⟨.HP_FLTADDR, 30, 30, .ro, 0, []⟩
def HP_FLTADDR_OFS : Field := ⟨.HP_FLTADDR, 19, 0, .ro, 0, []⟩
def HP_CPI_IDX : Field := ⟨.HP_CPI, 15, 0, .rw, 0, []⟩
def HP_CCI_IDX : Field := ⟨.HP_CCI, 15, 0, .ro, 0, []⟩
def HP_RPI_IDX : Field := ⟨.HP_RPI, 15, 0, .ro, 0, []⟩
def HP_NPI_IDX : Field := ⟨.HP_NPI, 15, 0, .ro, 0, []⟩
def HP_NCI_IDX : Field := ⟨.HP_NCI, 15, 0, .rw, 0, []⟩
def HP_NLOST_N : Field := ⟨.HP_NLOST, 15, 0, .rc, 0, []⟩
def HP_VMAP_NOTV : Field := ⟨.HP_VMAP, 7, 4, .rw, 1, []⟩
def HP_VMAP_CMDV : Field := ⟨.HP_VMAP, 3, 0, .rw, 0, []⟩
def HP_WDOG_ACTION : Field := ⟨.HP_WDOG, 17, 16, .rw, 0, [(3, 3)]⟩
def HP_WDOG_PERIOD : Field := ⟨.HP_WDOG, 15, 0, .rw, 0, []⟩
def HP_WDKICK_KEY : Field := ⟨.HP_WDKICK, 7, 0, .wo, 0, [(0, 164), (166, 255)]⟩
def HP_WDCNT_CNT : Field := ⟨.HP_WDCNT, 15, 0, .ro, 0, []⟩
def HP_DRCFG_EN : Field := ⟨.HP_DRCFG, 31, 31, .rw, 0, []⟩
def HP_DRCFG_VEC : Field := ⟨.HP_DRCFG, 11, 8, .rw, 0, []⟩
def HP_DRCFG_ARC : Field := ⟨.HP_DRCFG, 5, 0, .rw, 0, []⟩
def HP_DRPI_IDX : Field := ⟨.HP_DRPI, 15, 0, .rw, 0, []⟩
def HP_DRCI_IDX : Field := ⟨.HP_DRCI, 15, 0, .ro, 0, []⟩
def HP_DRST_CAUSE : Field := ⟨.HP_DRST, 3, 2, .ro, 0, []⟩
def HP_DRST_OVR : Field := ⟨.HP_DRST, 1, 1, .w1c, 0, []⟩
def HP_DRST_ERR : Field := ⟨.HP_DRST, 0, 0, .w1c, 0, []⟩
def HP_UCMD_W : Field := ⟨.HP_UCMD, 31, 0, .ro, 0, []⟩
def HP_URSP_W : Field := ⟨.HP_URSP, 31, 0, .rw, 0, []⟩
def HP_UDONE_ST : Field := ⟨.HP_UDONE, 7, 0, .wo, 0, [(1, 127)]⟩
def HP_UCFG_EN : Field := ⟨.HP_UCFG, 31, 31, .ro, 0, []⟩
def HP_UCFG_UENT : Field := ⟨.HP_UCFG, 30, 30, .ro, 0, []⟩
def HP_UCFG_UTHR : Field := ⟨.HP_UCFG, 21, 16, .ro, 0, []⟩
def HP_UCFG_UCTO : Field := ⟨.HP_UCFG, 15, 8, .ro, 0, []⟩
def HP_QQUOTA_LLH : Field := ⟨.HP_QQUOTA, 28, 24, .ro, 0, []⟩
def HP_QQUOTA_XCN : Field := ⟨.HP_QQUOTA, 23, 16, .ro, 0, []⟩
def HP_QQUOTA_LLQ : Field := ⟨.HP_QQUOTA, 12, 8, .ro, 0, []⟩
def HP_QQUOTA_XCQ : Field := ⟨.HP_QQUOTA, 7, 0, .ro, 0, []⟩
def MP0_CFG_RDCMD : Field := ⟨.MP0_CFG, 31, 24, .rw, 0xee, []⟩
def MP0_CFG_MODEB : Field := ⟨.MP0_CFG, 23, 16, .rw, 0xa5, []⟩
def MP0_CFG_DUMMY : Field := ⟨.MP0_CFG, 15, 11, .rw, 0x14, [(0, 3)]⟩
def MP0_CFG_CONT : Field := ⟨.MP0_CFG, 10, 10, .rw, 0, []⟩
def MP0_CFG_PREF : Field := ⟨.MP0_CFG, 9, 9, .rw, 1, []⟩
def MP0_CFG_SIZE : Field := ⟨.MP0_CFG, 5, 3, .rw, 7, []⟩
def MP0_CFG_SDIV : Field := ⟨.MP0_CFG, 1, 0, .rw, 2, []⟩
def MP0_CTL_INVPF : Field := ⟨.MP0_CTL, 1, 1, .wo, 0, []⟩
def MP0_CTL_HOLD : Field := ⟨.MP0_CTL, 0, 0, .rw, 0, []⟩
def MP0_STAT_MISS : Field := ⟨.MP0_STAT, 31, 16, .rc, 0, []⟩
def MP0_STAT_CMDREF : Field := ⟨.MP0_STAT, 2, 2, .w1c, 0, []⟩
def MP0_STAT_RAWBUSY : Field := ⟨.MP0_STAT, 1, 1, .ro, 0, []⟩
def MP0_STAT_CONTA : Field := ⟨.MP0_STAT, 0, 0, .ro, 0, []⟩
def MP0_RAWCMD_GO : Field := ⟨.MP0_RAWCMD, 31, 31, .wo, 0, []⟩
def MP0_RAWCMD_DIR : Field := ⟨.MP0_RAWCMD, 30, 30, .rw, 0, []⟩
def MP0_RAWCMD_ALEN : Field := ⟨.MP0_RAWCMD, 29, 28, .rw, 0, [(3, 3)]⟩
def MP0_RAWCMD_DUMMY : Field := ⟨.MP0_RAWCMD, 27, 23, .rw, 0, []⟩
def MP0_RAWCMD_LINE1 : Field := ⟨.MP0_RAWCMD, 22, 22, .rw, 0, []⟩
def MP0_RAWCMD_LEN : Field := ⟨.MP0_RAWCMD, 20, 12, .rw, 0, [(257, 511)]⟩
def MP0_RAWCMD_OPC : Field := ⟨.MP0_RAWCMD, 7, 0, .rw, 0, []⟩
def MP0_RAWADDR_V : Field := ⟨.MP0_RAWADDR, 31, 0, .rw, 0, []⟩
def MP0_RAWBUF_V : Field := ⟨.MP0_RAWBUF, 31, 0, .rw, 0, []⟩
def MP1_CFG_CWLEN : Field := ⟨.MP1_CFG, 31, 24, .rw, 0xff, [(0, 135)]⟩
def MP1_CFG_PG8 : Field := ⟨.MP1_CFG, 18, 8, .rw, 0x108, [(0, 63), (1089, 2047)]⟩
def MP1_CFG_PPB : Field := ⟨.MP1_CFG, 7, 6, .rw, 1, []⟩
def MP1_CFG_D1 : Field := ⟨.MP1_CFG, 5, 2, .rw, 4, [(0, 2)]⟩
def MP1_CFG_WID8 : Field := ⟨.MP1_CFG, 1, 1, .rw, 0, []⟩
def MP1_GEOM_BBTMAX : Field := ⟨.MP1_GEOM, 31, 24, .rw, 0x10, [(0, 0)]⟩
def MP1_GEOM_NBLK : Field := ⟨.MP1_GEOM, 15, 0, .rw, 0x400, [(0, 0)]⟩
def MP1_OPS0_PEXEC : Field := ⟨.MP1_OPS0, 31, 24, .rw, 0x10, []⟩
def MP1_OPS0_PLOAD : Field := ⟨.MP1_OPS0, 23, 16, .rw, 0x32, []⟩
def MP1_OPS0_RDCACHE : Field := ⟨.MP1_OPS0, 15, 8, .rw, 0xeb, []⟩
def MP1_OPS0_PGRD : Field := ⟨.MP1_OPS0, 7, 0, .rw, 0x13, []⟩
def MP1_OPS1_SADDR : Field := ⟨.MP1_OPS1, 31, 24, .rw, 0xc0, []⟩
def MP1_OPS1_WREN : Field := ⟨.MP1_OPS1, 23, 16, .rw, 6, []⟩
def MP1_OPS1_GETF : Field := ⟨.MP1_OPS1, 15, 8, .rw, 0xf, []⟩
def MP1_OPS1_ERASE : Field := ⟨.MP1_OPS1, 7, 0, .rw, 0xd8, []⟩
def MP1_CMD_GO : Field := ⟨.MP1_CMD, 31, 31, .wo, 0, []⟩
def MP1_CMD_OP : Field := ⟨.MP1_CMD, 30, 28, .rw, 0, [(5, 7)]⟩
def MP1_CMD_BLOCK : Field := ⟨.MP1_CMD, 23, 8, .rw, 0, []⟩
def MP1_CMD_PAGE : Field := ⟨.MP1_CMD, 7, 0, .rw, 0, []⟩
def MP1_STAT_ST : Field := ⟨.MP1_STAT, 31, 28, .ro, 0, []⟩
def MP1_STAT_MAXC : Field := ⟨.MP1_STAT, 23, 16, .ro, 0, []⟩
def MP1_STAT_NFAIL : Field := ⟨.MP1_STAT, 15, 8, .ro, 0, []⟩
def MP1_STAT_CMDREF : Field := ⟨.MP1_STAT, 2, 2, .w1c, 0, []⟩
def MP1_STAT_ENC : Field := ⟨.MP1_STAT, 1, 1, .ro, 0, []⟩
def MP1_STAT_BUSY : Field := ⟨.MP1_STAT, 0, 0, .ro, 0, []⟩
def MP1_CWFAIL0_V : Field := ⟨.MP1_CWFAIL0, 31, 0, .ro, 0, []⟩
def MP1_CWFAIL1_V : Field := ⟨.MP1_CWFAIL1, 31, 0, .ro, 0, []⟩
def MP1_ECNT_V : Field := ⟨.MP1_ECNT, 31, 0, .ro, 0, []⟩
def MP1_ECNTDEF_V : Field := ⟨.MP1_ECNTDEF, 31, 0, .rw, 0, []⟩
def MP1_EPEND_N : Field := ⟨.MP1_EPEND, 15, 0, .ro, 0, []⟩
def MP1_POLL_TOUT : Field := ⟨.MP1_POLL, 31, 16, .rw, 0x14, [(0, 0)]⟩
def MP1_POLL_POLL : Field := ⟨.MP1_POLL, 15, 0, .rw, 0xa, [(0, 0)]⟩
def MP1_BBTBLK_BBTV : Field := ⟨.MP1_BBTBLK, 31, 31, .ro, 0, []⟩
def MP1_BBTBLK_BLK : Field := ⟨.MP1_BBTBLK, 15, 0, .ro, 0, []⟩
def MP1_PAT_EN : Field := ⟨.MP1_PAT, 31, 31, .rw, 0, []⟩
def MP1_PAT_PTHR : Field := ⟨.MP1_PAT, 23, 16, .rw, 5, [(0, 0), (9, 255)]⟩
def MP1_PAT_PINT : Field := ⟨.MP1_PAT, 15, 0, .rw, 0xfa, [(0, 0)]⟩
def MP1_PATPOS_BLOCK : Field := ⟨.MP1_PATPOS, 23, 8, .ro, 0, []⟩
def MP1_PATPOS_PAGE : Field := ⟨.MP1_PATPOS, 7, 0, .ro, 0, []⟩
def MP1_PATRES_VALID : Field := ⟨.MP1_PATRES, 31, 31, .rc, 0, []⟩
def MP1_PATRES_UNC : Field := ⟨.MP1_PATRES, 30, 30, .rc, 0, []⟩
def MP1_PATRES_MAXC : Field := ⟨.MP1_PATRES, 29, 24, .rc, 0, []⟩
def MP1_PATRES_BLOCK : Field := ⟨.MP1_PATRES, 23, 8, .rc, 0, []⟩
def MP1_PATRES_PAGE : Field := ⟨.MP1_PATRES, 7, 0, .rc, 0, []⟩
def MP1_PATSTAT_PASSN : Field := ⟨.MP1_PATSTAT, 31, 16, .rc, 0, []⟩
def MP1_PATSTAT_LOSTN : Field := ⟨.MP1_PATSTAT, 15, 8, .rc, 0, []⟩
def MP1_PATSTAT_LVL : Field := ⟨.MP1_PATSTAT, 4, 0, .ro, 0, []⟩
def MP1_TATCFG_EN : Field := ⟨.MP1_TATCFG, 31, 31, .rw, 0, []⟩
def MP1_TATCFG_TATINV : Field := ⟨.MP1_TATCFG, 4, 4, .w1c, 0, []⟩
def MP1_TATCFG_SLPBIN : Field := ⟨.MP1_TATCFG, 3, 0, .rw, 0, []⟩
def MP1_TAT_LO_TAT : Field := ⟨.MP1_TAT_LO, 31, 0, .ro, 0, []⟩
def MP1_TAT_HI_TAT : Field := ⟨.MP1_TAT_HI, 15, 0, .ro, 0, []⟩
def MP1_TATW_W : Field := ⟨.MP1_TATW, 15, 0, .rw, 0, []⟩
def MP1_PGBUF_V : Field := ⟨.MP1_PGBUF, 31, 0, .rw, 0, []⟩
def MP1_BBT_V : Field := ⟨.MP1_BBT, 31, 0, .ro, 0, []⟩
def MP_ECC_CFG_SEN : Field := ⟨.MP_ECC_CFG, 8, 8, .rw, 1, []⟩
def MP_ECC_CFG_SCRN : Field := ⟨.MP_ECC_CFG, 4, 0, .rw, 8, [(0, 5), (21, 31)]⟩
def MP_ECC_STAT_LASTREG : Field := ⟨.MP_ECC_STAT, 7, 4, .ro, 0, []⟩
def MP_ECC_STAT_PWD : Field := ⟨.MP_ECC_STAT, 3, 3, .w1c, 0, []⟩
def MP_ECC_STAT_UNC : Field := ⟨.MP_ECC_STAT, 2, 2, .w1c, 0, []⟩
def MP_ECC_STAT_CORR : Field := ⟨.MP_ECC_STAT, 1, 1, .w1c, 0, []⟩
def MP_ECC_STAT_PASS : Field := ⟨.MP_ECC_STAT, 0, 0, .w1c, 0, []⟩
def MP_ECC_LASTADDR_WIDX : Field := ⟨.MP_ECC_LASTADDR, 17, 0, .ro, 0, []⟩
def MP_ECC_INJ_ARM : Field := ⟨.MP_ECC_INJ, 31, 31, .rw, 0, []⟩
def MP_ECC_INJ_REGION : Field := ⟨.MP_ECC_INJ, 27, 24, .rw, 0, [(15, 15)]⟩
def MP_ECC_INJ_NIBMASK : Field := ⟨.MP_ECC_INJ, 23, 0, .rw, 0, []⟩
def MP_PSNCLR_REGION : Field := ⟨.MP_PSNCLR, 31, 28, .wo, 0, [(15, 15)]⟩
def MP_PSNCLR_WIDX : Field := ⟨.MP_PSNCLR, 17, 0, .wo, 0, []⟩
def MP_ECC_CNT_CORR : Field := ⟨.MP_ECC_CNT, 31, 16, .rc, 0, []⟩
def MP_ECC_CNT_UNC : Field := ⟨.MP_ECC_CNT, 15, 8, .rc, 0, []⟩
def MP_ECC_CNT_PSNRD : Field := ⟨.MP_ECC_CNT, 7, 0, .rc, 0, []⟩
def PM_CFG_DOZAX : Field := ⟨.PM_CFG, 16, 16, .rw, 0, []⟩
def PM_CFG_HLTO : Field := ⟨.PM_CFG, 15, 0, .rw, 0x64, [(0, 0)]⟩
def PM_STATUS_REQREF : Field := ⟨.PM_STATUS, 15, 15, .w1c, 0, []⟩
def PM_STATUS_TWARN : Field := ⟨.PM_STATUS, 14, 14, .w1c, 0, []⟩
def PM_STATUS_OOR : Field := ⟨.PM_STATUS, 13, 13, .w1c, 0, []⟩
def PM_STATUS_LPREG : Field := ⟨.PM_STATUS, 12, 12, .ro, 0, []⟩
def PM_STATUS_DOM : Field := ⟨.PM_STATUS, 11, 0, .ro, 0xfff, []⟩
def PM_MON_VCORE : Field := ⟨.PM_MON, 31, 16, .ro, 0, []⟩
def PM_MON_TJ : Field := ⟨.PM_MON, 15, 0, .ro, 0, []⟩
def PM_MON2_ILDO : Field := ⟨.PM_MON2, 31, 16, .ro, 0, []⟩
def PM_MON2_VIN : Field := ⟨.PM_MON2, 15, 0, .ro, 0, []⟩
def PM_TWARN_TW : Field := ⟨.PM_TWARN, 15, 0, .rw, 0x7d0, [(2401, 64655)]⟩
def PM_MODEREQ_TGT : Field := ⟨.PM_MODEREQ, 3, 0, .wo, 0, [(0, 2), (4, 6), (8, 15)]⟩
def PM_AON_CFG_WPROF : Field := ⟨.PM_AON_CFG, 3, 2, .rw, 0, []⟩
def PM_AON_CFG_CWTGT : Field := ⟨.PM_AON_CFG, 0, 0, .rw, 0, []⟩
def PM_AON_WKEN_WATCHEN : Field := ⟨.PM_AON_WKEN, 25, 16, .rw, 0, []⟩
def PM_AON_WKEN_CURFEN : Field := ⟨.PM_AON_WKEN, 9, 0, .rw, 0, []⟩
def PM_AON_WKSTAT_PEND : Field := ⟨.PM_AON_WKSTAT, 26, 16, .w1c, 0, []⟩
def PM_AON_WKSTAT_PIN : Field := ⟨.PM_AON_WKSTAT, 14, 8, .ro, 0, []⟩
def PM_AON_WKSTAT_SRC : Field := ⟨.PM_AON_WKSTAT, 3, 0, .ro, 0, []⟩
def PM_AON_WKCNT_LO_CNT : Field := ⟨.PM_AON_WKCNT_LO, 31, 0, .ro, 0, []⟩
def PM_AON_WKCNT_HI_CNT : Field := ⟨.PM_AON_WKCNT_HI, 15, 0, .ro, 0, []⟩
def PM_AON_CNT_LO_CNT : Field := ⟨.PM_AON_CNT_LO, 31, 0, .ro, 0, []⟩
def PM_AON_CNT_HI_CNT : Field := ⟨.PM_AON_CNT_HI, 15, 0, .ro, 0, []⟩
def PM_AON_ALARM_LO_ALM : Field := ⟨.PM_AON_ALARM_LO, 31, 0, .rw, 0, []⟩
def PM_AON_ALARM_HI_ALM : Field := ⟨.PM_AON_ALARM_HI, 15, 0, .rw, 0, []⟩
def PM_AON_CWIN_W0_MS : Field := ⟨.PM_AON_CWIN_W0, 31, 0, .ro, 0, []⟩
def PM_AON_CWIN_W1_MS : Field := ⟨.PM_AON_CWIN_W1, 31, 0, .ro, 0, []⟩
def PM_AON_CWIN_W2_MS : Field := ⟨.PM_AON_CWIN_W2, 31, 0, .ro, 0, []⟩
def PM_AON_RSTCAUSE_WDQ : Field := ⟨.PM_AON_RSTCAUSE, 9, 8, .ro, 0, []⟩
def PM_AON_RSTCAUSE_ARST : Field := ⟨.PM_AON_RSTCAUSE, 5, 5, .w1c, 0, []⟩
def PM_AON_RSTCAUSE_CMD : Field := ⟨.PM_AON_RSTCAUSE, 4, 4, .w1c, 0, []⟩
def PM_AON_RSTCAUSE_WDOG : Field := ⟨.PM_AON_RSTCAUSE, 3, 3, .w1c, 0, []⟩
def PM_AON_RSTCAUSE_BOR : Field := ⟨.PM_AON_RSTCAUSE, 2, 2, .w1c, 0, []⟩
def PM_AON_RSTCAUSE_PIN : Field := ⟨.PM_AON_RSTCAUSE, 1, 1, .w1c, 0, []⟩
def PM_AON_RSTCAUSE_POR : Field := ⟨.PM_AON_RSTCAUSE, 0, 0, .w1c, 1, []⟩
def PM_AON_SAFE_ARST : Field := ⟨.PM_AON_SAFE, 31, 24, .rw, 0, []⟩
def PM_AON_SAFE_ARSTN : Field := ⟨.PM_AON_SAFE, 23, 16, .rw, 3, []⟩
def PM_AON_SAFE_N : Field := ⟨.PM_AON_SAFE, 15, 8, .ro, 0, []⟩
def PM_AON_SAFE_CAUSE : Field := ⟨.PM_AON_SAFE, 3, 0, .ro, 0, []⟩
def PM_AON_WKPIN_TYPE : Field := ⟨.PM_AON_WKPIN, 3, 2, .rw, 0, []⟩
def PM_AON_WKPIN_WEN : Field := ⟨.PM_AON_WKPIN, 1, 1, .rw, 0, []⟩
def PM_AON_WKPIN_CEN : Field := ⟨.PM_AON_WKPIN, 0, 0, .rw, 0, []⟩
def LC_STATE_TOPEN : Field := ⟨.LC_STATE, 8, 8, .ro, 0, []⟩
def LC_STATE_DBGO : Field := ⟨.LC_STATE, 7, 7, .ro, 0, []⟩
def LC_STATE_KEYV : Field := ⟨.LC_STATE, 6, 6, .ro, 0, []⟩
def LC_STATE_SLOT : Field := ⟨.LC_STATE, 5, 4, .ro, 0, []⟩
def LC_STATE_STATE : Field := ⟨.LC_STATE, 2, 0, .ro, 0, []⟩
def LC_UID_LO_V : Field := ⟨.LC_UID_LO, 31, 0, .ro, 0, []⟩
def LC_UID_HI_V : Field := ⟨.LC_UID_HI, 31, 0, .ro, 0, []⟩
def LC_NONCE_V : Field := ⟨.LC_NONCE, 31, 0, .ro, 0, []⟩
def LC_CMD_KEY : Field := ⟨.LC_CMD, 31, 16, .wo, 0, [(0, 19522), (19524, 65535)]⟩
def LC_CMD_OP : Field := ⟨.LC_CMD, 3, 0, .wo, 0, [(0, 0), (8, 15)]⟩
def LC_STATUS_RES : Field := ⟨.LC_STATUS, 7, 4, .ro, 0, []⟩
def LC_STATUS_SCRP : Field := ⟨.LC_STATUS, 3, 3, .ro, 0, []⟩
def LC_STATUS_BUSY : Field := ⟨.LC_STATUS, 0, 0, .ro, 0, []⟩
def LC_KEYBUF_W : Field := ⟨.LC_KEYBUF, 31, 0, .rw, 0, []⟩
def LC_TOKEN_W : Field := ⟨.LC_TOKEN, 31, 0, .rw, 0, []⟩
def LC_DBGCTL_BKEN : Field := ⟨.LC_DBGCTL, 2, 2, .rw, 0, []⟩
def LC_DBGCTL_RESUME : Field := ⟨.LC_DBGCTL, 1, 1, .wo, 0, []⟩
def LC_DBGCTL_HALTREQ : Field := ⟨.LC_DBGCTL, 0, 0, .wo, 0, []⟩
def LC_DBGSTAT_REF : Field := ⟨.LC_DBGSTAT, 2, 2, .w1c, 0, []⟩
def LC_DBGSTAT_HALTED : Field := ⟨.LC_DBGSTAT, 0, 0, .ro, 0, []⟩
def GP_IN_IN : Field := ⟨.GP_IN, 31, 0, .ro, 0, []⟩
def GP_OUT_OUT : Field := ⟨.GP_OUT, 31, 0, .rw, 0, []⟩
def GP_OUTSET_SET : Field := ⟨.GP_OUTSET, 31, 0, .wo, 0, []⟩
def GP_OUTCLR_CLR : Field := ⟨.GP_OUTCLR, 31, 0, .wo, 0, []⟩
def GP_OE_OE : Field := ⟨.GP_OE, 31, 0, .rw, 0, []⟩
def GP_CFG_OD : Field := ⟨.GP_CFG, 7, 7, .st, 0, []⟩
def GP_CFG_PULL : Field := ⟨.GP_CFG, 5, 4, .st, 0, [(3, 3)]⟩
def GP_CFG_FUNC : Field := ⟨.GP_CFG, 2, 0, .st, 0, [(4, 7)]⟩

end F

/-- The description of every register (each chapter's register tables). -/
def Reg.desc : Reg → RegDesc
  | .SYS_ID => ⟨0x0, [], false, [F.SYS_ID_ID]⟩
  | .SYS_MODE => ⟨0x4, [], false, [F.SYS_MODE_TGT, F.SYS_MODE_PEND, F.SYS_MODE_RETM, F.SYS_MODE_MODE]⟩
  | .SYS_STATUS => ⟨0x8, [], false, [F.SYS_STATUS_MODECHG, F.SYS_STATUS_RSVW]⟩
  | .SYS_BOOT => ⟨0x100, [], false, [F.SYS_BOOT_UNVER, F.SYS_BOOT_FALLBK, F.SYS_BOOT_SRC, F.SYS_BOOT_STRAP]⟩
  | .SYS_LOADERR => ⟨0x104, [], false, [F.SYS_LOADERR_SECT, F.SYS_LOADERR_DETAIL, F.SYS_LOADERR_CODE]⟩
  | .SYS_LOADOFS => ⟨0x108, [], false, [F.SYS_LOADOFS_PROF, F.SYS_LOADOFS_OFS]⟩
  | .SYS_MAPID => ⟨0x10C, [], false, [F.SYS_MAPID_ID]⟩
  | .SYS_PROF => ⟨0x110, [], false, [F.SYS_PROF_REF, F.SYS_PROF_BUSY, F.SYS_PROF_PEND, F.SYS_PROF_REQP, F.SYS_PROF_ACTIVE]⟩
  | .SYS_PROFCMD => ⟨0x114, [], false, [F.SYS_PROFCMD_GO, F.SYS_PROFCMD_PROF]⟩
  | .SYS_PUSHCTL => ⟨0x120, [], false, [F.SYS_PUSHCTL_GO, F.SYS_PUSHCTL_LAST, F.SYS_PUSHCTL_ABORT, F.SYS_PUSHCTL_LENW]⟩
  | .SYS_PUSHSTAT => ⟨0x124, [], false, [F.SYS_PUSHSTAT_READY, F.SYS_PUSHSTAT_DONE, F.SYS_PUSHSTAT_ERR, F.SYS_PUSHSTAT_CMDREF, F.SYS_PUSHSTAT_RECV]⟩
  | .CT_CTRL => ⟨0x10000, [], false, [F.CT_CTRL_STEPLT, F.CT_CTRL_AUTOSW, F.CT_CTRL_SEL]⟩
  | .CT_SLEW => ⟨0x10004, [], false, [F.CT_SLEW_SLEW]⟩
  | .CT_STATUS => ⟨0x10008, [], false, [F.CT_STATUS_WAKE, F.CT_STATUS_LTSTEP, F.CT_STATUS_SWM, F.CT_STATUS_SWA, F.CT_STATUS_CONV, F.CT_STATUS_LTQ]⟩
  | .CT_LT_W0 => ⟨0x10010, [], false, [F.CT_LT_W0_LT]⟩
  | .CT_LT_W1 => ⟨0x10014, [], false, [F.CT_LT_W1_LT]⟩
  | .CT_LT_W2 => ⟨0x10018, [], false, [F.CT_LT_W2_LT]⟩
  | .CT_LT_FRAC => ⟨0x1001C, [], false, [F.CT_LT_FRAC_LT]⟩
  | .CT_DOFF_LO => ⟨0x10020, [], false, [F.CT_DOFF_LO_DOFF]⟩
  | .CT_DOFF_HI => ⟨0x10024, [], false, [F.CT_DOFF_HI_DOFF]⟩
  | .CT_AON_CFG => ⟨0x10040, [], false, [F.CT_AON_CFG_CALV, F.CT_AON_CFG_CALW]⟩
  | .CT_AON_DRIFT => ⟨0x10044, [], false, [F.CT_AON_DRIFT_DRIFT]⟩
  | .CT_AON_CAL_LO => ⟨0x10048, [], false, [F.CT_AON_CAL_LO_CAL]⟩
  | .CT_AON_CAL_HI => ⟨0x1004C, [], false, [F.CT_AON_CAL_HI_CAL]⟩
  | .CT_WAKE_LT_LO => ⟨0x10050, [], false, [F.CT_WAKE_LT_LO_LTE]⟩
  | .CT_WAKE_LT_HI => ⟨0x10054, [], false, [F.CT_WAKE_LT_HI_LTE]⟩
  | .CT_WAKE_DAON_LO => ⟨0x10058, [], false, [F.CT_WAKE_DAON_LO_DAON]⟩
  | .CT_WAKE_DAON_HI => ⟨0x1005C, [], false, [F.CT_WAKE_DAON_HI_DAON]⟩
  | .CT_WAKE_UNC => ⟨0x10060, [], false, [F.CT_WAKE_UNC_UNC]⟩
  | .CT_WAKE_STAT => ⟨0x10064, [], false, [F.CT_WAKE_STAT_PREV, F.CT_WAKE_STAT_AONBAD, F.CT_WAKE_STAT_RECON]⟩
  | .CT_INCR_LO => ⟨0x10100, [(2, 0x100)], false, [F.CT_INCR_LO_INCRL]⟩
  | .CT_INCR_HI => ⟨0x10104, [(2, 0x100)], false, [F.CT_INCR_HI_INCRH]⟩
  | .CT_DT_W0 => ⟨0x10108, [(2, 0x100)], false, [F.CT_DT_W0_DT]⟩
  | .CT_DT_W1 => ⟨0x1010C, [(2, 0x100)], false, [F.CT_DT_W1_DT]⟩
  | .CT_SRV_CFG => ⟨0x10110, [(2, 0x100)], false, [F.CT_SRV_CFG_SWQ, F.CT_SRV_CFG_LOSSN, F.CT_SRV_CFG_PPSCH, F.CT_SRV_CFG_SRC, F.CT_SRV_CFG_EN]⟩
  | .CT_SRV_KP => ⟨0x10114, [(2, 0x100)], false, [F.CT_SRV_KP_GAIN]⟩
  | .CT_SRV_KI => ⟨0x10118, [(2, 0x100)], false, [F.CT_SRV_KI_GAIN]⟩
  | .CT_SRV_LIM => ⟨0x1011C, [(2, 0x100)], false, [F.CT_SRV_LIM_LIM]⟩
  | .CT_SRV_STEP => ⟨0x10120, [(2, 0x100)], false, [F.CT_SRV_STEP_STEP]⟩
  | .CT_SRV_MINT => ⟨0x10124, [(2, 0x100)], false, [F.CT_SRV_MINT_MINT]⟩
  | .CT_SRV_LOCK => ⟨0x10128, [(2, 0x100)], false, [F.CT_SRV_LOCK_LOCKN, F.CT_SRV_LOCK_LOCKTH]⟩
  | .CT_SRV_OFS => ⟨0x1012C, [(2, 0x100)], false, [F.CT_SRV_OFS_OFS]⟩
  | .CT_SRV_FREQ => ⟨0x10130, [(2, 0x100)], false, [F.CT_SRV_FREQ_PPB]⟩
  | .CT_SRV_INTG => ⟨0x10134, [(2, 0x100)], false, [F.CT_SRV_INTG_PPB]⟩
  | .CT_SRV_STAT => ⟨0x10138, [(2, 0x100)], false, [F.CT_SRV_STAT_MEASN, F.CT_SRV_STAT_INCRW, F.CT_SRV_STAT_LOCKD, F.CT_SRV_STAT_STEPD, F.CT_SRV_STAT_LOST, F.CT_SRV_STAT_STATE]⟩
  | .CT_TICK_PERIOD => ⟨0x10800, [], true, [F.CT_TICK_PERIOD_PERIOD4]⟩
  | .CT_TICK_PHASE => ⟨0x10804, [], true, [F.CT_TICK_PHASE_PHASE4]⟩
  | .CT_TICK_POS => ⟨0x10808, [], false, [F.CT_TICK_POS_SC, F.CT_TICK_POS_POS]⟩
  | .CT_TICK_CNT_LO => ⟨0x10810, [], false, [F.CT_TICK_CNT_LO_CNT]⟩
  | .CT_TICK_CNT_HI => ⟨0x10814, [], false, [F.CT_TICK_CNT_HI_CNT]⟩
  | .CT_TICK_NEXT_LO => ⟨0x10818, [], false, [F.CT_TICK_NEXT_LO_NEXT]⟩
  | .CT_TICK_NEXT_HI => ⟨0x1081C, [], false, [F.CT_TICK_NEXT_HI_NEXT]⟩
  | .CT_TICK_SKIP => ⟨0x10820, [], false, [F.CT_TICK_SKIP_SKIPN]⟩
  | .CT_TICK_STATUS => ⟨0x10824, [], false, [F.CT_TICK_STATUS_PCHG, F.CT_TICK_STATUS_SKIP]⟩
  | .LL_CFG => ⟨0x20100, [(16, 0x40)], true, [F.LL_CFG_PIN, F.LL_CFG_REC, F.LL_CFG_LATEP, F.LL_CFG_POL, F.LL_CFG_MODE, F.LL_CFG_EN]⟩
  | .LL_WIDTH => ⟨0x20104, [(16, 0x40)], true, [F.LL_WIDTH_WID]⟩
  | .LL_PER => ⟨0x20108, [(16, 0x40)], true, [F.LL_PER_PER]⟩
  | .LL_CNT => ⟨0x2010C, [(16, 0x40)], true, [F.LL_CNT_CNT]⟩
  | .LL_ARMT_LO => ⟨0x20110, [(16, 0x40)], false, [F.LL_ARMT_LO_ARMT]⟩
  | .LL_ARMT_HI => ⟨0x20114, [(16, 0x40)], false, [F.LL_ARMT_HI_ARMT]⟩
  | .LL_CMD => ⟨0x20118, [(16, 0x40)], false, [F.LL_CMD_CANCEL, F.LL_CMD_ARM]⟩
  | .LL_STAT => ⟨0x2011C, [(16, 0x40)], false, [F.LL_STAT_PINCONF, F.LL_STAT_CFGERR, F.LL_STAT_QREF, F.LL_STAT_LATE, F.LL_STAT_PSRC, F.LL_STAT_COMMIT, F.LL_STAT_TRAIN, F.LL_STAT_PULSE, F.LL_STAT_ARMED, F.LL_STAT_ACT]⟩
  | .LL_NEXT_LO => ⟨0x20120, [(16, 0x40)], false, [F.LL_NEXT_LO_NEXT]⟩
  | .LL_NEXT_HI => ⟨0x20124, [(16, 0x40)], false, [F.LL_NEXT_HI_NEXT]⟩
  | .LL_CNTS => ⟨0x20128, [(16, 0x40)], false, [F.LL_CNTS_FIRED, F.LL_CNTS_LATEN, F.LL_CNTS_DROPN]⟩
  | .LL_CAPCFG => ⟨0x21000, [(96, 0x8)], true, [F.LL_CAPCFG_CLIM, F.LL_CAPCFG_EDGE, F.LL_CAPCFG_EN]⟩
  | .LL_CAPSTAT => ⟨0x21004, [(96, 0x8)], false, [F.LL_CAPSTAT_LVL, F.LL_CAPSTAT_OVERN, F.LL_CAPSTAT_SEQ]⟩
  | .PZ_CFG => ⟨0x30000, [], true, [F.PZ_CFG_BSHN]⟩
  | .PZ_STATUS => ⟨0x30004, [], false, [F.PZ_STATUS_ACONT, F.PZ_STATUS_ABND, F.PZ_STATUS_UNRT]⟩
  | .PZ_UNROUTED => ⟨0x30008, [], false, [F.PZ_UNROUTED_UNRN]⟩
  | .PZ_AMAX => ⟨0x3000C, [], false, [F.PZ_AMAX_AMAX]⟩
  | .PZ_RSRC => ⟨0x31000, [(256, 0x8)], true, [F.PZ_RSRC_EN, F.PZ_RSRC_TYPE, F.PZ_RSRC_INDEX]⟩
  | .PZ_RDST => ⟨0x31004, [(256, 0x8)], true, [F.PZ_RDST_D2, F.PZ_RDST_D1, F.PZ_RDST_D0]⟩
  | .XC_STATUS => ⟨0x40000, [], false, [F.XC_STATUS_QREF, F.XC_STATUS_OVF, F.XC_STATUS_EVLATE]⟩
  | .XC_DROP => ⟨0x40004, [], false, [F.XC_DROP_N]⟩
  | .XC_EVMAX => ⟨0x40008, [], false, [F.XC_EVMAX_N]⟩
  | .XC_LOAD => ⟨0x4000C, [], false, [F.XC_LOAD_EVN]⟩
  | .XC_CFG => ⟨0x41000, [(128, 0x40)], true, [F.XC_CFG_GRACE, F.XC_CFG_PRIM, F.XC_CFG_EN]⟩
  | .XC_INA => ⟨0x41004, [(128, 0x40)], true, [F.XC_INA_SGN, F.XC_INA_WIDM1, F.XC_INA_LSB, F.XC_INA_WSEL, F.XC_INA_EVM, F.XC_INA_SRC]⟩
  | .XC_INB => ⟨0x41008, [(128, 0x40)], true, [F.XC_INB_SGN, F.XC_INB_WIDM1, F.XC_INB_LSB, F.XC_INB_WSEL, F.XC_INB_EVM, F.XC_INB_SRC]⟩
  | .XC_P0 => ⟨0x4100C, [(128, 0x40)], true, [F.XC_P0_P]⟩
  | .XC_P1 => ⟨0x41010, [(128, 0x40)], true, [F.XC_P1_P]⟩
  | .XC_P2 => ⟨0x41014, [(128, 0x40)], true, [F.XC_P2_P]⟩
  | .XC_P3 => ⟨0x41018, [(128, 0x40)], true, [F.XC_P3_P]⟩
  | .XC_OUT => ⟨0x4101C, [(128, 0x40)], true, [F.XC_OUT_AMASK, F.XC_OUT_RMASK]⟩
  | .XC_ACT => ⟨0x41020, [(128, 0x40)], true, [F.XC_ACT_WEN, F.XC_ACT_WBLK, F.XC_ACT_WTHR, F.XC_ACT_LEN, F.XC_ACT_LLN, F.XC_ACT_PMODE, F.XC_ACT_PIN]⟩
  | .XC_ARMOFS => ⟨0x41024, [(128, 0x40)], true, [F.XC_ARMOFS_ARMOFS]⟩
  | .XC_STAT => ⟨0x41028, [(128, 0x40)], false, [F.XC_STAT_Q, F.XC_STAT_CFGERR, F.XC_STAT_DEPTH, F.XC_STAT_ARMREF, F.XC_STAT_WREF, F.XC_STAT_REPL, F.XC_STAT_SEQ]⟩
  | .XC_CNT => ⟨0x4102C, [(128, 0x40)], false, [F.XC_CNT_EVN, F.XC_CNT_LATE, F.XC_CNT_SHORT]⟩
  | .XC_VAL => ⟨0x41030, [(128, 0x40)], false, [F.XC_VAL_VAL]⟩
  | .XC_CMD => ⟨0x41034, [(128, 0x40)], false, [F.XC_CMD_REARM, F.XC_CMD_RESET]⟩
  | .XC_PMCFG => ⟨0x43000, [(96, 0x8)], true, [F.XC_PMCFG_STUCKT, F.XC_PMCFG_EBUD, F.XC_PMCFG_POL, F.XC_PMCFG_EN, F.XC_PMCFG_FILT]⟩
  | .XC_PMSTAT => ⟨0x43004, [(96, 0x8)], false, [F.XC_PMSTAT_LVL, F.XC_PMSTAT_STUCKA, F.XC_PMSTAT_OVER, F.XC_PMSTAT_UNRES, F.XC_PMSTAT_OVERN]⟩
  | .ARC_IDLEN0 => ⟨0x50000, [], false, [F.ARC_IDLEN0_IDLE]⟩
  | .ARC_IDLEN1 => ⟨0x50004, [], false, [F.ARC_IDLEN1_IDLE]⟩
  | .ARC_OVWN0 => ⟨0x50008, [], false, [F.ARC_OVWN0_OVW]⟩
  | .ARC_OVWN1 => ⟨0x5000C, [], false, [F.ARC_OVWN1_OVW]⟩
  | .ARC_CFG => ⟨0x51000, [(64, 0x40)], true, [F.ARC_CFG_PTHR, F.ARC_CFG_PBLK, F.ARC_CFG_CTHR, F.ARC_CFG_CBLK, F.ARC_CFG_CTTH, F.ARC_CFG_CTEN, F.ARC_CFG_PROD, F.ARC_CFG_CONS, F.ARC_CFG_EN]⟩
  | .ARC_REGION => ⟨0x51004, [(64, 0x40)], true, [F.ARC_REGION_BASE, F.ARC_REGION_SIZE]⟩
  | .ARC_TIDLE => ⟨0x51008, [(64, 0x40)], true, [F.ARC_TIDLE_TIDLE]⟩
  | .ARC_QCAP => ⟨0x5100C, [(64, 0x40)], false, [F.ARC_QCAP_QCAP]⟩
  | .ARC_LEVEL => ⟨0x51010, [(64, 0x40)], false, [F.ARC_LEVEL_N]⟩
  | .ARC_LIMIT => ⟨0x51014, [(64, 0x40)], false, [F.ARC_LIMIT_N]⟩
  | .ARC_LOST => ⟨0x51018, [(64, 0x40)], false, [F.ARC_LOST_LOST]⟩
  | .ARC_STAT => ⟨0x5101C, [(64, 0x40)], false, [F.ARC_STAT_RDREF, F.ARC_STAT_PREF, F.ARC_STAT_CFGERR, F.ARC_STAT_TOOLONG, F.ARC_STAT_OVW, F.ARC_STAT_LIMACT, F.ARC_STAT_CTA, F.ARC_STAT_FLP, F.ARC_STAT_ACT]⟩
  | .ARC_CNT => ⟨0x51020, [(64, 0x40)], false, [F.ARC_CNT_FLUSHN, F.ARC_CNT_PKTN]⟩
  | .ARC_WPTR => ⟨0x51024, [(64, 0x40)], false, [F.ARC_WPTR_PTR]⟩
  | .ARC_RPTR => ⟨0x51028, [(64, 0x40)], false, [F.ARC_RPTR_PTR]⟩
  | .ARC_RLPTR => ⟨0x5102C, [(64, 0x40)], false, [F.ARC_RLPTR_PTR]⟩
  | .ARC_CMD => ⟨0x51030, [(64, 0x40)], false, [F.ARC_CMD_FLUSH]⟩
  | .BK_CTL => ⟨0x60000, [(4, 0x4000)], true, [F.BK_CTL_DET]⟩
  | .BK_STATUS => ⟨0x60004, [(4, 0x4000)], false, [F.BK_STATUS_DETA, F.BK_STATUS_SBN, F.BK_STATUS_DIVBUSY, F.BK_STATUS_DIVOWN]⟩
  | .BK_CMD => ⟨0x60008, [(4, 0x4000)], false, [F.BK_CMD_BTBINV, F.BK_CMD_ICINV]⟩
  | .BK_CNT0 => ⟨0x60010, [(4, 0x4000)], false, [F.BK_CNT0_ICMISS, F.BK_CNT0_BTBMISS]⟩
  | .BK_CNT1 => ⟨0x60014, [(4, 0x4000)], false, [F.BK_CNT1_DIVAB, F.BK_CNT1_SBFULL]⟩
  | .BK_PAIRN => ⟨0x60018, [(4, 0x4000)], false, [F.BK_PAIRN_PAIRN]⟩
  | .BK_CRCP => ⟨0x60040, [(4, 0x4000), (2, 0x20), (4, 0x8)], true, [F.BK_CRCP_POLY]⟩
  | .BK_CRCC => ⟨0x60044, [(4, 0x4000), (2, 0x20), (4, 0x8)], true, [F.BK_CRCC_REFL, F.BK_CRCC_WID]⟩
  | .BK_TCFG => ⟨0x60100, [(4, 0x4000), (16, 0x40)], false, [F.BK_TCFG_EN, F.BK_TCFG_CLASS, F.BK_TCFG_OWNQ, F.BK_TCFG_RELEN, F.BK_TCFG_RELOFS]⟩
  | .BK_TENTRY => ⟨0x60104, [(4, 0x4000), (16, 0x40)], false, [F.BK_TENTRY_ENTRY]⟩
  | .BK_BUDGET => ⟨0x60108, [(4, 0x4000), (16, 0x40)], false, [F.BK_BUDGET_BUDGET]⟩
  | .BK_ADMIT => ⟨0x6010C, [(4, 0x4000), (16, 0x40)], false, [F.BK_ADMIT_NA, F.BK_ADMIT_MT, F.BK_ADMIT_WCET]⟩
  | .BK_USED => ⟨0x60110, [(4, 0x4000), (16, 0x40)], false, [F.BK_USED_USED]⟩
  | .BK_OVERRUN => ⟨0x60114, [(4, 0x4000), (16, 0x40)], false, [F.BK_OVERRUN_OVN]⟩
  | .BK_TSTAT => ⟨0x60118, [(4, 0x4000), (16, 0x40)], false, [F.BK_TSTAT_LOST, F.BK_TSTAT_ADMIT_BROKEN, F.BK_TSTAT_ADMITX, F.BK_TSTAT_CONC, F.BK_TSTAT_TCM_EXIT, F.BK_TSTAT_PEND, F.BK_TSTAT_STATE, F.BK_TSTAT_RSD, F.BK_TSTAT_DSD]⟩
  | .BK_TPC => ⟨0x6011C, [(4, 0x4000), (16, 0x40)], false, [F.BK_TPC_PC]⟩
  | .BK_FCODE => ⟨0x60120, [(4, 0x4000), (16, 0x40)], false, [F.BK_FCODE_SPLIT, F.BK_FCODE_FIRSTW, F.BK_FCODE_CODE]⟩
  | .BK_FPC => ⟨0x60124, [(4, 0x4000), (16, 0x40)], false, [F.BK_FPC_ADDR]⟩
  | .BK_FADDR0 => ⟨0x60128, [(4, 0x4000), (16, 0x40)], false, [F.BK_FADDR0_ADDR]⟩
  | .BK_FADDR1 => ⟨0x6012C, [(4, 0x4000), (16, 0x40)], false, [F.BK_FADDR1_ADDR]⟩
  | .FP_CFG => ⟨0x80000, [(32, 0x400)], true, [F.FP_CFG_FLEN, F.FP_CFG_WLEN, F.FP_CFG_SXT, F.FP_CFG_LSBF, F.FP_CFG_CMODE, F.FP_CFG_ROLE, F.FP_CFG_EN]⟩
  | .FP_CLK => ⟨0x80004, [(32, 0x400)], true, [F.FP_CLK_RXDLY, F.FP_CLK_DIVK]⟩
  | .FP_SEL => ⟨0x80008, [(32, 0x400)], true, [F.FP_SEL_TRAIL, F.FP_SEL_SELREL, F.FP_SEL_SELCHK, F.FP_SEL_SELPOL, F.FP_SEL_SELPIN]⟩
  | .FP_RPL => ⟨0x8000C, [(32, 0x400)], true, [F.FP_RPL_FILL, F.FP_RPL_RPLOFS]⟩
  | .FP_CMD => ⟨0x80010, [(32, 0x400)], false, [F.FP_CMD_DISCARD, F.FP_CMD_ARM, F.FP_CMD_GO]⟩
  | .FP_STATUS => ⟨0x80014, [(32, 0x400)], false, [F.FP_STATUS_CFGREJ, F.FP_STATUS_CMDREF, F.FP_STATUS_OFSP, F.FP_STATUS_REJ, F.FP_STATUS_SKIP, F.FP_STATUS_PEND, F.FP_STATUS_ARMED, F.FP_STATUS_BUSY, F.FP_STATUS_ACT]⟩
  | .FP_ERR => ⟨0x80018, [(32, 0x400)], false, [F.FP_ERR_PRIME, F.FP_ERR_CMDLOST, F.FP_ERR_NOSEL, F.FP_ERR_SKIPN]⟩
  | .FP_DROP => ⟨0x8001C, [(32, 0x400)], false, [F.FP_DROP_CUT, F.FP_DROP_DROPN]⟩
  | .FP_TSTAT => ⟨0x80020, [(32, 0x400)], false, [F.FP_TSTAT_RJCAUSE, F.FP_TSTAT_TSEQ]⟩
  | .FP_RJCNT => ⟨0x80024, [(32, 0x400)], false, [F.FP_RJCNT_RJLONG, F.FP_RJCNT_RJPART]⟩
  | .FP_TCNT => ⟨0x80028, [(32, 0x400)], false, [F.FP_TCNT_LATERPL, F.FP_TCNT_EMPTY]⟩
  | .FP_IDLEPAT => ⟨0x80030, [(32, 0x400)], false, [F.FP_IDLEPAT_PAT]⟩
  | .FP_REJPAT => ⟨0x80034, [(32, 0x400)], false, [F.FP_REJPAT_PAT]⟩
  | .FP_LAUNCH => ⟨0x80040, [(32, 0x400), (8, 0x4)], true, [F.FP_LAUNCH_EN, F.FP_LAUNCH_OFS5]⟩
  | .FP_TXBUF => ⟨0x80100, [(32, 0x400), (192, 0x4)], false, [F.FP_TXBUF_TXW]⟩
  | .TW_CFG => ⟨0x90000, [(8, 0x400)], true, [F.TW_CFG_OWNADDR, F.TW_CFG_OWN10, F.TW_CFG_FILT, F.TW_CFG_IBREN, F.TW_CFG_RATE, F.TW_CFG_ROLE, F.TW_CFG_EN]⟩
  | .TW_TO => ⟨0x90004, [(8, 0x400)], true, [F.TW_TO_AUTOCLR, F.TW_TO_SDATO, F.TW_TO_SCLTO]⟩
  | .TW_CLR => ⟨0x90008, [(8, 0x400)], true, [F.TW_CLR_PWRWAIT, F.TW_CLR_PWRT, F.TW_CLR_AUTOPWR, F.TW_CLR_PWRPOL, F.TW_CLR_PWRPIN]⟩
  | .TW_XCFG => ⟨0x90010, [(8, 0x400)], false, [F.TW_XCFG_RETRY, F.TW_XCFG_RLEN, F.TW_XCFG_WLEN, F.TW_XCFG_A10, F.TW_XCFG_ADDR]⟩
  | .TW_CMD => ⟨0x90014, [(8, 0x400)], false, [F.TW_CMD_UNREQ, F.TW_CMD_REQ, F.TW_CMD_PRST, F.TW_CMD_CLEAR, F.TW_CMD_GO]⟩
  | .TW_STATUS => ⟨0x90018, [(8, 0x400)], false, [F.TW_STATUS_CMDREF, F.TW_STATUS_STUCK, F.TW_STATUS_CLRD, F.TW_STATUS_SDALTO, F.TW_STATUS_SCLLTO, F.TW_STATUS_HANG, F.TW_STATUS_PEND, F.TW_STATUS_BUSY, F.TW_STATUS_XACT, F.TW_STATUS_ACT]⟩
  | .TW_XSTAT => ⟨0x9001C, [(8, 0x400)], false, [F.TW_XSTAT_TRIES, F.TW_XSTAT_BITI, F.TW_XSTAT_BYTEI, F.TW_XSTAT_CODE]⟩
  | .TW_CNT => ⟨0x90020, [(8, 0x400)], false, [F.TW_CNT_NOREPLY, F.TW_CNT_CMDLOST, F.TW_CNT_NACKN, F.TW_CNT_ARBL]⟩
  | .TW_IBR => ⟨0x90024, [(8, 0x400)], false, [F.TW_IBR_HANGN, F.TW_IBR_NOANS, F.TW_IBR_SPUR, F.TW_IBR_REQN]⟩
  | .TW_TGT => ⟨0x90028, [(8, 0x400)], false, [F.TW_TGT_ARM, F.TW_TGT_TLEN]⟩
  | .TW_TXBUF => ⟨0x90040, [(8, 0x400), (8, 0x4)], false, [F.TW_TXBUF_BYTES]⟩
  | .TW_TGTBUF => ⟨0x90060, [(8, 0x400), (8, 0x4)], false, [F.TW_TGTBUF_BYTES]⟩
  | .RG_CFG => ⟨0xA0000, [], true, [F.RG_CFG_TCEN, F.RG_CFG_ADDR, F.RG_CFG_PMASTER, F.RG_CFG_UPP, F.RG_CFG_PERS]⟩
  | .RG_CYC => ⟨0xA0004, [], true, [F.RG_CYC_MODE, F.RG_CYC_KM1, F.RG_CYC_CSOFS]⟩
  | .RG_KERB => ⟨0xA0008, [], true, [F.RG_KERB_RLYT, F.RG_KERB_KOFS, F.RG_KERB_OPEN]⟩
  | .RG_CMD => ⟨0xA0010, [], false, [F.RG_CMD_KCLOSE, F.RG_CMD_BELL1, F.RG_CMD_BELL0]⟩
  | .RG_STATUS => ⟨0xA0014, [], false, [F.RG_STATUS_CMDREF, F.RG_STATUS_BELLACT, F.RG_STATUS_CFGERR, F.RG_STATUS_DJUMP, F.RG_STATUS_CSLATE, F.RG_STATUS_CSLOST, F.RG_STATUS_LCHG, F.RG_STATUS_KCHG, F.RG_STATUS_RXL1, F.RG_STATUS_RXL0]⟩
  | .RG_KSTAT => ⟨0xA0018, [], false, [F.RG_KSTAT_KTRN, F.RG_KSTAT_CAUSE, F.RG_KSTAT_KST]⟩
  | .RG_CYCN => ⟨0xA0020, [], false, [F.RG_CYCN_V]⟩
  | .RG_RTT => ⟨0xA0024, [], false, [F.RG_RTT_V]⟩
  | .RG_DELAY => ⟨0xA0028, [], false, [F.RG_DELAY_V]⟩
  | .RG_CAL => ⟨0xA002C, [], false, [F.RG_CAL_RXLAT, F.RG_CAL_TXLAT]⟩
  | .RG_ERR0 => ⟨0xA0030, [], false, [F.RG_ERR0_CRCERR, F.RG_ERR0_CODEERR, F.RG_ERR0_ORPHAN, F.RG_ERR0_CSMISS]⟩
  | .RG_ERR1 => ⟨0xA0034, [], false, [F.RG_ERR1_SLOTCOL, F.RG_ERR1_FWDDROP, F.RG_ERR1_SLOTSKIP, F.RG_ERR1_NOCSM]⟩
  | .RG_SLOT => ⟨0xA0100, [(8, 0x4)], true, [F.RG_SLOT_EN, F.RG_SLOT_LEN, F.RG_SLOT_OFS8]⟩
  | .RG_SLOTCMD => ⟨0xA0120, [], false, [F.RG_SLOTCMD_POST]⟩
  | .RG_RXF => ⟨0xA0200, [(64, 0x4)], true, [F.RG_RXF_EN, F.RG_RXF_SRCADR, F.RG_RXF_ALLS, F.RG_RXF_SLOT]⟩
  | .RG_PTPCFG => ⟨0xA0400, [(2, 0x40)], true, [F.RG_PTPCFG_EN, F.RG_PTPCFG_DOM, F.RG_PTPCFG_SYNCLOG, F.RG_PTPCFG_ANNLOG, F.RG_PTPCFG_STEP, F.RG_PTPCFG_PORT, F.RG_PTPCFG_ROLE]⟩
  | .RG_PTPSTAT => ⟨0xA0404, [(2, 0x40)], false, [F.RG_PTPSTAT_SYNCN, F.RG_PTPSTAT_SEQ]⟩
  | .RG_PTPANN => ⟨0xA0408, [(2, 0x40)], true, [F.RG_PTPANN_ANN]⟩
  | .RG_PTPUTC => ⟨0xA040C, [(2, 0x40)], true, [F.RG_PTPUTC_UTCV, F.RG_PTPUTC_UTCO]⟩
  | .RG_CLKID_LO => ⟨0xA0480, [], true, [F.RG_CLKID_LO_ID]⟩
  | .RG_CLKID_HI => ⟨0xA0484, [], true, [F.RG_CLKID_HI_ID]⟩
  | .RG_MAC_LO => ⟨0xA0488, [], true, [F.RG_MAC_LO_ID]⟩
  | .RG_MAC_HI => ⟨0xA048C, [], true, [F.RG_MAC_HI_ID]⟩
  | .RG_ETHERR => ⟨0xA0490, [], false, [F.RG_ETHERR_FCSERR, F.RG_ETHERR_DROPOWN, F.RG_ETHERR_UNSUP, F.RG_ETHERR_PDTO]⟩
  | .RG_PDCFG => ⟨0xA04A0, [(2, 0x8)], true, [F.RG_PDCFG_EN, F.RG_PDCFG_PDLOG]⟩
  | .RG_PDLY => ⟨0xA04A4, [(2, 0x8)], false, [F.RG_PDLY_VAL, F.RG_PDLY_DLY]⟩
  | .RG_SLOTBUF => ⟨0xA1000, [(8, 0x100), (64, 0x4)], false, [F.RG_SLOTBUF_W]⟩
  | .HL_CFG => ⟨0xB0000, [(2, 0x8000)], true, [F.HL_CFG_FIXTAB, F.HL_CFG_AUTOTAB, F.HL_CFG_RAMPN, F.HL_CFG_NUP, F.HL_CFG_NDN, F.HL_CFG_ROLE, F.HL_CFG_EN]⟩
  | .HL_LAYOUT => ⟨0xB0004, [(2, 0x8000)], true, [F.HL_LAYOUT_UGAP, F.HL_LAYOUT_SFOFS]⟩
  | .HL_RAMPLV0 => ⟨0xB0008, [(2, 0x8000)], true, [F.HL_RAMPLV0_LV4, F.HL_RAMPLV0_LV3, F.HL_RAMPLV0_LV2, F.HL_RAMPLV0_LV1]⟩
  | .HL_RAMPLV1 => ⟨0xB000C, [(2, 0x8000)], true, [F.HL_RAMPLV1_LV7, F.HL_RAMPLV1_LV6, F.HL_RAMPLV1_LV5]⟩
  | .HL_PA => ⟨0xB0010, [(2, 0x8000)], true, [F.HL_PA_PALEAD, F.HL_PA_PAON, F.HL_PA_PAOFF]⟩
  | .HL_TX => ⟨0xB0014, [(2, 0x8000)], true, [F.HL_TX_TXLVL]⟩
  | .HL_LINK => ⟨0xB0018, [(2, 0x8000)], true, [F.HL_LINK_PRBINT, F.HL_LINK_SRCH, F.HL_LINK_NLOSS]⟩
  | .HL_ASYM => ⟨0xB001C, [(2, 0x8000)], true, [F.HL_ASYM_ASYM]⟩
  | .HL_SECT => ⟨0xB0020, [(2, 0x8000)], true, [F.HL_SECT_AOFS, F.HL_SECT_HYS, F.HL_SECT_ASH]⟩
  | .HL_SECT2 => ⟨0xB0024, [(2, 0x8000)], true, [F.HL_SECT2_AWORD]⟩
  | .HL_CMD => ⟨0xB0030, [(2, 0x8000)], false, [F.HL_CMD_PRBNOW, F.HL_CMD_LRST, F.HL_CMD_BELL]⟩
  | .HL_STATUS => ⟨0xB0034, [(2, 0x8000)], false, [F.HL_STATUS_CMDREF, F.HL_STATUS_BELLACT, F.HL_STATUS_LINKCHG, F.HL_STATUS_TBLMIS, F.HL_STATUS_NOFIT, F.HL_STATUS_BASEU, F.HL_STATUS_UTAB, F.HL_STATUS_DTAB, F.HL_STATUS_STATE]⟩
  | .HL_DELAY => ⟨0xB0038, [(2, 0x8000)], false, [F.HL_DELAY_DVAL, F.HL_DELAY_DELAY]⟩
  | .HL_TURN => ⟨0xB003C, [(2, 0x8000)], false, [F.HL_TURN_TURN]⟩
  | .HL_ERR => ⟨0xB0040, [(2, 0x8000)], false, [F.HL_ERR_TBLMISN, F.HL_ERR_SFSKIP, F.HL_ERR_HDRLOST, F.HL_ERR_CWFAIL]⟩
  | .HL_ERR2 => ⟨0xB0044, [(2, 0x8000)], false, [F.HL_ERR2_MGMTUNK, F.HL_ERR2_DROPSEG, F.HL_ERR2_CWCORR]⟩
  | .HL_CAL => ⟨0xB0048, [(2, 0x8000)], false, [F.HL_CAL_RXLAT, F.HL_CAL_TXLAT]⟩
  | .HL_TBLCMD => ⟨0xB0050, [(2, 0x8000)], false, [F.HL_TBLCMD_GO, F.HL_TBLCMD_DIR, F.HL_TBLCMD_TAB]⟩
  | .HL_TBLSTAT => ⟨0xB0054, [(2, 0x8000)], false, [F.HL_TBLSTAT_SFNEFF, F.HL_TBLSTAT_ST]⟩
  | .HL_TBLSHD => ⟨0xB0F00, [(2, 0x8000), (36, 0x4)], false, [F.HL_TBLSHD_CODES]⟩
  | .HL_TBL => ⟨0xB1000, [(2, 0x8000), (2, 0x800), (8, 0x100), (36, 0x4)], false, [F.HL_TBL_CODES]⟩
  | .HL_SNR => ⟨0xB2000, [(2, 0x8000), (2, 0x1000), (8, 0x200), (90, 0x4)], false, [F.HL_SNR_SNR]⟩
  | .HP_LSTAT => ⟨0xC0000, [(2, 0x4)], false, [F.HP_LSTAT_DLUP, F.HP_LSTAT_LST, F.HP_LSTAT_SPD]⟩
  | .HP_SUPQ => ⟨0xC0010, [], false, [F.HP_SUPQ_MODEPERM, F.HP_SUPQ_SUPQ]⟩
  | .HP_QSTAT => ⟨0xC1000, [(4, 0x1000)], false, [F.HP_QSTAT_RDTO, F.HP_QSTAT_UPEND, F.HP_QSTAT_LATEDONE, F.HP_QSTAT_WDEXP, F.HP_QSTAT_NOVF, F.HP_QSTAT_CMDERR, F.HP_QSTAT_FLT, F.HP_QSTAT_QRDONE, F.HP_QSTAT_QRP, F.HP_QSTAT_ACT]⟩
  | .HP_FLTADDR => ⟨0xC1004, [(4, 0x1000)], false, [F.HP_FLTADDR_W, F.HP_FLTADDR_THR, F.HP_FLTADDR_OFS]⟩
  | .HP_CPI => ⟨0xC1010, [(4, 0x1000)], false, [F.HP_CPI_IDX]⟩
  | .HP_CCI => ⟨0xC1014, [(4, 0x1000)], false, [F.HP_CCI_IDX]⟩
  | .HP_RPI => ⟨0xC1018, [(4, 0x1000)], false, [F.HP_RPI_IDX]⟩
  | .HP_NPI => ⟨0xC1020, [(4, 0x1000)], false, [F.HP_NPI_IDX]⟩
  | .HP_NCI => ⟨0xC1024, [(4, 0x1000)], false, [F.HP_NCI_IDX]⟩
  | .HP_NLOST => ⟨0xC1028, [(4, 0x1000)], false, [F.HP_NLOST_N]⟩
  | .HP_VMAP => ⟨0xC1030, [(4, 0x1000)], false, [F.HP_VMAP_NOTV, F.HP_VMAP_CMDV]⟩
  | .HP_WDOG => ⟨0xC1040, [(4, 0x1000)], false, [F.HP_WDOG_ACTION, F.HP_WDOG_PERIOD]⟩
  | .HP_WDKICK => ⟨0xC1044, [(4, 0x1000)], false, [F.HP_WDKICK_KEY]⟩
  | .HP_WDCNT => ⟨0xC1048, [(4, 0x1000)], false, [F.HP_WDCNT_CNT]⟩
  | .HP_DRCFG => ⟨0xC1100, [(4, 0x1000), (16, 0x10)], false, [F.HP_DRCFG_EN, F.HP_DRCFG_VEC, F.HP_DRCFG_ARC]⟩
  | .HP_DRPI => ⟨0xC1104, [(4, 0x1000), (16, 0x10)], false, [F.HP_DRPI_IDX]⟩
  | .HP_DRCI => ⟨0xC1108, [(4, 0x1000), (16, 0x10)], false, [F.HP_DRCI_IDX]⟩
  | .HP_DRST => ⟨0xC110C, [(4, 0x1000), (16, 0x10)], false, [F.HP_DRST_CAUSE, F.HP_DRST_OVR, F.HP_DRST_ERR]⟩
  | .HP_UCMD => ⟨0xC1200, [(4, 0x1000), (16, 0x4)], false, [F.HP_UCMD_W]⟩
  | .HP_URSP => ⟨0xC1240, [(4, 0x1000), (16, 0x4)], false, [F.HP_URSP_W]⟩
  | .HP_UDONE => ⟨0xC1280, [(4, 0x1000)], false, [F.HP_UDONE_ST]⟩
  | .HP_UCFG => ⟨0xC1284, [(4, 0x1000)], false, [F.HP_UCFG_EN, F.HP_UCFG_UENT, F.HP_UCFG_UTHR, F.HP_UCFG_UCTO]⟩
  | .HP_QQUOTA => ⟨0xC1300, [(4, 0x1000)], false, [F.HP_QQUOTA_LLH, F.HP_QQUOTA_XCN, F.HP_QQUOTA_LLQ, F.HP_QQUOTA_XCQ]⟩
  | .MP0_CFG => ⟨0xD0000, [], false, [F.MP0_CFG_RDCMD, F.MP0_CFG_MODEB, F.MP0_CFG_DUMMY, F.MP0_CFG_CONT, F.MP0_CFG_PREF, F.MP0_CFG_SIZE, F.MP0_CFG_SDIV]⟩
  | .MP0_CTL => ⟨0xD0004, [], false, [F.MP0_CTL_INVPF, F.MP0_CTL_HOLD]⟩
  | .MP0_STAT => ⟨0xD0008, [], false, [F.MP0_STAT_MISS, F.MP0_STAT_CMDREF, F.MP0_STAT_RAWBUSY, F.MP0_STAT_CONTA]⟩
  | .MP0_RAWCMD => ⟨0xD0010, [], false, [F.MP0_RAWCMD_GO, F.MP0_RAWCMD_DIR, F.MP0_RAWCMD_ALEN, F.MP0_RAWCMD_DUMMY, F.MP0_RAWCMD_LINE1, F.MP0_RAWCMD_LEN, F.MP0_RAWCMD_OPC]⟩
  | .MP0_RAWADDR => ⟨0xD0014, [], false, [F.MP0_RAWADDR_V]⟩
  | .MP0_RAWBUF => ⟨0xD0100, [(64, 0x4)], false, [F.MP0_RAWBUF_V]⟩
  | .MP1_CFG => ⟨0xD1000, [], false, [F.MP1_CFG_CWLEN, F.MP1_CFG_PG8, F.MP1_CFG_PPB, F.MP1_CFG_D1, F.MP1_CFG_WID8]⟩
  | .MP1_GEOM => ⟨0xD1004, [], false, [F.MP1_GEOM_BBTMAX, F.MP1_GEOM_NBLK]⟩
  | .MP1_OPS0 => ⟨0xD1008, [], false, [F.MP1_OPS0_PEXEC, F.MP1_OPS0_PLOAD, F.MP1_OPS0_RDCACHE, F.MP1_OPS0_PGRD]⟩
  | .MP1_OPS1 => ⟨0xD100C, [], false, [F.MP1_OPS1_SADDR, F.MP1_OPS1_WREN, F.MP1_OPS1_GETF, F.MP1_OPS1_ERASE]⟩
  | .MP1_CMD => ⟨0xD1010, [], false, [F.MP1_CMD_GO, F.MP1_CMD_OP, F.MP1_CMD_BLOCK, F.MP1_CMD_PAGE]⟩
  | .MP1_STAT => ⟨0xD1014, [], false, [F.MP1_STAT_ST, F.MP1_STAT_MAXC, F.MP1_STAT_NFAIL, F.MP1_STAT_CMDREF, F.MP1_STAT_ENC, F.MP1_STAT_BUSY]⟩
  | .MP1_CWFAIL0 => ⟨0xD1018, [], false, [F.MP1_CWFAIL0_V]⟩
  | .MP1_CWFAIL1 => ⟨0xD101C, [], false, [F.MP1_CWFAIL1_V]⟩
  | .MP1_ECNT => ⟨0xD1020, [], false, [F.MP1_ECNT_V]⟩
  | .MP1_ECNTDEF => ⟨0xD1024, [], false, [F.MP1_ECNTDEF_V]⟩
  | .MP1_EPEND => ⟨0xD1028, [], false, [F.MP1_EPEND_N]⟩
  | .MP1_POLL => ⟨0xD102C, [], false, [F.MP1_POLL_TOUT, F.MP1_POLL_POLL]⟩
  | .MP1_BBTBLK => ⟨0xD1030, [], false, [F.MP1_BBTBLK_BBTV, F.MP1_BBTBLK_BLK]⟩
  | .MP1_PAT => ⟨0xD1040, [], false, [F.MP1_PAT_EN, F.MP1_PAT_PTHR, F.MP1_PAT_PINT]⟩
  | .MP1_PATPOS => ⟨0xD1044, [], false, [F.MP1_PATPOS_BLOCK, F.MP1_PATPOS_PAGE]⟩
  | .MP1_PATRES => ⟨0xD1048, [], false, [F.MP1_PATRES_VALID, F.MP1_PATRES_UNC, F.MP1_PATRES_MAXC, F.MP1_PATRES_BLOCK, F.MP1_PATRES_PAGE]⟩
  | .MP1_PATSTAT => ⟨0xD104C, [], false, [F.MP1_PATSTAT_PASSN, F.MP1_PATSTAT_LOSTN, F.MP1_PATSTAT_LVL]⟩
  | .MP1_TATCFG => ⟨0xD1050, [], false, [F.MP1_TATCFG_EN, F.MP1_TATCFG_TATINV, F.MP1_TATCFG_SLPBIN]⟩
  | .MP1_TAT_LO => ⟨0xD1054, [], false, [F.MP1_TAT_LO_TAT]⟩
  | .MP1_TAT_HI => ⟨0xD1058, [], false, [F.MP1_TAT_HI_TAT]⟩
  | .MP1_TATW => ⟨0xD1060, [(16, 0x4)], false, [F.MP1_TATW_W]⟩
  | .MP1_PGBUF => ⟨0xD4000, [(2176, 0x4)], false, [F.MP1_PGBUF_V]⟩
  | .MP1_BBT => ⟨0xD8000, [(2048, 0x4)], false, [F.MP1_BBT_V]⟩
  | .MP_ECC_CFG => ⟨0xDC000, [], false, [F.MP_ECC_CFG_SEN, F.MP_ECC_CFG_SCRN]⟩
  | .MP_ECC_STAT => ⟨0xDC004, [], false, [F.MP_ECC_STAT_LASTREG, F.MP_ECC_STAT_PWD, F.MP_ECC_STAT_UNC, F.MP_ECC_STAT_CORR, F.MP_ECC_STAT_PASS]⟩
  | .MP_ECC_LASTADDR => ⟨0xDC008, [], false, [F.MP_ECC_LASTADDR_WIDX]⟩
  | .MP_ECC_INJ => ⟨0xDC010, [], false, [F.MP_ECC_INJ_ARM, F.MP_ECC_INJ_REGION, F.MP_ECC_INJ_NIBMASK]⟩
  | .MP_PSNCLR => ⟨0xDC014, [], false, [F.MP_PSNCLR_REGION, F.MP_PSNCLR_WIDX]⟩
  | .MP_ECC_CNT => ⟨0xDC040, [(15, 0x4)], false, [F.MP_ECC_CNT_CORR, F.MP_ECC_CNT_UNC, F.MP_ECC_CNT_PSNRD]⟩
  | .PM_CFG => ⟨0xE0000, [], false, [F.PM_CFG_DOZAX, F.PM_CFG_HLTO]⟩
  | .PM_STATUS => ⟨0xE0004, [], false, [F.PM_STATUS_REQREF, F.PM_STATUS_TWARN, F.PM_STATUS_OOR, F.PM_STATUS_LPREG, F.PM_STATUS_DOM]⟩
  | .PM_MON => ⟨0xE0008, [], false, [F.PM_MON_VCORE, F.PM_MON_TJ]⟩
  | .PM_MON2 => ⟨0xE000C, [], false, [F.PM_MON2_ILDO, F.PM_MON2_VIN]⟩
  | .PM_TWARN => ⟨0xE0010, [], false, [F.PM_TWARN_TW]⟩
  | .PM_MODEREQ => ⟨0xE0014, [], false, [F.PM_MODEREQ_TGT]⟩
  | .PM_AON_CFG => ⟨0xE0800, [], false, [F.PM_AON_CFG_WPROF, F.PM_AON_CFG_CWTGT]⟩
  | .PM_AON_WKEN => ⟨0xE0804, [], false, [F.PM_AON_WKEN_WATCHEN, F.PM_AON_WKEN_CURFEN]⟩
  | .PM_AON_WKSTAT => ⟨0xE0808, [], false, [F.PM_AON_WKSTAT_PEND, F.PM_AON_WKSTAT_PIN, F.PM_AON_WKSTAT_SRC]⟩
  | .PM_AON_WKCNT_LO => ⟨0xE0810, [], false, [F.PM_AON_WKCNT_LO_CNT]⟩
  | .PM_AON_WKCNT_HI => ⟨0xE0814, [], false, [F.PM_AON_WKCNT_HI_CNT]⟩
  | .PM_AON_CNT_LO => ⟨0xE0818, [], false, [F.PM_AON_CNT_LO_CNT]⟩
  | .PM_AON_CNT_HI => ⟨0xE081C, [], false, [F.PM_AON_CNT_HI_CNT]⟩
  | .PM_AON_ALARM_LO => ⟨0xE0820, [(2, 0x8)], false, [F.PM_AON_ALARM_LO_ALM]⟩
  | .PM_AON_ALARM_HI => ⟨0xE0824, [(2, 0x8)], false, [F.PM_AON_ALARM_HI_ALM]⟩
  | .PM_AON_CWIN_W0 => ⟨0xE0830, [], false, [F.PM_AON_CWIN_W0_MS]⟩
  | .PM_AON_CWIN_W1 => ⟨0xE0834, [], false, [F.PM_AON_CWIN_W1_MS]⟩
  | .PM_AON_CWIN_W2 => ⟨0xE0838, [], false, [F.PM_AON_CWIN_W2_MS]⟩
  | .PM_AON_RSTCAUSE => ⟨0xE0840, [], false, [F.PM_AON_RSTCAUSE_WDQ, F.PM_AON_RSTCAUSE_ARST, F.PM_AON_RSTCAUSE_CMD, F.PM_AON_RSTCAUSE_WDOG, F.PM_AON_RSTCAUSE_BOR, F.PM_AON_RSTCAUSE_PIN, F.PM_AON_RSTCAUSE_POR]⟩
  | .PM_AON_SAFE => ⟨0xE0844, [], false, [F.PM_AON_SAFE_ARST, F.PM_AON_SAFE_ARSTN, F.PM_AON_SAFE_N, F.PM_AON_SAFE_CAUSE]⟩
  | .PM_AON_WKPIN => ⟨0xE0900, [(128, 0x4)], false, [F.PM_AON_WKPIN_TYPE, F.PM_AON_WKPIN_WEN, F.PM_AON_WKPIN_CEN]⟩
  | .LC_STATE => ⟨0xF0000, [], false, [F.LC_STATE_TOPEN, F.LC_STATE_DBGO, F.LC_STATE_KEYV, F.LC_STATE_SLOT, F.LC_STATE_STATE]⟩
  | .LC_UID_LO => ⟨0xF0004, [], false, [F.LC_UID_LO_V]⟩
  | .LC_UID_HI => ⟨0xF0008, [], false, [F.LC_UID_HI_V]⟩
  | .LC_NONCE => ⟨0xF000C, [], false, [F.LC_NONCE_V]⟩
  | .LC_CMD => ⟨0xF0010, [], false, [F.LC_CMD_KEY, F.LC_CMD_OP]⟩
  | .LC_STATUS => ⟨0xF0014, [], false, [F.LC_STATUS_RES, F.LC_STATUS_SCRP, F.LC_STATUS_BUSY]⟩
  | .LC_KEYBUF => ⟨0xF0040, [(16, 0x4)], false, [F.LC_KEYBUF_W]⟩
  | .LC_TOKEN => ⟨0xF0080, [(20, 0x4)], false, [F.LC_TOKEN_W]⟩
  | .LC_DBGCTL => ⟨0xF00D0, [], false, [F.LC_DBGCTL_BKEN, F.LC_DBGCTL_RESUME, F.LC_DBGCTL_HALTREQ]⟩
  | .LC_DBGSTAT => ⟨0xF00D4, [], false, [F.LC_DBGSTAT_REF, F.LC_DBGSTAT_HALTED]⟩
  | .GP_IN => ⟨0x100000, [(3, 0x4)], false, [F.GP_IN_IN]⟩
  | .GP_OUT => ⟨0x100010, [(3, 0x4)], false, [F.GP_OUT_OUT]⟩
  | .GP_OUTSET => ⟨0x100020, [(3, 0x4)], false, [F.GP_OUTSET_SET]⟩
  | .GP_OUTCLR => ⟨0x100030, [(3, 0x4)], false, [F.GP_OUTCLR_CLR]⟩
  | .GP_OE => ⟨0x100040, [(3, 0x4)], false, [F.GP_OE_OE]⟩
  | .GP_CFG => ⟨0x100100, [(96, 0x4)], true, [F.GP_CFG_OD, F.GP_CFG_PULL, F.GP_CFG_FUNC]⟩

/-- The control blocks of R19, and GP. -/
inductive Blk where
  | SYS | CT | LL | PZ | XC | ARC | BK | FP | TW | RG | HL | HP | MP | PM | LC | GP
deriving DecidableEq, Repr

/-- The registers of block SYS. -/
def regsSYS : List Reg :=
  [.SYS_ID, .SYS_MODE, .SYS_STATUS, .SYS_BOOT, .SYS_LOADERR, .SYS_LOADOFS, .SYS_MAPID, .SYS_PROF, .SYS_PROFCMD, .SYS_PUSHCTL, .SYS_PUSHSTAT]

/-- The registers of block CT. -/
def regsCT : List Reg :=
  [.CT_CTRL, .CT_SLEW, .CT_STATUS, .CT_LT_W0, .CT_LT_W1, .CT_LT_W2, .CT_LT_FRAC, .CT_DOFF_LO, .CT_DOFF_HI, .CT_AON_CFG, .CT_AON_DRIFT, .CT_AON_CAL_LO, .CT_AON_CAL_HI, .CT_WAKE_LT_LO, .CT_WAKE_LT_HI, .CT_WAKE_DAON_LO, .CT_WAKE_DAON_HI, .CT_WAKE_UNC, .CT_WAKE_STAT, .CT_INCR_LO, .CT_INCR_HI, .CT_DT_W0, .CT_DT_W1, .CT_SRV_CFG, .CT_SRV_KP, .CT_SRV_KI, .CT_SRV_LIM, .CT_SRV_STEP, .CT_SRV_MINT, .CT_SRV_LOCK, .CT_SRV_OFS, .CT_SRV_FREQ, .CT_SRV_INTG, .CT_SRV_STAT, .CT_TICK_PERIOD, .CT_TICK_PHASE, .CT_TICK_POS, .CT_TICK_CNT_LO, .CT_TICK_CNT_HI, .CT_TICK_NEXT_LO, .CT_TICK_NEXT_HI, .CT_TICK_SKIP, .CT_TICK_STATUS]

/-- The registers of block LL. -/
def regsLL : List Reg :=
  [.LL_CFG, .LL_WIDTH, .LL_PER, .LL_CNT, .LL_ARMT_LO, .LL_ARMT_HI, .LL_CMD, .LL_STAT, .LL_NEXT_LO, .LL_NEXT_HI, .LL_CNTS, .LL_CAPCFG, .LL_CAPSTAT]

/-- The registers of block PZ. -/
def regsPZ : List Reg :=
  [.PZ_CFG, .PZ_STATUS, .PZ_UNROUTED, .PZ_AMAX, .PZ_RSRC, .PZ_RDST]

/-- The registers of block XC. -/
def regsXC : List Reg :=
  [.XC_STATUS, .XC_DROP, .XC_EVMAX, .XC_LOAD, .XC_CFG, .XC_INA, .XC_INB, .XC_P0, .XC_P1, .XC_P2, .XC_P3, .XC_OUT, .XC_ACT, .XC_ARMOFS, .XC_STAT, .XC_CNT, .XC_VAL, .XC_CMD, .XC_PMCFG, .XC_PMSTAT]

/-- The registers of block ARC. -/
def regsARC : List Reg :=
  [.ARC_IDLEN0, .ARC_IDLEN1, .ARC_OVWN0, .ARC_OVWN1, .ARC_CFG, .ARC_REGION, .ARC_TIDLE, .ARC_QCAP, .ARC_LEVEL, .ARC_LIMIT, .ARC_LOST, .ARC_STAT, .ARC_CNT, .ARC_WPTR, .ARC_RPTR, .ARC_RLPTR, .ARC_CMD]

/-- The registers of block BK. -/
def regsBK : List Reg :=
  [.BK_CTL, .BK_STATUS, .BK_CMD, .BK_CNT0, .BK_CNT1, .BK_PAIRN, .BK_CRCP, .BK_CRCC, .BK_TCFG, .BK_TENTRY, .BK_BUDGET, .BK_ADMIT, .BK_USED, .BK_OVERRUN, .BK_TSTAT, .BK_TPC, .BK_FCODE, .BK_FPC, .BK_FADDR0, .BK_FADDR1]

/-- The registers of block FP. -/
def regsFP : List Reg :=
  [.FP_CFG, .FP_CLK, .FP_SEL, .FP_RPL, .FP_CMD, .FP_STATUS, .FP_ERR, .FP_DROP, .FP_TSTAT, .FP_RJCNT, .FP_TCNT, .FP_IDLEPAT, .FP_REJPAT, .FP_LAUNCH, .FP_TXBUF]

/-- The registers of block TW. -/
def regsTW : List Reg :=
  [.TW_CFG, .TW_TO, .TW_CLR, .TW_XCFG, .TW_CMD, .TW_STATUS, .TW_XSTAT, .TW_CNT, .TW_IBR, .TW_TGT, .TW_TXBUF, .TW_TGTBUF]

/-- The registers of block RG. -/
def regsRG : List Reg :=
  [.RG_CFG, .RG_CYC, .RG_KERB, .RG_CMD, .RG_STATUS, .RG_KSTAT, .RG_CYCN, .RG_RTT, .RG_DELAY, .RG_CAL, .RG_ERR0, .RG_ERR1, .RG_SLOT, .RG_SLOTCMD, .RG_RXF, .RG_PTPCFG, .RG_PTPSTAT, .RG_PTPANN, .RG_PTPUTC, .RG_CLKID_LO, .RG_CLKID_HI, .RG_MAC_LO, .RG_MAC_HI, .RG_ETHERR, .RG_PDCFG, .RG_PDLY, .RG_SLOTBUF]

/-- The registers of block HL. -/
def regsHL : List Reg :=
  [.HL_CFG, .HL_LAYOUT, .HL_RAMPLV0, .HL_RAMPLV1, .HL_PA, .HL_TX, .HL_LINK, .HL_ASYM, .HL_SECT, .HL_SECT2, .HL_CMD, .HL_STATUS, .HL_DELAY, .HL_TURN, .HL_ERR, .HL_ERR2, .HL_CAL, .HL_TBLCMD, .HL_TBLSTAT, .HL_TBLSHD, .HL_TBL, .HL_SNR]

/-- The registers of block HP. -/
def regsHP : List Reg :=
  [.HP_LSTAT, .HP_SUPQ, .HP_QSTAT, .HP_FLTADDR, .HP_CPI, .HP_CCI, .HP_RPI, .HP_NPI, .HP_NCI, .HP_NLOST, .HP_VMAP, .HP_WDOG, .HP_WDKICK, .HP_WDCNT, .HP_DRCFG, .HP_DRPI, .HP_DRCI, .HP_DRST, .HP_UCMD, .HP_URSP, .HP_UDONE, .HP_UCFG, .HP_QQUOTA]

/-- The registers of block MP. -/
def regsMP : List Reg :=
  [.MP0_CFG, .MP0_CTL, .MP0_STAT, .MP0_RAWCMD, .MP0_RAWADDR, .MP0_RAWBUF, .MP1_CFG, .MP1_GEOM, .MP1_OPS0, .MP1_OPS1, .MP1_CMD, .MP1_STAT, .MP1_CWFAIL0, .MP1_CWFAIL1, .MP1_ECNT, .MP1_ECNTDEF, .MP1_EPEND, .MP1_POLL, .MP1_BBTBLK, .MP1_PAT, .MP1_PATPOS, .MP1_PATRES, .MP1_PATSTAT, .MP1_TATCFG, .MP1_TAT_LO, .MP1_TAT_HI, .MP1_TATW, .MP1_PGBUF, .MP1_BBT, .MP_ECC_CFG, .MP_ECC_STAT, .MP_ECC_LASTADDR, .MP_ECC_INJ, .MP_PSNCLR, .MP_ECC_CNT]

/-- The registers of block PM. -/
def regsPM : List Reg :=
  [.PM_CFG, .PM_STATUS, .PM_MON, .PM_MON2, .PM_TWARN, .PM_MODEREQ, .PM_AON_CFG, .PM_AON_WKEN, .PM_AON_WKSTAT, .PM_AON_WKCNT_LO, .PM_AON_WKCNT_HI, .PM_AON_CNT_LO, .PM_AON_CNT_HI, .PM_AON_ALARM_LO, .PM_AON_ALARM_HI, .PM_AON_CWIN_W0, .PM_AON_CWIN_W1, .PM_AON_CWIN_W2, .PM_AON_RSTCAUSE, .PM_AON_SAFE, .PM_AON_WKPIN]

/-- The registers of block LC. -/
def regsLC : List Reg :=
  [.LC_STATE, .LC_UID_LO, .LC_UID_HI, .LC_NONCE, .LC_CMD, .LC_STATUS, .LC_KEYBUF, .LC_TOKEN, .LC_DBGCTL, .LC_DBGSTAT]

/-- The registers of block GP. -/
def regsGP : List Reg :=
  [.GP_IN, .GP_OUT, .GP_OUTSET, .GP_OUTCLR, .GP_OE, .GP_CFG]

/-- The registers of a block. -/
def Blk.regs : Blk → List Reg
  | .SYS => regsSYS
  | .CT => regsCT
  | .LL => regsLL
  | .PZ => regsPZ
  | .XC => regsXC
  | .ARC => regsARC
  | .BK => regsBK
  | .FP => regsFP
  | .TW => regsTW
  | .RG => regsRG
  | .HL => regsHL
  | .HP => regsHP
  | .MP => regsMP
  | .PM => regsPM
  | .LC => regsLC
  | .GP => regsGP

/-- The block that defines a register. -/
def Reg.blk : Reg → Blk
  | .SYS_ID | .SYS_MODE | .SYS_STATUS | .SYS_BOOT | .SYS_LOADERR | .SYS_LOADOFS | .SYS_MAPID | .SYS_PROF | .SYS_PROFCMD | .SYS_PUSHCTL | .SYS_PUSHSTAT => .SYS
  | .CT_CTRL | .CT_SLEW | .CT_STATUS | .CT_LT_W0 | .CT_LT_W1 | .CT_LT_W2 | .CT_LT_FRAC | .CT_DOFF_LO | .CT_DOFF_HI | .CT_AON_CFG | .CT_AON_DRIFT | .CT_AON_CAL_LO | .CT_AON_CAL_HI | .CT_WAKE_LT_LO | .CT_WAKE_LT_HI | .CT_WAKE_DAON_LO | .CT_WAKE_DAON_HI | .CT_WAKE_UNC | .CT_WAKE_STAT | .CT_INCR_LO | .CT_INCR_HI | .CT_DT_W0 | .CT_DT_W1 | .CT_SRV_CFG | .CT_SRV_KP | .CT_SRV_KI | .CT_SRV_LIM | .CT_SRV_STEP | .CT_SRV_MINT | .CT_SRV_LOCK | .CT_SRV_OFS | .CT_SRV_FREQ | .CT_SRV_INTG | .CT_SRV_STAT | .CT_TICK_PERIOD | .CT_TICK_PHASE | .CT_TICK_POS | .CT_TICK_CNT_LO | .CT_TICK_CNT_HI | .CT_TICK_NEXT_LO | .CT_TICK_NEXT_HI | .CT_TICK_SKIP | .CT_TICK_STATUS => .CT
  | .LL_CFG | .LL_WIDTH | .LL_PER | .LL_CNT | .LL_ARMT_LO | .LL_ARMT_HI | .LL_CMD | .LL_STAT | .LL_NEXT_LO | .LL_NEXT_HI | .LL_CNTS | .LL_CAPCFG | .LL_CAPSTAT => .LL
  | .PZ_CFG | .PZ_STATUS | .PZ_UNROUTED | .PZ_AMAX | .PZ_RSRC | .PZ_RDST => .PZ
  | .XC_STATUS | .XC_DROP | .XC_EVMAX | .XC_LOAD | .XC_CFG | .XC_INA | .XC_INB | .XC_P0 | .XC_P1 | .XC_P2 | .XC_P3 | .XC_OUT | .XC_ACT | .XC_ARMOFS | .XC_STAT | .XC_CNT | .XC_VAL | .XC_CMD | .XC_PMCFG | .XC_PMSTAT => .XC
  | .ARC_IDLEN0 | .ARC_IDLEN1 | .ARC_OVWN0 | .ARC_OVWN1 | .ARC_CFG | .ARC_REGION | .ARC_TIDLE | .ARC_QCAP | .ARC_LEVEL | .ARC_LIMIT | .ARC_LOST | .ARC_STAT | .ARC_CNT | .ARC_WPTR | .ARC_RPTR | .ARC_RLPTR | .ARC_CMD => .ARC
  | .BK_CTL | .BK_STATUS | .BK_CMD | .BK_CNT0 | .BK_CNT1 | .BK_PAIRN | .BK_CRCP | .BK_CRCC | .BK_TCFG | .BK_TENTRY | .BK_BUDGET | .BK_ADMIT | .BK_USED | .BK_OVERRUN | .BK_TSTAT | .BK_TPC | .BK_FCODE | .BK_FPC | .BK_FADDR0 | .BK_FADDR1 => .BK
  | .FP_CFG | .FP_CLK | .FP_SEL | .FP_RPL | .FP_CMD | .FP_STATUS | .FP_ERR | .FP_DROP | .FP_TSTAT | .FP_RJCNT | .FP_TCNT | .FP_IDLEPAT | .FP_REJPAT | .FP_LAUNCH | .FP_TXBUF => .FP
  | .TW_CFG | .TW_TO | .TW_CLR | .TW_XCFG | .TW_CMD | .TW_STATUS | .TW_XSTAT | .TW_CNT | .TW_IBR | .TW_TGT | .TW_TXBUF | .TW_TGTBUF => .TW
  | .RG_CFG | .RG_CYC | .RG_KERB | .RG_CMD | .RG_STATUS | .RG_KSTAT | .RG_CYCN | .RG_RTT | .RG_DELAY | .RG_CAL | .RG_ERR0 | .RG_ERR1 | .RG_SLOT | .RG_SLOTCMD | .RG_RXF | .RG_PTPCFG | .RG_PTPSTAT | .RG_PTPANN | .RG_PTPUTC | .RG_CLKID_LO | .RG_CLKID_HI | .RG_MAC_LO | .RG_MAC_HI | .RG_ETHERR | .RG_PDCFG | .RG_PDLY | .RG_SLOTBUF => .RG
  | .HL_CFG | .HL_LAYOUT | .HL_RAMPLV0 | .HL_RAMPLV1 | .HL_PA | .HL_TX | .HL_LINK | .HL_ASYM | .HL_SECT | .HL_SECT2 | .HL_CMD | .HL_STATUS | .HL_DELAY | .HL_TURN | .HL_ERR | .HL_ERR2 | .HL_CAL | .HL_TBLCMD | .HL_TBLSTAT | .HL_TBLSHD | .HL_TBL | .HL_SNR => .HL
  | .HP_LSTAT | .HP_SUPQ | .HP_QSTAT | .HP_FLTADDR | .HP_CPI | .HP_CCI | .HP_RPI | .HP_NPI | .HP_NCI | .HP_NLOST | .HP_VMAP | .HP_WDOG | .HP_WDKICK | .HP_WDCNT | .HP_DRCFG | .HP_DRPI | .HP_DRCI | .HP_DRST | .HP_UCMD | .HP_URSP | .HP_UDONE | .HP_UCFG | .HP_QQUOTA => .HP
  | .MP0_CFG | .MP0_CTL | .MP0_STAT | .MP0_RAWCMD | .MP0_RAWADDR | .MP0_RAWBUF | .MP1_CFG | .MP1_GEOM | .MP1_OPS0 | .MP1_OPS1 | .MP1_CMD | .MP1_STAT | .MP1_CWFAIL0 | .MP1_CWFAIL1 | .MP1_ECNT | .MP1_ECNTDEF | .MP1_EPEND | .MP1_POLL | .MP1_BBTBLK | .MP1_PAT | .MP1_PATPOS | .MP1_PATRES | .MP1_PATSTAT | .MP1_TATCFG | .MP1_TAT_LO | .MP1_TAT_HI | .MP1_TATW | .MP1_PGBUF | .MP1_BBT | .MP_ECC_CFG | .MP_ECC_STAT | .MP_ECC_LASTADDR | .MP_ECC_INJ | .MP_PSNCLR | .MP_ECC_CNT => .MP
  | .PM_CFG | .PM_STATUS | .PM_MON | .PM_MON2 | .PM_TWARN | .PM_MODEREQ | .PM_AON_CFG | .PM_AON_WKEN | .PM_AON_WKSTAT | .PM_AON_WKCNT_LO | .PM_AON_WKCNT_HI | .PM_AON_CNT_LO | .PM_AON_CNT_HI | .PM_AON_ALARM_LO | .PM_AON_ALARM_HI | .PM_AON_CWIN_W0 | .PM_AON_CWIN_W1 | .PM_AON_CWIN_W2 | .PM_AON_RSTCAUSE | .PM_AON_SAFE | .PM_AON_WKPIN => .PM
  | .LC_STATE | .LC_UID_LO | .LC_UID_HI | .LC_NONCE | .LC_CMD | .LC_STATUS | .LC_KEYBUF | .LC_TOKEN | .LC_DBGCTL | .LC_DBGSTAT => .LC
  | .GP_IN | .GP_OUT | .GP_OUTSET | .GP_OUTCLR | .GP_OE | .GP_CFG => .GP

end Sys2Proof.Machine
end

