-- ==== Sys2Proof/Machine/Tab.lean ====
section
/-! DEFINITION. Sparse tables: the one canonical form in which State keeps its memories, register files and arrays of
units (notes/assumptions/1.md). A table lists (key, value) pairs with strictly rising keys and never the value that
an unlisted key has, so that equal tables are equal lists. -/

namespace Sys2Proof.Machine

/-- A sparse table: pairs of a key and a value. -/
abbrev Tab (α : Type) := List (Nat × α)

/-- The value at `k`; an unlisted key has the value `d k`. -/
def Tab.get {α : Type} (d : Nat → α) : Tab α → Nat → α
  | [], k => d k
  | (j, v) :: t, k => if j = k then v else Tab.get d t k

/-- The table without key `k`. -/
def Tab.erase {α : Type} (k : Nat) : Tab α → Tab α
  | [] => []
  | (j, v) :: t => if j = k then t else if k < j then (j, v) :: t else (j, v) :: Tab.erase k t

/-- The table with `v` listed at `k`. -/
def Tab.insert {α : Type} (k : Nat) (v : α) : Tab α → Tab α
  | [] => [(k, v)]
  | (j, w) :: t =>
    if j = k then (k, v) :: t
    else if k < j then (k, v) :: (j, w) :: t
    else (j, w) :: Tab.insert k v t

/-- Writes `v` at `k`; writing the value an unlisted key has removes the entry. -/
def Tab.set {α : Type} [DecidableEq α] (d : Nat → α) (t : Tab α) (k : Nat) (v : α) : Tab α :=
  if v = d k then Tab.erase k t else Tab.insert k v t

/-- Every key of the table is above `b`. -/
def Tab.above {α : Type} (b : Nat) : Tab α → Bool
  | [] => true
  | (j, _) :: t => decide (b < j) && Tab.above b t

/-- The canonical form: keys strictly rise and no entry has the unlisted value. -/
def Tab.wf {α : Type} [DecidableEq α] (d : Nat → α) : Tab α → Bool
  | [] => true
  | (j, v) :: t => Tab.above j t && decide (v ≠ d j) && Tab.wf d t

end Sys2Proof.Machine
end

