-- ==== Sys2Proof/Machine/State.lean ====
section
/-! DEFINITION. The state of the device as plain data, the reasons a step can stop, and the machine right after reset.
Every register of the chapters lives in one of four register files (live, staged, captured, active), in Registers.lean's
numbering; the structures here hold what the chapters give the machine besides registers. -/

namespace Sys2Proof.Machine

/-! ### Blocks and threads (12_blocks, 13_instruction_set) -/

/-- What a thread is doing, the codes 0-4 of BK_TSTAT.STATE (code 5, not used by the Map, is BK_TCFG.EN = 0). -/
inductive ThrSt where
  | waiting | active | parked | suspended | stopped
deriving DecidableEq, Repr

/-- The repeat a thread is inside (R292): the repeated instruction's opcode byte, whether the prefix was REPX, and the
length of the repeated instruction in bytes. -/
structure RepSt where
  op : Byte
  x : Bool
  len : Nat
deriving DecidableEq, Repr

/-- The flags of a Lane thread (R255, R287). -/
structure Flags where
  z : Bool := false
  n : Bool := false
  c : Bool := false
  v : Bool := false
deriving DecidableEq, Repr

/-- The save register of an event entry (R301). -/
structure SaveReg where
  pc : Word
  rep : Option RepSt
  flags : Flags
deriving DecidableEq, Repr

/-- The instructions that reach memory or an Arcade and may park (R265, R268, R224). `ld`/`st` carry the size in bytes,
`ld` whether it sign-extends; `ldwo`/`stwo` the immediate; `crcm` the polynomial register; the last four the Arcade. -/
inductive MemI where
  | ld (size : Nat) (sgn : Bool) | ldwo (n : Byte) | ldwPlus
  | st (size : Nat) | stwo (n : Byte) | stPlus | stbPlus
  | movw | movb | xchg | crcm (p : Fin 4)
  | arcIn (a : Byte) | arcInm (a : Byte) | arcOut (a : Byte) | arcOutm (a : Byte)
deriving DecidableEq, Repr

/-- Why a thread is parked. -/
inductive Park where
  | fetch (line : Nat)          -- waits for an instruction cache line (R258)
  | load (mi : MemI)            -- waits for data from outside the TCMs (R265)
  | overlap (mi : MemI)         -- waits for its own overlapping stores to drain (R269)
  | storeBuf (mi : MemI)        -- waits for a store-buffer entry (R268)
  | arc (mi : MemI)             -- waits on an Arcade with no readable item (R224)
  | div (sgn : Bool)            -- waits for the divider (R266)
  | yield                       -- the 16 cycles of YIELD (R298)
  | fence                       -- FENCE waits for its stores (R29, R269)
  | synci                       -- SYNCI waits for its stores (R271)
deriving DecidableEq, Repr

/-- An item that an IN or INM has consumed and not yet delivered (R53): the instruction's address, its Arcade, whether it
belongs to an entry handler, and the item. -/
structure HeldItem where
  pc : Word
  arc : Nat
  entry : Bool
  val : Word
deriving DecidableEq, Repr

/-- A thread context (R255, R301) and where it is in its activation. The class, entry, owner, budget, usage and fault
record stand in the register file. `feed` is the address just past an unpaired feeder that issued last (R262), `held`
the Arcade items of R53, `first` that the first part of a split store is in the store buffer (R270), `rel` that the tick
release of this tick has been registered, `ripe` that a tick has passed since the suspension (R50), `buf` the aligned
8-byte group in the fetch buffer (R257). While the thread is parked, `pkTen` holds the tenths of CK_CORE cycles for which
it has been, and `pkSlots` the slots charged for them (R51). -/
structure Thr where
  pc : Word := 0
  ds : List Word := []
  rs : List Word := []
  rpt : Word := 0
  flags : Flags := {}
  st : ThrSt := .waiting
  waitTick : Bool := false
  pend : Bool := false
  park : Option Park := none
  held : List HeldItem := []
  first : Bool := false
  rel : Bool := false
  ripe : Bool := false
  buf : Option Nat := none
  pkTen : Nat := 0
  pkSlots : Nat := 0
  rep : Option RepSt := none
  feed : Option Word := none
  vec : Word := 0
  entEn : Bool := false
  entPend : Bool := false
  save : Option SaveReg := none
deriving DecidableEq, Repr

/-- A store-buffer entry: the aligned part of one store (R268), or an item of OUT or OUTM on its way (R322). -/
structure SbEnt where
  thr : Nat
  addr : Nat
  size : Nat
  data : Nat
  arc : Option Nat := none
deriving DecidableEq, Repr

/-- The shared parts of a Block (R254): store buffer oldest first, divider owner and queue, branch target buffer most
recent first, instruction cache by set as (line, way) most recent first, line buffer, the fill in progress and whether its line
is still wanted (R276), the 8-byte groups of held lines that were fetched poisoned (R254), and the active DET of R273. -/
structure Blk4 where
  sb : List SbEnt := []
  divOwn : Option Nat := none
  divQ : List Nat := []
  btb : List (Word × Word) := []
  icache : Tab (List (Nat × Nat)) := []
  lineBuf : Option Nat := none
  fill : Option Nat := none
  fillKeep : Bool := true
  bad : List Nat := []
  det : Bool := false
deriving DecidableEq, Repr

/-! ### Clocktower (03_tick, 04_clocktower) -/

/-- One time domain (R62, R66, R67, R71, R73): the domain time in units of 2^-40 ns, the increment, the pending low part
of the increment, the integral term in units of 2^-42 ppb, the lock count, the silence in CK_TIME cycles, and whether
LOST has been set for this silence. -/
structure Domain where
  t : Nat := 0
  incr : Nat := 4398046511104
  incrLo : Word := 0
  integ : Int := 0
  lockCnt : Nat := 0
  silence : Nat := 0
  lostDone : Bool := false
deriving DecidableEq, Repr

/-- The record of R82: LT and the AON count at the edge, AON_CAL, CALV, the increments, the domain states and DRIFT. -/
structure EntryRec where
  lt : Nat := 0
  aon : Nat := 0
  cal : Nat := 131072000000000
  calv : Bool := false
  incrA : Nat := 4398046511104
  incrB : Nat := 4398046511104
  stA : Nat := 1
  stB : Nat := 1
  drift : Nat := 50000
deriving DecidableEq, Repr

/-- A step that is pending for a domain (R63 step 2): of a given size in 2^-40 ns, or the one of a committed write of CT_DT_x
(R69), to the written high word of nanoseconds and, where it was written, the low word. -/
inductive CtStep where
  | by_ (d : Int) | to (hi : Word) (lo : Option Word)
deriving DecidableEq, Repr

/-- The Clocktower: both domains, the carried offset D in 2^-40 ns (R62), the steps that the next CK_TIME cycle applies, the
domain that a write of SEL has asked for, whether an automatic switch is due in that cycle (R63, R75), and whether a step has
moved LT in the cycle that runs (R64), and where CK_FIELD stands in the five CK_TIME cycles that its pattern takes (R96); the highest tick
index and the nominal instant of the most recent tick (R37, R40), the tick count, whether stage close for the coming tick has
occurred (R39), LT in 2^-40 ns in the CK_TIME cycle before the present one and in the cycle before the most recent tick's
(R97), the measurements that have arrived and are not processed, and the AON calibration window of R81. -/
structure CT where
  a : Domain := {}
  b : Domain := {}
  d : Int := 0
  steps : List (Bool × CtStep) := []
  selNext : Option Bool := none
  autoDue : Bool := false
  moved : Bool := false
  field : Nat := 0
  kMax : Int := 0
  tickNom : Nat := 0
  tickCnt : Nat := 0
  sc : Bool := false
  prev40 : Nat := 0
  tickPrev : Nat := 0
  meas : List (Bool × Int) := []
  winW : Nat := 10
  winCnt : Nat := 0
  winStart : Nat := 0
  winLast : Nat := 0
  winOpen : Bool := false
  winBad : Bool := false
deriving DecidableEq, Repr

/-- The always-on part of PD_AON (R81-R84, R445): the 48-bit AON count, whether it runs from the RC, whether it has
run from the RC since the last entry snapshot was taken, whether an AON supply fault is reported, the entry latch with
its previous complete record, and whether the kept snapshot is the previous one. -/
structure Aon where
  cnt : Nat := 0
  rc : Bool := true
  rcSeen : Bool := false
  supplyBad : Bool := false
  latch : EntryRec := {}
  latchPrev : EntryRec := {}
  prev : Bool := false
  reconDue : Bool := false
deriving DecidableEq, Repr

/-! ### Plaza and Arcades (08_plaza, 10_arcades) -/

/-- A packet on its way through the Plaza (R217, R218): source type and index, the late flag of bit 18, its Milestone in
units of 1/256 ns, its payload items, and the destinations that the routes of the cycle of its presentation give it: none
where its stream has no enabled entry (R183, R184). -/
structure Packet where
  typ : Nat
  idx : Nat
  late : Bool := false
  ms : Nat
  payload : List Word
  dests : Option (List Nat) := none
deriving DecidableEq, Repr

/-- An Arcade's positions and markers (R222-R233). `pkts` lists the complete packets not yet passed by Rd as (start,
end), `opn` the open packet as (start, total items) and `by_` the thread that writes it (none for a route), `dump` by thread how
many items of its discarded packet still come, `cur` the end of the packet whose header the consumer has read, `fill` the fill
items pending at that end, or at once where `cur` is none, `gap` the pending GAP count with its CUT, `ct` the end at which
cut-through disengages, `idle` when the idle timer started in 1/256 ns. -/
structure Arc where
  w : Nat := 0
  pc : Nat := 0
  rel : Nat := 0
  rd : Nat := 0
  lim : Nat := 0
  pkts : List (Nat × Nat) := []
  opn : Option (Nat × Nat) := none
  by_ : Option Nat := none
  dump : List (Nat × Nat) := []
  cur : Option Nat := none
  fill : Nat := 0
  gap : Nat := 0
  gapCut : Bool := false
  ct : Option Nat := none
  flp : Bool := false
  idle : Option Nat := none
  act : Bool := false
deriving DecidableEq, Repr

/-! ### Field ports (05_field_ports) -/

/-- A controller frame in progress (R91-R96): its launch edge L in 2^-40 ns, the launch entry that started it, and
the words loaded so far. -/
structure FpFrame where
  at_ : Nat
  entry : Option Nat
  sent : List Word
deriving DecidableEq, Repr

/-- A reply chosen for a target frame (R111). -/
inductive FpReply where
  | armed | idle | reject
deriving DecidableEq, Repr

/-- A select period in progress (R107-R112): its Milestone, the chosen reply, the words of it loaded so far, the tag of the
armed reply that an empty period leaves waiting, and whether the period is ignored. -/
structure FpSel where
  ms : Nat
  reply : FpReply
  sent : List Word
  tag : Option Nat
  ignore : Bool
deriving DecidableEq, Repr

/-- A field port beside its registers: frame or select period in progress, the Milestones of the last four launched
frames newest first and the number launched since the history was cleared (R103), the tag of the armed reply (R111), a
pending command launch (R99), the entries that have launched or been skipped in this tick, the instants in 2^-40 ns at which
select releases are due (R100), and for target mode whether the next frame is the first and whether the last was rejected. -/
structure FpUnit where
  frame : Option FpFrame := none
  sel : Option FpSel := none
  hist : List Nat := []
  launched : Nat := 0
  armed : Option Nat := none
  pend : Bool := false
  done : List Nat := []
  rel : List Nat := []
  first : Bool := true
  lastRej : Bool := false
deriving DecidableEq, Repr

/-! ### Lamplighters, capture and pins (11_lamplighters) -/

/-- The source of an arm (R242). -/
inductive LlSrc where
  | reg | thr (t : Nat) | cell (c : Nat)
deriving DecidableEq, Repr

/-- A pending arm, or the train instant that waits in its place (R242-R245): `a` the instant in units of 125 ps, `at_` its
arrival in 2^-40 ns, `i` the train index. -/
structure LlArm where
  a : Int
  at_ : Nat
  src : LlSrc
  i : Nat
deriving DecidableEq, Repr

/-- A committed or running pulse (R240, R243): rising and falling instants in 2^-40 ns, whether it is late, the
armed instant, source, train index and number of instants passed over for its record. -/
structure LlPulse where
  rise : Nat
  fall : Nat
  late : Bool
  a : Int
  src : LlSrc
  i : Nat
  passed : Nat
deriving DecidableEq, Repr

/-- A Lamplighter beside its registers: pending arm, committed pulses that have not begun oldest first, running pulse, and the train in progress as (first
instant, source). -/
structure LlUnit where
  arm : Option LlArm := none
  com : List LlPulse := []
  run : Option LlPulse := none
  train : Option (Int × LlSrc) := none
  act : Bool := false
deriving DecidableEq, Repr

/-- A new level of a pin that its input path has not accepted yet (R205): the stamp of its first sample, T_A and T_B at it, all in
1/256 ns, and the samples taken. -/
structure PinNew where
  ms : Nat
  ta : Nat
  tb : Nat
  n : Nat
deriving DecidableEq, Repr

/-- A pin (R205-R208, R237, R238, R252): the level at its ball, with the changes of that level of the last 15 ns and the last one
before, newest first, as (instant in 2^-40 ns, level); the new level that the input path samples, and LT in 2^-40 ns in the
cycle of its last first sample; the level its input path has accepted, the accepted edge that waits to be recorded or
merged (R206) as (stamp, level), the stamp of the last accepted edge, the edges recorded in this tick, the reference
level of R207 (true = active), and the capture records of this tick. Stamps in 1/256 ns. -/
structure Pin where
  ball : Bool := false
  balls : List (Nat × Bool) := []
  cand : Option PinNew := none
  smp : Option Nat := none
  lvl : Bool := false
  held : Option (Nat × Bool) := none
  last : Option Nat := none
  recN : Nat := 0
  ref : Bool := false
  capN : Nat := 0
deriving DecidableEq, Repr

/-! ### Crossings (09_crossings) -/

/-- What a pass entry carries (R187, R191, R192, R207-R209). -/
inductive XWhat where
  | packet (words : List Word)
  | value (v : Int)
  | stuck | chatter (ebud : Nat)
  | deadline (cell kind end_ : Nat)
deriving DecidableEq, Repr

/-- An entry of the engine's queue: its source under R187 (0x1FF for a deadline), its Milestone, what it carries, and the LT at
which it joined in 2^-40 ns. -/
structure XEnt where
  src : Nat
  ms : Nat
  what : XWhat
  at_ : Nat := 0
deriving DecidableEq, Repr

/-- The state of a Crossing cell beside its registers. Milestones in 1/256 ns. `act` enabled and admitted, `inert` under
R204, `q` its Q, `lastA` and `lastB` the last accepted Milestone of each input (R190); `hist` the samples of input A it
keeps, newest first (WINDOW, COUNT, ETA; for DEBOUNCE those accepted beyond the candidate's interval, oldest first);
`run` the consecutive samples that differ from Q (DEBOUNCE); `cand` the candidate as (t0, its value); `win` the
reference of the undecided window; `ta` and `tb` the held A and B (SEQUENCE); `prev` the last sample of SLOPE; `dls`
the interval ends of COUNT that await their decision; for the late count of R192 `dec` the last decision (DEBOUNCE, SEQUENCE:
its interval; WINDOW: the reference and how many samples `hist` held; COUNT: the end and the count there) and `dec2` the last
dropped B; `lastArm` and `stopped` the last armed instant and the ONESHOT stop. -/
structure XCell where
  act : Bool := false
  inert : Bool := false
  q : Bool := false
  lastA : Option Nat := none
  lastB : Option Nat := none
  hist : List (Nat × Int) := []
  run : Nat := 0
  cand : Option (Nat × Int) := none
  win : Option Nat := none
  ta : Option Nat := none
  tb : Option Nat := none
  prev : Option (Nat × Int) := none
  dls : List Nat := []
  dec : Option (Nat × Nat) := none
  dec2 : Option Nat := none
  lastArm : Option Int := none
  stopped : Bool := false
deriving DecidableEq, Repr

/-! ### Host ports and Quarters (16_host_quarters) -/

/-- A command of the mailbox that has started and whose response is not posted (R367, R369): its ring index, its W0 to
W15, and whether a stage close has passed since it started, so that it acts at the next tick. -/
structure MbCmd where
  idx : Nat
  words : List Word
  due : Bool := false
deriving DecidableEq, Repr

/-- A DMA transfer in progress on a ring (R374): the descriptor index, items still to move, items moved, the host address
of the next item, whether an item was poisoned, the capacity, the item of the store read last, and the items gathered for the next write. -/
structure Xfer where
  ring : Nat
  idx : Nat
  left : Nat
  moved : Nat
  addr : Nat
  psn : Bool
  cap : Nat
  last : Option Nat := none
  tlp : List Word := []
deriving DecidableEq, Repr

/-- A Quarter and its PCI Express function beside their registers (R357-R386): the notice sequence number, whether a
FILTER notice was written in this tick, the threads with a FAULT or OVERRUN notice in this tick, the command in
progress, whether a user command has timed out since the last one was copied and the Milestone of that copy (R371), the notice detail of a requested
QUARTER RESET and of one whose stage close has passed, the ring of the port served last (kept by its function 0), whether the watchdog is armed and the CK_TIME cycles of the running
millisecond, the transfers in progress, the MSI-X pending bits, and of the configuration space bus mastering, MSI-X
enable, MSI-X function mask, the max payload size in bytes and the two BAR addresses. -/
structure Qtr where
  seqN : Nat := 0
  fltTick : Bool := false
  faultTick : List Nat := []
  overTick : List Nat := []
  cmd : Option MbCmd := none
  late : Bool := false
  uAt : Nat := 0
  qr : Option Nat := none
  qrDue : Option Nat := none
  rr : Nat := 31
  wdArmed : Bool := false
  wdCyc : Nat := 0
  xfers : List Xfer := []
  msixPend : List Nat := []
  busMaster : Bool := false
  msixEn : Bool := false
  fmask : Bool := false
  mps : Nat := 128
  bar0 : Nat := 0
  bar2a : Nat := 0
deriving DecidableEq, Repr

/-! ### Two-wire ports (06_two_wire) -/

/-- A controller transaction in progress (R122-R126): address, lengths, retry limit, bytes to write, its START stamp in
1/256 ns, losses so far, and whether it waits for the bus after a loss. -/
structure TwXact where
  addr : Nat
  a10 : Bool
  wlen : Nat
  rlen : Nat
  retry : Nat
  bytes : List Byte
  start : Nat
  losses : Nat := 0
  wait : Bool := false
deriving DecidableEq, Repr

/-- A request that the port raises as a target (R133). -/
inductive TwReq where
  | none | waiting | holding | released
deriving DecidableEq, Repr

/-- The power pulse of R136. -/
inductive TwPwr where
  | off | pulse | wait
deriving DecidableEq, Repr

/-- A two-wire port beside its registers: the bus is busy, or free (R120), and since when tBUF counts, in 2^-40 ns; the START stamp
of the message on the bus, whether the port's target logic follows it as another controller's, and where that message won in the
first address byte, the byte that the port was sending and the bit (R127); a
pending GO; the transaction; the SDA-fall stamps of a roll-call due and of one in progress; its own request; a bus clear
in progress, and one that waits for the end of the transaction; the power pulse, and whether the further clear is used;
and the lines as the port last saw them held low. -/
structure TwUnit where
  busy : Bool := false
  free : Bool := false
  quiet : Nat := 0
  start : Nat := 0
  follows : Bool := false
  lostAt : Option (Byte × Nat) := none
  pend : Bool := false
  xact : Option TwXact := none
  rollDue : Option Nat := none
  roll : Option Nat := none
  req : TwReq := .none
  clear : Bool := false
  clearWait : Bool := false
  pwr : TwPwr := .off
  further : Bool := false
  sdaLow : Bool := false
  sclLow : Bool := false
deriving DecidableEq, Repr

/-! ### Head links (07_head_link) -/

/-- A segment in a transmit buffer (R160, R161): its channel, when it arrived in 1/256 ns, its payload words, and the words of the
protected region of R392 that hold them, two to each. -/
structure HlSeg where
  ch : Nat
  at_ : Nat
  words : List Word
  cells : List Nat := []
deriving DecidableEq, Repr

/-- A decoded down header as a node keeps it for its up burst (R153, R163), with the node's stamp t2. -/
structure HlHdr where
  sfn : Nat
  dtab : Nat
  utab : Nat
  prbu : Bool
  base : Bool
  t1 : Nat
  dval : Bool
  delay : Nat
  nd : Nat
  nu : Nat
  ugap : Nat
  t2 : Int
deriving DecidableEq, Repr

/-- A carrier of a symbol (R144-R148): its number k, and X_k = (i + j q) / sqrt div. -/
structure HlPt where
  k : Nat
  i : Int
  q : Int
  div : Nat
deriving DecidableEq, Repr

/-- A superframe that a tick starts (R150, R152): the instant that its start waits for, in 1/256 ns, and its layout as that tick left
it: down and up symbols, ramp segments, up gap. -/
structure HlLay where
  sfs : Nat := 0
  nd : Nat := 4
  nu : Nat := 8
  ramp : Nat := 4
  ugap : Nat := 768
deriving DecidableEq, Repr

/-- A table load at the hub (R171): direction (true = up), table, load number, content, how many TABLE_LOADs went out, the
superframe of the last, whether one is to be sent, and the superframe of the TABLE_ACK. -/
structure HlLoad where
  up : Bool
  tab : Nat
  num : Nat
  codes : List Word
  sends : Nat := 0
  sentSfn : Nat := 0
  send : Bool := true
  ack : Option Nat := none
deriving DecidableEq, Repr

/-- A head link beside its registers (R150-R174): the superframe number of the next superframe, the superframes that ticks have made
due, the layout of the last one, its T1, when it ends, whether one has been sent whose up header is awaited, the link events that
the next superframe's start reports as (kind, low bits), the superframes in a row without a header, the transmit buffer, the generation bits (direction × 8 + table), the tables
committed since the link entered UP, the current sector, the last ranging values in 1/512 ns newest first, the load in
progress, the loads that wait as (up, table), the load number; for a node the last header while its up burst is due,
pending tables, seen COMMITs, acknowledgements due, the STALE report, the failed codewords of the down burst; the probe
count, a probe requested, the Bell requested and when it ends. -/
structure HlUnit where
  sfn : Nat := 0
  due : List HlLay := []
  lay : HlLay := {}
  t1 : Nat := 0
  sfEnd : Nat := 0
  wait : Bool := false
  evs : List (Nat × Nat) := []
  miss : Nat := 0
  txq : List HlSeg := []
  gen : List Nat := []
  committed : List Nat := []
  sector : Nat := 0
  deltas : List Int := []
  load : Option HlLoad := none
  loadQ : List (Bool × Nat) := []
  loadNum : Nat := 0
  hdr : Option HlHdr := none
  pendTab : List (Nat × List Word) := []
  commits : List (Nat × Nat) := []
  acks : List Word := []
  stale : Option Nat := none
  cwBad : Nat := 0
  prbCnt : Nat := 0
  prbNow : Bool := false
  bellReq : Bool := false
  bellEnd : Option Nat := none
deriving DecidableEq, Repr

/-! ### Ring ports (15_ring_ports) -/

/-- A two-step Sync that awaits its Follow_Up (R348): sequence number, arrival stamp and time of its domain at it in 1/256 ns,
correction in 2^-16 ns. -/
structure PtpWait where
  seq : Nat
  m : Int
  tx : Int
  corr : Int
deriving DecidableEq, Repr

/-- A frame that a node forwards (R334, R342, R344): when its SOF and the end of its EOF leave D, the symbols between them, the
packet that it gives, and whether it has begun to leave. -/
structure RgFwd where
  at_ : Int
  stop : Int
  syms : List RgSym
  pkt : Option Packet
  left : Bool := false
deriving DecidableEq, Repr

/-- The ring ports beside their registers. The Kerb (R352, R353): whether a KCLOSE holds it closed, whether it may not open
before the next tick, since when the conditions of a requested transition hold, when the opening began, KERB_N driven low; transmit
PLL locked; the running disparity of each port's line (R331).
The cycle (R335-R345): master's next cycle number and instants at which a CSM is due, the departures awaited by returns as (CYC,
stamp) oldest first, the cycle whose departure an ECHO answers with its stamp, whether its CSM was correct, the master's last RTT
and that of the cycle's CSM in 1/16 ns, CLEN, when the last CSM arrived or left, whether one is expected, the slots whose frame is
due, the posted contents as (slot, instant, words), the link delay values in 1/512 ns newest first, the frames that are forwarded,
and the intervals in which a CSM of the master and a slot frame leave D. Bells requested, and sent until. PTP (R346-R349): per port
the end of the last frame that left; per domain the Sync that waits, the sequence numbers sent with the instants, the Announce
messages counted; per port the Pdelay exchange as (sequence, t1), the next sequence number, the instant of the last request,
timeouts in a row and delay values; the two-step Syncs that the transparent clock has forwarded as (identity, residence in
2^-16 ns). -/
structure Ring where
  kclose : Bool := false
  hold : Bool := false
  since : Option Nat := none
  openAt : Option Nat := none
  kerbN : Bool := false
  pll : Bool := false
  rds : List (Nat × Bool) := []
  cyc : Nat := 0
  csmDue : List Nat := []
  ret : List (Nat × Int) := []
  t1 : Int := 0
  lastCyc : Option Nat := none
  good : Bool := false
  rtt : Nat := 0
  cycRtt : Nat := 0
  clen : Nat := 0
  lastAt : Int := 0
  expect : Bool := false
  slotsDue : List Nat := []
  posts : List (Nat × Nat × List Word) := []
  deltas : List Int := []
  fwd : List RgFwd := []
  csm : Int × Int := (0, 0)
  own : Int × Int := (0, 0)
  bellReq : List Nat := []
  bells : List (Nat × Nat) := []
  ptpWait : List (Nat × PtpWait) := []
  ethEnd : List (Nat × Int) := []
  ptpSeq : List (Nat × Nat) := []
  ptpAt : List (Nat × Nat) := []
  annSeq : List (Nat × Nat) := []
  annAt : List (Nat × Nat) := []
  annN : List (Nat × Nat) := []
  pd : List (Nat × Nat × Int) := []
  pdSeq : List (Nat × Nat) := []
  pdAt : List (Nat × Nat) := []
  pdMiss : List (Nat × Nat) := []
  pdDelta : List (Nat × List Int) := []
  tc : List (List Byte × Int) := []
deriving DecidableEq, Repr

/-! ### Memory ports (17_memory_archive) -/

/-- An MP1 operation in progress (R404): its code, block and page, and the status that the last poll found not busy. -/
structure MpOp where
  op : Nat
  blk : Nat
  page : Nat
  start : Nat := 0
  pollAt : Nat := 0
  polled : Option Byte := none
deriving DecidableEq, Repr

/-- A fill of the MP0 prefetch buffer in progress (R390, R391): its line, the classes of the requests that wait for it,
whether it is kept. -/
structure XipFill where
  line : Nat
  asks : List Nat
  keep : Bool := true
deriving DecidableEq, Repr

/-- An entry of the patrol FIFO (R408). -/
structure PatEnt where
  unc : Bool
  maxc : Nat
  blk : Nat
  page : Nat
deriving DecidableEq, Repr

/-- The memory ports beside their registers: prefetch lines most recently used first as (line, slot, its 64 bytes), waiting
misses as (class, line) in arrival order with class 0 = A, 1 = L, 2 = B, the fill in progress; the MP1 operation, the
pending erase counts most recently used first as (block, count), the patrol read in progress as (block, page), the
patrol FIFO oldest first, the Milestone at which the last patrol read started, the raw flash command in progress as written
to MP0_RAWCMD, the LT second of the last integration, LT in ns when PD_MEM was isolated; and the scrubbers' next words and the regions that have completed a pass since PASS was last cleared. -/
structure Mem where
  pf : List (Nat × Nat × List Byte) := []
  xipQ : List (Nat × Nat) := []
  xip : Option XipFill := none
  op : Option MpOp := none
  pend : List (Nat × Nat) := []
  pat : Option (Nat × Nat) := none
  fifo : List PatEnt := []
  patAt : Option Nat := none
  raw : Option Word := none
  tatSec : Nat := 0
  isoAt : Option Nat := none
  scrub : Tab Nat := []
  passed : List Nat := []
deriving DecidableEq, Repr

/-! ### Loading a Map, profiles (18_map_boot) -/

/-- A PROFILE section (R420): index, class, PERIOD4, PHASE4, domain enables, CK_CORE in 25 MHz units. -/
structure Profile where
  idx : Nat
  cls : Nat
  period : Nat
  phase : Nat
  doms : Nat
  core : Nat
deriving DecidableEq, Repr

/-- A register entry of the Map (R425): profile mask, register file key, value. -/
structure RegEnt where
  pm : Nat
  key : Nat
  val : Word
deriving DecidableEq, Repr

/-- An IMAGE that the loader has placed (R423): target, offset, length in bytes. -/
structure Image where
  target : Nat
  ofs : Nat
  len : Nat
deriving DecidableEq, Repr

/-- What the loader does: nothing, wait for the header, read sections, have the whole Map, hold it as accepted, hold it
captured until T0, or stand after an error. -/
inductive LdSt where
  | idle | header | sections | all | ready | captured | failed
deriving DecidableEq, Repr

/-- The loader (R413-R431): its state; the nanosecond of LT at which LOAD began; whether it restores after WATCH (R449); the bytes read so far; the bytes pushed, or read from MP1,
that it has not taken and whether the last chunk has been taken; header fields; how many sections have been read and their types; where the SIGN header
stands; the DEVICE body's strict flag, PSTORE, layout, retention budget and Subsystem IDs; the profiles; the images;
every register entry in order; the SAFE values; the signature as (kind, r, s); whether the
push interface is offered, whether a chunk waits and its length and LAST flag, and the Milestone in 1/256 ns at which the last chunk
was taken; how many 64-byte accesses of MP0 have been made (R413); the next block and page of MP1, and whether the Map's first block
has been found (R415). -/
structure Loader where
  st : LdSt := .header
  since : Nat := 0
  restore : Bool := false
  bytes : List Byte := []
  pushed : List Byte := []
  last : Bool := false
  total : Nat := 0
  count : Nat := 0
  mapId : Word := 0
  done : Nat := 0
  seen : List Nat := []
  signAt : Nat := 0
  strict : Bool := false
  psBase : Nat := 0
  psSize : Nat := 0
  layout : Nat := 0
  budget : Word := 0
  subsys : Word := 0
  supq : Nat := 0
  profiles : List Profile := []
  owners : List Nat := []
  threads : List Word := []
  images : List Image := []
  ents : List RegEnt := []
  safe : List Nat := []
  kind : Nat := 0
  sigR : Nat := 0
  sigS : Nat := 0
  offer : Bool := false
  chunk : Option (Nat × Bool) := none
  chunkAt : Nat := 0
  lines : Nat := 0
  nandAt : Nat × Nat := (0, 0)
  nandOn : Bool := false
deriving DecidableEq, Repr

/-- A profile switch (R432): its target, whether its last entry has been copied, whether it has been captured, and
whether a MODE change asked for it. -/
structure Switch where
  prof : Nat
  copied : Bool := false
  captured : Bool := false
  byMode : Bool := false
deriving DecidableEq, Repr

/-- What the Map in effect gives beyond registers (R419, R420, R425): its profiles, its register entries, STRICT, PSTORE,
the Archive layout and retention budget and the Subsystem IDs; then the pending switch. -/
structure MapInfo where
  profiles : List Profile := []
  ents : List RegEnt := []
  strict : Bool := false
  psBase : Nat := 0
  psSize : Nat := 0
  layout : Nat := 0
  budget : Word := 0
  subsys : Word := 0
  sw : Option Switch := none
deriving DecidableEq, Repr

/-! ### Operating modes, power and wake (19_power_modes, 21_electrical) -/

/-- Where a mode change stands (R441, R443): it waits for its tick (and whether a stage close has passed), for the
host links, for the units to stop after T_e, or for the end of isolation after acceptance. -/
inductive ChgAt where
  | tick (due : Bool) | prof | links | stopping | accepted
deriving DecidableEq, Repr

/-- A mode change in progress: its target, the Quarter whose response waits, where it stands, and the Milestone in 1/256 ns
at which it began. -/
structure ModeChg where
  target : Nat
  q : Option Nat
  at_ : ChgAt
  since : Nat := 0
deriving DecidableEq, Repr

/-- The power manager beside its registers: the mode change; whether the wake detectors are armed and isolation is complete; the
class-0 profile that was active before WATCH or MAINT; the domains that lost power in WATCH; whether DOZE ends at a coming
tick and whether its stage close has passed; whether the last measurement was 160 degrees C or more; the AON count at the entry to SAFE; the safe-value latch (R455: 0 low, 1 high, 2 high
impedance) and whether SAFE drives the pads; the AON pad latch of R457 in the same code; VIN above the power-on threshold and the 25 MHz reference present; OFF or RESET in
progress; and per host port HPn_PERST_N, HPn_WAKE_N driven, and whether host software has enabled ASPM L1. -/
structure Pm where
  chg : Option ModeChg := none
  armed : Bool := false
  isolated : Bool := false
  back : Nat := 0
  lost : Nat := 0
  dozeExit : Option Bool := none
  hot : Bool := false
  safeCnt : Nat := 0
  safe : List (Nat × Nat) := []
  safeOn : Bool := false
  padLatch : List (Nat × Nat) := []
  vin : Bool := true
  ref : Bool := true
  inReset : Bool := false
  toSafe : Bool := false
  perst : Nat := 0
  wakeN : Nat := 0
  aspm : Nat := 0
deriving DecidableEq, Repr

/-! ### Life-cycle and debug (20_lifecycle) -/

/-- A key slot (R461): the customer key as (Qx, Qy), the Archive key, and whether its keys have been erased. -/
structure KeySlot where
  key : Option (Nat × Nat) := none
  archive : Nat := 0
  erased : Bool := false
deriving DecidableEq, Repr

/-- A command of LC_CMD in progress (R465, R466): its OP, the state it leads to, the key that it fuses, its result. -/
structure LcCmd where
  op : Nat
  dest : Nat := 0
  key : Option (Nat × Nat) := none
  res : Nat := 1
deriving DecidableEq, Repr

/-- The fuses and the debug port (R460-R471): the three copies of the state, the slot, both key slots, the command in
progress, the Milestone of the first OP 6, a HALTREQ that waits, the mode in which HALT was entered; the instruction of the test access port and the DBGACC
register: whether the last access was refused or is in progress, and its data. -/
structure Lc where
  copies : List Nat := [2, 2, 2]
  slot : Nat := 0
  slot0 : KeySlot := {}
  slot1 : KeySlot := {}
  cmd : Option LcCmd := none
  scrpAt : Nat := 0
  haltWait : Bool := false
  haltFrom : Nat := 3
  ir : Nat := 2
  acc : Bool := false
  busy : Bool := false
  data : Word := 0
deriving DecidableEq, Repr

/-- A phase of an access of MP0 (R388, R391): bytes that the device drives, cycles with D at high impedance, bytes that
it captures. -/
inductive FlPhase where
  | out (bytes : List Byte)
  | hiz (cycles : Nat)
  | read (n : Nat)
deriving DecidableEq, Repr

/-- A command of MP1 with its opcode (R401): one that names a block and page (page read, program execute, block erase), a
program load with its bytes, a read from the cache, a write enable, a read of a feature. -/
inductive NandCmd where
  | row (opc blk page : Nat)
  | load (opc : Nat) (bytes : List Byte)
  | cache (opc : Nat)
  | wren (opc : Nat)
  | getf (opc addr : Nat)
deriving DecidableEq, Repr

/-- What the device sends out, newest first in `State.out`: the model's own record of its effects on the outside. -/
inductive Out where
  | read (r : Req) (addr : Nat) (data : Word)            -- the data of a register read
  | msix (q vec addr : Nat) (data : Word)                -- an MSI-X message with its table entry's address and data (R377)
  | hostWrite (q addr : Nat) (items : List Word)         -- a posted write of items to host memory, one TLP (R360, R374)
  | bar (q addr : Nat) (data : Word) (poisoned : Bool)   -- a completion of BAR 0 or BAR 2 (R361, R395)
  | cfg (q : Nat) (data : Option Word)                   -- a configuration completion; none = retry status (R430)
  | mp0 (sdiv : Nat) (line1 : Bool) (phases : List FlPhase)  -- an access of MP0 from the fall to the rise of MP0_CS_N: the
                                                         -- exponent of its clock divisor, single line or octal, phases (R388-R391)
  | mp1 (d1 : Nat) (wid8 : Bool) (c : NandCmd)           -- a command of MP1, its clock divisor and width (R401, R404)
  | tdo (data : Nat)                                     -- what the test access port shifts out (R462)
  | wakeN (p : Nat)                                      -- HPn_WAKE_N driven low (R362)
  | fpFrame (n at_ t cmode : Nat) (bits : List Bool)     -- a frame: L in 2^-40 ns, T in ns, CMODE, the bits on SDO (R89-R93)
  | fpReply (n ms : Nat) (bits : List Bool)              -- a reply: its select Milestone, the bits on SDO (R107, R110, R111)
  | twMsg (n : Nat) (toks : List TwTok)                  -- a message of which a two-wire port has driven its part (R116, R122)
  | fpSck (n : Nat) (high : Bool) (at_ : Nat)            -- SCK of a frame that is cut takes this level, at this Milestone (R113)
  | hlBurst (n : Nat) (up : Bool) (start : Int) (coded : List Byte) (symbols : List (List HlPt))  -- a burst (R144-R159)
  | hlBell (n : Nat)                                     -- the Bell of a head link (R174)
  | ringTx (port : Nat) (at_ : Int) (syms : List RgSym) (line : List Nat)  -- what leaves a ring port from at_ on, to the IDLE
                                                         -- that then fills its line: symbols and code groups (R331, R332)
  | ringBell (port : Nat)                                -- the ring Bell (R355)
  | kerbN (low : Bool) (at_ : Nat)                       -- KERB_N is driven low or released, at this Milestone (R353, R354)
  | eth (port : Nat) (at_ : Int) (bytes : List Byte) (line : List Nat)  -- a 1000BASE-X frame, the instant of its message
                                                         -- timestamp point, its bytes and code groups (R346, R347)
  | llEdge (n pin : Nat) (high : Bool) (at_ : Nat)       -- an edge that a Lamplighter drives, its placed Milestone (R240, R241)
deriving DecidableEq, Repr

/-- The word of an ECC-protected memory that is not clean (R393-R395): the injected nibble flips and the poison flag. -/
structure Ecc where
  flips : BitVec 24 := 0
  psn : Bool := false
deriving DecidableEq, Repr

/-- The state of the device. -/
structure State where
  pending : List Instr := []
  free : Nat := 0
  live : Tab Word := []
  staged : Tab Word := []
  captured : Tab Word := []
  active : Tab Word := []
  mapv : Tab Word := []
  holdReg : Tab Word := []
  holdMark : Tab Bool := []
  snap : Tab Word := []
  owner : Tab Nat := []
  mem : Tab Byte := []
  ecc : Tab Ecc := []
  scrubQ : List Nat := []
  ct : CT := {}
  aon : Aon := {}
  blk : Tab Blk4 := []
  thr : Tab Thr := []
  fp : Tab FpUnit := []
  presented : List Packet := []
  arc : Tab Arc := []
  ll : Tab LlUnit := []
  pin : Tab Pin := []
  xq : List XEnt := []
  xc : Tab XCell := []
  xcEv : Nat := 0
  hl : Tab HlUnit := []
  tw : Tab TwUnit := []
  ring : Ring := {}
  mp : Mem := {}
  ld : Loader := {}
  map : MapInfo := {}
  pm : Pm := {}
  lc : Lc := {}
  qtr : Tab Qtr := []
  bar2 : Tab Word := []
  out : List Out := []
deriving DecidableEq, Repr

/-- Why the machine stops. No meaning of this model answers a fault (notes/assumptions/4.md). -/
inductive Fault where
  | none
deriving DecidableEq, Repr

/-- Why a command has no meaning. -/
inductive Refusal where
  /-- The command has no meaning yet; raised only by an arm of exec. Safe: no false claim can follow from it. -/
  | notModelled (mnemonic : String)
deriving DecidableEq, Repr

/-- The machine right after reset. -/
def State.reset : State := { live := [(Reg.LC_STATE.ctorIdx * 16384, 0x82)] }

end Sys2Proof.Machine
end

