-- ==== Sys2Proof/Machine/Ops.lean ====
section
/-! DEFINITION. The named operations over the register files, the memories, time, the Plaza, notices and thread releases
that every family of commands shares. -/

namespace Sys2Proof.Machine

/-! ### Bit fields -/

/-- Bits hi to lo of a number. -/
def bits (w hi lo : Nat) : Nat := w / 2 ^ lo % 2 ^ (hi + 1 - lo)

/-- Bit i of a number. -/
def bit (w i : Nat) : Bool := w.testBit i

/-- The low n bits of a number read as two's complement. -/
def sext (w n : Nat) : Int :=
  let v := w % 2 ^ n
  if v < 2 ^ (n - 1) then (v : Int) else (v : Int) - (2 ^ n : Nat)

/-- An integer modulo 2^n. -/
def wrap (x : Int) (n : Nat) : Nat := (x % ((2 ^ n : Nat) : Int)).toNat

/-- A number as a word. -/
def w32 (n : Nat) : Word := BitVec.ofNat 32 n

/-- The largest value of n bits. -/
def maxOf (n : Nat) : Nat := 2 ^ n - 1

/-! ### Registers and fields -/

/-- Where element i of a register stands in a register file; no register has 16384 elements. -/
def Reg.key (r : Reg) (i : Nat) : Nat := r.ctorIdx * 16384 + i % 16384

/-- The width of a field. -/
def Field.width (f : Field) : Nat := f.hi + 1 - f.lo

/-- The value of a field in a register word. -/
def Field.get (f : Field) (w : Word) : Nat := bits w.toNat f.hi f.lo

/-- A register word with a field replaced; a value too wide is cut to the field. -/
def Field.put (f : Field) (w : Word) (v : Nat) : Word :=
  w32 (w.toNat / 2 ^ (f.hi + 1) * 2 ^ (f.hi + 1) + v % 2 ^ f.width * 2 ^ f.lo + w.toNat % 2 ^ f.lo)

/-- The Reset value of a register (R25). -/
def Reg.resetWord (r : Reg) : Word := r.desc.fields.foldl (fun w f => f.put w f.reset) 0

/-- What an unlisted element of a register file holds: its register's Reset value. -/
def regDefault (k : Nat) : Word := (Reg.ofNat (k / 16384)).resetWord

/-- The raw word of a live register. -/
def State.reg (s : State) (r : Reg) (i : Nat := 0) : Word := s.live.get regDefault (r.key i)

/-- Replaces the raw word of a live register. -/
def State.setReg (s : State) (r : Reg) (i : Nat) (w : Word) : State :=
  { s with live := s.live.set regDefault (r.key i) w }

/-- A field of a live register. -/
def State.fld (s : State) (f : Field) (i : Nat := 0) : Nat := f.get (s.reg f.reg i)

/-- Replaces a field of a live register. -/
def State.setFld (s : State) (f : Field) (i v : Nat) : State := s.setReg f.reg i (f.put (s.reg f.reg i) v)

/-- A one-bit field of a live register. -/
def State.flag (s : State) (f : Field) (i : Nat := 0) : Bool := s.fld f i == 1

/-- Sets a one-bit flag. -/
def State.raise (s : State) (f : Field) (i : Nat := 0) : State := s.setFld f i 1

/-- Sets a one-bit flag where a condition holds. -/
def State.raiseIf (s : State) (c : Bool) (f : Field) (i : Nat := 0) : State := if c then s.raise f i else s

/-- Adds to a counter, which saturates at the largest value of its field. -/
def State.bump (s : State) (f : Field) (i : Nat := 0) (n : Nat := 1) : State :=
  s.setFld f i (min (s.fld f i + n) (maxOf f.width))

/-- The staged copy of a register (R27). -/
def State.stg (s : State) (r : Reg) (i : Nat := 0) : Word := s.staged.get regDefault (r.key i)

/-- Replaces a staged copy. -/
def State.setStg (s : State) (r : Reg) (i : Nat) (w : Word) : State :=
  { s with staged := s.staged.set regDefault (r.key i) w }

/-- The active copy of a staged register. -/
def State.actw (s : State) (r : Reg) (i : Nat := 0) : Word := s.active.get regDefault (r.key i)

/-- A field of the active copy. -/
def State.act (s : State) (f : Field) (i : Nat := 0) : Nat := f.get (s.actw f.reg i)

/-- A one-bit field of the active copy. -/
def State.actB (s : State) (f : Field) (i : Nat := 0) : Bool := s.act f i == 1

/-- Replaces the active copy. -/
def State.setActw (s : State) (r : Reg) (i : Nat) (w : Word) : State :=
  { s with active := s.active.set regDefault (r.key i) w }

/-- The captured copy of a staged register. -/
def State.capw (s : State) (r : Reg) (i : Nat := 0) : Word := s.captured.get regDefault (r.key i)

/-- Replaces the captured copy. -/
def State.setCapw (s : State) (r : Reg) (i : Nat) (w : Word) : State :=
  { s with captured := s.captured.set regDefault (r.key i) w }

/-- A field of element i in a register file. -/
def Field.of (f : Field) (t : Tab Word) (i : Nat := 0) : Nat := f.get (t.get regDefault (f.reg.key i))

/-- One of the listed registers differs between two register files. -/
def regsDiffer (a b : Tab Word) (l : List (Reg × Nat)) : Bool :=
  l.any fun p => a.get regDefault (p.1.key p.2) != b.get regDefault (p.1.key p.2)

/-- Every element of an array of n units, in order. -/
def State.each (s : State) (n : Nat) (f : State → Nat → State) : State := (List.range n).foldl f s

/-- The Map value of a register (R25). -/
def State.mapw (s : State) (r : Reg) (i : Nat := 0) : Word := s.mapv.get regDefault (r.key i)

/-! ### Arrays of units -/

/-- Block b. -/
def State.blkOf (s : State) (b : Nat) : Blk4 := s.blk.get (fun _ => {}) b
/-- Replaces Block b. -/
def State.setBlk (s : State) (b : Nat) (v : Blk4) : State := { s with blk := s.blk.set (fun _ => {}) b v }
/-- Thread t by its device-wide index. -/
def State.thrOf (s : State) (t : Nat) : Thr := s.thr.get (fun _ => {}) t
/-- Replaces thread t. -/
def State.setThr (s : State) (t : Nat) (v : Thr) : State := { s with thr := s.thr.set (fun _ => {}) t v }
/-- Field port n. -/
def State.fpOf (s : State) (n : Nat) : FpUnit := s.fp.get (fun _ => {}) n
/-- Replaces field port n. -/
def State.setFp (s : State) (n : Nat) (v : FpUnit) : State := { s with fp := s.fp.set (fun _ => {}) n v }
/-- Arcade a. -/
def State.arcOf (s : State) (a : Nat) : Arc := s.arc.get (fun _ => {}) a
/-- Replaces Arcade a. -/
def State.setArc (s : State) (a : Nat) (v : Arc) : State := { s with arc := s.arc.set (fun _ => {}) a v }
/-- Lamplighter n. -/
def State.llOf (s : State) (n : Nat) : LlUnit := s.ll.get (fun _ => {}) n
/-- Replaces Lamplighter n. -/
def State.setLl (s : State) (n : Nat) (v : LlUnit) : State := { s with ll := s.ll.set (fun _ => {}) n v }
/-- Pin GPn. -/
def State.pinOf (s : State) (n : Nat) : Pin := s.pin.get (fun _ => {}) n
/-- Replaces pin GPn. -/
def State.setPin (s : State) (n : Nat) (v : Pin) : State := { s with pin := s.pin.set (fun _ => {}) n v }
/-- Crossing cell c. -/
def State.cellOf (s : State) (c : Nat) : XCell := s.xc.get (fun _ => {}) c
/-- Replaces Crossing cell c. -/
def State.setCell (s : State) (c : Nat) (v : XCell) : State := { s with xc := s.xc.set (fun _ => {}) c v }
/-- Quarter q. -/
def State.qOf (s : State) (q : Nat) : Qtr := s.qtr.get (fun _ => {}) q
/-- Replaces Quarter q. -/
def State.setQ (s : State) (q : Nat) (v : Qtr) : State := { s with qtr := s.qtr.set (fun _ => {}) q v }

/-- Records an effect on the outside. -/
def State.emit (s : State) (o : Out) : State := { s with out := o :: s.out }

/-- A fresh free value: the counter moves on (notes/assumptions/2.md). -/
def State.fresh (s : State) : State × Word := ({ s with free := s.free + 1 }, Config.freeWord s.free)

/-! ### Time (R62-R65, R78-R80) -/

/-- The time of the selected domain, in 2^-40 ns. -/
def State.tSel (s : State) : Nat := if s.flag F.CT_CTRL_SEL then s.ct.b.t else s.ct.a.t

/-- LT = T_sel + D in units of 2^-40 ns (R62). -/
def State.lt40 (s : State) : Nat := wrap ((s.tSel : Int) + s.ct.d) 104

/-- The integer nanoseconds of LT. -/
def State.ltNs (s : State) : Nat := s.lt40 / 2 ^ 40

/-- LT as a Milestone in units of 1/256 ns. -/
def State.ltMs (s : State) : Nat := s.lt40 / 2 ^ 32

/-- An interval in units of 1/256 ns has passed since the Milestone `last`, or there is none; LT before it, after a step,
counts as passed. -/
def State.lapsed (s : State) (last : Option Nat) (every : Nat) : Bool :=
  match last with
  | some t => decide (t + every ≤ s.ltMs ∨ s.ltMs < t)
  | none => true

/-- LT in units of 125 ps. -/
def State.lt125 (s : State) : Nat := s.lt40 / 2 ^ 37

/-- The active tick period P in ns (R36). -/
def State.tickPeriod (s : State) : Nat := 4 * s.act F.CT_TICK_PERIOD_PERIOD4

/-- The active tick phase in ns: PHASE4 modulo PERIOD4 (R36). -/
def State.tickPhase (s : State) : Nat :=
  4 * (s.act F.CT_TICK_PHASE_PHASE4 % max 1 (s.act F.CT_TICK_PERIOD_PERIOD4))

/-- The Short Milestone of a Milestone in 1/256 ns (R80). -/
def short (ms : Nat) : Word := w32 (ms / 32)

/-- A Short Milestone S near the reference L, both in units of 125 ps: the procedure that follows R80. -/
def recover (l : Nat) (sm : Word) : Int :=
  (l : Int) + sext (wrap ((sm.toNat : Int) - l) 32) 32

/-- One microsecond in 1/256 ns. -/
def us256 : Nat := 256000

/-! ### Mode and ownership (R363, R436) -/

/-- The operating mode, coded as SYS_MODE.MODE. -/
def State.mode (s : State) : Nat := s.fld F.SYS_MODE_MODE

/-- The kinds of instance that the Map gives to one Quarter (R363). -/
inductive Kind where
  | thread | arcade | cell | lamplighter | pin | fieldPort | twoWire | headLink
deriving DecidableEq, Repr

/-- The key of an instance in the ownership table. -/
def Kind.key (k : Kind) (i : Nat) : Nat := k.ctorIdx * 256 + i

/-- The Quarter that owns an instance. -/
def State.ownerOf (s : State) (k : Kind) (i : Nat) : Nat :=
  match k with
  | .thread => s.fld F.BK_TCFG_OWNQ i
  | _ => s.owner.get (fun _ => 0) (k.key i)

/-- The supervisor Quarter (R359). -/
def State.sup (s : State) : Nat := s.fld F.HP_SUPQ_SUPQ

/-- The Quarter whose rights a requester has: a thread's owner, a function's Quarter, the supervisor for the debug port
(R22, R463). -/
def State.quarterOf (s : State) : Req → Nat
  | .thr t => s.ownerOf .thread t.val
  | .fn q => q.val
  | .dbg => s.sup

/-- The power domains of R15, by bit number. -/
def pdAon : Nat := 0
def pdTime : Nat := 1
def pdB0 : Nat := 2
def pdPlaza : Nat := 6
def pdField : Nat := 7
def pdRing : Nat := 8
def pdHead : Nat := 9
def pdHost : Nat := 10
def pdMem : Nat := 11

/-- Domain i of R15 is powered. -/
def State.powered (s : State) (i : Nat) : Bool := bit (s.fld F.PM_STATUS_DOM) i

/-- The Clocktower is powered, neither in OFF nor in RESET. -/
def State.timePowered (s : State) : Bool := decide (2 ≤ s.mode) && s.powered pdTime

/-- CK_TIME runs: the Clocktower is powered, and after a wake from CURFEW LT has been reconstructed, before which the edge
that R83 waits for has not come. -/
def State.timeRuns (s : State) : Bool := s.timePowered && !s.aon.reconDue

/-! ### The memory code (R392-R400) -/

/-- The instruction caches, and the head-link buffers (R392). -/
def rgCache : Nat := 10
def rgHead : Nat := 11

/-- The word of region 10 in which Block b holds word j of a line in a way of its cache; R392 gives the number of words and
no order (DESIGN CHOICE, notes/assumptions/16.md). -/
def icWord (b way line j : Nat) : Nat := 2048 * b + 1024 * way + 4 * (line % 256) + j

/-- The protected regions of R392. -/
def rgCode (b : Nat) : Nat := b
def rgData (b : Nat) : Nat := 4 + b
def rgMarket : Nat := 8
def rgArc : Nat := 9
def rgBar2 : Nat := 12
def rgPort : Nat := 13
def rgMp : Nat := 14

/-- The number of 64-bit words of a region (R392). -/
def regionWords (r : Nat) : Nat :=
  if r < 4 then 8192 else if r < 8 then 16384
  else match r with
    | 8 => 262144 | 9 => 131072 | 10 => 8192 | 11 => 8192 | 12 => 32768 | 13 => 3392 | 14 => 2144 | _ => 0

/-- The key of word w of a region. -/
def eccKey (rg w : Nat) : Nat := rg * 2 ^ 20 + w

/-- The code state of a word. -/
def State.eccOf (s : State) (rg w : Nat) : Ecc := s.ecc.get (fun _ => {}) (eccKey rg w)

/-- Replaces the code state of a word. -/
def State.setEcc (s : State) (rg w : Nat) (e : Ecc) : State :=
  { s with ecc := s.ecc.set (fun _ => {}) (eccKey rg w) e }

/-- How many bytes of the codeword a set of flipped nibbles touches (R393, R400). -/
def flippedBytes (m : BitVec 24) : Nat :=
  ((List.range 12).filter fun j => m.getLsbD (2 * j) || m.getLsbD (2 * j + 1)).length

/-- What reading a word gives: its data changed by an exclusive-or (0 unless the word is miscorrected), or poison. -/
inductive EccRead where
  | ok (delta : BitVec 64)
  | poison
deriving DecidableEq, Repr

/-- What the decoder makes of flipped nibbles (R393): any two bytes are corrected; of three or more the spec leaves
open whether they are found uncorrectable (none) or miscorrected (the change of the data). -/
def decodeFlips (m : BitVec 24) : Option (BitVec 64) :=
  if flippedBytes m ≤ 2 then some 0 else Config.rsMiscorrects m

/-- Reads the code state of a word (R395): a correction is counted and queued for write-back, an uncorrectable word is
poisoned and recorded, a poisoned word is counted. -/
def State.eccRead (s : State) (rg w : Nat) : State × EccRead :=
  let e := s.eccOf rg w
  if e.psn then (s.bump F.MP_ECC_CNT_PSNRD rg, .poison)
  else if e.flips = 0 then (s, .ok 0)
  else match decodeFlips e.flips with
    | some d =>
      let s := (s.bump F.MP_ECC_CNT_CORR rg).raise F.MP_ECC_STAT_CORR
      let k := eccKey rg w
      ({ s with scrubQ := if s.scrubQ.contains k then s.scrubQ else s.scrubQ ++ [k] }, .ok d)
    | none =>
      let s := (s.bump F.MP_ECC_CNT_UNC rg).raise F.MP_ECC_STAT_UNC
      let s := (s.setFld F.MP_ECC_STAT_LASTREG 0 rg).setFld F.MP_ECC_LASTADDR_WIDX 0 w
      (s.setEcc rg w { e with psn := true }, .poison)

/-- The flips that a write into a region receives from an armed injection, which then disarms (R400). -/
def State.inject (s : State) (rg : Nat) : State × BitVec 24 :=
  if s.flag F.MP_ECC_INJ_ARM ∧ s.fld F.MP_ECC_INJ_REGION = rg then
    (s.setFld F.MP_ECC_INJ_ARM 0 0, BitVec.ofNat 24 (s.fld F.MP_ECC_INJ_NIBMASK))
  else (s, 0)

/-- Writes the code state of a word (R394): a whole-word write always stands; a narrower write first reads the word and
is discarded with PWD set where that read finds poison. Answers whether the data is written and the change to make to
the old data first. A pending write-back of the word is dropped (R397). -/
def State.eccWrite (s : State) (rg w : Nat) (whole : Bool) : State × Option (BitVec 64) :=
  let s := { s with scrubQ := s.scrubQ.filter (· ≠ eccKey rg w) }
  let e := s.eccOf rg w
  if whole then
    let (s, f) := s.inject rg
    (s.setEcc rg w { flips := f, psn := false }, some 0)
  else if e.psn then (s.raise F.MP_ECC_STAT_PWD, none)
  else match decodeFlips e.flips with
    | some d =>
      let (s, f) := s.inject rg
      (s.setEcc rg w { flips := f, psn := false }, some d)
    | none => ((s.raise F.MP_ECC_STAT_PWD).setEcc rg w { e with psn := true }, none)

/-! ### The byte memories: TCMs, Market, Arcade store -/

/-- The key of a byte of a region. -/
def memKey (rg off : Nat) : Nat := rg * 2 ^ 24 + off

/-- A byte of memory; memory reads 0 where nothing has been written (R398). -/
def State.byte (s : State) (rg off : Nat) : Byte := s.mem.get (fun _ => 0) (memKey rg off)

/-- Replaces a byte of memory. -/
def State.setByte (s : State) (rg off : Nat) (b : Byte) : State :=
  { s with mem := s.mem.set (fun _ => 0) (memKey rg off) b }

/-- n bytes from an offset, least significant first, as a number (no code, no effect). -/
def State.peek (s : State) (rg off : Nat) : Nat → Nat
  | 0 => 0
  | n + 1 => (s.byte rg off).toNat + 256 * s.peek rg (off + 1) n

/-- Writes n bytes of a number from an offset, least significant first (no code). -/
def State.poke (s : State) (rg off : Nat) : Nat → Nat → State
  | 0, _ => s
  | n + 1, v => (s.setByte rg off (BitVec.ofNat 8 v)).poke rg (off + 1) n (v / 256)

/-- Changes the data of word w by an exclusive-or. -/
def State.flipWord (s : State) (rg w : Nat) (d : BitVec 64) : State :=
  if d = 0 then s else s.poke rg (8 * w) 8 (BitVec.ofNat 64 (s.peek rg (8 * w) 8) ^^^ d).toNat

/-- Reads n bytes that lie in one word: the value, or none where the word is poisoned (R395). -/
def State.memRead (s : State) (rg off n : Nat) : State × Option Nat :=
  match s.eccRead rg (off / 8) with
  | (s, .poison) => (s, none)
  | (s, .ok d) => (s, some ((s.peek rg off n ^^^ (d.toNat / 2 ^ (8 * (off % 8)))) % 2 ^ (8 * n)))

/-- n bytes of a word that one access has read already: the value, or none where the word is poisoned. -/
def State.memSame (s : State) (rg off n : Nat) : Option Nat :=
  let e := s.eccOf rg (off / 8)
  if e.psn then none
  else (decodeFlips e.flips).map fun d => (s.peek rg off n ^^^ (d.toNat / 2 ^ (8 * (off % 8)))) % 2 ^ (8 * n)

/-- Writes n bytes that lie in one word (R394). -/
def State.memWrite (s : State) (rg off n v : Nat) : State :=
  match s.eccWrite rg (off / 8) (n == 8) with
  | (s, none) => s
  | (s, some d) => (s.flipWord rg (off / 8) d).poke rg off n v

/-! ### Port and memory-port buffers (R392, R395) -/

/-- The region of a buffer register. -/
def bufRegion (r : Reg) : Nat :=
  match r with
  | .MP1_PGBUF | .MP1_BBT => rgMp
  | _ => rgPort

/-- The word of its region that holds element i of a buffer (notes/assumptions/13.md). -/
def portEcc (r : Reg) (i : Nat) : Nat :=
  match r with
  | .FP_TXBUF => i / 2
  | .TW_TXBUF => 3072 + i / 2
  | .TW_TGTBUF => 3104 + i / 2
  | .MP1_PGBUF => 32 + i / 2
  | .MP1_BBT => 1120 + i / 2
  | _ => 3136 + i / 2

/-- A register that stands in a protected buffer. -/
def Reg.isBuf (r : Reg) : Bool :=
  match r with
  | .FP_TXBUF | .TW_TXBUF | .TW_TGTBUF | .RG_SLOTBUF | .MP1_PGBUF | .MP1_BBT => true
  | _ => false

/-- A word of a buffer: none where it is poisoned (R395). -/
def State.bufRead (s : State) (r : Reg) (i : Nat) : State × Option Word :=
  match s.eccRead (bufRegion r) (portEcc r i) with
  | (s, .poison) => (s, none)
  | (s, .ok d) => (s, some (s.reg r i ^^^ w32 (d.toNat / 2 ^ (32 * (i % 2)))))

/-- A port reads a word of its own buffer: 0xFFFF_FFFF in place of a poisoned one (R395). -/
def State.portWord (s : State) (r : Reg) (i : Nat) : State × Word :=
  match s.bufRead r i with
  | (s, w) => (s, w.getD 0xFFFFFFFF)

/-- A port reads words of its own buffer, in order. -/
def State.portWords (s : State) (r : Reg) (l : List Nat) : State × List Word :=
  l.foldl (fun a i =>
    let (s, w) := a.1.portWord r i
    (s, a.2 ++ [w])) (s, [])

/-- A write of an element of a buffer (R394): narrower than a whole word, so discarded where the word is poisoned. -/
def State.portWrite (s : State) (r : Reg) (i : Nat) (w : Word) : State :=
  match s.eccWrite (bufRegion r) (portEcc r i) false with
  | (s, none) => s
  | (s, some d) =>
    let j := if i % 2 = 0 then i + 1 else i - 1
    let s := if d = 0 then s else s.setReg r j (s.reg r j ^^^ w32 (d.toNat / 2 ^ (32 * (j % 2))))
    s.setReg r i w

/-! ### BAR 2, messages and notices (R366, R372, R377) -/

/-- The key of a word of BAR 2 of function q. -/
def bar2Key (q off : Nat) : Nat := q * 16384 + off / 4

/-- What an unwritten word of BAR 2 holds: 0, and 1 (masked) in the vector control words of the MSI-X table. -/
def bar2Default (k : Nat) : Word :=
  let off := k % 16384 * 4
  if 0xF000 ≤ off ∧ off < 0xF100 ∧ off % 16 = 12 then 1 else 0

/-- A word of BAR 2. -/
def State.bar2Word (s : State) (q off : Nat) : Word := s.bar2.get bar2Default (bar2Key q off)

/-- Replaces a word of BAR 2. -/
def State.setBar2 (s : State) (q off : Nat) (w : Word) : State :=
  { s with bar2 := s.bar2.set bar2Default (bar2Key q off) w }

/-- The word of region 12 that holds an offset of BAR 2 of function q. -/
def bar2Ecc (q off : Nat) : Nat := q * 8192 + off / 8

/-- The device, or a completion, reads a word of BAR 2: none where it is poisoned (R395). -/
def State.bar2Read (s : State) (q off : Nat) : State × Option Word :=
  match s.eccRead rgBar2 (bar2Ecc q off) with
  | (s, .poison) => (s, none)
  | (s, .ok d) => (s, some (s.bar2Word q off ^^^ w32 (d.toNat / 2 ^ (8 * (off % 8)))))

/-- The host port reads its own memory: 0xFFFF_FFFF in place of a poisoned word (R395). -/
def State.bar2Own (s : State) (q off : Nat) : State × Word :=
  match s.bar2Read q off with
  | (s, w) => (s, w.getD 0xFFFFFFFF)

/-- A write of one word of BAR 2, narrower than a protected word (R394). -/
def State.bar2Poke (s : State) (q off : Nat) (w : Word) : State :=
  match s.eccWrite rgBar2 (bar2Ecc q off) false with
  | (s, none) => s
  | (s, some d) =>
    let o := if off % 8 = 0 then off + 4 else off - 4
    let s := if d = 0 then s else s.setBar2 q o (s.bar2Word q o ^^^ w32 (d.toNat / 2 ^ (8 * (o % 8))))
    s.setBar2 q off w

/-- A write of a whole protected word of BAR 2, from an offset that is a multiple of 8. -/
def State.bar2Pair (s : State) (q off : Nat) (lo hi : Word) : State :=
  (((s.eccWrite rgBar2 (bar2Ecc q off) true).1).setBar2 q off lo).setBar2 q (off + 4) hi

/-- Function q may send the message of a vector now (R377). -/
def State.mayMsg (s : State) (q vec : Nat) : Bool :=
  let u := s.qOf q
  u.busMaster && u.msixEn && !u.fmask && !(bit (s.bar2Word q (0xF00C + 16 * vec)).toNat 0)

/-- Sends the message of a vector: a posted write of the data to the address of its entry of the MSI-X table (R377). -/
def State.sendMsg (s : State) (q vec : Nat) : State :=
  let w (k : Nat) := s.bar2Word q (0xF000 + 16 * vec + 4 * k)
  s.emit (.msix q vec ((w 0).toNat + 2 ^ 32 * (w 1).toNat) (w 2))

/-- Raises the message of a vector: it is sent, or its pending bit is set (R377). -/
def State.message (s : State) (q vec : Nat) : State :=
  if s.mayMsg q vec then s.sendMsg q vec
  else
    let u := s.qOf q
    s.setQ q { u with msixPend := if u.msixPend.contains vec then u.msixPend else vec :: u.msixPend }

/-- Writes a notice into a Quarter's ring, or counts it lost where 256 are unread (R372). -/
def State.notice (s : State) (q kind detail inst ms : Nat) (w2 : Word) : State :=
  let u := s.qOf q
  let s := s.setQ q { u with seqN := (u.seqN + 1) % 65536 }
  let npi := s.fld F.HP_NPI_IDX q
  if wrap ((npi : Int) - s.fld F.HP_NCI_IDX q) 16 ≥ 256 then
    (s.bump F.HP_NLOST_N q).raise F.HP_QSTAT_NOVF q
  else
    let o := 0x2000 + 16 * (npi % 256)
    let s := s.bar2Pair q o (w32 (kind * 2 ^ 24 + detail % 256 * 2 ^ 16 + inst % 65536)) (short ms)
    let s := s.bar2Pair q (o + 8) w2 (w32 u.seqN)
    let s := s.setFld F.HP_NPI_IDX q ((npi + 1) % 65536)
    s.message q (s.fld F.HP_VMAP_NOTV q)

/-- Flags an access refused by Quarter filtering (R364): FLT, HP_FLTADDR, and the first of a tick writes a notice. -/
def State.refuse (s : State) (r : Req) (write : Bool) (off : Nat) : State :=
  let q := s.quarterOf r
  let s := s.raise F.HP_QSTAT_FLT q
  let s := s.setFld F.HP_FLTADDR_W q (if write then 1 else 0)
  let s := s.setFld F.HP_FLTADDR_THR q (match r with | .thr _ => 1 | _ => 0)
  let s := s.setFld F.HP_FLTADDR_OFS q off
  let u := s.qOf q
  if u.fltTick then s
  else (s.setQ q { u with fltTick := true }).notice q 5 (if write then 1 else 0) 0 s.ltMs (s.reg .HP_FLTADDR q)

/-- A write of a whole protected word of a buffer, from an even element (R394). -/
def State.portPair (s : State) (r : Reg) (i : Nat) (lo hi : Word) : State :=
  (((s.eccWrite (bufRegion r) (portEcc r i) true).1).setReg r i lo).setReg r (i + 1) hi

/-! ### CRC-32 (R335) -/

/-- One byte of the reflected IEEE 802.3 CRC. -/
def crcByte (c b : Nat) : Nat :=
  (List.range 8).foldl (fun c _ => if c % 2 = 1 then Nat.xor (c / 2) 0xEDB88320 else c / 2) (Nat.xor c b)

/-- The CRC-32 of IEEE 802.3, reflected, initial value and final exclusive-or 0xFFFF_FFFF. -/
def crc32 (l : List Nat) : Nat := Nat.xor (l.foldl crcByte 0xFFFFFFFF) 0xFFFFFFFF

/-- The n bytes of a number, least significant first. -/
def leBytes (n v : Nat) : List Nat := (List.range n).map fun i => v / 256 ^ i % 256

/-- A number from bytes, least significant first. -/
def fromLe (l : List Nat) : Nat := l.foldr (fun b a => b + 256 * a) 0

/-! ### Packets and the Plaza (R183, R184, R217, R218) -/

/-- The destinations of the enabled route entries of a stream, each once (R183). -/
def State.routesOf (s : State) (typ idx : Nat) : List Nat :=
  ((List.range 256).flatMap fun i =>
    if s.actB F.PZ_RSRC_EN i ∧ s.act F.PZ_RSRC_TYPE i = typ ∧ s.act F.PZ_RSRC_INDEX i = idx then
      [s.act F.PZ_RDST_D0 i, s.act F.PZ_RDST_D1 i, s.act F.PZ_RDST_D2 i]
    else []).eraseDups

/-- The stream has an enabled entry. -/
def State.routed (s : State) (typ idx : Nat) : Bool :=
  (List.range 256).any fun i =>
    s.actB F.PZ_RSRC_EN i && s.act F.PZ_RSRC_TYPE i == typ && s.act F.PZ_RSRC_INDEX i == idx

/-- Presents a packet to the Plaza, which looks up its routes at once (R184). -/
def State.present (s : State) (p : Packet) : State :=
  { s with presented := s.presented ++
      [{ p with dests := if s.routed p.typ p.idx then some (s.routesOf p.typ p.idx) else none }] }

/-- A packet's header word as its producer writes it (R218). -/
def Packet.header (p : Packet) : Word :=
  w32 (p.typ % 16 * 2 ^ 28 + p.idx % 256 * 2 ^ 20 + (if p.late then 2 ^ 18 else 0) + p.payload.length % 65536)

/-! ### Pins (R249, R252, R323) -/

/-- The output register bit of GPn. -/
def State.gpOut (s : State) (n : Nat) : Bool := bit (s.reg .GP_OUT (n / 32)).toNat (n % 32)

/-- Replaces the output register bit of GPn. -/
def State.setGpOut (s : State) (n : Nat) (v : Bool) : State :=
  let w := (s.reg .GP_OUT (n / 32)).toNat
  let m := 2 ^ (n % 32)
  s.setReg .GP_OUT (n / 32) (w32 (if v then w ||| m else w - (w &&& m)))

/-! ### Thread releases (R44-R48, R52, R56) -/

/-- Thread t is used by the Map. -/
def State.thrUsed (s : State) (t : Nat) : Bool := s.flag F.BK_TCFG_EN t
/-- Thread t is an Avenue thread. -/
def State.avenue (s : State) (t : Nat) : Bool := s.flag F.BK_TCFG_CLASS t

/-- A thread in one of these states is in an activation. -/
def ThrSt.inAct : ThrSt → Bool
  | .active | .parked | .suspended => true
  | .waiting | .stopped => false

/-- The Avenue threads of Block b in an activation. -/
def State.avenueCount (s : State) (b : Nat) : Nat :=
  ((List.range 16).filter fun j =>
    let t := 16 * b + j
    s.thrUsed t && s.avenue t && (s.thrOf t).st.inAct).length

/-- Sets CONC for every Avenue thread of Block b in an activation whose nA_t is exceeded (R56). This is looked at as an
activation begins: software that clears CONC while the excess lasts does not find it set again by that excess (DESIGN CHOICE,
notes/assumptions/186.md). -/
def State.checkConc (s : State) (b : Nat) : State :=
  let n := s.avenueCount b
  (List.range 16).foldl (fun s j =>
    let t := 16 * b + j
    s.raiseIf (s.thrUsed t && s.avenue t && (s.thrOf t).st.inAct && decide (s.fld F.BK_ADMIT_NA t < n))
      F.BK_TSTAT_CONC t) s

/-- A new activation of thread t begins. -/
def State.beginActivation (s : State) (t : Nat) : State :=
  let s := s.setThr t { s.thrOf t with st := .active, waitTick := false, feed := none }
  s.checkConc (t / 16)

/-- A wake is presented for thread t (R46, R47, R308, R309): it begins an activation, sets the pending bit, or is lost.
A wake before the Map takes effect is no release (R297). -/
def State.wakeThread (s : State) (t : Nat) : State :=
  let th := s.thrOf t
  if ¬ s.thrUsed t ∨ s.mode = 2 then s
  else match th.st with
    | .stopped => if s.avenue t then s.bump F.BK_TSTAT_LOST t else s
    | .waiting =>
      if ¬ th.waitTick then s.beginActivation t
      else if th.pend then s.bump F.BK_TSTAT_LOST t else s.setThr t { th with pend := true }
    | _ => if th.pend then s.bump F.BK_TSTAT_LOST t else s.setThr t { th with pend := true }

/-- An entry signal for thread t (R299, R301, R309). -/
def State.signalThread (s : State) (t : Nat) : State :=
  let th := s.thrOf t
  if ¬ s.thrUsed t ∨ s.avenue t ∨ th.st = .stopped then s else s.setThr t { th with entPend := true }

end Sys2Proof.Machine
end

