-- ==== Sys2Proof/Machine/Arcades.lean ====
section
/-! DEFINITION. The Arcades (10_arcades): storing, handing over, reading, overwriting, flushing and abandoning. -/

namespace Sys2Proof.Machine

/-- The capacity of Arcade a in items (R222). -/
def State.arcCap (s : State) (a : Nat) : Nat := 512 * s.act F.ARC_REGION_SIZE a

/-- QL = 512 × min(QCAP, SIZE) (R226). -/
def State.arcQl (s : State) (a : Nat) : Nat := 512 * min (s.fld F.ARC_QCAP_QCAP a) (s.act F.ARC_REGION_SIZE a)

/-- The item of the store that position x of Arcade a occupies (R222). -/
def State.arcItem (s : State) (a x : Nat) : Nat := 512 * s.act F.ARC_REGION_BASE a + x % max 1 (s.arcCap a)

/-- The level W − Rd (R222). -/
def Arc.level (c : Arc) : Nat := c.w - c.rd

/-- LIM after a change of the level (R233). -/
def Arc.follow (c : Arc) (ql : Nat) : Arc := { c with lim := max ql (min c.lim c.level) }

/-- Where the consumer goes on after a packet: the next packet that stands, else the open packet, else W. -/
def Arc.nextStart (c : Arc) : Nat :=
  match c.pkts, c.opn with
  | (st, _) :: _, _ => st
  | [], some (st, _) => st
  | [], none => c.w

/-- The positions follow what has been read or has gone (R222, R225): passed packets leave, at a packet boundary Rd stands at the
next packet, and cut-through ends where Rd has reached its end. -/
def Arc.settle (c : Arc) : Arc :=
  let c := { c with cur := c.cur.filter fun e => decide (c.rd < e), pkts := c.pkts.dropWhile fun p => decide (p.2 ≤ c.rd) }
  let c := if c.cur.isNone then { c with rd := c.nextStart } else c
  { c with ct := c.ct.filter fun e => decide (c.rd < e) }

/-- How many items of a discarded packet of thread t still come (R229, R235). -/
def Arc.dumpOf (c : Arc) (t : Nat) : Nat := ((c.dump.find? fun d => d.1 == t).map (·.2)).getD 0

/-- n items of a discarded packet of thread t still come. -/
def Arc.withDump (c : Arc) (t n : Nat) : Arc :=
  { c with dump := (if n = 0 then [] else [(t, n)]) ++ c.dump.filter fun d => d.1 != t }

/-- The items of the open packet that have not come, where a thread writes it, are discarded as they come (R229, R235). -/
def Arc.dumpOpen (c : Arc) : Arc :=
  match c.opn, c.by_ with
  | some (st, len), some t => c.withDump t (st + len - c.w)
  | _, _ => c

/-- Counts n items of Arcade a lost (R226, R229, R230). -/
def State.arcLose (s : State) (a n : Nat) : State :=
  let c := s.arcOf a
  (s.setArc a { c with gap := c.gap + n }).bump F.ARC_LOST_LOST a n

/-- Cut-through engages where Rd ≥ REL and an open packet has CTTH of its items stored (R225). -/
def State.arcEngage (s : State) (a : Nat) : State :=
  let c := s.arcOf a
  match c.ct, c.opn with
  | none, some (st, len) =>
    if s.actB F.ARC_CFG_CTEN a ∧ c.rel ≤ c.rd ∧ s.act F.ARC_CFG_CTTH a ≤ c.w - st then
      s.setArc a { c with ct := some (st + len) }
    else s
  | _, _ => s

/-- What follows every change of the positions of Arcade a: they settle, LIM follows the level (R233), and cut-through is
evaluated (R225). -/
def State.arcSettle (s : State) (a : Nat) : State :=
  (s.setArc a ((s.arcOf a).settle.follow (s.arcQl a))).arcEngage a

/-- A new quota of Arcade a takes effect (R233): LIM := max(QL, level). -/
def State.arcQuota (s : State) (a : Nat) : State :=
  let c := s.arcOf a
  s.setArc a { c with lim := max (s.arcQl a) c.level }

/-- The items of the packet at Rd are invalidated and Rd moves to its end (R226, R227): the consumer's framing is kept where it
has read the header. An open packet is invalidated whole, and the rest of it is discarded and lost (R229). -/
def State.arcOverwrite (s : State) (a : Nat) : State :=
  let c := s.arcOf a
  let cut (c : Arc) (n : Nat) : Arc :=
    if c.cur.isSome then { c with fill := c.fill + n, gapCut := true, cur := none } else c
  let f := if a < 32 then F.ARC_OVWN0_OVW else F.ARC_OVWN1_OVW
  let s := (s.raise F.ARC_STAT_OVW a).setFld f 0 (s.fld f 0 ||| 2 ^ (a % 32))
  match c.pkts, c.opn with
  | (_, en) :: ps, _ => (s.setArc a ({ cut c (en - c.rd) with pkts := ps, rd := en }).settle).arcLose a (en - c.rd)
  | [], some (st, len) =>
    let n := st + len - c.rd
    (s.setArc a ({ cut c.dumpOpen n with opn := none, by_ := none, rd := c.w }).settle).arcLose a n
  | [], none => s.setArc a { c with rd := c.w }

/-- Before position W is written (R226): where the level has reached LIM, the packet at Rd gives way. -/
def State.arcRoom (s : State) (a : Nat) : State :=
  let c := s.arcOf a
  if c.level ≥ c.lim then
    let s := s.arcOverwrite a
    s.setArc a ((s.arcOf a).follow (s.arcQl a))
  else s

/-- W advances by one item of the open packet (R226, R233); nothing where an overwrite has invalidated it. -/
def State.arcAdvance (s : State) (a : Nat) : State :=
  let s := s.arcRoom a
  let c := s.arcOf a
  if c.opn.isNone then s else s.setArc a (({ c with w := c.w + 1 } : Arc).follow (s.arcQl a))

/-- Writes one item of the open packet at W, as one half of its word (R185, R226). -/
def State.arcPut (s : State) (a : Nat) (v : Word) : State :=
  let s := s.arcAdvance a
  let c := s.arcOf a
  if c.opn.isNone then s else (s.memWrite rgArc (4 * s.arcItem a (c.w - 1)) 4 v.toNat).arcSettle a

/-- Writes two items of the open packet at W, which is even, as one whole word (R185). -/
def State.arcPut2 (s : State) (a : Nat) (v u : Word) : State :=
  let s := (s.arcAdvance a).arcAdvance a
  let c := s.arcOf a
  if c.opn.isNone then s
  else (s.memWrite rgArc (4 * s.arcItem a (c.w - 2)) 8 (v.toNat + 2 ^ 32 * u.toNat)).arcSettle a

/-- Writes items of the open packet that come together (R185): two that fill a word of the store as one write (DESIGN CHOICE,
notes/assumptions/194.md). -/
def State.arcPuts (s : State) (a : Nat) : List Word → State
  | [] => s
  | [v] => if (s.arcOf a).opn.isNone then s else s.arcPut a v
  | v :: u :: vs =>
    let c := s.arcOf a
    if c.opn.isNone then s
    else if c.w % 2 = 0 then (s.arcPut2 a v u).arcPuts a vs
    else (s.arcPut a v).arcPuts a (u :: vs)

/-- Sets a bit of the stored header of the packet that starts at position st. -/
def State.arcMark (s : State) (a st b : Nat) : State :=
  let o := 4 * s.arcItem a st
  s.memWrite rgArc o 4 (s.peek rgArc o 4 ||| 2 ^ b)

/-- A packet closes at its end (R223, R231, R232): it is counted, a pending flush discards it where the consumer has not begun it,
a bank it completes is handed over, and the idle timer starts with the first packet beyond REL. -/
def State.arcClose (s : State) (a st en : Nat) : State :=
  let c := s.arcOf a
  let h := max 1 (s.arcCap a / 2)
  let handed := c.pc / h < en / h
  let drop := c.flp && c.cur != some en && decide (c.rd < en)
  let s := s.setArc a { c with opn := none, by_ := none, pc := en, flp := false,
                               pkts := if drop then c.pkts else c.pkts ++ [(st, en)],
                               rel := if handed then en else c.rel,
                               idle := if handed then none else if c.idle.isNone then some s.ltMs else c.idle }
  let s := (s.arcSettle a).bump F.ARC_CNT_PKTN a
  if drop then s.bump F.ARC_CNT_FLUSHN a else s

/-- The open packet of Arcade a closes where its last item is stored. -/
def State.arcDone (s : State) (a : Nat) : State :=
  let c := s.arcOf a
  match c.opn with
  | some (st, len) => if c.w = st + len then s.arcClose a st c.w else s
  | none => s

/-- Opens a packet of len items whose header arrives from a thread or a route (R229): one that exceeds LIM is lost whole. Answers
whether it is stored. -/
def State.arcOpen (s : State) (a len : Nat) (t : Option Nat) : State × Bool :=
  let c := s.arcOf a
  if len > c.lim then ((s.raise F.ARC_STAT_TOOLONG a).arcLose a len, false)
  else (s.setArc a { c with opn := some (c.w, len), by_ := t }, true)

/-- A routed packet reaches Arcade a (R220, R235): stored whole, refused where PROD is 1, or discarded as unrouted where
the Arcade is not enabled. -/
def State.arcStore (s : State) (a : Nat) (p : Packet) : State :=
  if ¬ (s.arcOf a).act then (s.bump F.PZ_UNROUTED_UNRN).raise F.PZ_STATUS_UNRT
  else if s.actB F.ARC_CFG_PROD a then s.raise F.ARC_STAT_PREF a
  else
    let items := p.header :: short p.ms :: p.payload
    let (s, ok) := s.arcOpen a items.length none
    if ok then (s.arcPuts a items).arcDone a else s

/-- The thread that may write Arcade a (R221). -/
def State.arcProducer (s : State) (a : Nat) : Nat := 16 * s.act F.ARC_CFG_PBLK a + s.act F.ARC_CFG_PTHR a

/-- The thread that may read Arcade a (R224). -/
def State.arcConsumer (s : State) (a : Nat) : Nat := 16 * s.act F.ARC_CFG_CBLK a + s.act F.ARC_CFG_CTHR a

/-- Thread t may write Arcade a: enabled, PROD 1 and named (R221, R235). -/
def State.mayOut (s : State) (t a : Nat) : Bool :=
  (s.arcOf a).act && s.actB F.ARC_CFG_PROD a && s.arcProducer a == t

/-- Thread t may read Arcade a: enabled, CONS 0 and named (R224, R235). -/
def State.mayIn (s : State) (t a : Nat) : Bool :=
  (s.arcOf a).act && s.act F.ARC_CFG_CONS a == 0 && s.arcConsumer a == t

/-- Flags an access to Arcade a by a thread that it does not name (R221, R224). -/
def State.arcRefuse (s : State) (a : Nat) (named : Bool) : State := s.raiseIf (!named) F.ARC_STAT_RDREF a

/-- One item of the producer thread t arrives (R221): the first is a header, stored with type 0x7 and the thread's index
and, in the same cycle, the Short Milestone; the packet closes with its last item. Items of a discarded packet are dropped, and so
is one of a thread that the Arcade does not name any more (R234, notes/assumptions/195.md). -/
def State.arcOut (s : State) (a t : Nat) (v : Word) : State :=
  let c := s.arcOf a
  if ¬ s.mayOut t a then s.arcRefuse a (s.actB F.ARC_CFG_PROD a && s.arcProducer a == t)
  else if 0 < c.dumpOf t then s.setArc a (c.withDump t (c.dumpOf t - 1))
  else if c.opn.isSome then
    let s := s.arcPut a v
    let c := s.arcOf a
    if c.opn.isNone then s.setArc a (c.withDump t (c.dumpOf t - 1)) else s.arcDone a
  else
    let l := v.toNat % 65536
    let hd := w32 (7 * 2 ^ 28 + t * 2 ^ 20 + bits v.toNat 18 18 * 2 ^ 18 + l)
    let (s, ok) := s.arcOpen a (l + 2) (some t)
    if ¬ ok then s.setArc a ((s.arcOf a).withDump t l)
    else
      let s := s.arcPuts a [hd, short s.ltMs]
      let c := s.arcOf a
      if c.opn.isNone then s.setArc a (c.withDump t l) else s.arcDone a

/-- The open packet that thread t writes into Arcade a is abandoned (R230): it closes at once, with its stored length and the
damaged bit, or with fill items and a marker for what was never written where the consumer has its header. -/
def State.arcAbandon (s : State) (a t : Nat) : State :=
  let c := s.arcOf a
  match c.opn with
  | some (st, len) =>
    if c.by_ ≠ some t then s.setArc a (c.withDump t 0)
    else if c.cur = some (st + len) then
      let n := st + len - c.w
      ((s.setArc a { c with cur := some c.w, fill := c.fill + n, gapCut := true,
                            ct := c.ct.map fun e => min e c.w }).arcLose a n).arcClose a st c.w
    else
      let o := 4 * s.arcItem a st
      let hd := s.peek rgArc o 4
      let s := s.memWrite rgArc o 4 (hd / 65536 * 65536 ||| 65536 ||| (c.w - st - 2))
      (s.setArc a { c with ct := c.ct.map fun e => min e c.w }).arcClose a st c.w
  | none => s.setArc a (c.withDump t 0)

/-- Abandons the open packets of thread t. -/
def State.arcAbandonBy (s : State) (t : Nat) : State :=
  ((List.range 64).filter fun a => (s.arcOf a).by_ == some t || decide (0 < (s.arcOf a).dumpOf t)).foldl
    (fun s a => s.arcAbandon a t) s

/-- The end of the readable positions: REL, or W while cut-through is engaged (R224, R225). -/
def Arc.limit (c : Arc) : Nat := if c.ct.isSome then c.w else c.rel

/-- The packets that the store holds as (start, end), the stored part of the open one last. -/
def Arc.spans (c : Arc) : List (Nat × Nat) := c.pkts ++ (c.opn.map fun o => (o.1, c.w)).toList

/-- How many items the consumer can read now (R224, R227, R228): those of the packets below the limit, and, where it comes to a
packet boundary, the pending fill items and GAP markers. -/
def Arc.readable (c : Arc) : Nat :=
  let ends := match c.cur with
    | some e => decide (e ≤ c.limit)
    | none => true
  (if ends then c.fill + (c.gap + 65534) / 65535 else 0) + (c.spans.map fun p => min p.2 c.limit - max p.1 c.rd).sum

/-- What reading one item of Arcade a gives. -/
inductive ArcRead where
  | none                       -- nothing is readable
  | item (v : Word)
  | poison (item : Nat)        -- the poisoned item's index in the store
deriving DecidableEq, Repr

/-- What the consumer reads next: a fill item, a GAP marker in place of a header, or the item at Rd (R227). -/
inductive ArcNext where
  | fill | gap | item | none
deriving DecidableEq, Repr

/-- What the consumer of an Arcade reads next. -/
def Arc.next (c : Arc) : ArcNext :=
  if c.cur.isNone ∧ 0 < c.fill then .fill
  else if c.cur.isNone ∧ 0 < c.gap then .gap
  else if c.rd < c.limit then .item
  else .none

/-- The end of the packet at Rd. -/
def Arc.endAt (c : Arc) : Option Nat :=
  match c.pkts, c.opn with
  | (_, en) :: _, _ => some en
  | [], some (st, len) => some (st + len)
  | [], none => none

/-- Reads one item (R224-R228, R233): a fill item, a GAP marker in place of a header, or the item at Rd. A poisoned item
is consumed. `again`: the item comes with the access that read the other half of its word (R185). -/
def State.arcGet (s : State) (a : Nat) (again : Bool := false) : State × ArcRead :=
  let c := s.arcOf a
  match c.next with
  | .fill => (s.setArc a { c with fill := c.fill - 1 }, .item 0xF0000000)
  | .gap =>
    let n := min c.gap 65535
    (s.setArc a { c with gap := c.gap - n, gapCut := false }, .item (w32 (0xF0000000 + (if c.gapCut then 2 ^ 20 else 0) + n)))
  | .item =>
    let it := s.arcItem a c.rd
    let hdr := c.cur.isNone
    let (s, v) := if again then (s, s.memSame rgArc (4 * it) 4) else s.memRead rgArc (4 * it) 4
    let s := (s.setArc a { c with rd := c.rd + 1, cur := if hdr then c.endAt else c.cur }).arcSettle a
    match v with
    | some v => (s, .item (w32 (if hdr ∧ c.ct.isSome then v ||| 2 ^ 17 else v)))
    | none => (s, .poison it)
  | .none => (s, .none)

/-- Empties Arcade a (R235): positions and markers go, nothing is lost; the items still to come of an open thread packet
are discarded as they arrive. -/
def State.arcEmpty (s : State) (a : Nat) : State :=
  let c := (s.arcOf a).dumpOpen
  s.setArc a { lim := s.arcQl a, dump := c.dump, act := c.act }

/-- FLUSH (R232): complete packets not begun are discarded and counted; the flush stays pending to the next close. -/
def State.arcFlush (s : State) (a : Nat) : State :=
  let c := s.arcOf a
  if c.flp then s
  else
    let keep := c.pkts.filter fun p => c.cur = some p.2
    ((s.setArc a { c with pkts := keep, flp := true }).arcSettle a).bump F.ARC_CNT_FLUSHN a (c.pkts.length - keep.length)

/-- The idle timer of Arcade a has run for TIDLE µs of LT (R231). -/
def State.arcIdleDue (s : State) (a : Nat) : Bool :=
  let c := s.arcOf a
  match c.idle with
  | some t0 => c.act && s.act F.ARC_TIDLE_TIDLE a != 0 && decide (c.rel < c.pc)
      && decide (t0 + s.act F.ARC_TIDLE_TIDLE a * us256 ≤ s.ltMs)
  | none => false

/-- ARCADE_IDLE_TIMEOUT (R231, R372): the closed tail is released, bit 19 is set in the header of the last packet so
released, the Arcade's bit is set in ARC_IDLEN and its Quarter gets an IDLE notice; nothing before the timer has run
out. -/
def execArcadeIdleTimeout (a : Fin 64) (s : State) : Host.Outcome State Fault Refusal :=
  if ¬ s.arcIdleDue a then .next s
  else
    let c := s.arcOf a
    let s := match c.pkts.getLast? with
      | some (st, en) => if c.rel < en then s.arcMark a st 19 else s
      | none => s
    let s := s.setArc a { c with rel := c.pc, idle := none }
    let f := if a.val < 32 then F.ARC_IDLEN0_IDLE else F.ARC_IDLEN1_IDLE
    let s := s.setFld f 0 (s.fld f 0 ||| 2 ^ (a.val % 32))
    .next (s.notice (s.ownerOf .arcade a) 4 0 a s.ltMs (w32 (s.arcOf a).level))

end Sys2Proof.Machine
end

