-- ==== Sys2Proof/Machine/Flags.lean ====
section
/-! DEFINITION. The arithmetic of the stack instructions: each result with the flags a Lane thread's instruction leaves
(R284, R287, R291, R316). -/

namespace Sys2Proof.Machine

/-- Z and N from a result (R287). -/
def Flags.zn (f : Flags) (r : Word) : Flags := { f with z := r == 0, n := r.msb }

/-- a + b + k with all four flags: the carry out of bit 31, and signed overflow (R287). -/
def addc (a b : Word) (k : Bool) (f : Flags) : Word × Flags :=
  let r := a + b + (if k then 1 else 0)
  (r, { f.zn r with
    c := decide (a.toNat + b.toNat + k.toNat ≥ 2 ^ 32),
    v := decide (a.toInt + b.toInt + (k.toNat : Int) ≠ r.toInt) })

/-- a − b − w with all four flags: C is 1 where no borrow occurred (R287). -/
def subb (a b : Word) (w : Bool) (f : Flags) : Word × Flags :=
  let r := a - b - (if w then 1 else 0)
  (r, { f.zn r with
    c := decide (b.toNat + w.toNat ≤ a.toNat),
    v := decide (a.toInt - b.toInt - (w.toNat : Int) ≠ r.toInt) })

/-- ADD (R316). -/
def aluAdd (a b : Word) (f : Flags) : Word × Flags := addc a b false f
/-- ADC adds C (R287). -/
def aluAdc (a b : Word) (f : Flags) : Word × Flags := addc a b f.c f
/-- SUB and CMP (R316). -/
def aluSub (a b : Word) (f : Flags) : Word × Flags := subb a b false f
/-- SBC subtracts 1 − C (R287). -/
def aluSbc (a b : Word) (f : Flags) : Word × Flags := subb a b (!f.c) f

/-- A result that sets Z and N only (R287). -/
def withZN (r : Word) (f : Flags) : Word × Flags := (r, f.zn r)

/-- The low 32 bits of a product. -/
def mulLow (a b : Word) : Word := a * b
/-- The high 32 bits of the signed 64-bit product (R316). -/
def mulHigh (a b : Word) : Word := BitVec.ofInt 32 (a.toInt * b.toInt / 2 ^ 32)
/-- The high 32 bits of the unsigned 64-bit product (R316). -/
def mulHighU (a b : Word) : Word := BitVec.ofNat 32 (a.toNat * b.toNat / 2 ^ 32)

/-- Signed division truncated towards zero, as (remainder, quotient); 0x8000_0000 by −1 gives 0x8000_0000 and 0 (R284). -/
def divS (a b : Word) : Word × Word := (BitVec.ofInt 32 (a.toInt.tmod b.toInt), BitVec.ofInt 32 (a.toInt.tdiv b.toInt))
/-- Unsigned division as (remainder, quotient). -/
def divU (a b : Word) : Word × Word := (BitVec.ofNat 32 (a.toNat % b.toNat), BitVec.ofNat 32 (a.toNat / b.toNat))
/-- The flags of a signed division (R287). -/
def divFlags (a b q : Word) (f : Flags) : Flags := { f.zn q with v := a == 0x80000000 && b == 0xFFFFFFFF }

/-- The carry of a shift (R287): unchanged for a count of 0, the bit shifted out last up to 32, else what is given. -/
def shiftC (n : Word) (last past old : Bool) : Bool :=
  if n = 0 then old else if n.toNat ≤ 32 then last else past

/-- Logical left shift (R284, R287). -/
def aluShl (a n : Word) (f : Flags) : Word × Flags :=
  let r := if n.toNat < 32 then a <<< n.toNat else 0
  (r, { f.zn r with c := shiftC n (a.toNat.testBit (32 - n.toNat)) false f.c })
/-- Logical right shift. -/
def aluShr (a n : Word) (f : Flags) : Word × Flags :=
  let r := if n.toNat < 32 then a >>> n.toNat else 0
  (r, { f.zn r with c := shiftC n (a.toNat.testBit (n.toNat - 1)) false f.c })
/-- Arithmetic right shift. -/
def aluSar (a n : Word) (f : Flags) : Word × Flags :=
  let r := a.sshiftRight (min n.toNat 32)
  (r, { f.zn r with c := shiftC n (a.toNat.testBit (n.toNat - 1)) a.msb f.c })
/-- Rotate left by n mod 32; C is bit 0 of the result, unchanged where n mod 32 is 0. -/
def aluRol (a n : Word) (f : Flags) : Word × Flags :=
  let k := n.toNat % 32
  let r := a.rotateLeft k
  (r, { f.zn r with c := if k = 0 then f.c else r.getLsbD 0 })
/-- Rotate right by n mod 32; C is bit 31 of the result, unchanged where n mod 32 is 0. -/
def aluRor (a n : Word) (f : Flags) : Word × Flags :=
  let k := n.toNat % 32
  let r := a.rotateRight k
  (r, { f.zn r with c := if k = 0 then f.c else r.msb })

/-- The flags as FLG@ pushes them: Z, N, C, V in bits 0 to 3 (R316). -/
def Flags.word (f : Flags) : Word :=
  BitVec.ofNat 32 (f.z.toNat + 2 * f.n.toNat + 4 * f.c.toNat + 8 * f.v.toNat)

/-- The flags that FLG! sets from bits 3 to 0 (R316). -/
def Flags.ofWord (w : Word) : Flags :=
  { z := w.getLsbD 0, n := w.getLsbD 1, c := w.getLsbD 2, v := w.getLsbD 3 }

end Sys2Proof.Machine
end

