-- ==== Sys2Proof/Machine/Operands.lean ====
section
/-! DEFINITION. Operands of the stack instructions: immediates, the pure results of the check and bit instructions, and
the branch conditions (R281, R282, R286, R288, R289, R291). -/

namespace Sys2Proof.Machine

/-! ### Immediates (R281, R282) -/

/-- A sign-extended 8-bit immediate. -/
def immS8 (k : Byte) : Word := k.signExtend 32
/-- A zero-extended 8-bit immediate. -/
def immU8 (k : Byte) : Word := k.setWidth 32
/-- A sign-extended 16-bit immediate. -/
def immS16 (k : BitVec 16) : Word := k.signExtend 32
/-- The upper half with the lower half 0 (LITH). -/
def immHigh (k : BitVec 16) : Word := (k.setWidth 32) <<< 16

/-! ### Check and bit instructions (R289, R291) -/

/-- The low w bits of x in reverse order. -/
def revBits (x w : Nat) : Nat := (List.range w).foldl (fun a i => 2 * a + x / 2 ^ i % 2) 0

/-- One step of CRC.B (R289) with width w, polynomial p and REFL. -/
def crcStep (w p : Nat) (refl : Bool) (crc byte : Nat) : Nat :=
  let m := 2 ^ w
  if refl then
    let pr := revBits p w
    (List.range 8).foldl (fun c _ => if c % 2 = 1 then Nat.xor (c / 2) pr else c / 2) (Nat.xor (crc % m) (byte % 256))
  else
    let p := p % m
    (List.range 8).foldl (fun c _ => if c ≥ m / 2 then Nat.xor (2 * c % m) p else 2 * c)
      (Nat.xor (crc % m) (byte % 256 * 2 ^ (w - 8)))

/-- CRC.W: four steps on bits 7:0, 15:8, 23:16 and 31:24 (R289). -/
def crcWord (w p : Nat) (refl : Bool) (crc word : Nat) : Nat :=
  (List.range 4).foldl (fun c i => crcStep w p refl c (word / 256 ^ i % 256)) crc

/-- The number of bits set. -/
def popCount (x : Word) : Nat := (List.range 32).foldl (fun n i => n + (x.getLsbD i).toNat) 0

/-- The number of zero bits above the highest bit set; 32 for 0 (R291). -/
def leadingZeros (x : Word) : Nat := (List.range 32).foldl (fun n i => if x.getLsbD i then 31 - i else n) 32

/-- PAR (R291). -/
def bitPar (x : Word) : Word := BitVec.ofNat 32 (popCount x % 2)
/-- POPC (R291). -/
def bitPopc (x : Word) : Word := BitVec.ofNat 32 (popCount x)
/-- CLZ (R291). -/
def bitClz (x : Word) : Word := BitVec.ofNat 32 (leadingZeros x)
/-- BREV n (R291). -/
def bitBrev (n : Nat) (x : Word) : Word := BitVec.ofNat 32 (revBits x.toNat n)

/-- The bytes of a word reversed (BSWAP). -/
def swapBytes (x : Word) : Word :=
  (x <<< 24) ||| ((x &&& 0xFF00) <<< 8) ||| ((x >>> 8) &&& 0xFF00) ||| (x >>> 24)

/-- |a|, with 0x8000_0000 for 0x8000_0000 (R316). -/
def absW (a : Word) : Word := if a.msb then -a else a

/-- Sign-extension from bit 7. -/
def sextB (a : Word) : Word := (a.setWidth 8).signExtend 32
/-- Sign-extension from bit 15. -/
def sextH (a : Word) : Word := (a.setWidth 16).signExtend 32

/-! ### Branch conditions (R286, R288) -/

/-- The compare-and-branch conditions of Avenue threads between NOS a and TOS b (R286). -/
inductive Cmp where
  | eq | ne | lt | ge | ltu | geu | gt | le
deriving DecidableEq, Repr

/-- A compare-and-branch condition holds. -/
def Cmp.holds (c : Cmp) (a b : Word) : Bool :=
  match c with
  | .eq => a == b
  | .ne => a != b
  | .lt => a.slt b
  | .ge => !a.slt b
  | .ltu => a.ult b
  | .geu => !a.ult b
  | .gt => b.slt a
  | .le => !b.slt a

/-- The flag conditions of Lane threads (R288). -/
inductive Cond where
  | eq | ne | cs | cc | mi | pl | vs | vc | hi | ls | ge | lt | gt | le
deriving DecidableEq, Repr

/-- A flag condition holds. -/
def Cond.holds (c : Cond) (f : Flags) : Bool :=
  match c with
  | .eq => f.z
  | .ne => !f.z
  | .cs => f.c
  | .cc => !f.c
  | .mi => f.n
  | .pl => !f.n
  | .vs => f.v
  | .vc => !f.v
  | .hi => f.c && !f.z
  | .ls => !f.c || f.z
  | .ge => f.n == f.v
  | .lt => f.n != f.v
  | .gt => !f.z && f.n == f.v
  | .le => f.z || f.n != f.v

end Sys2Proof.Machine
end

