-- ==== Sys2Proof/Machine/Crypto.lean ====
section
/-! DEFINITION. The algorithms that the spec names by their standards and does not write out: SHA-256 and ECDSA P-256
(R424, R467) and AES-128 (R403), from FIPS 180-4, FIPS 186-4 and FIPS 197 (notes/assumptions/15.md). -/

namespace Sys2Proof.Machine

/-! ### SHA-256 -/

/-- The greatest r with r ^ k ≤ n among r0 and the numbers that differ from it in the low b bits, which are 0 in r0. -/
def rootFrom (k n : Nat) : Nat → Nat → Nat
  | 0, r => r
  | b + 1, r => rootFrom k n b (if (r + 2 ^ b) ^ k ≤ n then r + 2 ^ b else r)

/-- The first 32 bits of the fractional part of the k-th root of p, for p below 4096: the constants of SHA-256 are these. -/
def rootFraction (k p : Nat) : Word := BitVec.ofNat 32 (rootFrom k (p * 2 ^ (32 * k)) 38 0)

/-- The primes below 312: the first 64. -/
def shaPrimes : List Nat := (List.range 312).filter fun n => 2 ≤ n && (List.range 18).all fun d => d < 2 || d * d > n || n % d != 0 || n == d

/-- The sum of rotations to the right by a and b, and of x itself shifted or rotated further. -/
def shaMix (x : Word) (a b : Nat) (y : Word) : Word := x.rotateRight a ^^^ x.rotateRight b ^^^ y

/-- The message schedule goes on by n words, newest first. -/
def shaExpand : Nat → List Word → List Word
  | 0, w => w
  | n + 1, w =>
    let at_ (k : Nat) := w.getD (k - 1) 0
    let near := shaMix (at_ 2) 17 19 (at_ 2 >>> 10)
    let far := shaMix (at_ 15) 7 18 (at_ 15 >>> 3)
    shaExpand n ((near + at_ 7 + far + at_ 16) :: w)

/-- The working variables, as the halves that a round shifts: a to d and e to h. -/
structure ShaVars where
  lo : Word × Word × Word × Word
  hi : Word × Word × Word × Word
deriving DecidableEq, Repr

/-- One round with a schedule word and the prime of its constant. -/
def ShaVars.round (v : ShaVars) (wp : Word × Nat) : ShaVars :=
  let (a, b, c, d) := v.lo
  let (e, f, g, h) := v.hi
  let choice := g ^^^ (e &&& (f ^^^ g))
  let major := (a &&& (b ||| c)) ||| (b &&& c)
  let t := h + wp.1 + rootFraction 3 wp.2 + choice + shaMix e 6 11 (e.rotateRight 25)
  { lo := (t + major + shaMix a 2 13 (a.rotateRight 22), a, b, c), hi := (t + d, e, f, g) }

/-- The eight variables in order, and back. -/
def ShaVars.words (v : ShaVars) : List Word :=
  [v.lo.1, v.lo.2.1, v.lo.2.2.1, v.lo.2.2.2, v.hi.1, v.hi.2.1, v.hi.2.2.1, v.hi.2.2.2]
def ShaVars.of (l : List Word) : ShaVars :=
  let x (k : Nat) := l.getD k 0
  ⟨(x 0, x 1, x 2, x 3), (x 4, x 5, x 6, x 7)⟩

/-- A big-endian number from bytes. -/
def beNum (l : List Byte) : Nat := l.foldl (fun a b => a * 256 + b.toNat) 0

/-- The words of a block of 64 bytes, newest first. -/
def shaWords (l : List Byte) : List Word :=
  (List.range 16).foldl (fun w i => BitVec.ofNat 32 (beNum ((l.drop (4 * i)).take 4)) :: w) []

/-- The hash value after one block. -/
def shaBlock (h : List Word) (l : List Byte) : List Word :=
  let v := ((shaExpand 48 (shaWords l)).reverse.zip shaPrimes).foldl ShaVars.round (ShaVars.of h)
  List.zipWith (· + ·) v.words h

/-- The hash value after n blocks. -/
def shaBlocks : Nat → List Word → List Byte → List Word
  | 0, h, _ => h
  | n + 1, h, l => shaBlocks n (shaBlock h (l.take 64)) (l.drop 64)

/-- A message with its SHA-256 padding. -/
def shaPad (l : List Byte) : List Byte :=
  let z := (119 - l.length % 64) % 64
  l ++ [0x80#8] ++ List.replicate z 0#8 ++ (List.range 8).map fun i => BitVec.ofNat 8 (l.length * 8 / 256 ^ (7 - i))

/-- The SHA-256 digest as a number. -/
def sha256 (l : List Byte) : Nat :=
  let p := shaPad l
  (shaBlocks (p.length / 64) ((shaPrimes.take 8).map (rootFraction 2)) p).foldl (fun a w => a * 2 ^ 32 + w.toNat) 0

/-! ### ECDSA P-256 -/

/-- The prime, the coefficient b, the base point and the order of P-256. -/
def ecP : Nat := 2 ^ 256 - 2 ^ 224 + 2 ^ 192 + 2 ^ 96 - 1
def ecB : Nat := 0x5ac635d8aa3a93e7b3ebbd55769886bc651d06b0cc53b0f63bce3c3e27d2604b
def ecGx : Nat := 0x6b17d1f2e12c4247f8bce6e563a440f277037d812deb33a0f4a13945d898c296
def ecGy : Nat := 0x4fe342e2fe1a7f9b8ee7eb4a7c0f9e162bce33576b315ececbb6406837bf51f5
def ecN : Nat := 0xffffffff00000000ffffffffffffffffbce6faada7179e84f3b9cac2fc632551

/-- b ^ e modulo m by squaring, over the low `n` bits of e. -/
def powMod (m : Nat) : Nat → Nat → Nat → Nat
  | 0, _, _ => 1
  | n + 1, b, e => (if e % 2 = 1 then b else 1) * powMod m n (b * b % m) (e / 2) % m

/-- The inverse modulo a 256-bit prime. -/
def invMod (m a : Nat) : Nat := powMod m 256 (a % m) (m - 2)

/-- x - y modulo the prime. -/
def subP (x y : Nat) : Nat := (x + (ecP - y % ecP)) % ecP

/-- The sum of two points; none is the point at infinity. -/
def ecAdd : Option (Nat × Nat) → Option (Nat × Nat) → Option (Nat × Nat)
  | none, q => q
  | p, none => p
  | some (x1, y1), some (x2, y2) =>
    if x1 = x2 ∧ (y1 + y2) % ecP = 0 then none
    else
      let l := if x1 = x2 then (3 * x1 * x1 + (ecP - 3)) * invMod ecP (2 * y1) % ecP
        else subP y2 y1 * invMod ecP (subP x2 x1) % ecP
      let x3 := subP (subP (l * l) x1) x2
      some (x3, subP (l * subP x1 x3) y1)

/-- k times a point, over the low n bits of k. -/
def ecMul : Nat → Nat → Option (Nat × Nat) → Option (Nat × Nat)
  | 0, _, _ => none
  | n + 1, k, p => ecAdd (if k % 2 = 1 then p else none) (ecMul n (k / 2) (ecAdd p p))

/-- A valid public key: a point of the curve (R465 OP 2). -/
def ecValid (q : Nat × Nat) : Bool :=
  q.1 < ecP && q.2 < ecP && (q.2 * q.2) % ecP == (q.1 * q.1 * q.1 + (ecP - 3) * q.1 + ecB) % ecP

/-- The signature (r, s) of a digest verifies against the public key q. -/
def ecdsaVerify (q : Nat × Nat) (digest r s : Nat) : Bool :=
  if r = 0 ∨ s = 0 ∨ ecN ≤ r ∨ ecN ≤ s then false
  else
    let w := invMod ecN s
    match ecAdd (ecMul 256 (digest * w % ecN) (some (ecGx, ecGy))) (ecMul 256 (r * w % ecN) (some q)) with
    | none => false
    | some (x, _) => x % ecN == r

/-! ### AES-128 -/

/-- Multiplication in GF(256) of AES, over the low n bits of b. -/
def aesMul : Nat → Nat → Nat → Nat
  | 0, _, _ => 0
  | n + 1, a, b =>
    let a2 := if a < 128 then 2 * a else Nat.xor (2 * a) 0x11B
    Nat.xor (if b % 2 = 1 then a else 0) (aesMul n a2 (b / 2))

/-- The product of two field elements. -/
def gmul (a b : Nat) : Nat := aesMul 8 a b

/-- a ^ n in the field. -/
def gpow (a : Nat) : Nat → Nat
  | 0 => 1
  | n + 1 => gmul a (gpow a n)

/-- The S-box: the inverse, then the affine map. -/
def sbox (a : Nat) : Nat :=
  let i := gpow a 254
  let r (k : Nat) := (i * 2 ^ k) % 256 + i / 2 ^ (8 - k)
  Nat.xor 0x63 (Nat.xor i (Nat.xor (r 1) (Nat.xor (r 2) (Nat.xor (r 3) (r 4)))))

/-- Exclusive-or of two lists of bytes. -/
def xorL (a b : List Nat) : List Nat := List.zipWith Nat.xor a b

/-- The next round key from a round key and its round constant. -/
def aesNextKey (k : List Nat) (rc : Nat) : List Nat :=
  let t := ((k.drop 13 ++ (k.drop 12).take 1).map sbox)
  let t := Nat.xor (t.getD 0 0) rc :: t.drop 1
  let w0 := xorL (k.take 4) t
  let w1 := xorL ((k.drop 4).take 4) w0
  let w2 := xorL ((k.drop 8).take 4) w1
  let w3 := xorL (k.drop 12) w2
  w0 ++ w1 ++ w2 ++ w3

/-- SubBytes and ShiftRows on a state in column order. -/
def aesSubShift (s : List Nat) : List Nat :=
  (List.range 16).map fun i => sbox (s.getD ((i + 4 * (i % 4)) % 16) 0)

/-- MixColumns. -/
def aesMix (s : List Nat) : List Nat :=
  (List.range 16).map fun i =>
    let c (j : Nat) := s.getD (i / 4 * 4 + (i + j) % 4) 0
    Nat.xor (gmul (c 0) 2) (Nat.xor (gmul (c 1) 3) (Nat.xor (c 2) (c 3)))

/-- The rounds after the first key addition, with the round constants still to come. -/
def aesRounds : List Nat → List Nat → List Nat → List Nat
  | [], _, s => s
  | rc :: rest, k, s =>
    let k' := aesNextKey k rc
    let t := aesSubShift s
    aesRounds rest k' (xorL (if rest.isEmpty then t else aesMix t) k')

/-- AES-128 of one block of 16 bytes under a key of 16 bytes. -/
def aes128 (key block : List Nat) : List Nat :=
  aesRounds [0x01, 0x02, 0x04, 0x08, 0x10, 0x20, 0x40, 0x80, 0x1B, 0x36] key (xorL block key)

end Sys2Proof.Machine
end

