-- ==== Sys2Proof/Machine/Clock.lean ====
section
/-! DEFINITION. The Clocktower (04_clocktower): the domains, the servo, switching, the always-on counter and the
reconstruction of LT. Domain A is `false`, domain B `true`. -/

namespace Sys2Proof.Machine

/-- The index of a domain in its register arrays. -/
def domIx (x : Bool) : Nat := if x then 1 else 0

/-- A domain. -/
def State.dom (s : State) (x : Bool) : Domain := if x then s.ct.b else s.ct.a

/-- Replaces a domain. -/
def State.setDom (s : State) (x : Bool) (d : Domain) : State :=
  { s with ct := if x then { s.ct with b := d } else { s.ct with a := d } }

/-- The state of a domain, CT_SRV_x_STAT.STATE: 0 LOCKED, 1 FREE, 2 HOLDOVER, 3 INVALID. -/
def State.domSt (s : State) (x : Bool) : Nat := s.fld F.CT_SRV_STAT_STATE (domIx x)

/-- Replaces the state of a domain. -/
def State.setDomSt (s : State) (x : Bool) (v : Nat) : State := s.setFld F.CT_SRV_STAT_STATE (domIx x) v

/-- The servo of a domain is on. -/
def State.servo (s : State) (x : Bool) : Bool := s.flag F.CT_SRV_CFG_EN (domIx x)

/-- The quality of LT (R77): the state of the selected domain, and HOLDOVER for LOCKED while D is not 0. -/
def State.ltq (s : State) : Nat :=
  let q := s.domSt (s.flag F.CT_CTRL_SEL)
  if s.ct.d ≠ 0 ∧ q = 0 then 2 else q

/-- W2 of a Long Milestone taken now (R78). -/
def State.msW2 (s : State) : Word :=
  w32 (s.ltq * 2 ^ 30 + s.fld F.CT_CTRL_SEL * 2 ^ 29 + bits s.lt40 39 32)

/-- The nominal increment, 4 ns in units of 2^-40 ns (R66). -/
def incrNom : Nat := 2 ^ 42

/-- The greatest move of D in one CK_TIME cycle, in 2^-40 ns (R63 step 4). -/
def State.slew (s : State) : Nat := 4 * 2 ^ 40 * s.fld F.CT_SLEW_SLEW / 1000000

/-- D after one cycle's move towards 0. -/
def slewed (d : Int) (m : Nat) : Int := if d ≥ 0 then d - min d m else d + min (-d) m

/-- A domain after it has added its increment; the silence of a servo that is on grows by one cycle (R63, R73). -/
def Domain.cycle (d : Domain) (en : Bool) : Domain :=
  { d with t := (d.t + d.incr) % 2 ^ 104, silence := if en then d.silence + 1 else d.silence }

/-- The LT is moved by a forward step of the selected domain (R63 step 2, CT_CTRL.STEPLT). -/
def State.stepMoves (s : State) : Bool :=
  match s.fld F.CT_CTRL_STEPLT with
  | 0 => false
  | 1 => s.ltq != 0
  | _ => true

/-- A domain takes a state; where the selected one enters HOLDOVER from LOCKED and the other is LOCKED, the automatic switch
of R75 is due in the next CK_TIME cycle. -/
def State.enterSt (s : State) (x : Bool) (v : Nat) : State :=
  let due := s.flag F.CT_CTRL_AUTOSW && s.flag F.CT_CTRL_SEL == x && s.domSt x == 0 && v == 2 && s.domSt (!x) == 0
  let s := s.setDomSt x v
  if due then { s with ct := { s.ct with autoDue := true } } else s

/-- A step of size d (2^-40 ns) of domain x (R63 step 2, R64): LT moves with it only where it may, which is flagged and spoils
the calibration window (R81); else D absorbs it. -/
def State.stepDom (s : State) (x : Bool) (d : Int) : State :=
  let dm := s.dom x
  let sel := s.flag F.CT_CTRL_SEL == x
  let moves := sel && s.stepMoves && decide (0 < d)
  let s := s.setDom x { dm with t := wrap ((dm.t : Int) + d) 104 }
  if ¬ sel then s
  else if moves then
    { s with ct := { s.ct with winBad := s.ct.winOpen || s.ct.winBad, moved := true } }.raise F.CT_STATUS_LTSTEP
  else { s with ct := { s.ct with d := s.ct.d - d } }

/-- What a step does to the state of a domain whose servo is on (R73): LOCKED becomes HOLDOVER and the lock count
restarts. -/
def State.afterStep (s : State) (x : Bool) : State :=
  let s := s.raise F.CT_SRV_STAT_STEPD (domIx x)
  if ¬ s.servo x then s
  else
    let s := s.setDom x { s.dom x with lockCnt := 0 }
    if s.domSt x = 0 then s.enterSt x 2 else s

/-- The size of a pending step, with T_x as the cycle's step 1 leaves it; a word that was not written takes the present one
(R35, R69). -/
def State.stepSize (s : State) (x : Bool) : CtStep → Int
  | .by_ d => d
  | .to hi lo =>
    let t := (s.dom x).t
    let lo := match lo with
      | some w => w.toNat
      | none => t / 2 ^ 40 % 2 ^ 32
    ((hi.toNat * 2 ^ 32 + lo : Nat) : Int) * 2 ^ 40 - t

/-- One pending step of the cycle. -/
def State.stepOne (s : State) (p : Bool × CtStep) : State := (s.stepDom p.1 (s.stepSize p.1 p.2)).afterStep p.1

/-- Switches LT to a domain (R63 step 3): D := (T_old + D) - T_new. -/
def State.switchTo (s : State) (x : Bool) : State :=
  let old := s.dom (s.flag F.CT_CTRL_SEL)
  let new := s.dom x
  let s := { s with ct := { s.ct with d := (old.t : Int) + s.ct.d - new.t } }
  s.setFld F.CT_CTRL_SEL 0 (domIx x)

/-- Step 3 of R63: a write of SEL is applied first, then an automatic switch where the domain now selected is in HOLDOVER and
the other one LOCKED (R75, R32). -/
def State.switchDue (s : State) (sel : Option Bool) (auto : Bool) : State :=
  let s := match sel with
    | some x => if s.flag F.CT_CTRL_SEL = x then s else (s.switchTo x).raise F.CT_STATUS_SWM
    | none => s
  let x := s.flag F.CT_CTRL_SEL
  if auto ∧ s.domSt x = 2 ∧ s.domSt (!x) = 0 then (s.switchTo (!x)).raise F.CT_STATUS_SWA else s

/-- One CK_TIME cycle of R63, in its five steps, without what a step of LT does to the Lamplighters. -/
def State.ckStep (s : State) : State :=
  let steps := s.ct.steps
  let sel := s.ct.selNext
  let auto := s.ct.autoDue
  let s := { s with ct := { s.ct with a := s.ct.a.cycle (s.servo false), b := s.ct.b.cycle (s.servo true), prev40 := s.lt40,
                                      steps := [], selNext := none, autoDue := false, moved := false,
                                      field := (s.ct.field + 1) % 5 } }
  let s := (steps.foldl State.stepOne s).switchDue sel auto
  { s with ct := { s.ct with d := slewed s.ct.d s.slew } }

/-- What a forward step of LT does to a Lamplighter (R243): a pending arm whose instant it has overtaken counts as one
that arrives in the CK_TIME cycle after the step; the rise of a committed pulse and the fall of a running one that it has
overtaken are placed at the edge that closes that cycle. Times in 2^-40 ns. -/
def LlUnit.overtake (u : LlUnit) (old new nxt : Nat) : LlUnit :=
  let crossed (i : Int) : Bool := decide ((old : Int) < i ∧ i ≤ (new : Int))
  { u with
    arm := u.arm.map fun a => if crossed (a.a * 2 ^ 37) then { a with at_ := nxt } else a
    com := u.com.map fun p =>
      if crossed p.rise then { p with rise := nxt, fall := nxt + (p.fall - p.rise), late := true } else p
    run := u.run.map fun p => if crossed p.fall then { p with fall := nxt } else p }

/-- Every Lamplighter after a forward step of LT from `old`; LATE is set where a committed pulse was overtaken. -/
def State.llOvertake (s : State) (old : Nat) : State :=
  let new := s.lt40
  let nxt := s.ckStep.lt40
  s.each 16 fun s n =>
    let u := s.llOf n
    let late := u.com.any fun p => decide (old < p.rise ∧ p.rise ≤ new)
    (s.setLl n (u.overtake old new nxt)).raiseIf late F.LL_STAT_LATE n

/-- One CK_TIME cycle (R63), with what a step that moves LT does to the Lamplighters. -/
def State.ckTime (s : State) : State := if s.ckStep.ct.moved then s.ckStep.llOvertake s.lt40 else s.ckStep

/-- A quantity that is l before the CK_TIME cycle that now runs and n after it, at interpolator phase p (R65), in 2^-40 ns. -/
def between (l n p : Nat) : Nat := (l + p * (wrap ((n : Int) - l) 104) / 32) % 2 ^ 104

/-- The stamp in 2^-40 ns of an edge at interpolator phase p in the cycle that now runs (R65). -/
def State.stamp40 (s : State) (p : Nat) : Nat := between s.lt40 s.ckStep.lt40 p

/-- The same stamp as a Milestone in 1/256 ns. -/
def State.stamp (s : State) (p : Nat) : Nat := s.stamp40 p / 2 ^ 32

/-- The first CK_FIELD edge that has not passed, in 2^-40 ns of LT. CK_FIELD at 200 MHz has four edges in five CK_TIME cycles, 0, 1,
2 and 3 ns into the first four (R96), and none in the fifth; where that pattern stands at reset is the model's choice
(notes/assumptions/192.md). -/
def State.fieldEdge (s : State) : Nat := if s.ct.field < 4 then s.stamp40 (8 * s.ct.field) else s.ckStep.lt40

/-- T_x(m) of R70 for an edge at interpolator phase p in the cycle that now runs, in 1/256 ns. -/
def State.domStamp (s : State) (x : Bool) (p : Nat) : Nat := between (s.dom x).t (s.ckStep.dom x).t p / 2 ^ 32

/-- Rounds n / d to nearest, ties away from zero (R71). -/
def roundDiv (n : Int) (d : Nat) : Int :=
  if n ≥ 0 then (2 * n + d) / (2 * d) else -((2 * (-n) + d) / (2 * d))

/-- Clamps to [-l, l]. -/
def clampTo (x l : Int) : Int := if x < -l then -l else if x > l then l else x

/-- The increment for a deviation y in units of 2^-42 ppb (R71). -/
def incrFor (y : Int) : Nat := (roundDiv ((2 ^ 42 : Int) * 1000000000 + y) 1000000000).toNat

/-- A displayed value n / d whose rounding the spec leaves open (notes/assumptions/5.md). -/
def shown (n : Int) (d : Nat) : Int := if n % d ≠ 0 ∧ Config.roundsUp n then n / d + 1 else n / d

/-- The deviation of an increment from nominal, in units of 2^-42 ppb. -/
def devOf (incr : Nat) : Int := ((incr : Int) - 2 ^ 42) * 1000000000

/-- A measurement enters LOCKED when LOCKN in a row lie within LOCKTH (R73). LOCKD is set where the domain enters LOCKED; in a
domain that is LOCKED already it is not set again (notes/assumptions/180.md). -/
def State.countLock (s : State) (x : Bool) (theta : Int) : State :=
  let i := domIx x
  let d := s.dom x
  if theta.natAbs < 256 * s.fld F.CT_SRV_LOCK_LOCKTH i then
    let n := d.lockCnt + 1
    let s := s.setDom x { d with lockCnt := n }
    if n ≥ s.fld F.CT_SRV_LOCK_LOCKN i ∧ s.domSt x ≠ 0 then
      (s.enterSt x 0).raise F.CT_SRV_STAT_LOCKD i
    else s
  else s.setDom x { d with lockCnt := 0 }

/-- The servo processes one offset measurement theta, in 1/256 ns (R71, R73, R74); a step is pending for the next CK_TIME
cycle. CT_SRV_x_OFS saturates at 2^31 - 1, the largest value its 32 bits hold (notes/assumptions/181.md). -/
def State.servoStep (s : State) (x : Bool) (theta : Int) : State :=
  let i := domIx x
  let s := s.bump F.CT_SRV_STAT_MEASN i
  let ofs := if theta < -(2 ^ 31) then -(2 ^ 31) else if theta > 2 ^ 31 - 1 then 2 ^ 31 - 1 else theta
  let s := s.setFld F.CT_SRV_OFS_OFS i (wrap ofs 32)
  let s := s.setDom x { s.dom x with silence := 0, lostDone := false }
  let step := s.fld F.CT_SRV_STEP_STEP i
  if step ≠ 0 ∧ theta.natAbs ≥ 256 * step then
    { s with ct := { s.ct with steps := s.ct.steps ++ [(x, .by_ (theta * 2 ^ 32))] } }
  else
    let lim : Int := s.fld F.CT_SRV_LIM_LIM i * 2 ^ 42
    let d := s.dom x
    let integ := clampTo (d.integ + s.fld F.CT_SRV_KI_GAIN i * theta * 2 ^ 18) lim
    let y := clampTo (s.fld F.CT_SRV_KP_GAIN i * theta * 2 ^ 18 + integ) lim
    (s.setDom x { d with integ := integ, incr := incrFor y }).countLock x theta

/-- The first waiting measurement of a domain, and the rest. -/
def takeMeas (x : Bool) : List (Bool × Int) → Option (Int × List (Bool × Int))
  | [] => none
  | (y, v) :: t =>
    if y == x then some (v, t)
    else match takeMeas x t with
      | none => none
      | some (w, t') => some (w, (y, v) :: t')

/-- OFFSET_MEASUREMENT (R71): the oldest measurement of domain x that has arrived is processed by its servo; nothing
where none waits; one that arrived for a servo now off is dropped. -/
def execOffsetMeasurement (x : Bool) (s : State) : Host.Outcome State Fault Refusal :=
  match takeMeas x s.ct.meas with
  | none => .next s
  | some (theta, rest) =>
    let s := { s with ct := { s.ct with meas := rest } }
    .next (if s.servo x then s.servoStep x theta else s)

/-- A measurement source offers theta (1/256 ns): it waits for the servo where that source is selected (R70). -/
def State.offer (s : State) (x : Bool) (src : Nat) (theta : Int) : State :=
  if s.servo x ∧ s.fld F.CT_SRV_CFG_SRC (domIx x) = src then
    { s with ct := { s.ct with meas := s.ct.meas ++ [(x, theta)] } }
  else s

/-- The silence in CK_TIME cycles at which LOST is set: LOSSN × MINT µs (R73). -/
def State.lossAt (s : State) (x : Bool) : Nat :=
  s.fld F.CT_SRV_CFG_LOSSN (domIx x) * s.fld F.CT_SRV_MINT_MINT (domIx x) * 250

/-- DOMAIN_SILENCE (R73, R75, R76): where the silence has reached its bound and LOST is not yet set for it, LOST is set,
a LOCKED domain enters HOLDOVER at its integral frequency, and an automatic switch may be due in the next cycle. -/
def execDomainSilence (x : Bool) (s : State) : Host.Outcome State Fault Refusal :=
  let d := s.dom x
  if s.servo x ∧ ¬ d.lostDone ∧ d.silence ≥ s.lossAt x then
    let s := (s.setDom x { d with lostDone := true }).raise F.CT_SRV_STAT_LOST (domIx x)
    if s.domSt x = 0 then
      let d := s.dom x
      let s := s.setDom x { d with incr := incrFor d.integ }
      .next (s.enterSt x 2)
    else .next s
  else .next s

/-! ### Writes of Clocktower registers -/

/-- A write of CT_INCR_x_LO (R67, R68). -/
def State.wrIncrLo (s : State) (x : Bool) (w : Word) : State :=
  if s.servo x then s.raise F.CT_SRV_STAT_INCRW (domIx x)
  else s.setDom x { s.dom x with incrLo := w }

/-- A write of CT_INCR_x_HI (R67, R68): commits with the pending low part. -/
def State.wrIncrHi (s : State) (x : Bool) (w : Word) : State :=
  if s.servo x then s.raise F.CT_SRV_STAT_INCRW (domIx x)
  else
    let d := s.dom x
    s.setDom x { d with incr := w.toNat % 65536 * 2 ^ 32 + d.incrLo.toNat }

/-- A committed write of CT_DT_x (R35, R69): a step pending for the next CK_TIME cycle, to the written words. -/
def State.wrDt (s : State) (x : Bool) (hi : Word) (lo : Option Word) : State :=
  { s with ct := { s.ct with steps := s.ct.steps ++ [(x, .to hi lo)] } }

/-- A write of CT_SRV_x_CFG (R72, R73, R74). -/
def State.wrSrvCfg (s : State) (x : Bool) (w : Word) : State :=
  let i := domIx x
  let was := s.servo x
  let s := s.setReg .CT_SRV_CFG i w
  let now := s.servo x
  let d := s.dom x
  if ¬ was ∧ now then
    s.setDom x { d with integ := devOf d.incr, lockCnt := 0, silence := 0, lostDone := false }
  else if ¬ now then s.enterSt x (s.fld F.CT_SRV_CFG_SWQ i)
  else s

/-- A write of CT_CTRL (R75): SEL takes effect in the next CK_TIME cycle and reads its old value until then; the other fields
at once. -/
def State.wrCtrl (s : State) (w : Word) : State :=
  let sel := s.fld F.CT_CTRL_SEL
  let s := s.setReg .CT_CTRL 0 (F.CT_CTRL_SEL.put w sel)
  { s with ct := { s.ct with selNext := some (bit w.toNat 0) } }

/-! ### The always-on counter (R81-R85) -/

/-- AON_CAL in 32.32 ns. -/
def State.aonCal (s : State) : Nat := (s.reg .CT_AON_CAL_HI).toNat * 2 ^ 32 + (s.reg .CT_AON_CAL_LO).toNat

/-- The end of a calibration window (R81): AON_CAL is recomputed unless the window was spoiled; a new window starts at
this edge with the CALW now set. -/
def State.calWindow (s : State) : State :=
  let c := s.ct
  let s := if c.winBad then s else
    let cal := wrap ((c.winLast : Int) - c.winStart) 104 / 2 ^ 8 / 2 ^ c.winW
    ((s.setReg .CT_AON_CAL_LO 0 (w32 cal)).setReg .CT_AON_CAL_HI 0 (w32 (cal / 2 ^ 32))).raise F.CT_AON_CFG_CALV
  { s with ct := { s.ct with winW := s.fld F.CT_AON_CFG_CALW, winCnt := 0, winStart := c.winLast, winBad := false } }

/-- A rising AON edge advances the 48-bit count (R81). -/
def State.aonCount (s : State) : State := { s with aon := { s.aon with cnt := (s.aon.cnt + 1) % 2 ^ 48 } }

/-- The entry record that the latch receives at an edge stamped t (R82). -/
def State.entryRec (s : State) (t : Nat) : EntryRec :=
  { lt := t, aon := s.aon.cnt, cal := s.aonCal, calv := s.flag F.CT_AON_CFG_CALV, incrA := s.ct.a.incr,
    incrB := s.ct.b.incr, stA := s.domSt false, stB := s.domSt true, drift := s.fld F.CT_AON_DRIFT_DRIFT }

/-- AON_EDGE_STAMP (R81, R82): the always-on counter advances; while CK_TIME runs the edge is stamped, counted in the
calibration window and recorded in the latch. At a window's last edge the record holds AON_CAL and CALV from before that
window's recomputation (notes/assumptions/182.md). While a reconstruction is due CK_TIME does not run yet: the first edge
at which it does is LT_RECONSTRUCT (R83). -/
def execAonEdgeStamp (s : State) : Host.Outcome State Fault Refusal :=
  let s := s.aonCount
  if ¬ s.timeRuns then .next s
  else
    let s := if s.ct.winOpen ∧ s.ct.winCnt ≥ 2 ^ s.ct.winW then s.calWindow else s
    let t := s.stamp40 0
    let s := { s with ct := if s.ct.winOpen then { s.ct with winCnt := s.ct.winCnt + 1, winLast := t }
                            else { s.ct with winOpen := true, winW := s.fld F.CT_AON_CFG_CALW, winCnt := 0,
                                             winStart := t, winLast := t } }
    .next { s with aon := { s.aon with latchPrev := s.aon.latch, latch := s.entryRec t } }

/-- AON_CAL_WINDOW (R81): a window of 2^CALW edges has ended and AON_CAL is recomputed; nothing before its last edge. -/
def execAonCalWindow (s : State) : Host.Outcome State Fault Refusal :=
  .next (if s.timeRuns ∧ s.ct.winOpen ∧ s.ct.winCnt = 2 ^ s.ct.winW then s.calWindow else s)

/-- The state of a domain after a reconstruction without AONBAD (R84). -/
def afterWake (st : Nat) : Nat := if st = 0 then 2 else st

/-- The reconstruction of LT at an edge with the count in state, from an entry record (R83-R85). The state of a domain with
EN = 0 is then R84's until CT_SRV_x_CFG is written (notes/assumptions/183.md). -/
def State.reconstruct (s : State) (e : EntryRec) : State :=
  let dAon := wrap ((s.aon.cnt : Int) - e.aon) 48
  let t := (e.lt / 2 ^ 8 + dAon * e.cal) * 2 ^ 8 % 2 ^ 104
  let bad := !e.calv || s.aon.rcSeen || s.aon.supplyBad
  let unc := (dAon * e.cal * e.drift + (10 ^ 9 * 2 ^ 32 - 1)) / (10 ^ 9 * 2 ^ 32)
  let s := { s with ct := { s.ct with a := { s.ct.a with t := t, incr := e.incrA, silence := 0 },
                                      b := { s.ct.b with t := t, incr := e.incrB, silence := 0 },
                                      d := 0, steps := [], selNext := none, autoDue := false,
                                      winBad := s.ct.winOpen || s.ct.winBad } }
  let s := s.setDomSt false (if bad then 3 else afterWake e.stA)
  let s := s.setDomSt true (if bad then 3 else afterWake e.stB)
  let s := (s.setReg .CT_WAKE_LT_LO 0 (w32 (e.lt / 2 ^ 40))).setReg .CT_WAKE_LT_HI 0 (w32 (e.lt / 2 ^ 72))
  let s := (s.setReg .CT_WAKE_DAON_LO 0 (w32 dAon)).setReg .CT_WAKE_DAON_HI 0 (w32 (dAon / 2 ^ 32))
  let s := s.setReg .CT_WAKE_UNC 0 (w32 (if bad ∨ unc > 0xFFFFFFFF then 0xFFFFFFFF else unc))
  let s := s.setFld F.CT_WAKE_STAT_AONBAD 0 (if bad then 1 else 0)
  let s := s.setFld F.CT_WAKE_STAT_PREV 0 (if s.aon.prev then 1 else 0)
  ((s.raise F.CT_WAKE_STAT_RECON).raise F.CT_STATUS_WAKE)

/-- LT_RECONSTRUCT (R82-R85): the first rising AON edge after CK_TIME runs again following a wake from CURFEW; it is a stamped
edge, whose record the latch receives. Nothing where no reconstruction is due. -/
def execLtReconstruct (s : State) : Host.Outcome State Fault Refusal :=
  if s.timePowered ∧ s.aon.reconDue then
    let s := s.aonCount
    let e := if s.aon.prev then s.aon.latchPrev else s.aon.latch
    let was := s.ltNs
    let s := s.reconstruct e
    let s := { s with ld := { s.ld with since := s.ld.since + s.ltNs - was } }
    .next { s with aon := { s.aon with reconDue := false, rcSeen := s.aon.rc, latchPrev := s.aon.latch, latch := s.entryRec s.lt40 } }
  else .next s

/-- AON_CRYSTAL_FAILURE (R14, R84): the always-on counter runs from the internal RC. -/
def execAonCrystalFailure (s : State) : Host.Outcome State Fault Refusal :=
  .next { s with aon := { s.aon with rc := true, rcSeen := true } }

/-- AON_CRYSTAL_STABLE (R479): the counter leaves the internal RC. -/
def execAonCrystalStable (s : State) : Host.Outcome State Fault Refusal :=
  .next { s with aon := { s.aon with rc := false } }

end Sys2Proof.Machine
end

