-- ==== Sys2Proof/Machine/Pins.lean ====
section
/-! DEFINITION. The engine's queue, the pin monitors and the capture paths (R187, R191, R195, R205-R208, R237-R239). -/

namespace Sys2Proof.Machine

/-! ### What a cell reads (R187, R191, R204) -/

/-- The primitive of cell c. -/
def State.xPrim (s : State) (c : Nat) : Nat := s.act F.XC_CFG_PRIM c

/-- The primitive has an input B (R204). -/
def primHasB (p : Nat) : Bool := p == 3 || p == 5 || p == 8

/-- Cell c is enabled and reads source src on input A. -/
def State.xReadsA (s : State) (c src : Nat) : Bool :=
  (s.cellOf c).act && s.xPrim c != 0 && src != 0x1FF && s.act F.XC_INA_SRC c == src

/-- Cell c is enabled and reads source src on input B. -/
def State.xReadsB (s : State) (c src : Nat) : Bool :=
  (s.cellOf c).act && primHasB (s.xPrim c) && src != 0x1FF && s.act F.XC_INB_SRC c == src

/-- Cell c reads source src. -/
def State.xReads (s : State) (c src : Nat) : Bool := s.xReadsA c src || s.xReadsB c src

/-- The place of an entry among those that join together (R191): samples by source, then deadlines by cell. -/
def XEnt.key (e : XEnt) : Nat :=
  match e.what with
  | .deadline c _ _ => 0x200 + c
  | _ => e.src

/-- An entry takes its place in the queue (R191): at the end, but before those of the same CK_TIME cycle that come after it
(DESIGN CHOICE, notes/assumptions/190.md: the entries of one CK_TIME cycle join in one CK_CORE cycle). -/
def xInsert (e : XEnt) : List XEnt → List XEnt
  | [] => [e]
  | x :: xs => if x.at_ = e.at_ ∧ e.key < x.key then e :: x :: xs else x :: xInsert e xs

/-- An entry joins the engine's queue of 256, or is discarded and counted (R195). -/
def State.xJoin (s : State) (e : XEnt) : State :=
  if s.xq.length ≥ 256 then (s.bump F.XC_DROP_N).raise F.XC_STATUS_OVF
  else { s with xq := xInsert { e with at_ := s.lt40 } s.xq }

/-- A sample arrives: one that no enabled cell reads does not enter the queue (R191). -/
def State.xSample (s : State) (src ms : Nat) (w : XWhat) : State :=
  if (List.range 128).any fun c => s.xReads c src then s.xJoin { src := src, ms := ms, what := w } else s

/-! ### The pin monitor -/

/-- The monitor of GPn is on. -/
def State.pmOn (s : State) (n : Nat) : Bool := s.actB F.XC_PMCFG_EN n

/-- A level of GPn is its active level. -/
def State.pmActive (s : State) (n : Nat) (lvl : Bool) : Bool := lvl != s.actB F.XC_PMCFG_POL n

/-- An edge is recorded as one sample, or lies beyond the tick's budget (R207). -/
def State.pmRecord (s : State) (n ms : Nat) (lvl : Bool) : State :=
  let p := s.pinOf n
  let bud := s.act F.XC_PMCFG_EBUD n
  if bud ≠ 0 ∧ p.recN ≥ bud then
    let first := !s.flag F.XC_PMSTAT_OVER n
    let s := (s.raise F.XC_PMSTAT_OVER n).bump F.XC_PMSTAT_OVERN n
    if first then s.xSample (0x100 + n) ms (.chatter bud) else s
  else
    let a := s.pmActive n lvl
    (s.setPin n { p with recN := p.recN + 1, ref := a }).xSample (0x100 + n) ms (.value (if a then 1 else 0))

/-- Records the edge that GPn holds, where it holds one. -/
def State.pmFlush (s : State) (n : Nat) : State :=
  match (s.pinOf n).held with
  | none => s
  | some (t, l) => (s.setPin n { s.pinOf n with held := none }).pmRecord n t l

/-- 8 ns in 1/256 ns. -/
def ns8 : Nat := 2048

/-- Records the held edges that no later edge can merge with any more (R206). -/
def State.pmSettle (s : State) : State :=
  (s.pin.filter fun e => match e.2.held with
    | some (t, _) => decide (t + ns8 ≤ s.ltMs)
    | none => false).foldl (fun s e => s.pmFlush e.1) s

/-- An accepted edge reaches the monitor (R206): with no filter it waits until it can no longer merge with its successor. -/
def State.pmEdge (s : State) (n ms : Nat) (lvl : Bool) : State :=
  if s.act F.XC_PMCFG_FILT n ≠ 0 then (s.pmFlush n).pmRecord n ms lvl
  else match (s.pinOf n).held with
    | some (t, _) =>
      if ms < t + ns8 then (s.setPin n { s.pinOf n with held := none }).bump F.XC_PMSTAT_UNRES n
      else
        let s := s.pmFlush n
        s.setPin n { s.pinOf n with held := some (ms, lvl) }
    | none => s.setPin n { s.pinOf n with held := some (ms, lvl) }

/-! ### Capture -/

/-- The capture path of GPn selects an edge to level lvl. -/
def State.capWants (s : State) (n : Nat) (lvl : Bool) : Bool :=
  match s.act F.LL_CAPCFG_EDGE n with
  | 0 => lvl
  | 1 => !lvl
  | _ => true

/-- An accepted edge reaches the capture path (R238). -/
def State.capEdge (s : State) (n ms : Nat) (lvl : Bool) : State :=
  if ¬ s.capWants n lvl then s
  else
    let sq := (s.fld F.LL_CAPSTAT_SEQ n + 1) % 65536
    let s := s.setFld F.LL_CAPSTAT_SEQ n sq
    if ¬ s.actB F.LL_CAPCFG_EN n then s
    else
      let p := s.pinOf n
      let lim := s.act F.LL_CAPCFG_CLIM n
      if lim ≠ 0 ∧ p.capN ≥ lim then s.bump F.LL_CAPSTAT_OVERN n
      else (s.setPin n { p with capN := p.capN + 1 }).present
        { typ := 6, idx := n, ms := ms, payload := [w32 ((if lvl then 2 ^ 31 else 0) + sq)] }

/-- The offset that a PPS edge gives domain x, whose time at the edge is t in 1/256 ns (R70): the whole second nearest t, the
later where two are. -/
def ppsOffset (t : Nat) : Int := ((t + 128000000000) / 256000000000 * 256000000000 : Nat) - (t : Int)

/-- A rising edge of a pin offers its stamp to the domains that take it as their PPS (R70, R239). -/
def State.ppsEdge (s : State) (n : Nat) (e : PinNew) (lvl : Bool) : State :=
  if ¬ lvl then s
  else [false, true].foldl (fun s x =>
    if s.fld F.CT_SRV_CFG_PPSCH (domIx x) = n then s.offer x 3 (ppsOffset (if x then e.tb else e.ta)) else s) s

/-! ### The input path -/

/-- The input path of GPn accepts its new level (R205-R207, R237-R239): the edge feeds the capture path, a PPS and, where the
monitor is on, the monitor; a change to the inactive level clears STUCKA. -/
def State.pinAccept (s : State) (n : Nat) (e : PinNew) : State :=
  let u := s.pinOf n
  let lvl := !u.lvl
  let s := s.setPin n { u with lvl := lvl, last := some e.ms, cand := none }
  let s := (s.capEdge n e.ms lvl).ppsEdge n e lvl
  if ¬ s.pmOn n then s
  else
    let s := if s.pmActive n lvl then s else s.setFld F.XC_PMSTAT_STUCKA n 0
    s.pmEdge n e.ms lvl

/-- A sample of the new level of GPn (R205): with FILT + 1 of them the level is accepted. -/
def State.pinTake (s : State) (n : Nat) : State :=
  let u := s.pinOf n
  match u.cand with
  | none => s
  | some e =>
    let e := { e with n := e.n + 1 }
    if e.n > s.act F.XC_PMCFG_FILT n then s.pinAccept n e else s.setPin n { u with cand := some e }

/-- The samples of a CK_TIME cycle that ends: of every pin whose ball has a level not accepted yet, but where the edge itself was
the cycle's sample. -/
def State.pinSample (s : State) : State :=
  (s.pin.filter fun e => e.2.cand.isSome && e.2.smp != some s.lt40).foldl (fun s e => s.pinTake e.1) s

/-- 3 cycles of CK_FIELD in 2^-40 ns (R252). -/
def field3 : Nat := 15 * 2 ^ 40

/-- The ball's level at an instant of LT in 2^-40 ns, of those that its recent changes tell. -/
def Pin.ballAt (u : Pin) (t : Int) : Bool :=
  match u.balls.find? fun e => decide ((e.1 : Int) ≤ t) with
  | some e => e.2
  | none => match u.balls.getLast? with
    | some e => !e.2
    | none => u.ball

/-- The changes that Pin.ballAt needs from an instant on, with a new one. -/
def Pin.ballsWith (u : Pin) (t : Nat) (lvl : Bool) : List (Nat × Bool) :=
  (t, lvl) :: (u.balls.filter fun e => decide (t < e.1 + field3)) ++ (u.balls.find? fun e => !decide (t < e.1 + field3)).toList

/-- PIN_EDGE (R205, R237, R252): the ball of GPn changes to level lvl in the present CK_TIME cycle, at interpolator phase p,
which counts on GP0-GP15 alone. A return to the accepted level leaves no trace; a new level is sampled in this cycle, or where
the pin has had its sample in it, from the next on. Nothing where the ball has that level already; where CK_TIME does not run the
input path takes no sample, and starts with the ball's level. -/
def execPinEdge (n : Fin 96) (lvl : Bool) (p : Fin 32) (s : State) : Host.Outcome State Fault Refusal :=
  let u := s.pinOf n
  if u.ball = lvl then .next s
  else if ¬ s.timeRuns then .next (s.setPin n { u with ball := lvl, lvl := lvl, balls := [], cand := none })
  else
    let u := { u with ball := lvl, balls := u.ballsWith s.lt40 lvl }
    if lvl = u.lvl then .next (s.setPin n { u with cand := none })
    else
      let p := if n.val < 16 then p.val else 0
      let e : PinNew := { ms := s.stamp p, ta := s.domStamp false p, tb := s.domStamp true p, n := 0 }
      if u.smp = some s.lt40 then .next (s.setPin n { u with cand := some e })
      else .next ((s.setPin n { u with cand := some e, smp := some s.lt40 }).pinTake n)

/-- PIN_STUCK (R208): a level that has stayed active for STUCKT ms since its stamp; nothing before, or where STUCK has been
produced already. -/
def execPinStuck (n : Fin 96) (s : State) : Host.Outcome State Fault Refusal :=
  let t := s.act F.XC_PMCFG_STUCKT n
  match (s.pinOf n).last with
  | none => .next s
  | some ts =>
    let due := ts + t * 1000 * us256
    if s.timeRuns ∧ s.pmOn n ∧ t ≠ 0 ∧ s.pmActive n (s.pinOf n).lvl ∧ ¬ s.flag F.XC_PMSTAT_STUCKA n ∧ due ≤ s.ltMs then
      .next ((s.raise F.XC_PMSTAT_STUCKA n).xSample (0x100 + n) due .stuck)
    else .next s

/-- What a tick does to the monitor and the capture path of GPn, whose active registers were `old` (R207, R238): the
budgets start anew, OVER clears, and a monitor that was on presents LVLSYNC where its level differs from its reference. -/
def State.pmTick (s : State) (old : Tab Word) (n : Nat) : State :=
  let s := s.setPin n { s.pinOf n with recN := 0, capN := 0 }
  let s := s.setFld F.XC_PMSTAT_OVER n 0
  let wasOn := F.XC_PMCFG_EN.of old n == 1
  if ¬ s.pmOn n then s.setPin n { s.pinOf n with held := none }
  else if ¬ wasOn then s.setPin n { s.pinOf n with ref := false, held := none }
  else
    let a := s.pmActive n (s.pinOf n).lvl
    if a = (s.pinOf n).ref then s
    else (s.setPin n { s.pinOf n with ref := a }).xSample (0x100 + n) (256 * s.ct.tickNom) (.value (if a then 1 else 0))

end Sys2Proof.Machine
end

