-- ==== Sys2Proof/Machine/Lamplighters.lean ====
section
/-! DEFINITION. The Lamplighters (R240-R248, R253) and the pads' function (R249). Armed instants are in units of 125 ps of LT,
the instants of pulses in 2^-40 ns. -/

namespace Sys2Proof.Machine

/-- 32 ns and 8 ns in 2^-40 ns (R243), and the 8 ns in units of 125 ps (R245). -/
def llLead : Nat := 32 * 2 ^ 40
def llGap : Nat := 8 * 2 ^ 40
def llGap8 : Nat := 64

/-- 125 ps in 2^-40 ns. -/
def ps125 : Nat := 2 ^ 37

/-- The pin that Lamplighter n names, where it names one. -/
def State.llPin (s : State) (n : Nat) : Option Nat :=
  let p := s.act F.LL_CFG_PIN n
  if p < 96 then some p else none

/-- Lamplighter n drives its pin (R240, R249): the pin has the Lamplighter function, the same Quarter owns both, and no
lower-numbered enabled Lamplighter names it. -/
def State.llDrives (s : State) (n : Nat) : Bool :=
  match s.llPin n with
  | none => false
  | some p => s.act F.GP_CFG_FUNC p == 1 && s.ownerOf .pin p == s.ownerOf .lamplighter n
      && (List.range n).all fun m => !(s.actB F.LL_CFG_EN m && s.llPin m == some p)

/-- Sets PINCONF where an enabled Lamplighter names a pin that it does not drive. -/
def State.llConf (s : State) (n : Nat) : State :=
  s.raiseIf (s.actB F.LL_CFG_EN n && (s.llPin n).isSome && !s.llDrives n) F.LL_STAT_PINCONF n

/-- The number and index of an arm's source in a fire record (R247). -/
def LlSrc.code : LlSrc → Nat × Nat
  | .reg => (0, 0)
  | .thr t => (1, t)
  | .cell c => (2, c)

/-- The end of the last committed or running pulse. -/
def LlUnit.lastEnd (u : LlUnit) : Option Nat :=
  match u.com.getLast?, u.run with
  | some p, _ => some p.fall
  | none, some p => some p.fall
  | none, none => none

/-- The earliest edge of an arm that arrives at an instant (R243), in 2^-40 ns. -/
def LlUnit.eMin (u : LlUnit) (at_ : Nat) : Nat :=
  match u.lastEnd with
  | some e => max (at_ + llLead) (e + llGap)
  | none => at_ + llLead

/-- LT has reached the instant at which an arm is committed: the greater of its own and its earliest edge, less 32 ns (R243). -/
def State.llReached (s : State) (u : LlUnit) (m : LlArm) : Bool :=
  s.timeRuns && decide (max (m.a * ps125) (u.eMin m.at_) - llLead ≤ (s.lt40 : Int))

/-- The rank of a source among requests of one CK_TIME cycle (R244): register, threads, cells. -/
def LlSrc.rank : LlSrc → Nat
  | .reg => 0
  | .thr t => 1 + t
  | .cell c => 65 + c

/-- The Quarter's arming permission (R324, R381). -/
def State.llPermit (s : State) (q : Nat) : Bool := decide (s.fld F.HP_QQUOTA_LLH q < s.fld F.HP_QQUOTA_LLQ q)

/-- A fire or drop record, where REC permits (R247). -/
def State.llRecord (s : State) (n kind ms : Nat) (a : Int) (src : LlSrc) (i extra : Nat) : State :=
  let rec_ := s.act F.LL_CFG_REC n
  if rec_ = 0 ∨ (rec_ = 1 ∧ kind = 0) then s
  else s.present { typ := 5, idx := n, late := kind != 0, ms := ms, payload :=
    [w32 (kind * 2 ^ 28 + src.code.1 * 2 ^ 26 + src.code.2 % 1024 * 2 ^ 16 + i % 65536), BitVec.ofInt 32 a,
     w32 (min extra 0xFFFFFFFF)] }

/-- The first train index above i whose instant base + j × per is not before thr, at most cnt where cnt is not 0. -/
def trainNext (base : Int) (per cnt i : Nat) (thr : Int) : Nat :=
  let j := max (-((base - thr) / per)).toNat (i + 1)
  if cnt = 0 then j else min j cnt

/-- Takes up the next instant of a train as a pending arm that has arrived now, where one is left (R245). -/
def State.llTrain (s : State) (n : Nat) (base : Int) (src : LlSrc) (nxt : Nat) : State :=
  let u := s.llOf n
  let cnt := s.act F.LL_CNT_CNT n
  if cnt = 0 ∨ nxt < cnt then
    s.setLl n { u with arm := some { a := base + nxt * s.act F.LL_PER_PER n, at_ := s.lt40, src := src, i := nxt },
                       train := some (base, src) }
  else s.setLl n { u with arm := none, train := none }

/-- The commit of arm m, whose earliest edge is e in 2^-40 ns, on Lamplighter n (R243, R245): the pulse is committed, placed late
or dropped, and a train goes on. -/
def State.llCommit (s : State) (n : Nat) (m : LlArm) (e : Nat) : State :=
  let wid := s.act F.LL_WIDTH_WID n
  let per := s.act F.LL_PER_PER n
  let cnt := s.act F.LL_CNT_CNT n
  let train := s.actB F.LL_CFG_MODE n
  let base := m.a - m.i * per
  let e8 := (e + (ps125 - 1)) / ps125
  let s := s.setLl n { s.llOf n with arm := none }
  let place (s : State) (rise : Nat) (late : Bool) (extra : Nat) : State :=
    let u := s.llOf n
    s.setLl n { u with com := u.com ++ [{ rise := rise, fall := rise + wid * ps125, late := late, a := m.a, src := m.src,
                                          i := m.i, passed := extra }] }
  if m.a * ps125 ≥ e then
    let s := place s (m.a.toNat * ps125) false 0
    if train then s.llTrain n base m.src (m.i + 1) else s
  else
    let s := s.raise F.LL_STAT_LATE n
    if ¬ s.actB F.LL_CFG_LATEP n then
      let nxt := if train then trainNext base per cnt m.i (e8 + wid + llGap8) else m.i + 1
      let s := place s e true (nxt - m.i - 1)
      if train then s.llTrain n base m.src nxt else s
    else
      let nxt := if train then trainNext base per cnt m.i e8 else m.i + 1
      let s := s.bump F.LL_CNTS_DROPN n (nxt - m.i)
      let s := s.llRecord n 2 (e / 2 ^ 32) m.a m.src m.i (nxt - m.i - 1)
      if train then s.llTrain n base m.src nxt else s

/-- The pending arm of Lamplighter n is committed where LT has reached its instant (R243). -/
def State.llCommitDue (s : State) (n : Nat) : State :=
  let u := s.llOf n
  match u.arm with
  | none => s
  | some m => if s.llReached u m then s.llCommit n m (u.eMin m.at_) else s

/-- LL_COMMIT (R243, R245): LT reaches the greater of the pending instant and its earliest edge, less 32 ns; the pulse is
committed, placed late or dropped, and a train goes on. Nothing before that instant. -/
def execLlCommit (n : Fin 16) (s : State) : Host.Outcome State Fault Refusal := .next (s.llCommitDue n)

/-- Lamplighter n has taken an arm of a later rank in this CK_TIME cycle, which wins over a request of rank r (R244). -/
def State.llOutranked (s : State) (n r : Nat) : Bool :=
  match (s.llOf n).arm with
  | some m => m.at_ == s.lt40 && m.i == 0 && decide (r < m.src.rank)
  | none => false

/-- An arm for instant a reaches Lamplighter n (R242, R244, R246): the status 0 accepted, 1 refused for quota, 2 not
enabled with an active configuration. A commit that is due comes first; an arm of a later rank in the same cycle stays. -/
def State.llArm (s : State) (n : Nat) (a : Int) (src : LlSrc) : State × Nat :=
  if ¬ (s.llOf n).act then (s, 2)
  else if ¬ s.llPermit (s.ownerOf .lamplighter n) then (s.raise F.LL_STAT_QREF n, 1)
  else
    let s := s.llCommitDue n
    if s.llOutranked n src.rank then (s, 0)
    else (s.setLl n { s.llOf n with arm := some { a := a, at_ := s.lt40, src := src, i := 0 },
                                    train := if s.actB F.LL_CFG_MODE n then some (a, src) else none }, 0)

/-- A cancel of rank r removes the pending arm and ends the train (R244), after a commit that is due. -/
def State.llCancel (s : State) (n r : Nat) : State :=
  let s := s.llCommitDue n
  if s.llOutranked n r then s else s.setLl n { s.llOf n with arm := none, train := none }

/-- A write of LL_CMD (R242, R244). -/
def State.llCmd (s : State) (n : Nat) (w : Word) : State :=
  if bit w.toNat 0 then
    (s.llArm n ((s.reg .LL_ARMT_HI n).toNat * 2 ^ 32 + (s.reg .LL_ARMT_LO n).toNat) .reg).1
  else if bit w.toNat 1 then s.llCancel n 0
  else s

/-- Where an edge for instant t (2^-40 ns) that LT has reached is placed (R241), in 1/256 ns. The first CK_TIME cycle that reaches t is the
one that runs, or where the event comes after it, the one as many cycles of the present length before. On GP16-GP31 the edge
stands at its first interpolator phase not before t, elsewhere at the edge that closes it. -/
def State.llPlaced (s : State) (n t : Nat) : Nat :=
  let l := s.lt40
  let len := l - s.ct.prev40
  let c := if len = 0 then l else l - (l - t) / len * len
  match s.llPin n with
  | some g =>
    if 16 ≤ g ∧ g < 32 then (c - len + ((t - (c - len)) * 32 + len - 1) / max 1 len * len / 32) / 2 ^ 32
    else c / 2 ^ 32
  | none => c / 2 ^ 32

/-- The edge that Lamplighter n drives on its pin where it drives one: to the active level, high where POL = 0, or back
(R240, R241). -/
def State.llEdge (s : State) (n : Nat) (active : Bool) (ms : Nat) : State :=
  match s.llPin n with
  | some g => if s.llDrives n then s.emit (.llEdge n g (active != s.actB F.LL_CFG_POL n) ms) else s
  | none => s

/-- LL_PULSE_RISE (R240, R241, R247): LT reaches the rising instant of the oldest committed pulse, whose edge is driven,
counted, recorded and presented to the Crossings; nothing before, or while a pulse runs. -/
def execLlPulseRise (n : Fin 16) (s : State) : Host.Outcome State Fault Refusal :=
  let u := s.llOf n
  match u.com, u.run with
  | p :: ps, none =>
    if ¬ s.timeRuns ∨ s.lt40 < p.rise then .next s
    else
      let ms := s.llPlaced n p.rise
      let s := ((s.setLl n { u with com := ps, run := some p }).llConf n).llEdge n true ms
      let s := s.bump F.LL_CNTS_FIRED n
      let s := if p.late then s.bump F.LL_CNTS_LATEN n else s
      let s := s.llRecord n (if p.late then 1 else 0) ms p.a p.src p.i p.passed
      .next (s.xSample (0x170 + n) ms (.value 1))
  | _, _ => .next s

/-- LL_PULSE_FALL (R240, R241): LT reaches the falling instant of the running pulse; the pin returns to its inactive level, at
the place that R241 gives the edge. -/
def execLlPulseFall (n : Fin 16) (s : State) : Host.Outcome State Fault Refusal :=
  let u := s.llOf n
  match u.run with
  | some p =>
    .next (if s.timeRuns ∧ p.fall ≤ s.lt40 then (s.setLl n { u with run := none }).llEdge n false (s.llPlaced n p.fall) else s)
  | none => .next s

/-- The staged registers of Lamplighter n (R248). -/
def llStaged (n : Nat) : List (Reg × Nat) := [(.LL_CFG, n), (.LL_WIDTH, n), (.LL_PER, n), (.LL_CNT, n)]

/-- A periodic configuration whose period is too short (R245). -/
def State.llShort (s : State) (n : Nat) : Bool :=
  s.actB F.LL_CFG_MODE n && decide (s.act F.LL_PER_PER n < s.act F.LL_WIDTH_WID n + llGap8)

/-- What a tick does to Lamplighter n (R245, R248). -/
def State.llTick (s : State) (old : Tab Word) (n : Nat) : State :=
  let changed := regsDiffer old s.active (llStaged n)
  let en := s.actB F.LL_CFG_EN n
  let u := if changed then {} else s.llOf n
  let s := s.setLl n { u with act := en && !s.llShort n }
  (s.raiseIf (changed && en && s.llShort n) F.LL_STAT_CFGERR n).llConf n

/-- Lamplighter n holds an arm, a pulse or a train (R381). -/
def LlUnit.held (u : LlUnit) : Bool := u.arm.isSome || !u.com.isEmpty || u.run.isSome || u.train.isSome

/-- The count of R381, taken for Quarter q at a tick. -/
def State.llCount (s : State) (q : Nat) : State :=
  let k := ((List.range 16).filter fun n => s.ownerOf .lamplighter n == q && (s.llOf n).held).length
  s.setFld F.HP_QQUOTA_LLH q k

end Sys2Proof.Machine
end

