-- ==== Sys2Proof/Machine/Crossings.lean ====
section
/-! DEFINITION. The Crossing engine (09_crossings): the primitives, ETA, the pass, and what a tick does to the cells.
Milestones are in 1/256 ns. -/

namespace Sys2Proof.Machine

/-! ### Whole-number square roots and ETA (R210-R212) -/

/-- The floor of the square root of n, from bit k downwards above the root r found so far. -/
def isqrtFrom (n : Nat) : Nat → Nat → Nat
  | 0, r => r
  | k + 1, r =>
    let t := r + 2 ^ k
    isqrtFrom n k (if t * t ≤ n then t else r)

/-- The floor of the square root of n. -/
def isqrt (n : Nat) : Nat := isqrtFrom n (n.log2 / 2 + 1) 0

/-- The ceiling of the square root of n. -/
def isqrtUp (n : Nat) : Nat := if isqrt n * isqrt n = n then isqrt n else isqrt n + 1

/-- The floor of n / d for any sign of d. -/
def fdiv (n d : Int) : Int := if d < 0 then (-n) / (-d) else n / d

/-- The ceiling of n / d for any sign of d. -/
def cdiv (n d : Int) : Int := -(fdiv (-n) d)

/-- Sum of f over a list. -/
def sumOf (l : List (Int × Int)) (f : Int → Int → Int) : Int := l.foldl (fun a p => a + f p.1 p.2) 0

/-- The line through the points by least squares, as whole numbers (den, b, a): p(x) = (a + b x) / den; none where the
fit is singular (R211). -/
def fitLine (l : List (Int × Int)) : Option (Int × Int × Int) :=
  let n : Int := l.length
  let s1 := sumOf l fun x _ => x
  let s2 := sumOf l fun x _ => x * x
  let t0 := sumOf l fun _ y => y
  let t1 := sumOf l fun x y => x * y
  let d := n * s2 - s1 * s1
  if d = 0 then none else some (d, n * t1 - s1 * t0, t0 * s2 - t1 * s1)

/-- The parabola through the points by least squares, as whole numbers (den, c, b, a), by Cramer's rule. -/
def fitQuad (l : List (Int × Int)) : Option (Int × Int × Int × Int) :=
  let s0 : Int := l.length
  let s1 := sumOf l fun x _ => x
  let s2 := sumOf l fun x _ => x * x
  let s3 := sumOf l fun x _ => x * x * x
  let s4 := sumOf l fun x _ => x * x * x * x
  let t0 := sumOf l fun _ y => y
  let t1 := sumOf l fun x y => x * y
  let t2 := sumOf l fun x y => x * x * y
  let det3 (a b c d e f g h i : Int) : Int := a * (e * i - f * h) - b * (d * i - f * g) + c * (d * h - e * g)
  let d := det3 s0 s1 s2 s1 s2 s3 s2 s3 s4
  if d = 0 then none
  else some (d, det3 s0 s1 t0 s1 s2 t1 s2 s3 t2, det3 s0 t0 s2 s1 t1 s3 s2 t2 s4, det3 t0 s1 s2 t1 s2 s3 t2 s3 s4)

/-- The floor of the root of b x + e = 0 within [-h, h]; every x where both are 0, so the root 0. -/
def rootLine (b e h : Int) : Option Int :=
  if b = 0 then (if e = 0 then some 0 else none)
  else if -h ≤ fdiv (-e) b ∧ cdiv (-e) b ≤ h then some (fdiv (-e) b) else none

/-- The floor of the root of c x² + b x + e = 0, c not 0, of least size within [-h, h], the positive one of two equal
sizes (R211). -/
def rootQuad (c b e h : Int) : Option Int :=
  let (c, b, e) := if c < 0 then (-c, -b, -e) else (c, b, e)
  let disc := b * b - 4 * c * e
  if disc < 0 then none
  else
    let lo : Int := isqrt disc.toNat
    let hi : Int := isqrtUp disc.toNat
    let f1 := fdiv (-b - hi) (2 * c)
    let c1 := cdiv (-b - lo) (2 * c)
    let f2 := fdiv (-b + lo) (2 * c)
    let c2 := cdiv (-b + hi) (2 * c)
    let in1 := -h ≤ f1 ∧ c1 ≤ h
    let in2 := -h ≤ f2 ∧ c2 ≤ h
    if in1 ∧ (¬ in2 ∨ b < 0) then some f1 else if in2 then some f2 else none

/-- The solution tau* of an ETA cell in 1/256 ns from the newest sample, rounded down; none is NOSOL. -/
def etaSolve (hist : List (Nat × Int)) (target : Int) (horizon : Nat) (quad : Bool) : Option Int :=
  match hist with
  | [] => none
  | (tn, _) :: _ =>
    let pts := hist.map fun p => ((p.1 : Int) - tn, p.2)
    let h : Int := 256 * horizon
    if quad then
      match fitQuad pts with
      | none => none
      | some (d, c, b, a) => if c = 0 then rootLine b (a - target * d) h else rootQuad c b (a - target * d) h
    else
      match fitLine pts with
      | none => none
      | some (d, b, a) => rootLine b (a - target * d) h

/-! ### One evaluation of one cell (R198-R203, R209) -/

/-- An event of a cell (R213): its kind, Milestone, payload word 1, and for ETA the instant armed (1/256 ns) and whether
a NOSOL cancels the arm. -/
structure XEv where
  kind : Nat
  ms : Nat
  w1 : Word
  armAt : Option Int := none
  cancel : Bool := false
deriving DecidableEq, Repr

/-- What one evaluation gives: the cell, its events, how many late and replaced samples it counts, XC_VAL if it changes. -/
structure XRes where
  cell : XCell
  evs : List XEv := []
  late : Nat := 0
  repl : Nat := 0
  val : Option Word := none
deriving DecidableEq, Repr

/-- The active parameters of a cell: XC_P0 to XC_P3 and XC_ARMOFS. -/
structure XPar where
  p0 : Nat
  p1 : Nat
  p2 : Nat
  p3 : Nat
  ofs : Int
deriving DecidableEq, Repr

/-- ns in 1/256 ns. -/
def ns256 (n : Nat) : Nat := 256 * n

/-- Q takes a value: SET or CLR where it changes. -/
def XCell.setQ (c : XCell) (v : Bool) (ms : Nat) (w1 : Word) : XCell × List XEv :=
  if c.q = v then (c, []) else ({ c with q := v }, [{ kind := if v then 0 else 1, ms := ms, w1 := w1 }])

/-- The threshold of modes 0 and 1 with hysteresis (R198). -/
def overThr (mode : Nat) (q : Bool) (x th : Int) (hys : Nat) : Bool :=
  if mode = 0 then (if x > th then true else if x ≤ th - hys then false else q)
  else (if x < th then true else if x ≥ th + hys then false else q)

/-- LEVEL (R198). -/
def evalLevel (c : XCell) (p : XPar) (v : Int) (ms : Nat) : XRes :=
  let w := BitVec.ofInt 32 v
  let th := sext p.p0 32
  let hi := sext p.p1 32
  let q := match p.p2 % 4 with
    | 2 => decide (th ≤ v ∧ v < hi)
    | 3 => decide (v < th ∨ v ≥ hi)
    | m => overThr m c.q v th p.p1
  let (c, e) := c.setQ q ms w
  { cell := c, evs := e, val := some w }

/-- SLOPE (R203). -/
def evalSlope (c : XCell) (p : XPar) (v : Int) (ms : Nat) : XRes :=
  let gap := match c.prev with
    | none => true
    | some (t, _) => decide (p.p3 ≠ 0 ∧ ms - t > ns256 p.p3)
  let pv := match c.prev with
    | none => 0
    | some (_, x) => x
  let c := { c with prev := some (ms, v) }
  if gap then { cell := c }
  else
    let d := sext (wrap (v - pv) 32) 32
    let w := BitVec.ofInt 32 d
    let m := p.p2 % 4
    let q := overThr (if m = 2 then 0 else m) c.q (if m = 2 then d.natAbs else d) (sext p.p0 32) p.p1
    let (c, e) := c.setQ q ms w
    { cell := c, evs := e, val := some w }

/-- A sample of DEBOUNCE by time (R199): it starts or cancels a candidate; one beyond the candidate's interval waits for
the decision. -/
def XCell.debounceTime (c : XCell) (t : Nat) (v : Int) (ms : Nat) : XCell :=
  match c.cand with
  | some (t0, _) =>
    if ms ≥ t0 + ns256 t then { c with hist := c.hist ++ [(ms, v)] }
    else if decide (v ≠ 0) = c.q then { c with cand := none }
    else c
  | none => if decide (v ≠ 0) = c.q then c else { c with cand := some (ms, v) }

/-- DEBOUNCE (R199). A late sample with the old value inside the interval of the last decision is counted (R192). -/
def evalDebounce (c : XCell) (p : XPar) (v : Int) (ms : Nat) : XRes :=
  let w := BitVec.ofInt 32 v
  let tr := decide (v ≠ 0)
  if p.p2 % 2 = 0 then
    if tr = c.q then { cell := { c with run := 0 }, val := some w }
    else if c.run + 1 < p.p0 % 65536 then { cell := { c with run := c.run + 1 }, val := some w }
    else
      let (c, e) := ({ c with run := 0 } : XCell).setQ tr ms w
      { cell := c, evs := e, val := some w }
  else
    let late := match c.dec with
      | some (a, b) => if a ≤ ms ∧ ms < b ∧ tr ≠ c.q then 1 else 0
      | none => 0
    { cell := c.debounceTime p.p1 v ms, val := some w, late := late }

/-- The value of the condition of WINDOW in mode 0 at instant t: the latest accepted A sample not after t. -/
def condAt (hist : List (Nat × Int)) (t : Nat) : Bool :=
  match hist.find? fun h => decide (h.1 ≤ t) with
  | some (_, v) => decide (v ≠ 0)
  | none => false

/-- The first true A sample with a Milestone in [a, b). -/
def firstTrue (hist : List (Nat × Int)) (a b : Nat) : Option (Nat × Int) :=
  hist.reverse.find? fun h => decide (a ≤ h.1 ∧ h.1 < b ∧ h.2 ≠ 0)

/-- The HIT that the samples give the window of reference tr, with its value (R200). -/
def windowHit (p : XPar) (tr : Nat) (hist : List (Nat × Int)) : Option (Nat × Word) :=
  let a := tr + ns256 p.p0
  let b := tr + ns256 p.p1
  if b ≤ a then none
  else if p.p2 % 2 = 0 ∧ condAt hist a then some (a, 1)
  else (firstTrue hist a b).map fun h => (h.1, BitVec.ofInt 32 h.2)

/-- WINDOW scores as soon as its HIT is certain, and at its decision says HIT or MISS (R200, notes/assumptions/12.md). -/
def windowScore (c : XCell) (p : XPar) (final : Bool) : XCell × List XEv :=
  match c.win with
  | none => (c, [])
  | some tr =>
    let known := final || p.p2 % 2 == 1 || (match c.lastA with
      | some l => decide (tr + ns256 p.p0 < l)
      | none => false)
    let dec := if final then some (tr, c.hist.length) else c.dec
    match if known then windowHit p tr c.hist else none with
    | some (t, w) => ({ c with win := none, q := true, dec := dec }, [{ kind := 2, ms := t, w1 := w }])
    | none =>
      if final then ({ c with win := none, q := false, dec := dec }, [{ kind := 3, ms := tr + ns256 p.p1, w1 := 0 }])
      else (c, [])

/-- Whether a sample of input A would have changed the last decision of WINDOW (R192). -/
def windowLate (c : XCell) (p : XPar) (v : Int) (ms : Nat) : Bool :=
  match c.dec with
  | none => false
  | some (tr, n) =>
    let then_ := c.hist.drop (c.hist.length - n)
    windowHit p tr ((ms, v) :: then_) != windowHit p tr then_

/-- A sample of WINDOW (R200). -/
def evalWindow (c : XCell) (p : XPar) (onB : Bool) (v : Int) (ms : Nat) : XRes :=
  if onB then
    if v = 0 then { cell := c }
    else
      let (c', e) := windowScore { c with win := some ms } p false
      { cell := c', evs := e, repl := if c.win.isSome then 1 else 0 }
  else
    let (c', e) := windowScore { c with hist := (ms, v) :: c.hist } p false
    { cell := c', evs := e, late := if windowLate c p v ms then 1 else 0, val := some (BitVec.ofInt 32 v) }

/-- The count of COUNT at instant t (R201). -/
def countAt (hist : List (Nat × Int)) (t len : Nat) : Nat :=
  (hist.filter fun h => decide (h.1 ≤ t ∧ t < h.1 + ns256 len)).length

/-- A sample of COUNT (R201). -/
def evalCount (c : XCell) (p : XPar) (v : Int) (ms : Nat) : XRes :=
  if v = 0 then { cell := c }
  else
    let late := match c.dec with
      | some (e, n) => if ms ≤ e ∧ e < ms + ns256 p.p0 ∧ p.p1 % 128 ≤ n + 1 then 1 else 0
      | none => 0
    let hist := ((ms, v) :: c.hist).take 64
    let n := countAt hist ms p.p0
    let c := { c with hist := hist, dls := c.dls ++ [ms + ns256 p.p0] }
    let (c, e) := if ¬ c.q ∧ n ≥ p.p1 % 128 then c.setQ true ms (w32 n) else (c, [])
    { cell := c, evs := e, late := late, val := some (w32 n) }

/-- The first held sample after instant e that brings the count to THR (R201), with the count. -/
def countSet (hist : List (Nat × Int)) (p : XPar) (e : Nat) : Option (Nat × Nat) :=
  (hist.reverse.map fun h => (h.1, countAt hist h.1 p.p0)).find? fun h => decide (e < h.1 ∧ p.p1 % 128 ≤ h.2)

/-- The decision of COUNT at e (R201): CLR where the count falls below THR, and then the SET of a sample accepted meanwhile that
brought it to THR again (DEDUCED, notes/assumptions/92.md). -/
def decideCount (c : XCell) (p : XPar) (e : Nat) : XRes :=
  let n := countAt c.hist e p.p0
  if ¬ c.q ∨ p.p1 % 128 ≤ n then { cell := c, val := some (w32 n) }
  else
    let (c, clr) := ({ c with dec := some (e, n) } : XCell).setQ false e (w32 n)
    match countSet c.hist p e with
    | none => { cell := c, evs := clr, val := some (w32 n) }
    | some (t, m) =>
      let (c, set) := c.setQ true t (w32 m)
      { cell := c, evs := clr ++ set, val := some (w32 m) }

/-- SEQUENCE matches the held pair (R202). -/
def seqMatch (c : XCell) (p : XPar) : XCell × List XEv :=
  match c.ta, c.tb with
  | some a, some b =>
    if a ≤ b ∧ b < a + ns256 p.p0 then
      ({ c with ta := none, tb := none, q := true }, [{ kind := 4, ms := b, w1 := w32 (min ((b - a) / 256) 0xFFFFFFFF) }])
    else (c, [])
  | _, _ => (c, [])

/-- A sample of SEQUENCE (R202). -/
def evalSequence (c : XCell) (p : XPar) (onB : Bool) (v : Int) (ms : Nat) : XRes :=
  let val := if onB then none else some (BitVec.ofInt 32 v)
  if v = 0 then { cell := c, val := val }
  else if onB then
    let late := match c.dec with
      | some (a, b) => if a ≤ ms ∧ ms < b then 1 else 0
      | none => 0
    let (c', e) := seqMatch { c with tb := some ms } p
    { cell := c', evs := e, late := late, val := val }
  else
    let late := match c.dec2 with
      | some b => if ms ≤ b ∧ b < ms + ns256 p.p0 then 1 else 0
      | none => 0
    let (c', e) := seqMatch { c with ta := some ms, q := false } p
    { cell := c', evs := e, late := late, repl := if c.ta.isSome then 1 else 0, val := val }

/-- A sample of PIN (R209). -/
def evalPin (c : XCell) (w : XWhat) (ms : Nat) : XRes :=
  match w with
  | .stuck => { cell := c, evs := [{ kind := 7, ms := ms, w1 := 0 }] }
  | .chatter n => { cell := c, evs := [{ kind := 8, ms := ms, w1 := w32 n }] }
  | .value v =>
    let q := decide (v ≠ 0)
    { cell := { c with q := q }, evs := [{ kind := if q then 5 else 6, ms := ms, w1 := 0 }], val := some (BitVec.ofInt 32 v) }
  | _ => { cell := c }

/-- A sample of ETA (R210-R212) evaluated at LT `now`; `err` is how far the engine's solution lies from the exact one,
rounded down, in 1/256 ns (a free value within the 1 ns of R211). -/
def evalEta (c : XCell) (p : XPar) (onB : Bool) (v : Int) (ms now : Nat) (err : Int) : XRes :=
  let oneshot := bit p.p3 9
  if onB then { cell := if v ≠ 0 then { c with stopped := false, lastArm := none } else c }
  else
    let n := p.p3 % 64
    let due := match c.lastArm with
      | some t => decide (t ≤ (now : Int))
      | none => false
    let c := { c with hist := ((ms, v) :: c.hist).take n, stopped := c.stopped || (oneshot && due) }
    if c.hist.length < n then { cell := c }
    else match etaSolve c.hist (sext p.p0 32) p.p2 (bit p.p3 8) with
      | none => { cell := { c with q := false }, evs := [{ kind := 10, ms := ms, w1 := 0, cancel := bit p.p3 10 }] }
      | some tau =>
        if c.stopped then { cell := c }
        else
          let a : Int := ms + tau + err + 32 * p.ofs
          let w := BitVec.ofInt 32 (a / 32)
          { cell := { c with q := true, lastArm := some a }, evs := [{ kind := 9, ms := ms, w1 := w, armAt := some a }],
            val := some w }

/-- The decision of a deadline of a cell (R192, R199-R202): kind 0 DEBOUNCE, 1 WINDOW, 2 COUNT, 3 a held A, 4 a held B.
None where the cell awaits that decision no more. -/
def evalDeadline (c : XCell) (prim : Nat) (p : XPar) (kind end_ : Nat) : Option XRes :=
  match kind with
  | 0 =>
    match c.cand with
    | some (t0, v) =>
      if prim ≠ 2 ∨ t0 + ns256 p.p1 ≠ end_ then none
      else
        let (c1, e) := ({ c with cand := none, dec := some (t0, end_), hist := [] } : XCell).setQ (decide (v ≠ 0)) end_
          (BitVec.ofInt 32 v)
        some { cell := c.hist.foldl (fun c h => c.debounceTime p.p1 h.2 h.1) c1, evs := e }
    | none => none
  | 1 =>
    match c.win with
    | some tr =>
      if prim ≠ 3 ∨ tr + ns256 p.p1 ≠ end_ then none
      else
        let (c, e) := windowScore c p true
        some { cell := c, evs := e }
    | none => none
  | 2 =>
    if prim ≠ 4 ∨ ¬ c.dls.contains end_ then none
    else some (decideCount { c with dls := c.dls.erase end_ } p end_)
  | 3 =>
    match c.ta with
    | some a =>
      if prim ≠ 5 ∨ a + ns256 p.p0 ≠ end_ then none
      else
        some { cell := { c with ta := none, dec := some (a, end_) },
               evs := if bit p.p2 0 then [{ kind := 3, ms := end_, w1 := 0 }] else [] }
    | none => none
  | _ =>
    match c.tb with
    | some b => if prim ≠ 5 ∨ b ≠ end_ then none else some { cell := { c with tb := none, dec2 := some b } }
    | none => none

/-! ### The pass (R191, R213-R215) -/

/-- The active parameters of cell c. -/
def State.xPar (s : State) (c : Nat) : XPar :=
  { p0 := s.act F.XC_P0_P c, p1 := s.act F.XC_P1_P c, p2 := s.act F.XC_P2_P c, p3 := s.act F.XC_P3_P c,
    ofs := sext (s.act F.XC_ARMOFS_ARMOFS c) 32 }

/-- The pin that cell c drives under PMODE, where it names one. -/
def State.xPin (s : State) (c : Nat) : Option Nat :=
  let p := s.act F.XC_ACT_PIN c
  if s.act F.XC_ACT_PMODE c ≠ 0 ∧ p < 96 then some p else none

/-- The pin of cell c is assigned to the Crossings and to the cell's Quarter (R215, R249). -/
def State.xPinOk (s : State) (c p : Nat) : Bool :=
  s.act F.GP_CFG_FUNC p == 2 && s.ownerOf .pin p == s.ownerOf .cell c

/-- Q of cell c has changed: a pin drive that is not assigned sets CFGERR (R215). -/
def State.xDrive (s : State) (c : Nat) : State :=
  match s.xPin c with
  | some p => s.raiseIf (!s.xPinOk c p) F.XC_STAT_CFGERR c
  | none => s

/-- The actions of an AMASK event (R215). -/
def State.xActions (s : State) (c : Nat) (e : XEv) : State :=
  let own := s.ownerOf .cell c
  let s :=
    if ¬ s.actB F.XC_ACT_WEN c then s
    else
      let t := 16 * s.act F.XC_ACT_WBLK c + s.act F.XC_ACT_WTHR c
      if s.ownerOf .thread t = own then s.wakeThread t else s.raise F.XC_STAT_WREF c
  if ¬ s.actB F.XC_ACT_LEN c then s
  else
    let n := s.act F.XC_ACT_LLN c
    let at_ : Option Int := if s.xPrim c = 8 then e.armAt else some (e.ms + 32 * (s.xPar c).ofs)
    match at_ with
    | none => s
    | some a =>
      if s.ownerOf .lamplighter n ≠ own then s.raise F.XC_STAT_ARMREF c
      else
        let (s, st) := s.llArm n (a / 32) (.cell c)
        s.raiseIf (st == 1) F.XC_STAT_ARMREF c

/-- An event of cell c (R212-R215): its sequence number, record, arm cancel and actions. -/
def State.xEvent (s : State) (c : Nat) (e : XEv) : State :=
  let sq := (s.fld F.XC_STAT_SEQ c + 1) % 65536
  let s := (s.setFld F.XC_STAT_SEQ c sq).bump F.XC_CNT_EVN c
  let q := if (s.cellOf c).q then 1 else 0
  let s := if bit (s.act F.XC_OUT_RMASK c) e.kind then
      s.present { typ := 4, idx := c, ms := e.ms,
                  payload := [w32 (e.kind * 2 ^ 28 + s.xPrim c * 2 ^ 24 + q * 65536 + sq), e.w1] }
    else s
  let n := s.act F.XC_ACT_LLN c
  let s := if e.cancel ∧ s.actB F.XC_ACT_LEN c ∧ (s.llOf n).arm.map (·.src) = some (.cell c) then s.llCancel n (65 + c) else s
  if bit (s.act F.XC_OUT_AMASK c) e.kind then s.xActions c e else s

/-- Puts the outcome of an evaluation of cell c into the state. -/
def State.xApply (s : State) (c : Nat) (r : XRes) : State :=
  let was := (s.cellOf c).q
  let s := s.setCell c r.cell
  let s := if r.late = 0 then s else s.bump F.XC_CNT_LATE c r.late
  let s := if r.repl = 0 then s else s.bump F.XC_STAT_REPL c r.repl
  let s := match r.val with
    | some v => s.setReg .XC_VAL c v
    | none => s
  let s := r.evs.foldl (fun s e => s.xEvent c e) s
  if was = r.cell.q then s else s.xDrive c

/-- A sample on its way to an input of a cell. -/
structure XIn where
  cell : Nat
  onB : Bool
  ms : Nat
  what : XWhat
deriving DecidableEq, Repr

/-- What the readers of cell c receive after an evaluation at Milestone ms with the given events (R191). -/
def State.xOutputs (s : State) (c ms : Nat) (evs : List XEv) : List XIn :=
  let q := (s.cellOf c).q
  let toReader (r : Nat) (onB : Bool) (evm : Bool) : List XIn :=
    if evm then
      (evs.filter fun e => bit (s.act F.XC_OUT_AMASK c) e.kind).map fun e =>
        { cell := r, onB := onB, ms := e.ms, what := .value 1 }
    else [{ cell := r, onB := onB, ms := ms, what := .value (if q then 1 else 0) }]
  (List.range 128).flatMap fun r =>
    (if s.xReadsA r (0x80 + c) then toReader r false (s.actB F.XC_INA_EVM r) else [])
      ++ (if s.xReadsB r (0x80 + c) then toReader r true (s.actB F.XC_INB_EVM r) else [])

/-- The value that a cell's input takes from a packet (R189); none where the packet is too short. -/
def extract (words : List Word) (wsel lsb widm1 : Nat) (sgn : Bool) : Option Int :=
  match words[wsel]? with
  | none => none
  | some w =>
    let v := bits w.toNat (lsb + widm1) lsb
    some (if sgn then sext v (widm1 + 1) else sext v 32)

/-- What an evaluation costs (R193). -/
def State.xCost (s : State) (i : XIn) : Nat :=
  if s.xPrim i.cell = 8 ∧ ¬ i.onB then 8 + s.act F.XC_P3_P i.cell % 64 else 1

/-- Evaluates one sample at one cell; answers the samples it gives to readers. A packet too short, a sample older than
the last on its input, and STUCK or CHATTER at a cell other than PIN are not evaluated (R189, R190, R209). -/
def State.xEval (s : State) (i : XIn) : State × List XIn :=
  let c := i.cell
  let u := s.cellOf c
  let prim := s.xPrim c
  let v : Option Int := match i.what with
    | .packet ws =>
      if i.onB then extract ws (s.act F.XC_INB_WSEL c) (s.act F.XC_INB_LSB c) (s.act F.XC_INB_WIDM1 c) (s.actB F.XC_INB_SGN c)
      else extract ws (s.act F.XC_INA_WSEL c) (s.act F.XC_INA_LSB c) (s.act F.XC_INA_WIDM1 c) (s.actB F.XC_INA_SGN c)
    | .value v => some v
    | _ => some 0
  match v with
  | none => (s.bump F.XC_CNT_SHORT c, [])
  | some v =>
    let odd := decide (i.what = .stuck) || (match i.what with | .chatter _ => true | _ => false)
    if u.inert ∨ (odd ∧ prim ≠ 7) then (s, [])
    else
      let last := if i.onB then u.lastB else u.lastA
      if (match last with | some l => decide (i.ms < l) | none => false) then (s.bump F.XC_CNT_LATE c, [])
      else
        let s := { s with xcEv := s.xcEv + s.xCost i }
        let u := if i.onB then { u with lastB := some i.ms } else { u with lastA := some i.ms }
        let p := s.xPar c
        let (s, err) : State × Int :=
          if prim = 8 ∧ ¬ i.onB then
            let (s, f) := s.fresh
            (s, (f.toNat % 512 : Nat) - 255)
          else (s, 0)
        let r := match prim with
          | 1 => evalLevel u p v i.ms
          | 2 => evalDebounce u p v i.ms
          | 3 => evalWindow u p i.onB v i.ms
          | 4 => evalCount u p v i.ms
          | 5 => evalSequence u p i.onB v i.ms
          | 6 => evalSlope u p v i.ms
          | 7 => evalPin u (if odd then i.what else .value v) i.ms
          | _ => evalEta u p i.onB v i.ms s.ltMs err
        let s := s.xApply c r
        (s, s.xOutputs c i.ms r.evs)

/-- Evaluates the samples of one depth in ascending cell number; at depth 4 what would go deeper is discarded (R191). -/
def State.xDepth (s : State) (last : Bool) (l : List XIn) : State × List XIn :=
  l.foldl (fun acc i =>
    let (s, o) := acc.1.xEval i
    if last then (s.raiseIf (!o.isEmpty) F.XC_STAT_DEPTH i.cell, []) else (s, acc.2 ++ o)) (s, [])

/-- Sorts the samples of a depth by cell, keeping the order of arrival at one cell. -/
def sortByCell (l : List XIn) : List XIn :=
  (List.range 128).flatMap fun c => l.filter fun i => i.cell == c

/-- Depths d and deeper of a pass, to depth 4. -/
def State.xDepths (s : State) (l : List XIn) : Nat → State
  | 0 => s
  | n + 1 =>
    let (s, o) := s.xDepth (n == 0) (sortByCell l)
    s.xDepths o n

/-- The pass of one entry (R191): the readers of its source, or the cell of its deadline, then the readers of those. -/
def State.xPass (s : State) (e : XEnt) : State :=
  match e.what with
  | .deadline c kind end_ =>
    let u := s.cellOf c
    if ¬ u.act ∨ u.inert then s
    else match evalDeadline u (s.xPrim c) (s.xPar c) kind end_ with
      | none => s
      | some r =>
        let s := { s with xcEv := s.xcEv + 1 }
        let s := s.xApply c r
        s.xDepths (s.xOutputs c end_ r.evs) 3
  | w =>
    s.xDepths ((List.range 128).flatMap fun c =>
      (if s.xReadsA c e.src then [{ cell := c, onB := false, ms := e.ms, what := w }] else [])
        ++ (if s.xReadsB c e.src then [{ cell := c, onB := true, ms := e.ms, what := w }] else [])) 4

/-- CROSSING_PASS (R191, R195): the engine serves the oldest entry, the given CK_CORE cycles after it joined. -/
def execCrossingPass (delay : Nat) (s : State) : Host.Outcome State Fault Refusal :=
  match s.xq with
  | [] => .next s
  | e :: rest =>
    let s := ({ s with xq := rest }).xPass e
    let s := s.setFld F.XC_EVMAX_N 0 (max (s.fld F.XC_EVMAX_N) (min delay 65535))
    .next (s.raiseIf (decide (delay > 1000)) F.XC_STATUS_EVLATE)

/-- The interval ends that cell c awaits, as (kind, end). -/
def State.xAwaited (s : State) (c : Nat) : List (Nat × Nat) :=
  let u := s.cellOf c
  let p := s.xPar c
  let one (k : Nat) (o : Option Nat) : List (Nat × Nat) := match o with | some e => [(k, e)] | none => []
  match s.xPrim c with
  | 2 => one 0 (u.cand.map fun t => t.1 + ns256 p.p1)
  | 3 => one 1 (u.win.map fun t => t + ns256 p.p1)
  | 4 => u.dls.map fun e => (2, e)
  | 5 => one 3 (u.ta.map fun t => t + ns256 p.p0) ++ one 4 u.tb
  | _ => []

/-- CROSSING_DEADLINE (R192): LT reaches the end of an interval that cell c awaits plus GRACE, and a deadline entry joins
the queue; the earliest such end first. Nothing where none is due, or its entry waits in the queue. -/
def execCrossingDeadline (c : Fin 128) (s : State) : Host.Outcome State Fault Refusal :=
  let u := s.cellOf c
  let grace := s.act F.XC_CFG_GRACE c * us256
  let due := (s.xAwaited c).filter fun d =>
    decide (d.2 + grace ≤ s.ltMs) && !(s.xq.any fun e => decide (e.what = .deadline c d.1 d.2))
  match due with
  | [] => .next s
  | d :: ds =>
    if ¬ u.act ∨ u.inert then .next s
    else
      let d := ds.foldl (fun a b => if b.2 < a.2 then b else a) d
      .next (s.xJoin { src := 0x1FF, ms := d.2, what := .deadline c d.1 d.2 })

/-! ### Commands and the tick -/

/-- A cell in its initial state, enabled as it was (R196). -/
def XCell.initial (u : XCell) : XCell := { act := u.act, inert := u.inert }

/-- A write of XC_CMD (R196, R212). -/
def State.xcCmd (s : State) (c : Nat) (w : Word) : State :=
  let u := s.cellOf c
  let was := u.q
  let s := if bit w.toNat 0 then s.setCell c u.initial else s
  let s := if bit w.toNat 1 then s.setCell c { s.cellOf c with stopped := false, lastArm := none } else s
  if was ∧ bit w.toNat 0 then s.xDrive c else s

/-- The staged registers of cell c. -/
def xcStaged (c : Nat) : List (Reg × Nat) :=
  [(.XC_CFG, c), (.XC_INA, c), (.XC_INB, c), (.XC_P0, c), (.XC_P1, c), (.XC_P2, c), (.XC_P3, c), (.XC_OUT, c),
   (.XC_ACT, c), (.XC_ARMOFS, c)]

/-- A parameter or source that R204 does not allow. -/
def State.xBadCfg (s : State) (c : Nat) : Bool :=
  let p := s.xPar c
  let a := s.act F.XC_INA_SRC c
  match s.xPrim c with
  | 2 => if bit p.p2 0 then p.p1 == 0 else p.p0 % 65536 == 0
  | 4 => let n := p.p1 % 128; n == 0 || decide (n > 64)
  | 6 => p.p2 % 4 == 3
  | 7 => !decide (0x100 ≤ a ∧ a < 0x160)
  | 8 => let n := p.p3 % 64; decide (c < 112) || p.p2 == 0 || decide (p.p2 > 10000000) || decide (n < 4) || decide (n > 32)
  | _ => false

/-- The enabled cells that cell c reads. -/
def State.xReadCells (s : State) (c : Nat) : List Nat :=
  if ¬ (s.cellOf c).act ∨ s.xPrim c = 0 then []
  else
    let f (src : Nat) : List Nat := if 0x80 ≤ src ∧ src < 0x100 then [src - 0x80] else []
    f (s.act F.XC_INA_SRC c) ++ (if primHasB (s.xPrim c) then f (s.act F.XC_INB_SRC c) else [])

/-- The cells reached from a frontier by reading, in at most the given number of steps. -/
def State.xReach (s : State) (front seen : List Nat) : Nat → List Nat
  | 0 => seen
  | n + 1 =>
    let new := ((front.flatMap s.xReadCells).filter fun c => !seen.contains c).eraseDups
    if new.isEmpty then seen else s.xReach new (seen ++ new) n

/-- Cell c reads itself, directly or through other cells (R204). -/
def State.xSelf (s : State) (c : Nat) : Bool := (s.xReach [c] [] 128).contains c

/-- The enables of the cells of Quarter q at a tick (R380): new enables are admitted in ascending order below XCQ, the rest
refused under R196; `act` and the active EN follow, and XCN shows the count. -/
def State.xcAdmit (s : State) (q : Nat) : State :=
  let mine := (List.range 128).filter fun c => s.ownerOf .cell c == q
  let n0 := (mine.filter fun c => (s.cellOf c).act && s.actB F.XC_CFG_EN c).length
  let quota := s.fld F.HP_QQUOTA_XCQ q
  let r := mine.foldl (fun acc c =>
    let (s, n) := acc
    let u := s.cellOf c
    let en := s.actB F.XC_CFG_EN c
    if ¬ en then (s.setCell c {}, n)
    else if u.act then (s, n)
    else if n < quota then (s.setCell c { act := true }, n + 1)
    else ((s.setActw .XC_CFG c (F.XC_CFG_EN.put (s.actw .XC_CFG c) 0)).raise F.XC_STATUS_QREF, n)) (s, n0)
  r.1.setFld F.HP_QQUOTA_XCN q r.2

/-- What a tick does to the cells (R196, R204, R380): enables by Quarter, cells of changed fields and cells whose inert
status changes start from their initial state, and XC_LOAD takes the count of the tick. -/
def State.xcTick (s : State) (old : Tab Word) : State :=
  let s := (List.range 4).foldl State.xcAdmit s
  let s := s.each 128 fun s c =>
    let u := s.cellOf c
    if ¬ u.act then s
    else
      let bad := s.xBadCfg c || s.xSelf c
      let changed := regsDiffer old s.active (xcStaged c)
      let restart := changed || bad != u.inert
      let s := if restart then (s.setCell c { act := true, inert := bad }).xDrive c else s
      s.raiseIf (bad && restart) F.XC_STAT_CFGERR c
  { s.setFld F.XC_LOAD_EVN 0 (min s.xcEv 0xFFFFFF) with xcEv := 0 }

end Sys2Proof.Machine
end

