-- ==== Sys2Proof/Machine/HeadLinks.lean ====
section
/-! DEFINITION. The head links (07_head_link): carriers, coding, superframes, ranging, tables and link states. Link n is a
hub where HL_CFG.ROLE is 0 and a node where it is 1. Instants are Milestones in 1/256 ns; a sample is 4 ns. -/

namespace Sys2Proof.Machine

/-- Head link n. -/
def State.hlOf (s : State) (n : Nat) : HlUnit := s.hl.get (fun _ => {}) n
/-- Replaces head link n. -/
def State.setHl (s : State) (n : Nat) (v : HlUnit) : State := { s with hl := s.hl.set (fun _ => {}) n v }
/-- Link n is enabled. -/
def State.hlEn (s : State) (n : Nat) : Bool := s.actB F.HL_CFG_EN n
/-- Link n is an enabled hub. -/
def State.hlHub (s : State) (n : Nat) : Bool := s.hlEn n && s.act F.HL_CFG_ROLE n == 0
/-- Link n is an enabled node. -/
def State.hlNode (s : State) (n : Nat) : Bool := s.hlEn n && s.act F.HL_CFG_ROLE n == 1
/-- The state of link n as HL_STATUS shows it. -/
def State.hlState (s : State) (n : Nat) : Nat := s.fld F.HL_STATUS_STATE n

/-- k samples in 1/256 ns. -/
def smp (k : Nat) : Nat := 1024 * k

/-! ### Carriers and loading (R144-R149) -/

/-- Bits per carrier of a loading code (R147). -/
def codeBits (c : Nat) : Nat :=
  match c with
  | 0 => 0 | 1 => 1 | 2 => 2 | 3 => 3 | 4 => 4 | 5 => 6 | 6 => 8 | _ => 10

/-- The square of the normalising divisor of a loading code (R147). -/
def codeDiv (c : Nat) : Nat :=
  match c with
  | 0 | 1 => 1
  | 2 => 2 | 3 => 6 | 4 => 10 | 5 => 42 | 6 => 170 | _ => 682

/-- The loading codes of the 360 data carriers in 36 table words. -/
def unpackCodes (ws : List Word) : List Nat :=
  (ws.take 36).flatMap fun w => (List.range 10).map fun i => bits w.toNat (3 * i + 2) (3 * i)

/-- The base table: code 2 on every data carrier (R167). -/
def baseCodes : List Nat := List.replicate 360 2

/-- The words of table (direction, t) of link n. -/
def State.hlTable (s : State) (n : Nat) (up : Bool) (t : Nat) : List Word :=
  (List.range 36).map fun j => s.reg .HL_TBL (((n * 2 + (if up then 1 else 0)) * 8 + t) * 36 + j)

/-- Replaces table (direction, t) of link n. -/
def State.setHlTable (s : State) (n : Nat) (up : Bool) (t : Nat) (ws : List Word) : State :=
  s.each 36 fun s j => s.setReg .HL_TBL (((n * 2 + (if up then 1 else 0)) * 8 + t) * 36 + j) (ws.getD j 0x12492492)

/-- The words of a table that equals the base table. -/
def baseWords : List Word := List.replicate 36 0x12492492

/-- Data bits per symbol under loading codes. -/
def symbolBits (codes : List Nat) : Nat := codes.foldl (fun a c => a + codeBits c) 0

/-- One clock of the pilot LFSR x^11 + x^9 + 1; its output is bit 10 before the shift (R146). -/
def lfsrStep (r : Nat) : Nat := (r * 2 + (bits r 10 10 + bits r 8 8) % 2) % 2048

/-- The next k values, 1 or -1, of the pilot LFSR, and the register after them. -/
def pilots : Nat → Nat → List Int × Nat
  | 0, r => ([], r)
  | k + 1, r =>
    let (l, r') := pilots k (lfsrStep r)
    ((if bit r 10 then -1 else 1) :: l, r')

/-- Gray code to binary index, most significant bit first. -/
def grayBits (g : List Bool) : Nat :=
  (g.foldl (fun (a : Nat × Bool) b => (2 * a.1 + (if a.2 != b then 1 else 0), a.2 != b)) (0, false)).1

/-- The amplitude of a group of bits on one axis; no bits give 0 (R148). -/
def axis (g : List Bool) : Int := if g.isEmpty then 0 else 2 * (grayBits g : Int) - ((2 : Int) ^ g.length - 1)

/-- The points of one symbol's data carriers from a bit stream, each on both axes with its code's divisor; the bits left (R148,
R149). -/
def symbolPoints : List Nat → List Bool → List (Int × Int × Nat) × List Bool
  | [], bs => ([], bs)
  | c :: cs, bs =>
    let b := codeBits c
    let g := bs.take b
    let g := g ++ List.replicate (b - g.length) false
    let i := (b + 1) / 2
    let (l, r) := symbolPoints cs (bs.drop b)
    ((axis (g.take i), axis (g.drop i), codeDiv c) :: l, r)

/-- The bits of bytes, most significant first. -/
def bytesToBits (l : List Byte) : List Bool := l.flatMap fun b => (List.range 8).map fun i => b.getLsbD (7 - i)

/-- Carrier k is a pilot (R144). -/
def isPilot (k : Nat) : Bool := (k - 64) % 16 == 0

/-- A symbol on carriers 64 to 447 (R144): the pilots and the data carriers, each in ascending k. -/
def carriers (ps : List Int) (pts : List (Int × Int × Nat)) : List HlPt :=
  (List.range 384).map fun j =>
    let k := 64 + j
    if isPilot k then { k := k, i := ps.getD (j / 16) 0, q := 0, div := 1 }
    else
      let x := pts.getD (j - j / 16 - 1) (0, 0, 1)
      { k := k, i := x.1, q := x.2.1, div := x.2.2 }

/-- The data symbols of a burst (R146, R149). -/
def burstSymbols (codes : List Nat) : Nat → Nat → List Bool → List (List HlPt)
  | 0, _, _ => []
  | k + 1, r, bs =>
    let (ps, r) := pilots 24 r
    let (pts, bs) := symbolPoints codes bs
    carriers ps pts :: burstSymbols codes k r bs

/-- A probe symbol: the pilot LFSR from 0x5A5 on every usable carrier (R170). -/
def probeSymbol : List HlPt := (pilots 384 0x5A5).1.zipIdx.map fun p => { k := 64 + p.2, i := p.1, q := 0, div := 1 }

/-- The pilot seed of table t with generation g (R167). -/
def tableSeed (t g : Nat) : Nat := t * 128 + g * 64 + 0x3F

/-! ### The Reed-Solomon code (R157-R159) -/

/-- Multiplication in GF(256) by x, with x^8 + x^4 + x^3 + x^2 + 1. -/
def gfX (a : Nat) : Nat := if a < 128 then 2 * a else Nat.xor (2 * a - 256) 0x1D

/-- Multiplication in GF(256). -/
def gfMul (a b : Nat) : Nat :=
  ((List.range 8).foldl (fun (p : Nat × Nat) i => (if bit b i then Nat.xor p.1 p.2 else p.1, gfX p.2)) (0, a)).1

/-- Multiplies a polynomial, lowest coefficient first, by (x - r). -/
def gfRoot (r : Nat) (p : List Nat) : List Nat :=
  let low := p.map (gfMul r) ++ [0]
  let high := 0 :: p
  List.zipWith Nat.xor low high

/-- The generator of R158 without its leading 1, highest coefficient first. -/
def rsGen : List Nat :=
  let g := (List.range 16).foldl (fun (a : List Nat × Nat) _ => (gfRoot a.2 a.1, gfX a.2)) ([1], 1)
  (g.1.take 16).reverse

/-- The 16 parity bytes of data bytes, first byte the highest coefficient (R158). -/
def rsParity (data : List Nat) : List Nat :=
  data.foldl (fun (reg : List Nat) d =>
    let f := Nat.xor d (reg.headD 0)
    List.zipWith (fun a g => Nat.xor a (gfMul f g)) (reg.drop 1 ++ [0]) rsGen) (List.replicate 16 0)

/-- A polynomial, lowest coefficient first, at a point. -/
def gfEval (p : List Nat) (x : Nat) : Nat := p.foldr (fun c a => Nat.xor c (gfMul a x)) 0

/-- α to a power. -/
def gfExp (k : Nat) : Nat := (List.range (k % 255)).foldl (fun a _ => gfX a) 1

/-- The inverse in GF(256): the power 254 = 255 - 1. -/
def gfInv (a : Nat) : Nat := (List.range 253).foldl (fun x _ => gfMul x a) a

/-- p + f × x^m × q for polynomials, lowest coefficient first. -/
def gfAdd (p : List Nat) (f m : Nat) (q : List Nat) : List Nat :=
  let q := List.replicate m 0 ++ q.map (gfMul f)
  (List.range (max p.length q.length)).map fun i => Nat.xor (p.getD i 0) (q.getD i 0)

/-- The search for the shortest recurrence of the syndromes: locator, last locator, its discrepancy, its age, the length. -/
structure RsLfsr where
  c : List Nat := [1]
  b : List Nat := [1]
  d : Nat := 1
  m : Nat := 1
  l : Nat := 0
deriving DecidableEq, Repr

/-- One syndrome of the search, number k of `syn`. -/
def RsLfsr.next (syn : List Nat) (r : RsLfsr) (k : Nat) : RsLfsr :=
  let disc := (List.range (r.l + 1)).foldl (fun a i => Nat.xor a (gfMul (r.c.getD i 0) (if i ≤ k then syn.getD (k - i) 0 else 0))) 0
  if disc = 0 then { r with m := r.m + 1 }
  else
    let c := gfAdd r.c (gfMul disc (gfInv r.d)) r.m r.b
    if 2 * r.l ≤ k then { c := c, b := r.c, d := disc, m := 1, l := k + 1 - r.l } else { r with c := c, m := r.m + 1 }

/-- The 16 syndromes of a received codeword, first byte the highest coefficient (R158). -/
def rsSyndromes (r : List Nat) : List Nat := (List.range 16).map fun i => gfEval r.reverse (gfExp i)

/-- Decodes a received codeword (R158): the data bytes and the number of bytes corrected, at most 8; none where it is
uncorrectable, no codeword being that near (notes/assumptions/81.md). -/
def rsDecode (r : List Nat) : Option (List Nat × Nat) :=
  let syn := rsSyndromes r
  let data (l : List Nat) := l.take (r.length - 16)
  if syn.all (· == 0) then some (data r, 0)
  else
    let x := (List.range 16).foldl (RsLfsr.next syn) {}
    let omega := (List.range 16).map fun k =>
      (List.range (k + 1)).foldl (fun a i => Nat.xor a (gfMul (x.c.getD i 0) (syn.getD (k - i) 0))) 0
    let slope := x.c.zipIdx.map (fun e => if e.2 % 2 = 1 then e.1 else 0) |>.drop 1
    let at_ := (List.range r.length).filter fun j => gfEval x.c (gfExp (255 - j)) == 0
    let fix := (r.reverse.zipIdx.map fun e =>
      if at_.contains e.2 then
        let z := gfExp (255 - e.2)
        Nat.xor e.1 (gfMul (gfExp e.2) (gfMul (gfEval omega z) (gfInv (gfEval slope z))))
      else e.1).reverse
    if x.l ≤ 8 ∧ at_.length = x.l ∧ (rsSyndromes fix).all (· == 0) then some (data fix, x.l) else none

/-- The data bytes of each codeword of a burst of nb coded bytes, and the zero fill bytes at its end (R157). -/
def cwSizes (nb : Nat) : List Nat × Nat :=
  let q := (nb + 239) / 240
  let nl := nb - 240 * (q - 1)
  if q = 0 then ([], 0)
  else if nl < 41 then (List.replicate (q - 1) 224, nl)
  else (List.replicate (q - 1) 224 ++ [nl - 16], 0)

/-- Interleaves codewords byte by byte (R159). -/
def interleave (cws : List (List Nat)) : List Nat :=
  (List.range 240).flatMap fun i => cws.filterMap fun x => x[i]?

/-! ### Segments (R160, R161) -/

/-- The bytes of a segment. -/
def HlSeg.bytes (g : HlSeg) : List Nat :=
  leBytes 4 (g.ch * 2 ^ 24 + g.words.length) ++ g.words.flatMap fun w => leBytes 4 w.toNat

/-- The order in which segments are taken: management first, then ascending channel, first in first out. -/
def segOrder (l : List HlSeg) : List HlSeg :=
  (l.filter fun g => g.ch == 0x7E) ++ (List.range 63).flatMap fun c => l.filter fun g => g.ch == c

/-- The filling of a burst: codewords done, the current one, the free sizes of those to come, the segments that wait. -/
structure HlFill where
  done : List (List Nat)
  cur : List Nat
  room : Nat
  more : List Nat
  wait : List HlSeg
deriving DecidableEq, Repr

/-- Ends the current codeword: a fill word where one fits, then zeros. -/
def HlFill.close (f : HlFill) : List Nat :=
  let rest := f.room - f.cur.length
  f.cur ++ (if rest ≥ 4 then leBytes 4 0x7F000000 ++ List.replicate (rest - 4) 0 else List.replicate rest 0)

/-- Takes one segment into the burst: into the current codeword, else into the next that has room, else it waits; a
segment behind a waiting one of its channel waits too. -/
def HlFill.take (f : HlFill) (g : HlSeg) : HlFill :=
  let b := g.bytes
  if f.wait.any fun w => w.ch == g.ch then { f with wait := f.wait ++ [g] }
  else if f.cur.length + b.length ≤ f.room then { f with cur := f.cur ++ b }
  else
    let skip := f.more.takeWhile fun r => r < b.length
    match f.more.drop skip.length with
    | [] => { f with wait := f.wait ++ [g] }
    | r :: rs =>
      { done := f.done ++ [f.close] ++ skip.map (fun r => ({ f with cur := [], room := r } : HlFill).close),
        cur := b, room := r, more := rs, wait := f.wait }

/-- Fills a burst whose codewords have the given data sizes with a header and segments: the data bytes of each codeword,
and the segments that wait. -/
def fillBurst (sizes : List Nat) (header : List Nat) (segs : List HlSeg) : List (List Nat) × List HlSeg :=
  match sizes with
  | [] => ([], segs)
  | r :: rs =>
    let f := segs.foldl HlFill.take { done := [], cur := header, room := r, more := rs, wait := [] }
    (f.done ++ [f.close] ++ f.more.map (fun r => ({ f with cur := [], room := r } : HlFill).close), f.wait)

/-- What a receiver finds in a codeword's data area: its segments, and whether it ends in one with a reserved channel or
length. -/
def parseSegs : Nat → List Nat → List (Nat × List Word) × Bool
  | 0, _ => ([], false)
  | k + 1, bs =>
    if bs.length < 4 then ([], false)
    else
      let w := fromLe (bs.take 4)
      let ch := w / 2 ^ 24
      let len := w % 65536
      if ch = 0x7F then ([], false)
      else if (ch > 62 ∧ ch ≠ 0x7E) ∨ len = 0 ∨ len > 55 ∨ bs.length < 4 + 4 * len then ([], true)
      else
        let body := (bs.drop 4).take (4 * len)
        let ws := (List.range len).map fun i => w32 (fromLe ((body.drop (4 * i)).take 4))
        let (l, bad) := parseSegs k (bs.drop (4 + 4 * len))
        ((ch, ws) :: l, bad)

/-! ### The transmit buffer -/

/-- A segment enters the transmit buffer of link n, its payload into the lowest free words of region 11 (R392, R394; which
words those are is a DESIGN CHOICE, notes/assumptions/16.md). -/
def State.hlPut (s : State) (n : Nat) (g : HlSeg) : State :=
  let u := s.hlOf n
  let used := u.txq.flatMap (·.cells)
  let cells := ((List.range 2048).map (4096 * n + ·)).filter (!used.contains ·) |>.take ((g.words.length + 1) / 2)
  (cells.foldl (fun s c => (s.eccWrite rgHead c true).1) s).setHl n { u with txq := u.txq ++ [{ g with cells := cells }] }

/-- The payload words of a segment in its buffer word i change: those of an even and of an odd number. -/
def HlSeg.change (g : HlSeg) (i : Nat) (f : Bool → Word → Word) : HlSeg :=
  { g with words := g.words.zipIdx.map fun e => if e.2 / 2 = i then f (e.2 % 2 == 1) e.1 else e.1 }

/-- Word w of region 11 changes (R396, R397). -/
def State.hlCell (s : State) (w : Nat) (f : Bool → Word → Word) : State :=
  let u := s.hlOf (w / 4096)
  s.setHl (w / 4096) { u with txq := u.txq.map fun g => g.cells.zipIdx.foldl (fun g c => if c.1 = w then g.change c.2 f else g) g }

/-- An exclusive-or of a word of 64 bits as one of its halves. -/
def xorHalf (d : BitVec 64) (odd : Bool) (v : Word) : Word := v ^^^ w32 (d.toNat / if odd then 2 ^ 32 else 1)

/-- A segment as the link reads it from its buffer: a poisoned word reads as all ones (R395). -/
def State.hlFetch (s : State) (g : HlSeg) : State × HlSeg :=
  g.cells.zipIdx.foldl (fun (a : State × HlSeg) c =>
    match a.1.eccRead rgHead c.1 with
    | (s, .ok d) => (s, a.2.change c.2 (xorHalf d))
    | (s, .poison) => (s, a.2.change c.2 fun _ _ => 0xFFFFFFFF)) (s, g)

/-- The segments that leave are read, those that wait are not. -/
def State.hlFetchAll (s : State) (wait : List HlSeg) (l : List HlSeg) : State × List HlSeg :=
  l.foldl (fun (a : State × List HlSeg) g =>
    if wait.contains g then (a.1, a.2 ++ [g])
    else
      let r := a.1.hlFetch g
      (r.1, a.2 ++ [r.2])) (s, [])

/-- A packet routed to channel c of link n becomes a segment, or is discarded (R161). -/
def State.hlQueue (s : State) (n c : Nat) (p : Packet) : State :=
  let used := (s.hlOf n).txq.foldl (fun a g => a + 4 + 4 * g.words.length) 0
  if ¬ s.hlEn n ∨ p.payload.length > 54 ∨ used + 8 + 4 * p.payload.length > 16384 then s.bump F.HL_ERR2_DROPSEG n
  else s.hlPut n { ch := c, at_ := s.ltMs, words := short p.ms :: p.payload }

/-- A management segment is queued; it is eligible at once (R172). -/
def State.hlMgmt (s : State) (n : Nat) (words : List Word) : State :=
  s.hlPut n { ch := 0x7E, at_ := 0, words := short s.ltMs :: words }

/-- A link event, which a hub reports (R172). -/
def State.hlEvent (s : State) (n kind low : Nat) : State :=
  if s.act F.HL_CFG_ROLE n ≠ 0 then s
  else s.present { typ := 3, idx := 64 * n + 63, ms := (s.hlOf n).t1, payload := [w32 (kind * 2 ^ 28 + low % 65536)] }

/-- The low bits of a link event about a table. -/
def tabCode (up : Bool) (t : Nat) : Nat := t + (if up then 8 else 0)

/-- The link enters a state: LINKCHG, and at a hub a link event, where it changes (R173). -/
def State.hlEnter (s : State) (n st : Nat) : State :=
  if s.hlState n = st then s
  else
    let s := (s.setFld F.HL_STATUS_STATE n st).raise F.HL_STATUS_LINKCHG n
    s.hlEvent n (if st = 0 then 1 else 0) 0

/-- A hub leaves UP, or a node enters SEARCH with every table as base content and G = 0 (R165, R167, R173). -/
def State.hlDown (s : State) (n : Nat) : State :=
  let u := s.hlOf n
  let s := s.hlEnter n 0
  if s.act F.HL_CFG_ROLE n = 1 then
    let s := s.setHl n { u with miss := 0, gen := [], hdr := none, pendTab := [], commits := [], acks := [], stale := none }
    let s := s.setFld F.HL_DELAY_DVAL n 0
    s.each 16 fun s k => s.setHlTable n (k / 8 == 1) (k % 8) baseWords
  else (s.setHl n { u with miss := 0, deltas := [], committed := [] }).setFld F.HL_DELAY_DVAL n 0

/-- A hub enters UP: every table that differs from base is to be loaded, down tables first (R171). -/
def State.hlUp (s : State) (n : Nat) : State :=
  let s := s.hlEnter n 1
  let q := ((List.range 16).filter fun k => s.hlTable n (k / 8 == 1) (k % 8) != baseWords).map fun k => (k / 8 == 1, k % 8)
  s.setHl n { s.hlOf n with deltas := [], committed := [], loadQ := q }

/-- HL_LINK_LOSS (R173): NLOSS superframes in a row have passed without a decoded header. -/
def execHlLinkLoss (n : Fin 2) (s : State) : Host.Outcome State Fault Refusal :=
  .next (if s.hlEn n ∧ s.hlState n ≠ 0 ∧ s.act F.HL_LINK_NLOSS n ≤ (s.hlOf n).miss then s.hlDown n else s)

/-! ### Table loads (R171) -/

/-- The number of table (direction, t) in the lists of a link. -/
def tabIx (up : Bool) (t : Nat) : Nat := (if up then 8 else 0) + t

/-- The generation bit of a table. -/
def HlUnit.genOf (u : HlUnit) (up : Bool) (t : Nat) : Nat := if u.gen.contains (tabIx up t) then 1 else 0

/-- Toggles the generation bit of a table. -/
def HlUnit.toggle (u : HlUnit) (up : Bool) (t : Nat) : HlUnit :=
  let k := tabIx up t
  { u with gen := if u.gen.contains k then u.gen.filter (· ≠ k) else k :: u.gen }

/-- Starts a load of given content. -/
def State.hlStartLoad (s : State) (n : Nat) (up : Bool) (t : Nat) (codes : List Word) : State :=
  let u := s.hlOf n
  (s.setHl n { u with load := some { up := up, tab := t, num := u.loadNum, codes := codes },
                      loadNum := (u.loadNum + 1) % 65536 }).setFld F.HL_TBLSTAT_ST n 1

/-- A table load is asked for again (R169): it waits its turn. -/
def State.hlReload (s : State) (n : Nat) (up : Bool) (t : Nat) : State :=
  let u := s.hlOf n
  if u.loadQ.contains (up, t) then s else s.setHl n { u with loadQ := u.loadQ ++ [(up, t)] }

/-- A write of HL_TBLCMD (R171). -/
def State.hlTblCmd (s : State) (n : Nat) (w : Word) : State :=
  let st := s.fld F.HL_TBLSTAT_ST n
  if ¬ bit w.toNat 4 then s
  else if s.act F.HL_CFG_ROLE n = 1 ∨ st = 1 ∨ st = 2 then s.raise F.HL_STATUS_CMDREF n
  else
    let ws := (List.range 36).map fun j => s.reg .HL_TBLSHD (36 * n + j)
    if symbolBits (unpackCodes ws) < 64 then s.setFld F.HL_TBLSTAT_ST n 3
    else s.hlStartLoad n (bit w.toNat 3) (bits w.toNat 2 0) ws

/-- The load of link n has failed. -/
def State.hlLoadFail (s : State) (n : Nat) (l : HlLoad) : State :=
  ((s.setHl n { s.hlOf n with load := none }).setFld F.HL_TBLSTAT_ST n 3).hlEvent n 4 (tabCode l.up l.tab)

/-- Four superframes from the TABLE_LOAD on have ended without the TABLE_ACK: it is to go out again, four times in all, and then
the load fails (R171). -/
def State.hlRetry (s : State) (n : Nat) : State :=
  let u := s.hlOf n
  match u.load with
  | some l =>
    if ¬ s.hlHub n ∨ l.send ∨ l.ack.isSome ∨ wrap ((u.sfn : Int) - l.sentSfn) 16 < 4 ∨ s.ltMs < u.sfEnd then s
    else if l.sends < 4 then s.setHl n { u with load := some { l with send := true } }
    else s.hlLoadFail n l
  | none => s

/-- HL_TABLE_LOAD_RETRY (R171). -/
def execHlTableLoadRetry (n : Fin 2) (s : State) : Host.Outcome State Fault Refusal := .next (s.hlRetry n)

/-- A committed table takes its pending content and its generation toggles. -/
def State.hlReplace (s : State) (n : Nat) (up : Bool) (t : Nat) (ws : List Word) : State :=
  let s := s.setHlTable n up t ws
  s.setHl n ((s.hlOf n).toggle up t)

/-- The commit of the hub's load as superframe a + 9 starts (R171); the start reports it. -/
def State.hlHubCommit (s : State) (n : Nat) : State :=
  let u := s.hlOf n
  match u.load with
  | some l =>
    match l.ack with
    | some a =>
      if wrap ((u.sfn : Int) - a) 16 < 9 then s
      else
        let s := s.hlReplace n l.up l.tab l.codes
        let s := s.setHl n { s.hlOf n with load := none, committed := tabIx l.up l.tab :: u.committed,
                                           evs := u.evs ++ [(3, tabCode l.up l.tab)] }
        (s.setFld F.HL_TBLSTAT_ST n 0).setFld F.HL_TBLSTAT_SFNEFF n ((a + 9) % 65536)
    | none => s
  | none => s

/-- The commits that a node has seen and whose superframe has come (R171). -/
def State.hlNodeCommit (s : State) (n sfn : Nat) : State :=
  let u := s.hlOf n
  let due := u.commits.filter fun c => decide (wrap ((sfn : Int) - c.2) 16 < 32768)
  let s := s.setHl n { u with commits := u.commits.filter fun c => !decide (wrap ((sfn : Int) - c.2) 16 < 32768) }
  due.foldl (fun s c =>
    match (s.hlOf n).pendTab.find? fun p => p.1 == c.1 with
    | some p =>
      let s := s.hlReplace n (c.1 / 8 == 1) (c.1 % 8) p.2
      let s := s.setHl n { s.hlOf n with pendTab := (s.hlOf n).pendTab.filter fun q => q.1 != c.1 }
      s.setFld F.HL_TBLSTAT_SFNEFF n c.2
    | none => s) s

/-- The superframe that is due first may start: LT has reached its instant (R150). -/
def State.hlAtStart (s : State) (n : Nat) : Bool :=
  match (s.hlOf n).due with
  | d :: _ => decide (d.sfs ≤ s.ltMs)
  | [] => false

/-- HL_TABLE_COMMIT (R171): the superframe a + 9 starts at the hub, or has come at the node; the table is replaced. -/
def execHlTableCommit (n : Fin 2) (s : State) : Host.Outcome State Fault Refusal :=
  if s.hlHub n then .next (if s.hlAtStart n then s.hlHubCommit n else s)
  else match (s.hlOf n).hdr with
    | some h => .next (s.hlNodeCommit n h.sfn)
    | none => .next s

/-! ### The hub's superframe -/

/-- The active layout of link n fits the tick (R151). -/
def State.hlFits (s : State) (n : Nat) : Bool :=
  let rh := 32 * s.act F.HL_CFG_RAMPN n
  let ug := s.act F.HL_LAYOUT_UGAP n
  decide (rh ≤ s.act F.HL_LAYOUT_SFOFS n) && decide (rh + 320 ≤ ug)
    && decide (s.act F.HL_CFG_NDN n * 1152 + ug + s.act F.HL_CFG_NUP n * 1152 + 512 + rh ≤ s.tickPeriod / 4)

/-- The superframe that the present tick starts, in the layout that it leaves (R150, R152). -/
def State.hlLay (s : State) (n : Nat) : HlLay :=
  { sfs := 256 * s.ct.tickNom + smp (s.act F.HL_LAYOUT_SFOFS n), nd := s.act F.HL_CFG_NDN n, nu := s.act F.HL_CFG_NUP n,
    ramp := s.act F.HL_CFG_RAMPN n, ugap := s.act F.HL_LAYOUT_UGAP n }

/-- Where a superframe's ramp-up begins (R150). -/
def HlLay.begin (d : HlLay) : Int := (d.sfs : Int) - smp (32 * d.ramp)

/-- The end of a superframe's up symbols after a start at t (R150). -/
def HlLay.upEnd (d : HlLay) (t : Nat) : Nat := t + smp (d.nd * 1152 + d.ugap + d.nu * 1152)

/-- A superframe, from its ramp-up to its last ramp-down, overlaps a Bell from a to b (R174). -/
def HlLay.meets (d : HlLay) (a b : Int) : Bool :=
  decide (d.begin < b) && decide (a < (d.upEnd d.sfs : Int) + smp (32 * d.ramp))

/-- A Bell in progress, or one requested for the next tick, overlaps a superframe of link n (R174). -/
def State.hlBellMeets (s : State) (n : Nat) (d : HlLay) : Bool :=
  let u := s.hlOf n
  let next : Int := 256 * ((s.ct.kMax + 1) * s.tickPeriod + s.tickPhase)
  (match u.bellEnd with
    | some e => d.meets ((e : Int) - 100 * us256) e
    | none => false) || (u.bellReq && d.meets next (next + 100 * us256))

/-- The sector after an angle word (R168). -/
def sectorOf (cur word ash aofs hys : Nat) : Nat :=
  let a := wrap ((word / 2 ^ ash % 65536 : Nat) - (aofs : Int)) 16
  let h := 16 * hys
  if wrap ((a : Int) - (cur * 8192 : Nat) + h) 16 < 8192 + 2 * h then cur else a / 8192

/-- The bytes of a down header (R163). -/
def downHeader (sfn dtab utab : Nat) (prbd prbu base : Bool) (t1 q dom : Nat) (dval : Bool) (delay nd nu ugap : Nat)
    (commit : Option (Nat × Nat)) : List Nat :=
  let b (x : Bool) : Nat := if x then 1 else 0
  leBytes 2 sfn ++ [dtab + 8 * utab + 64 * b prbd + 128 * b prbu, b base] ++ leBytes 8 (t1 / 256) ++ [t1 % 256,
    q + 4 * dom + 8 * b dval] ++ leBytes 2 delay ++ [nd + 16 * nu, 0] ++ leBytes 2 ugap
    ++ (match commit with
        | some (k, sf) => [k + 16, 0] ++ leBytes 2 sf
        | none => [0, 0, 0, 0])

/-- Sends a burst (R144-R161): header and segments coded under a table's codes with the seed of its pilots, the last
symbol a probe where asked. The segments sent leave the buffer. -/
def State.hlSend (s : State) (n : Nat) (up : Bool) (start : Int) (cut : Int) (nsym : Nat) (probe : Bool) (codes : List Nat)
    (seed : Nat) (header : List Nat) : State :=
  let u := s.hlOf n
  let nd := if probe then nsym - 1 else nsym
  let (sizes, zeros) := cwSizes (nd * symbolBits codes / 8)
  let ready := u.txq.filter fun g => decide ((g.at_ : Int) ≤ cut)
  let later := u.txq.filter fun g => !decide ((g.at_ : Int) ≤ cut)
  let (_, wait) := fillBurst sizes header (segOrder ready)
  let (s, got) := s.hlFetchAll wait ready
  let (cws, _) := fillBurst sizes header (segOrder got)
  let bytes := (interleave (cws.map fun d => d ++ rsParity d) ++ List.replicate zeros 0).map (BitVec.ofNat 8)
  let syms := burstSymbols codes nd seed (bytesToBits bytes) ++ (if probe then [probeSymbol] else [])
  (s.setHl n { u with txq := wait ++ later }).emit (.hlBurst n up start bytes syms)

/-- The type word and codes of a TABLE_LOAD (R172). -/
def loadWords (l : HlLoad) : List Word := w32 (2 ^ 24 + tabCode l.up l.tab * 65536 + l.num) :: l.codes

/-- The next load that waits starts, where none is in progress (R171). -/
def State.hlNextLoad (s : State) (n : Nat) : State :=
  let u := s.hlOf n
  match u.load, u.loadQ with
  | none, (up, t) :: q => (s.setHl n { u with loadQ := q }).hlStartLoad n up t (s.hlTable n up t)
  | _, _ => s

/-- The load's TABLE_LOAD is queued, where it is to be sent in this superframe. -/
def State.hlQueueLoad (s : State) (n : Nat) : State :=
  let u := s.hlOf n
  match u.load with
  | some l =>
    if l.send then
      (s.setHl n { u with load := some { l with send := false, sends := l.sends + 1, sentSfn := u.sfn } }).hlMgmt n (loadWords l)
    else s
  | none => s

/-- The COMMIT of the header of the superframe that starts (R171): in superframes a + 1 to a + 8. -/
def HlUnit.commitField (u : HlUnit) : Option (Nat × Nat) :=
  match u.load with
  | some l =>
    match l.ack with
    | some a =>
      let k := wrap ((u.sfn : Int) - a) 16
      if 1 ≤ k ∧ k ≤ 8 then some (tabCode l.up l.tab, (a + 9) % 65536) else none
    | none => none
  | none => none

/-- A superframe whose predecessor brought no up header counts it lost (R173). -/
def State.raiseLost (s : State) (n : Nat) (lost : Bool) : State :=
  if lost then (s.bump F.HL_ERR_HDRLOST n).setHl n { s.hlOf n with miss := (s.hlOf n).miss + 1 } else s

/-- The launch edge of a superframe whose instant LT has reached, with the CK_HEAD edges ph ns after those of CK_TIME: the first that is
not below it, counted back from the present one in cycles of the present length (R150). -/
def State.hlEdge (s : State) (sfs ph : Nat) : Nat :=
  let x := s.stamp (8 * ph)
  let len := wrap ((s.ckStep.lt40 : Int) - s.lt40) 104 / 2 ^ 32
  x - (x - sfs) / max 1 len * len

/-- The sector after the latest packet on the sector input, whose word AWORD, counted from the Short Milestone as word 0, is the angle
word (R168); a packet without that word gives none. -/
def State.hlSector (s : State) (n : Nat) (sect : Option (List Word)) : Nat :=
  let u := s.hlOf n
  let k := s.act F.HL_SECT2_AWORD n
  match sect with
  | some ws =>
    if k = 0 then u.sector
    else match ws[k - 1]? with
      | some w => sectorOf u.sector w.toNat (s.act F.HL_SECT_ASH n) (s.act F.HL_SECT_AOFS n) (s.act F.HL_SECT_HYS n)
      | none => u.sector
  | none => u.sector

/-- Presents the link events that wait for a superframe's start (R172). -/
def State.hlReport (s : State) (n : Nat) : State :=
  let u := s.hlOf n
  u.evs.foldl (fun s e => s.hlEvent n e.1 e.2) (s.setHl n { u with evs := [] })

/-- The hub sends superframe d with its launch edge at t (R150, R161, R163, R165, R167, R168, R170, R171). A superframe whose
predecessor brought no up header counts it lost. -/
def State.hlStart (s : State) (n : Nat) (d : HlLay) (t : Nat) (sect : Option (List Word)) : State :=
  let lost := (s.hlOf n).wait
  let s := s.raiseLost n lost
  let s := (((s.hlRetry n).hlHubCommit n).hlNextLoad n).hlQueueLoad n
  let u := s.hlOf n
  let sector := s.hlSector n sect
  let tab := if s.actB F.HL_CFG_AUTOTAB n then sector else s.act F.HL_CFG_FIXTAB n
  let base := !(s.hlState n == 1 && u.committed.contains (tabIx false tab) && u.committed.contains (tabIx true tab))
  let int := s.act F.HL_LINK_PRBINT n
  let probe := u.prbNow || (int != 0 && decide (int ≤ u.prbCnt + 1))
  let t1 := t + 16 * s.fld F.HL_CAL_TXLAT n
  let hd := downHeader u.sfn tab tab probe probe base t1 s.ltq (s.fld F.CT_CTRL_SEL) (s.flag F.HL_DELAY_DVAL n)
    (s.fld F.HL_DELAY_DELAY n) d.nd d.nu d.ugap u.commitField
  let codes := if base then baseCodes else unpackCodes (s.hlTable n false tab)
  let seed := if base then 0x7FF else tableSeed tab (u.genOf false tab)
  let cut : Int := (t : Int) - smp (32 * d.ramp) - 2 * us256
  let s := s.hlSend n false t cut d.nd probe codes seed hd
  let u := s.hlOf n
  let s := s.setHl n { u with sfn := (u.sfn + 1) % 65536, lay := d, t1 := t1, wait := true, sector := sector,
                              sfEnd := d.upEnd t, prbNow := false, prbCnt := if probe then 0 else u.prbCnt + 1 }
  let s := ((s.setFld F.HL_STATUS_DTAB n tab).setFld F.HL_STATUS_UTAB n tab).setFld F.HL_STATUS_BASEU n (if base then 1 else 0)
  s.hlReport n

/-- HL_SUPERFRAME (R150, R168, R174): the superframe that is due first starts at a CK_HEAD edge, ph ns after that of CK_TIME; `sect` is
the payload of the latest packet received on the sector input before the transmit cutoff, where one has been
(notes/assumptions/14.md). One that a Bell would overlap is not sent and is counted. Nothing before its instant. -/
def execHlSuperframe (n : Fin 2) (ph : Fin 4) (sect : Option (List Word)) (s : State) : Host.Outcome State Fault Refusal :=
  let u := s.hlOf n
  match u.due with
  | [] => .next s
  | d :: rest =>
    if ¬ s.timeRuns ∨ ¬ s.hlHub n ∨ s.stamp (8 * ph) < d.sfs then .next s
    else
      let s := s.setHl n { u with due := rest }
      if s.hlBellMeets n d then .next (s.bump F.HL_ERR_SFSKIP n)
      else .next (s.hlStart n d (s.hlEdge d.sfs ph) sect)

/-! ### Receiving -/

/-- One average of R170 with weight 1/8 for a new probe; a rounding that the spec leaves open (notes/assumptions/5.md). -/
def snrAvg (old new : Nat) : Nat :=
  let v := 7 * old + new
  min 255 (shown v 8).toNat

/-- Averages a probe's values into HL_SNR for direction d and sector sec. -/
def State.hlSnr (s : State) (n d sec : Nat) (vals : List Byte) : State :=
  s.each 90 fun s j =>
    let k := ((n * 2 + d) * 8 + sec) * 90 + j
    let old := (s.reg .HL_SNR k).toNat
    s.setReg .HL_SNR k (w32 (fromLe ((List.range 4).map fun i =>
      snrAvg (bits old (8 * i + 7) (8 * i)) (vals.getD (4 * j + i) 0).toNat)))

/-- A management payload reaches a node or a hub (R171, R172): words after the Short Milestone. -/
def State.hlMgmtRx (s : State) (n sfn : Nat) (ws : List Word) : State :=
  let u := s.hlOf n
  let ty := (ws.headD 0).toNat
  let k := bits ty 19 16
  let node := s.hlNode n
  match ty / 2 ^ 24 with
  | 1 =>
    if ¬ node then s.bump F.HL_ERR2_MGMTUNK n
    else s.setHl n { u with pendTab := (k, (ws.drop 1).take 36) :: u.pendTab.filter (fun p => p.1 != k),
                            acks := u.acks ++ [w32 (2 ^ 25 + ty % 2 ^ 24)] }
  | 2 =>
    if node then s.bump F.HL_ERR2_MGMTUNK n
    else match u.load with
      | some l =>
        if l.ack.isNone ∧ l.sends > 0 ∧ tabCode l.up l.tab = k ∧ l.num = ty % 65536 then
          (s.setHl n { u with load := some { l with ack := some sfn, send := false } }).setFld F.HL_TBLSTAT_ST n 2
        else s
      | none => s
  | 3 =>
    if node then s.bump F.HL_ERR2_MGMTUNK n
    else
      let part := ty % 2
      let sec := bits ty 18 16
      s.each 45 fun s j => s.setReg .HL_SNR (((n * 2) * 8 + sec) * 90 + 45 * part + j) (ws.getD (1 + j) 0)
  | _ => s.bump F.HL_ERR2_MGMTUNK n

/-- A codeword as the decoder leaves it: its data bytes and how many bytes were corrected; none where it is uncorrectable (R158). -/
abbrev HlCw := Option (List Nat × Nat)

/-- The codewords of a burst, decoded. -/
def HlRx.decoded (rx : HlRx) : List HlCw := rx.cws.map fun c => rsDecode (c.map (·.toNat))

/-- The segments of a burst's correctable codewords are delivered (R160, R162): data segments become packets, with their own Short
Milestone; each uncorrectable codeword is counted. -/
def State.hlDeliver (s : State) (n sfn : Nat) (cws : List HlCw) : State :=
  (cws.zipIdx).foldl (fun s ci =>
    match ci.1 with
    | none => s.bump F.HL_ERR_CWFAIL n
    | some (bytes, errs) =>
      let s := if errs = 0 then s else s.bump F.HL_ERR2_CWCORR n
      let (segs, bad) := parseSegs 60 (if ci.2 = 0 then bytes.drop 24 else bytes)
      let s := segs.foldl (fun s g =>
        if g.1 = 0x7E then s.hlMgmtRx n sfn (g.2.drop 1)
        else s.present { typ := 3, idx := 64 * n + g.1, ms := 32 * (g.2.headD 0).toNat, payload := g.2.drop 1 }) s
      if bad then s.bump F.HL_ERR2_MGMTUNK n else s) s

/-- A header is decoded where codeword 0 is correctable and holds it. -/
def headerOf (cws : List HlCw) : Option (List Nat) :=
  match cws with
  | some (bytes, _) :: _ => if bytes.length ≥ 24 then some (bytes.take 24) else none
  | _ => none

/-- The codewords of a burst that are not correctable. -/
def cwFails (cws : List HlCw) : Nat := (cws.filter (·.isNone)).length

/-- A burst whose pilots match no table and generation that the receiver holds is discarded (R169). -/
def State.hlMismatch (s : State) (n : Nat) : State := (s.raise F.HL_STATUS_TBLMIS n).bump F.HL_ERR_TBLMISN n

/-- A seed is that of the base table, or of a table of a direction in the generation held (R167, R169). -/
def HlUnit.holds (u : HlUnit) (up : Bool) (seed : Nat) : Bool :=
  seed == 0x7FF || (List.range 8).any fun t => seed == tableSeed t (u.genOf up t)

/-- A superframe brings no decoded header (R173): it counts towards the loss of the link. -/
def State.hlNoHeader (s : State) (n : Nat) : State :=
  let s := s.bump F.HL_ERR_HDRLOST n
  s.setHl n { s.hlOf n with miss := (s.hlOf n).miss + 1, hdr := none }

/-- HL_DOWN_BURST_RX (R153, R162, R163, R166, R169-R173): a node receives a down burst whose SFS arrives in the present
CK_TIME cycle. With no decoded header the superframe counts as lost, and the other codewords' segments are delivered where the
node holds the table of the burst's pilots. -/
def execHlDownBurstRx (n : Fin 2) (rx : HlRx) (s : State) : Host.Outcome State Fault Refusal :=
  if ¬ s.timeRuns ∨ ¬ s.hlNode n then .next s
  else
    let cws := rx.decoded
    match headerOf cws with
    | none =>
      let s := if s.hlState n = 0 then s else s.hlNoHeader n
      .next (if (s.hlOf n).holds false rx.seed then s.hlDeliver n 0 cws else s.hlMismatch n)
    | some h =>
      let by_ (i : Nat) : Nat := h.getD i 0
      let le (i k : Nat) : Nat := fromLe ((h.drop i).take k)
      let sfn := le 0 2
      let dval := bit (by_ 13) 3
      let t2 : Int := (s.stamp 0 : Int) - 16 * s.fld F.HL_CAL_RXLAT n
      let hd : HlHdr :=
        { sfn := sfn, dtab := by_ 2 % 8, utab := by_ 2 / 8 % 8, prbu := bit (by_ 2) 7, base := bit (by_ 3) 0,
          t1 := 256 * le 4 8 + by_ 12, dval := dval, delay := le 14 2, nd := by_ 16 % 16, nu := by_ 16 / 16,
          ugap := le 18 2, t2 := t2 }
      let s := if s.hlState n = 0 then s.hlEnter n 1 else s
      let s := if dval ∧ s.hlState n = 1 then s.hlEnter n 2 else s
      let s := s.setHl n { s.hlOf n with miss := 0, hdr := some hd, t1 := hd.t1, cwBad := cwFails cws }
      let s := (s.setFld F.HL_DELAY_DVAL n (if dval then 1 else 0)).setFld F.HL_DELAY_DELAY n hd.delay
      let s := ((s.setFld F.HL_STATUS_DTAB n hd.dtab).setFld F.HL_STATUS_UTAB n hd.utab).setFld F.HL_STATUS_BASEU n
        (if hd.base then 1 else 0)
      let s := if dval then [false, true].foldl (fun s x =>
          s.offer x (4 + n) ((hd.t1 + 16 * hd.delay : Nat) - ((s.domStamp x 0 : Int) - 16 * s.fld F.HL_CAL_RXLAT n))) s else s
      let u := s.hlOf n
      let k := by_ 20 % 16
      let s := if bit (by_ 20) 4 ∧ u.pendTab.any (fun p => p.1 == k) ∧ ¬ u.commits.contains (k, le 22 2) then
          s.setHl n { u with commits := (k, le 22 2) :: u.commits } else s
      let s := s.hlNodeCommit n sfn
      let want := if hd.base then 0x7FF else tableSeed hd.dtab ((s.hlOf n).genOf false hd.dtab)
      if rx.seed ≠ want then
        let s := s.hlMismatch n
        .next (if hd.base then s else s.setHl n { s.hlOf n with stale := some (tabIx false hd.dtab) })
      else
        let s := s.hlDeliver n sfn cws
        if ¬ bit (by_ 2) 6 then .next s
        else
          let s := s.hlSnr n 0 hd.dtab rx.snr
          let rep (s : State) (part : Nat) : State :=
            s.hlMgmt n (w32 (3 * 2 ^ 24 + hd.dtab * 65536 + part) :: (List.range 45).map fun j =>
              s.reg .HL_SNR (((n.val * 2) * 8 + hd.dtab) * 90 + 45 * part + j))
          .next (rep (rep s 0) 1)

/-- The node's launch instant of U0 (R153). -/
def HlHdr.launch (h : HlHdr) : Int :=
  (h.t1 : Int) + smp (h.nd * 1152 + h.ugap) - (if h.dval then 16 * h.delay else 0)

/-- The node's burst of a header, from its ramp-up to its ramp-down, overlaps the node's own Bell, in progress or requested for its
next tick (R174). -/
def State.hlNodeBell (s : State) (n : Nat) (h : HlHdr) : Bool :=
  let u := s.hlOf n
  let r : Int := smp (32 * s.act F.HL_CFG_RAMPN n)
  let meets (a b : Int) : Bool := decide (h.launch - r < b) && decide (a < h.launch + smp (h.nu * 1152) + r)
  let next : Int := 256 * ((s.ct.kMax + 1) * s.tickPeriod + s.tickPhase)
  (match u.bellEnd with
    | some e => meets ((e : Int) - 100 * us256) e
    | none => false) || (u.bellReq && meets next (next + 100 * us256))

/-- HL_UP_BURST_TX (R153, R161, R164, R174): the node launches its up burst at UR - delta in its LT, or where its Bell overlaps it
counts it as not sent; nothing without a decoded header, in SEARCH, or before the instant. -/
def execHlUpBurstTx (n : Fin 2) (s : State) : Host.Outcome State Fault Refusal :=
  let u := s.hlOf n
  match u.hdr with
  | none => .next s
  | some h =>
    if ¬ s.timeRuns ∨ ¬ s.hlNode n ∨ s.hlState n = 0 ∨ (s.ltMs : Int) < h.launch then .next s
    else if s.hlNodeBell n h then .next ((s.setHl n { u with hdr := none }).bump F.HL_ERR_SFSKIP n)
    else
      let s := u.acks.foldl (fun s w => s.hlMgmt n [w]) s
      let turn := wrap ((h.launch - h.t2) / 16) 32
      let b (x : Bool) : Nat := if x then 1 else 0
      let stale := match u.stale with
        | some k => k + 16
        | none => 0
      let hd := leBytes 2 h.sfn ++ [h.utab + 8 * b h.prbu + 16 * b (s.hlState n == 2), min 255 u.cwBad] ++ leBytes 4 turn
        ++ [stale] ++ List.replicate 15 0
      let codes := if h.base then baseCodes else unpackCodes (s.hlTable n true h.utab)
      let seed := if h.base then 0x7FF else tableSeed h.utab (u.genOf true h.utab)
      let cut : Int := h.launch - smp (32 * s.act F.HL_CFG_RAMPN n) - 2 * us256
      let s := s.hlSend n true h.launch cut h.nu h.prbu codes seed hd
      let s := s.setHl n { s.hlOf n with hdr := none, acks := [], stale := none }
      .next (s.setReg .HL_TURN n (w32 turn))

/-- HL_UP_BURST_RX (R154, R162, R164, R165, R169-R173): the hub receives an up burst whose U0 arrives in the present CK_TIME
cycle; a burst outside the search window, in the layout of its superframe, is not received. Without a decoded header the other
codewords' segments are delivered. -/
def execHlUpBurstRx (n : Fin 2) (rx : HlRx) (s : State) : Host.Outcome State Fault Refusal :=
  let u := s.hlOf n
  let t4 : Int := (s.stamp 0 : Int) - 16 * s.fld F.HL_CAL_RXLAT n
  let ur : Int := (u.t1 : Int) + smp (u.lay.nd * 1152 + u.lay.ugap)
  if ¬ s.timeRuns ∨ ¬ s.hlHub n ∨ ¬ u.wait ∨ (t4 - ur).natAbs > smp (4 * s.act F.HL_LINK_SRCH n) then .next s
  else
    let cws := rx.decoded
    let fails := cwFails cws
    let utab := s.fld F.HL_STATUS_UTAB n
    let base := s.flag F.HL_STATUS_BASEU n
    let want (s : State) := if base then 0x7FF else tableSeed utab ((s.hlOf n).genOf true utab)
    let miss (s : State) := (if base then s.hlMismatch n else (s.hlMismatch n).hlReload n true utab).hlEvent n 6 (tabCode true utab)
    let take (s : State) (sfn : Nat) :=
      let s := s.hlDeliver n sfn cws
      if fails = 0 then s else s.hlEvent n 2 fails
    match headerOf cws with
    | none => .next (if rx.seed ≠ want s then miss s else take s (wrap ((u.sfn : Int) - 1) 16))
    | some h =>
      let by_ (i : Nat) : Nat := h.getD i 0
      let le (i k : Nat) : Nat := fromLe ((h.drop i).take k)
      let s := s.setHl n { u with wait := false, miss := 0 }
      let s := if s.hlState n = 0 then s.hlUp n else s
      let turn := le 4 4
      let s := s.setReg .HL_TURN n (w32 turn)
      let dm : Int := (t4 - u.t1) - 16 * turn + 32 * sext (s.act F.HL_ASYM_ASYM n) 16
      let v := s.hlOf n
      let ds := (dm :: v.deltas).take 8
      let s := s.setHl n { v with deltas := ds }
      let sum := ds.foldl (· + ·) 0
      let s := (s.setFld F.HL_DELAY_DELAY n (wrap (shown sum (32 * ds.length)) 16)).raise F.HL_DELAY_DVAL n
      let s := if bit (by_ 8) 4 then s.hlReload n (bit (by_ 8) 3) (by_ 8 % 8) else s
      if rx.seed ≠ want s then .next (miss s)
      else
        let s := take s (le 0 2)
        .next (if bit (by_ 2) 3 then s.hlSnr n 1 utab rx.snr else s)

/-! ### Commands, the Bell and the tick -/

/-- A write of HL_CMD (R170, R173, R174): PRBNOW, LRST, BELL. -/
def State.hlCmd (s : State) (n : Nat) (w : Word) : State :=
  let v := w.toNat
  let s := if bit v 2 then
      (if s.act F.HL_CFG_ROLE n = 1 then s.raise F.HL_STATUS_CMDREF n else s.setHl n { s.hlOf n with prbNow := true })
    else s
  let s := if bit v 1 ∧ s.hlEn n then s.hlDown n else s
  if bit v 0 then s.setHl n { s.hlOf n with bellReq := true } else s

/-- HL_BELL_END (R174): 100 µs after its tick, give or take 1 µs, the Bell ends. -/
def execHlBellEnd (n : Fin 2) (s : State) : Host.Outcome State Fault Refusal :=
  let u := s.hlOf n
  match u.bellEnd with
  | some e => .next (if e ≤ s.ltMs + us256 then (s.setHl n { u with bellEnd := none }).hlEvent n 5 0 else s)
  | none => .next s

/-- What a tick does to link n (R151, R152, R167, R174): a requested Bell starts; a hub's superframe becomes due where its
layout fits and no superframe is in progress; one that a Bell overlaps is counted as not sent. -/
def State.hlTick (s : State) (old : Tab Word) (n : Nat) : State :=
  let fresh := F.HL_CFG_EN.of old n ≠ s.act F.HL_CFG_EN n ∨ F.HL_CFG_ROLE.of old n ≠ s.act F.HL_CFG_ROLE n
  let s := if fresh then
      let s := s.hlDown n
      let u := s.hlOf n
      s.setHl n { u with txq := [], due := [], evs := [], wait := false, sfEnd := 0, load := none, loadQ := [], hdr := none }
    else s
  let u := s.hlOf n
  if ¬ s.hlEn n then s.setHl n { u with due := [], bellReq := false, bellEnd := none }
  else
    let now := 256 * s.ct.tickNom
    let s := if u.bellReq then
        (s.setHl n { u with bellReq := false, bellEnd := some (now + 100 * us256) }).emit (.hlBell n) else s
    let u := s.hlOf n
    if s.act F.HL_CFG_ROLE n = 1 then s
    else if ¬ s.hlFits n then s.raise F.HL_STATUS_NOFIT n
    else
      let d := s.hlLay n
      if now < u.sfEnd ∨ u.due.any (fun x => decide (x.begin ≤ now)) ∨ s.hlBellMeets n d then s.bump F.HL_ERR_SFSKIP n
      else s.setHl n { u with due := u.due ++ [d] }

end Sys2Proof.Machine
end

