-- ==== Sys2Proof/Machine/MemoryPorts.lean ====
section
/-! DEFINITION. The memory ports, the scrubbers and the Archive primitives (17_memory_archive). The flash devices lie
outside: what they answer is an operand of the command that brings it. -/

namespace Sys2Proof.Machine

/-! ### MP0: execution in place (R388-R391) -/

/-- The XIP window in bytes (R390). -/
def State.xipSize (s : State) : Nat := 2 ^ (20 + s.fld F.MP0_CFG_SIZE)

/-- XIP is held (R391). -/
def State.xipHeld (s : State) : Bool := s.flag F.MP0_CTL_HOLD

/-- A request for a line that the prefetch buffer does not hold waits, once for its class (R390): for the fill of that line
in progress, else in the queue. -/
def State.xipAsk (s : State) (cls line : Nat) : State :=
  let queued := { s with mp := { s.mp with xipQ := s.mp.xipQ ++ [(cls, line)] } }
  if s.mp.xipQ.contains (cls, line) then s
  else match s.mp.xip with
    | some f =>
      if f.line ≠ line then queued.bump F.MP0_STAT_MISS
      else if f.asks.contains cls then s
      else ({ s with mp := { s.mp with xip := some { f with asks := f.asks ++ [cls] } } }).bump F.MP0_STAT_MISS
    | none => queued.bump F.MP0_STAT_MISS

/-- A line of the prefetch buffer as (slot, bytes). -/
def State.xipLine (s : State) (line : Nat) : Option (Nat × List Byte) :=
  (s.mp.pf.find? fun p => p.1 == line).map (·.2)

/-- A hit makes a line the most recently used (R390). -/
def State.xipUse (s : State) (line : Nat) : State :=
  { s with mp := { s.mp with pf := s.mp.pf.filter (fun p => p.1 == line) ++ s.mp.pf.filter fun p => p.1 != line } }

/-- Invalidates a line of the prefetch buffer; no poison flag stays there (R395). -/
def State.xipDrop (s : State) (line : Nat) : State :=
  match s.xipLine line with
  | none => s
  | some (sl, _) =>
    let s := (List.range 8).foldl (fun s j => s.setEcc rgMp (8 * sl + j) {}) s
    { s with mp := { s.mp with pf := s.mp.pf.filter fun p => p.1 != line } }

/-- Reads n bytes at an offset of the XIP window that lie in one word (R390, R395): none where the line is not there,
and then the line is asked for. -/
def State.xipRead (s : State) (cls off n : Nat) : State × Option Nat :=
  let line := off / 64
  match s.xipLine line with
  | none => (s.xipAsk cls line, none)
  | some (sl, bytes) =>
    match s.eccRead rgMp (8 * sl + off % 64 / 8) with
    | (s, .poison) => ((s.xipDrop line).xipAsk cls line, none)
    | (s, .ok d) =>
      let v := fromLe (((bytes.drop (off % 64)).take n).map (·.toNat))
      (s.xipUse line, some (Nat.xor v (d.toNat / 2 ^ (8 * (off % 8)) % 2 ^ (8 * n))))

/-- The waiting miss that is served next: class A, then L, then B, in arrival order within a class (R390). -/
def nextMiss (q : List (Nat × Nat)) : Option (Nat × Nat) :=
  match q.find? fun p => p.1 == 0 with
  | some p => some p
  | none => match q.find? fun p => p.1 == 1 with
    | some p => some p
    | none => q.head?

/-- MP0 makes an access with the phases given (R388). -/
def State.mp0Send (s : State) (line1 : Bool) (phases : List FlPhase) : State :=
  s.emit (.mp0 (s.fld F.MP0_CFG_SDIV) line1 phases)

/-- Continuous mode is ended, where the flash is in it (R389): 0xFF on each edge of 8 cycles. -/
def State.contEnd (s : State) : State :=
  if ¬ s.flag F.MP0_STAT_CONTA then s
  else (s.mp0Send false [.out (List.replicate 16 0xFF#8)]).setFld F.MP0_STAT_CONTA 0 0

/-- A command byte in octal DTR, then its complement (R388). -/
def octalCommand (c : Nat) : FlPhase := .out [BitVec.ofNat 8 c, ~~~BitVec.ofNat 8 c]

/-- The n bytes of an address, most significant byte first. -/
def addressBytes (n a : Nat) : List Byte := ((leBytes n a).map (BitVec.ofNat 8)).reverse

/-- The phases of a read access of a line (R388, R389). -/
def State.xipPhases (s : State) (line : Nat) : List FlPhase :=
  let dummy := s.fld F.MP0_CFG_DUMMY
  let m := BitVec.ofNat 8 (s.fld F.MP0_CFG_MODEB)
  (if s.flag F.MP0_STAT_CONTA then [] else [octalCommand (s.fld F.MP0_CFG_RDCMD)])
    ++ [.out (addressBytes 4 (64 * line))]
    ++ (if s.flag F.MP0_CFG_CONT then [.out [m, m], .hiz (dummy - 1)] else [.hiz dummy])
    ++ [.read 64]

/-- A fill of a line starts, for the classes that wait for it: continuous mode ends first where MP0_CFG.CONT has been
written to 0, and follows MP0_CFG.CONT after the access (R389). -/
def State.xipStart (s : State) (line : Nat) (asks : List Nat) : State :=
  let s := { s with mp := { s.mp with xip := some { line := line, asks := asks } } }
  let s := if s.flag F.MP0_CFG_CONT then s else s.contEnd
  (s.mp0Send false (s.xipPhases line)).setFld F.MP0_STAT_CONTA 0 (s.fld F.MP0_CFG_CONT)

/-- MP0 may start an access: powered, not held, no fill and no raw command in progress. -/
def State.xipFree (s : State) : Bool :=
  s.powered pdMem && !s.xipHeld && s.mp.xip.isNone && !s.flag F.MP0_STAT_RAWBUSY

/-- XIP_MISS_FILL (R388-R390): the miss that is due starts its fill; nothing where none waits or MP0 may not start. -/
def execXipMissFill (s : State) : Host.Outcome State Fault Refusal :=
  if ¬ s.xipFree then .next s
  else match nextMiss s.mp.xipQ with
    | none => .next s
    | some (_, l) =>
      let asks := (s.mp.xipQ.filter fun p => p.2 == l).map (·.1)
      .next ({ s with mp := { s.mp with xipQ := s.mp.xipQ.filter fun p => p.2 != l } }.xipStart l asks)

/-- The slot that a new line takes: a free one, else that of the least recently used line. -/
def freeSlot (pf : List (Nat × Nat × List Byte)) : Nat :=
  match (List.range 4).find? fun k => !(pf.any fun p => p.2.1 == k) with
  | some k => k
  | none => (pf.getLast?.map (·.2.1)).getD 0

/-- Keeps a filled line (R390, R394). -/
def State.xipKeep (s : State) (line : Nat) (bytes : List Byte) : State :=
  let pf := s.mp.pf.filter fun p => p.1 != line
  let sl := freeSlot pf
  let s := (List.range 8).foldl (fun s j => (s.eccWrite rgMp (8 * sl + j) true).1) s
  { s with mp := { s.mp with pf := (line, sl, bytes) :: pf.filter fun p => p.2.1 != sl } }

/-- The first n bytes of a register array of words, least significant byte of each word first. -/
def State.arrBytes (s : State) (r : Reg) (n : Nat) : List Byte :=
  (List.range n).map fun k => BitVec.ofNat 8 ((s.reg r (k / 4)).toNat / 256 ^ (k % 4))

/-- The raw command in progress is sent (R391): its opcode, its address and dummy cycles, then the bytes of MP0_RAWBUF or
the bytes that the flash answers. Continuous mode ends first (R389). In octal DTR the opcode is followed by its complement
(notes/assumptions/140.md). -/
def State.rawSend (s : State) (w : Word) : State :=
  let s := s.contEnd
  let one := F.MP0_RAWCMD_LINE1.get w == 1
  let opc := F.MP0_RAWCMD_OPC.get w
  let len := F.MP0_RAWCMD_LEN.get w
  let alen := F.MP0_RAWCMD_ALEN.get w
  let addr := (s.reg .MP0_RAWADDR).toNat
  let cmd := if one then .out [BitVec.ofNat 8 opc] else octalCommand opc
  let data := if len = 0 then [] else if F.MP0_RAWCMD_DIR.get w = 1 then [.out (s.arrBytes .MP0_RAWBUF len)] else [.read len]
  s.mp0Send one ([cmd] ++ (if alen = 0 then [] else [.out (addressBytes (2 + alen) addr)])
    ++ (if F.MP0_RAWCMD_DUMMY.get w = 0 then [] else [.hiz (F.MP0_RAWCMD_DUMMY.get w)]) ++ data)

/-- XIP_FILL_COMPLETE (R390, R391): the line is kept and its waiting requests are served; a fill that is not kept is
asked for again by the requests that wait for it. A raw command that waited for the access to end is sent. With PREF set
and no miss waiting the next line is filled. -/
def execXipFillComplete (bytes : List Byte) (s : State) : Host.Outcome State Fault Refusal :=
  match s.mp.xip with
  | none => .next s
  | some f =>
    let s : State := { s with mp := { s.mp with xip := none } }
    let s : State :=
      if f.keep then
        ({ s with mp := { s.mp with xipQ := s.mp.xipQ.filter fun p => p.2 != f.line } } : State).xipKeep f.line bytes
      else { s with mp := { s.mp with xipQ := f.asks.map (fun c => (c, f.line)) ++ s.mp.xipQ } }
    let s := match s.mp.raw with
      | some w => s.rawSend w
      | none => s
    .next (if s.flag F.MP0_CFG_PREF ∧ s.mp.xipQ.isEmpty ∧ s.xipFree ∧ 64 * (f.line + 1) < s.xipSize
        ∧ (s.xipLine (f.line + 1)).isNone then s.xipStart (f.line + 1) [] else s)

/-- Invalidates the prefetch buffer; a fill in progress is then not kept (R391). -/
def State.xipInval (s : State) : State :=
  let s := s.mp.pf.foldl (fun s p => s.xipDrop p.1) s
  { s with mp := { s.mp with xip := s.mp.xip.map fun f => { f with keep := false } } }

/-- A write of MP0_CTL (R391). -/
def State.mp0Ctl (s : State) (w : Word) : State :=
  let s := s.setFld F.MP0_CTL_HOLD 0 (bits w.toNat 0 0)
  if bit w.toNat 1 ∨ ¬ bit w.toNat 0 then s.xipInval else s

/-- Word j of bytes, with the bytes beyond their end taken from the old word. -/
def wordOf (l : List Byte) (j : Nat) (old : Word) : Word :=
  w32 (fromLe ((List.range 4).map fun k => match l[4 * j + k]? with
    | some b => b.toNat
    | none => old.toNat / 256 ^ k % 256))

/-- A write of MP0_RAWCMD (R391): with GO, a raw command starts under HOLD where none is in progress, and is sent once no
XIP access is in progress; else the write is discarded. -/
def State.mp0Raw (s : State) (w : Word) : State :=
  let go := bit w.toNat 31
  if go ∧ (¬ s.xipHeld ∨ s.flag F.MP0_STAT_RAWBUSY) then s.raise F.MP0_STAT_CMDREF
  else
    let s := s.setReg .MP0_RAWCMD 0 (w &&& 0x7FFFFFFF)
    if ¬ go then s
    else
      let w := s.reg .MP0_RAWCMD
      let s := { s.raise F.MP0_STAT_RAWBUSY with mp := { s.mp with raw := some w } }
      if s.mp.xip.isSome then s else s.rawSend w

/-- MP0_RAW_COMPLETE (R391): a read command's bytes are placed in MP0_RAWBUF. Nothing where no raw command has been sent. -/
def execMp0RawComplete (bytes : List Byte) (s : State) : Host.Outcome State Fault Refusal :=
  match s.mp.raw, s.mp.xip with
  | some w, none =>
    let s := { s.setFld F.MP0_STAT_RAWBUSY 0 0 with mp := { s.mp with raw := none } }
    if F.MP0_RAWCMD_DIR.get w = 1 then .next s
    else
      let l := bytes.take (F.MP0_RAWCMD_LEN.get w)
      .next ((List.range ((l.length + 3) / 4)).foldl
        (fun s j => s.setReg .MP0_RAWBUF j (wordOf l j (s.reg .MP0_RAWBUF j))) s)
  | _, _ => .next s

/-! ### Protection of on-chip memory (R396-R400) -/

/-- Writes zero into the data of a word of a region. The bytes of a cache line are not held (notes/assumptions/16.md). -/
def State.zeroWord (s : State) (rg w : Nat) : State :=
  let arr (r : Reg) (j : Nat) := (s.setReg r (2 * j) 0).setReg r (2 * j + 1) 0
  if rg ≤ rgArc then s.poke rg (8 * w) 8 0
  else match rg with
    | 12 => (s.setBar2 (w / 8192) (8 * (w % 8192)) 0).setBar2 (w / 8192) (8 * (w % 8192) + 4) 0
    | 13 =>
      if w < 3072 then arr .FP_TXBUF w else if w < 3104 then arr .TW_TXBUF (w - 3072)
      else if w < 3136 then arr .TW_TGTBUF (w - 3104) else arr .RG_SLOTBUF (w - 3136)
    | 14 =>
      if w < 32 then
        { s with mp := { s.mp with pf := s.mp.pf.map fun p =>
          if p.2.1 = w / 8 then (p.1, p.2.1, p.2.2.take (8 * (w % 8)) ++ List.replicate 8 0#8 ++ p.2.2.drop (8 * (w % 8) + 8))
          else p } }
      else if w < 1120 then arr .MP1_PGBUF (w - 32) else arr .MP1_BBT (w - 1120)
    | 11 => s.hlCell w fun _ _ => 0
    | _ => s

/-- A write of MP_PSNCLR (R396): a whole-word write of zero. -/
def State.mpPsnClr (s : State) (w : Word) : State :=
  let rg := bits w.toNat 31 28
  let i := bits w.toNat 17 0
  ((s.eccWrite rg i true).1).zeroWord rg i

/-- The line of which word p of the cache region is a word leaves its Block's cache (R395). -/
def State.icDropWord (s : State) (p : Nat) : State :=
  let u := s.blkOf (p / 2048)
  let set := p % 1024 / 4
  let l := (u.icache.get (fun _ => []) set).filter fun e => e.2 != p % 2048 / 1024
  s.setBlk (p / 2048) { u with icache := u.icache.set (fun _ => []) set l }

/-- SCRUB_READ (R397): with SEN set, the next word of the region is read under R395; a pass that ends is noted, and PASS is set
once every region has completed one. -/
def execScrubRead (rg : Fin 15) (s : State) : Host.Outcome State Fault Refusal :=
  if ¬ s.flag F.MP_ECC_CFG_SEN then .next s
  else
    let p := s.mp.scrub.get (fun _ => 0) rg
    let s := match s.eccRead rg p with
      | (s, .poison) =>
        if rg.val = rgCache then (s.setEcc rg p {}).icDropWord p
        else if rg.val = 14 ∧ p < 32 then
          match s.mp.pf.find? (fun e : Nat × Nat × List Byte => e.2.1 == p / 8) with
          | some e => s.xipDrop e.1
          | none => s.setEcc rg p {}
        else s
      | (s, .ok _) => s
    let last := decide (regionWords rg ≤ p + 1)
    let s := { s with mp := { s.mp with
      scrub := s.mp.scrub.set (fun _ => 0) rg (if last then 0 else p + 1)
      passed := if last ∧ ¬ s.mp.passed.contains rg.val then rg.val :: s.mp.passed else s.mp.passed } }
    .next (s.raiseIf (decide (s.mp.passed.length = 15)) F.MP_ECC_STAT_PASS)

/-- The data of a protected word changed by an exclusive-or. -/
def State.flipData (s : State) (rg w : Nat) (d : BitVec 64) : State :=
  let lo := w32 d.toNat
  let hi := w32 (d.toNat / 2 ^ 32)
  let arr (r : Reg) (j : Nat) :=
    (s.setReg r (2 * j) (s.reg r (2 * j) ^^^ lo)).setReg r (2 * j + 1) (s.reg r (2 * j + 1) ^^^ hi)
  if d = 0 then s
  else if rg ≤ rgArc then s.flipWord rg w d
  else match rg with
    | 12 =>
      let q := w / 8192
      let o := 8 * (w % 8192)
      (s.setBar2 q o (s.bar2Word q o ^^^ lo)).setBar2 q (o + 4) (s.bar2Word q (o + 4) ^^^ hi)
    | 13 =>
      if w < 3072 then arr .FP_TXBUF w else if w < 3104 then arr .TW_TXBUF (w - 3072)
      else if w < 3136 then arr .TW_TGTBUF (w - 3104) else arr .RG_SLOTBUF (w - 3136)
    | 14 =>
      if w < 32 then
        let at_ := 8 * (w % 8)
        let flip (l : List Byte) : List Byte := (List.range 64).map fun k =>
          l.getD k 0 ^^^ (if at_ ≤ k ∧ k < at_ + 8 then BitVec.ofNat 8 (d.toNat / 256 ^ (k - at_)) else 0)
        { s with mp := { s.mp with pf := s.mp.pf.map fun p => if p.2.1 = w / 8 then (p.1, p.2.1, flip p.2.2) else p } }
      else if w < 1120 then arr .MP1_PGBUF (w - 32) else arr .MP1_BBT (w - 1120)
    | 11 => s.hlCell w (xorHalf d)
    | _ => s

/-- SCRUB_WRITEBACK (R397): the oldest corrected word that waits is written back; nothing where none waits. A word that
was miscorrected is stored as the decoder made it. -/
def execScrubWriteback (s : State) : Host.Outcome State Fault Refusal :=
  match s.scrubQ with
  | [] => .next s
  | k :: rest =>
    let rg := k / 2 ^ 20
    let w := k % 2 ^ 20
    let s := { s with scrubQ := rest }
    let d := (decodeFlips (s.eccOf rg w).flips).getD 0
    match s.eccWrite rg w true with
    | (s, _) => .next (s.flipData rg w d)

/-! ### MP1: the Archive flash (R401-R408) -/

/-- The page size in bytes, the codewords of a page, the user bytes of a codeword and the pages of a block (R402). -/
def State.mpPB (s : State) : Nat := 8 * s.fld F.MP1_CFG_PG8
def State.mpQ (s : State) : Nat := s.mpPB / max 1 (s.fld F.MP1_CFG_CWLEN)
def State.mpU (s : State) : Nat := s.fld F.MP1_CFG_CWLEN - 16
def State.mpPages (s : State) : Nat := 32 * 2 ^ s.fld F.MP1_CFG_PPB

/-- The Archive key in use: the current slot's, in SEALED only (R403, R461). -/
def State.archiveKey (s : State) : Option Nat :=
  if s.fld F.LC_STATE_STATE = 3 then some (if s.lc.slot = 0 then s.lc.slot0.archive else s.lc.slot1.archive) else none

/-- The cipher output for the user bytes of a codeword (R403): byte i comes from block floor(i / 16). -/
def archivePad (key cnt blk page cw n : Nat) : List Nat :=
  let k := (leBytes 16 key).reverse
  (List.range ((n + 15) / 16)).flatMap fun j =>
    aes128 k (leBytes 4 cnt ++ leBytes 2 blk ++ [page % 256, cw % 256] ++ List.replicate 7 0 ++ [j % 256])

/-- The user bytes of codeword cw encrypted or decrypted (R403); bytes 0-7 of the page are left as they are. -/
def State.archiveCw (s : State) (cnt blk page cw : Nat) (l : List Nat) : List Nat :=
  match s.archiveKey with
  | none => l
  | some k =>
    let e := List.zipWith Nat.xor l (archivePad k cnt blk page cw l.length)
    if cw = 0 then l.take 8 ++ e.drop 8 else e

/-- Places bytes in MP1_PGBUF, which has 8704, from word 0 (R404). -/
def State.pgStore (s : State) (l : List Byte) : State :=
  let l := l.take 8704
  (List.range ((l.length + 7) / 8)).foldl (fun s j =>
    if 8 * j + 8 ≤ l.length then s.portPair .MP1_PGBUF (2 * j) (wordOf l (2 * j) 0) (wordOf l (2 * j + 1) 0)
    else
      let s := s.portWrite .MP1_PGBUF (2 * j) (wordOf l (2 * j) (s.reg .MP1_PGBUF (2 * j)))
      s.portWrite .MP1_PGBUF (2 * j + 1) (wordOf l (2 * j + 1) (s.reg .MP1_PGBUF (2 * j + 1)))) s

/-- Block b is marked bad, while a table is loaded (R406). -/
def State.mpBad (s : State) (b : Nat) : Bool :=
  s.flag F.MP1_BBTBLK_BBTV && bit (s.reg .MP1_BBT (b / 32)).toNat (b % 32)

/-- MP1 sends a command to the flash (R401). -/
def State.nand (s : State) (c : NandCmd) : State := s.emit (.mp1 (s.fld F.MP1_CFG_D1) (s.flag F.MP1_CFG_WID8) c)

/-- The read of a page into the flash's cache, and of the cache. The address bytes of the commands are the flash's
(notes/assumptions/200.md). -/
def State.nandPage (s : State) (b p : Nat) : State := s.nand (.row (s.fld F.MP1_OPS0_PGRD) b p)
def State.nandCache (s : State) : State := s.nand (.cache (s.fld F.MP1_OPS0_RDCACHE))

/-- The bytes of a page as the flash sends them, PB of them; those that do not come read as 0xFF. -/
def State.mpRaw (s : State) (page : List Byte) : List Byte := (List.range s.mpPB).map fun k => page.getD k 0xFF#8

/-- The codewords of a page as read, and as the decoder leaves them (R402). -/
def State.mpSplit (s : State) (page : List Byte) : List (List Nat) :=
  let l := (s.mpRaw page).map (·.toNat)
  let n := s.fld F.MP1_CFG_CWLEN
  (List.range s.mpQ).map fun c => (l.drop (c * n)).take n
def State.mpDecode (s : State) (page : List Byte) : List HlCw := (s.mpSplit page).map rsDecode

/-- Every byte of a page is 0xFF. -/
def State.mpErased (s : State) (page : List Byte) : Bool := (s.mpRaw page).all (· == 0xFF#8)

/-- The erase count that codeword 0 of a page holds, where it decodes (R405). -/
def State.headCount (s : State) (page : List Byte) : Option Nat :=
  match ((s.mpSplit page).headD []) |> rsDecode with
  | some (l, _) => some (fromLe (l.take 4))
  | none => none

/-- An MP1 operation ends with a status (R407). -/
def State.mpEnd (s : State) (st : Nat) : State :=
  let s := (s.setFld F.MP1_STAT_ST 0 st).setFld F.MP1_STAT_BUSY 0 0
  { s with mp := { s.mp with op := none } }

/-- The pending erase counts, shown in MP1_EPEND. -/
def State.setPend (s : State) (l : List (Nat × Nat)) : State :=
  { s.setFld F.MP1_EPEND_N 0 l.length with mp := { s.mp with pend := l } }

/-- A pending erase count is made, replaced or used: it becomes the most recent of eight (R405). -/
def State.pendUse (s : State) (b c : Nat) : State :=
  s.setPend (((b, c) :: s.mp.pend.filter fun p => p.1 != b).take 8)

/-- The pending erase count of a block. -/
def State.pendOf (s : State) (b : Nat) : Option Nat := (s.mp.pend.find? fun p => p.1 == b).map (·.2)

/-- The raw bytes of a page programmed with an erase count (R402, R404, R405). -/
def State.mpPage (s : State) (o : MpOp) (cnt : Nat) : State × List Byte :=
  let n := s.mpQ * s.mpU
  let (s, ws) := s.portWords .MP1_PGBUF (List.range ((n + 3) / 4))
  let user := leBytes 4 cnt ++ ((ws.flatMap fun w => leBytes 4 w.toNat).take n).drop 4
  let cws := (List.range s.mpQ).flatMap fun c =>
    let d := s.archiveCw cnt o.blk o.page c ((user.drop (c * s.mpU)).take s.mpU)
    d ++ rsParity d
  (s, (cws.map (BitVec.ofNat 8)) ++ List.replicate (s.mpPB - s.mpQ * s.fld F.MP1_CFG_CWLEN) 0xFF#8)

/-- A page is programmed with an erase count (R404, R405): the count is used, the page is loaded and programmed. -/
def State.mpWrite (s : State) (o : MpOp) (c : Nat) : State :=
  let (s, bytes) := (s.pendUse o.blk c).mpPage o c
  ((s.nand (.wren (s.fld F.MP1_OPS1_WREN))).nand (.load (s.fld F.MP1_OPS0_PLOAD) bytes)).nand
    (.row (s.fld F.MP1_OPS0_PEXEC) o.blk o.page)

/-- The operation that waits starts: its time-out and polls count from now (R401), and its first command is sent. A PROGRAM
whose block has a pending count programs at once; without one, and for ERASE, page 0 of the block is read first (R405). -/
def State.mpBegin (s : State) : State :=
  match s.mp.op with
  | none => s
  | some o =>
    let o := { o with start := s.ltMs, pollAt := s.ltMs, polled := none }
    let s := { s with mp := { s.mp with op := some o } }
    match o.op with
    | 2 => match s.pendOf o.blk with
      | some c => s.mpWrite o c
      | none => s.nandPage o.blk 0
    | 3 => s.nandPage o.blk 0
    | 4 => s.nandPage 0 0
    | _ => s.nandPage o.blk o.page

/-- A write of MP1_CMD (R404): with GO, an operation starts, after a patrol read in progress (R408), or ends at once where
it names no block or page or a bad block; while BUSY a GO is discarded. -/
def State.mp1Cmd (s : State) (w : Word) : State :=
  let go := bit w.toNat 31
  if go ∧ s.flag F.MP1_STAT_BUSY then s.raise F.MP1_STAT_CMDREF
  else
    let s := s.setReg .MP1_CMD 0 (w &&& 0x7FFFFFFF)
    if ¬ go then s
    else
      let op := s.fld F.MP1_CMD_OP
      let b := s.fld F.MP1_CMD_BLOCK
      let p := s.fld F.MP1_CMD_PAGE
      if s.fld F.MP1_GEOM_NBLK ≤ b ∨ s.mpPages ≤ p then s.mpEnd 7
      else if (op = 2 ∨ op = 3) ∧ s.mpBad b then s.mpEnd 3
      else
        let s := { s.raise F.MP1_STAT_BUSY with mp := { s.mp with op := some { op := op, blk := b, page := p } } }
        if s.mp.pat.isSome then s else s.mpBegin

/-- The operation in progress has not finished within TOUT ms (R401). -/
def State.mpLate (s : State) (o : MpOp) : Bool := s.lapsed (some o.start) (256000000 * s.fld F.MP1_POLL_TOUT)

/-- MP1_STATUS_POLL (R401): POLL µs after the start or the last poll the status feature is read, st as the flash answers; one
that is not busy ends the array operation. Nothing where no operation runs, while a patrol read holds the flash (R408), or
before that time. -/
def execMp1StatusPoll (st : Byte) (s : State) : Host.Outcome State Fault Refusal :=
  match s.mp.op, s.mp.pat with
  | some o, none =>
    if ¬ s.lapsed (some o.pollAt) (256000 * s.fld F.MP1_POLL_POLL) then .next s
    else
      let o := { o with pollAt := s.ltMs, polled := if st.getLsbD 0 then none else some st }
      .next ({ s with mp := { s.mp with op := some o } }.nand (.getf (s.fld F.MP1_OPS1_GETF) (s.fld F.MP1_OPS1_SADDR)))
  | _, _ => .next s

/-- MP1_TIMEOUT (R401): an operation not finished within TOUT ms ends with status 5; nothing before. -/
def execMp1Timeout (s : State) : Host.Outcome State Fault Refusal :=
  match s.mp.op, s.mp.pat with
  | some o, none => .next (if s.mpLate o then s.mpEnd 5 else s)
  | _, _ => .next s

/-- The largest correction among correctable codewords. -/
def maxCorr (cws : List HlCw) : Nat := cws.foldl (fun m c => max m ((c.map (·.2)).getD 0)) 0

/-- MAXC and NFAIL after a READ or BBTSCAN, and the status they give (R404, R407). -/
def State.mpCounts (s : State) (cws : List HlCw) : State × Nat :=
  let f := cwFails cws
  let m := maxCorr cws
  ((s.setFld F.MP1_STAT_MAXC 0 m).setFld F.MP1_STAT_NFAIL 0 f, if f > 0 then 2 else if m > 0 then 1 else 0)

/-- The bits of MP1_CWFAIL from codeword k on. -/
def failBits (cws : List HlCw) (k : Nat) : Word :=
  w32 ((List.range 32).foldl (fun a i => if (cws[k + i]?.map (·.isSome)).getD true then a else a + 2 ^ i) 0)

/-- The user bytes of a page as read (R402-R404): decoded and decrypted, those of an uncorrectable codeword as read. -/
def State.mpUser (s : State) (blk page : Nat) (raw : List (List Nat)) (cws : List HlCw) : List Nat :=
  let data := List.zipWith (fun r (c : HlCw) => (c.map (·.1)).getD (r.take s.mpU)) raw cws
  let cnt := fromLe ((data.headD []).take 4)
  (List.zipWith (fun d (c : HlCw × Nat) => if c.1.isSome then s.archiveCw cnt blk page c.2 d else d) data cws.zipIdx).flatten

/-- The end of a READ (R404): the user bytes are placed in MP1_PGBUF. -/
def State.mpRead (s : State) (o : MpOp) (page : List Byte) : State :=
  let cws := s.mpDecode page
  let (s, st) := (s.nandCache).mpCounts cws
  let s := (s.setReg .MP1_CWFAIL0 0 (failBits cws 0)).setReg .MP1_CWFAIL1 0 (failBits cws 32)
  (s.pgStore ((s.mpUser o.blk o.page (s.mpSplit page) cws).map (BitVec.ofNat 8))).mpEnd st

/-- The end of a PROGRAM (R404, R405), with the page that was read for the count where the block had no entry. -/
def State.mpProgram (s : State) (o : MpOp) (st : Byte) (hd : List Byte) : State :=
  let done := if st.getLsbD 3 then 4 else 0
  match s.pendOf o.blk with
  | some _ => s.mpEnd done
  | none => match s.headCount hd with
    | none => s.nandCache.mpEnd 9
    | some c => (s.nandCache.mpWrite o c).mpEnd done

/-- The end of an ERASE (R405). -/
def State.mpErase (s : State) (o : MpOp) (st : Byte) (hd : List Byte) : State :=
  let c := (if s.mpErased hd then none else s.headCount hd).getD (s.reg .MP1_ECNTDEF).toNat
  let s := (s.setReg .MP1_ECNT 0 (w32 c)).pendUse o.blk (c + 1)
  let s := (s.nandCache.nand (.wren (s.fld F.MP1_OPS1_WREN))).nand (.row (s.fld F.MP1_OPS1_ERASE) o.blk 0)
  s.mpEnd (if st.getLsbD 2 then 4 else 0)

/-- The first of at most n blocks whose page 0 has a codeword 0 that decodes with user byte 4 = 0x01, and the pages read
after it (R406). -/
def State.findTable (s : State) : Nat → Nat → List (List Byte) → Option (Nat × HlCw × List (List Byte))
  | 0, _, _ => none
  | _, _, [] => none
  | n + 1, b, p :: ps =>
    match rsDecode ((s.mpSplit p).headD []) with
    | some (l, e) => if l.getD 4 0 = 1 then some (b, some (l, e), ps) else s.findTable n (b + 1) ps
    | none => s.findTable n (b + 1) ps

/-- The commands that read a list of pages: the first has been sent as the operation started. -/
def State.nandScan (s : State) (pages : List (Nat × Nat)) : State :=
  (pages.drop 1).foldl (fun s p => (s.nandPage p.1 p.2).nandCache) s.nandCache

/-- The end of a BBTSCAN (R406): the bits are loaded from as many pages as NBLK needs, each decrypted where the Archive is
(R403). -/
def State.mpScan (s : State) (pages : List (List Byte)) : State :=
  let store (s : State) (f : Nat → Word) :=
    (List.range 1024).foldl (fun s j => s.portPair .MP1_BBT (2 * j) (f (2 * j)) (f (2 * j + 1))) s
  let n := s.fld F.MP1_GEOM_NBLK
  let per := max 1 (s.mpQ * s.mpU - 8)
  match s.findTable (s.fld F.MP1_GEOM_BBTMAX) 0 pages with
  | none =>
    let s := s.nandScan ((List.range (s.fld F.MP1_GEOM_BBTMAX)).map fun b => (b, 0))
    ((store s fun _ => 0).setFld F.MP1_BBTBLK_BBTV 0 0).mpEnd 8
  | some (b, hd, rest) =>
    let need := ((n + 7) / 8 + per - 1) / per
    let s := s.nandScan ((List.range (b + 1)).map (fun k => (k, 0)) ++ (List.range need).map fun k => (b, k + 1))
    let tbl := (List.range need).map fun k => rest.getD k []
    let bytes := (tbl.zipIdx.map fun p => (s.mpUser b (p.2 + 1) (s.mpSplit p.1) (s.mpDecode p.1)).drop 8).flatten
    let word (j : Nat) : Word := w32 ((List.range 32).foldl (fun a i =>
      let k := 32 * j + i
      if k < n ∧ bit (bytes.getD (k / 8) 0) (k % 8) then a + 2 ^ i else a) 0)
    let s := ((store s word).raise F.MP1_BBTBLK_BBTV).setFld F.MP1_BBTBLK_BLK 0 b
    let (s, st) := s.mpCounts (hd :: tbl.flatMap s.mpDecode)
    s.mpEnd st

/-- MP1_OP_COMPLETE (R401, R404-R407): the operation in progress ends with its status once a poll has found the flash not
busy and no patrol read runs, with the pages that it read in order; nothing before. One that has not finished in time ends
with status 5. -/
def execMp1OpComplete (pages : List (List Byte)) (s : State) : Host.Outcome State Fault Refusal :=
  match s.mp.op, s.mp.pat with
  | some o, none =>
    match o.polled with
    | none => .next s
    | some st =>
      let hd := pages.headD []
      .next (if s.mpLate o ∧ 256000000 * s.fld F.MP1_POLL_TOUT + o.start ≠ s.ltMs then s.mpEnd 5
        else match o.op with
          | 0 => s.mpRead o hd
          | 1 => (s.nandCache.pgStore (s.mpRaw hd)).mpEnd 0
          | 2 => s.mpProgram o st hd
          | 3 => s.mpErase o st hd
          | _ => s.mpScan pages)
  | _, _ => .next s

/-! ### The patrol reader and the integrator (R408, R409) -/

/-- The next page after (b, p), and whether the patrol wraps. -/
def State.patNext (s : State) (b p : Nat) : Nat × Nat × Bool :=
  if p + 1 < s.mpPages then (b, p + 1, false)
  else if b + 1 < s.fld F.MP1_GEOM_NBLK then (b + 1, 0, false) else (0, 0, true)

/-- The page that the patrol reads from position (b, p): bad blocks are skipped, a wrap counts a pass. -/
def State.patFind (s : State) : Nat → Nat → Nat → State × Option (Nat × Nat)
  | 0, _, _ => (s, none)
  | n + 1, b, p =>
    if s.mpBad b then
      if b + 1 < s.fld F.MP1_GEOM_NBLK then s.patFind n (b + 1) 0
      else (s.bump F.MP1_PATSTAT_PASSN).patFind n 0 0
    else (s, some (b, p))

/-- PATROL_READ (R408): with EN set, no operation in progress, no patrol read in progress and PINT ms passed since the last
one started, a patrol read of the next page starts. -/
def execPatrolRead (s : State) : Host.Outcome State Fault Refusal :=
  if ¬ s.flag F.MP1_PAT_EN ∨ s.flag F.MP1_STAT_BUSY ∨ s.mp.pat.isSome
    ∨ ¬ s.lapsed s.mp.patAt (256000000 * s.fld F.MP1_PAT_PINT) then .next s
  else
    match s.patFind (s.fld F.MP1_GEOM_NBLK + 1) (s.fld F.MP1_PATPOS_BLOCK) (s.fld F.MP1_PATPOS_PAGE) with
    | (s, none) => .next s
    | (s, some (b, p)) =>
      let (b', p', wraps) := s.patNext b p
      let s := (s.setFld F.MP1_PATPOS_BLOCK 0 b').setFld F.MP1_PATPOS_PAGE 0 p'
      let s := if wraps then s.bump F.MP1_PATSTAT_PASSN else s
      .next ({ s with mp := { s.mp with pat := some (b, p), patAt := some s.ltMs } }.nandPage b p)

/-- The patrol FIFO, whose level MP1_PATSTAT shows. -/
def State.setFifo (s : State) (l : List PatEnt) : State :=
  { s.setFld F.MP1_PATSTAT_LVL 0 l.length with mp := { s.mp with fifo := l } }

/-- PATROL_READ_COMPLETE (R408): a weak or uncorrectable page is pushed into the FIFO, an erased page is not; a command
written meanwhile starts. -/
def execPatrolReadComplete (page : List Byte) (s : State) : Host.Outcome State Fault Refusal :=
  match s.mp.pat with
  | none => .next s
  | some (b, p) =>
    let s := ({ s with mp := { s.mp with pat := none } }.nandCache).mpBegin
    let cws := s.mpDecode page
    let unc := decide (cwFails cws > 0)
    let m := maxCorr cws
    if s.mpErased page ∨ (¬ unc ∧ m < s.fld F.MP1_PAT_PTHR) then .next s
    else if s.mp.fifo.length ≥ 16 then .next (s.bump F.MP1_PATSTAT_LOSTN)
    else .next (s.setFifo (s.mp.fifo ++ [{ unc := unc, maxc := m, blk := b, page := p }]))

/-- A read of MP1_PATRES returns and removes the oldest entry, or reads 0 (R408, R411). -/
def State.patPop (s : State) : State × Word :=
  match s.mp.fifo with
  | [] => (s, 0)
  | e :: rest =>
    (s.setFifo rest, w32 (2 ^ 31 + (if e.unc then 2 ^ 30 else 0) + e.maxc * 2 ^ 24 + e.blk * 256 + e.page))

/-- The bin of a junction temperature in 1/16 degrees C (R409). -/
def tatBin (tj : Int) : Nat := if tj < 80 then 0 else min 15 (((tj - 80) / 160).toNat + 1)

/-- Adds to MP1_TAT, which saturates at 2^48 - 1. -/
def State.tatAdd (s : State) (n : Nat) : State :=
  let t := min (2 ^ 48 - 1) ((s.reg .MP1_TAT_HI).toNat * 2 ^ 32 + (s.reg .MP1_TAT_LO).toNat + n)
  (s.setReg .MP1_TAT_LO 0 (w32 t)).setReg .MP1_TAT_HI 0 (w32 (t / 2 ^ 32))

/-- The second of LT. -/
def State.ltSec (s : State) : Nat := s.ltNs / 1000000000

/-- TAT_INTEGRATE (R409): once per second of LT the weight of the present bin is added; nothing where the integrator is
off, PD_MEM is unpowered, or this second has been added. -/
def execTatIntegrate (s : State) : Host.Outcome State Fault Refusal :=
  if ¬ s.flag F.MP1_TATCFG_EN ∨ ¬ s.powered pdMem ∨ s.ltSec = s.mp.tatSec then .next s
  else
    let s := { s with mp := { s.mp with tatSec := s.ltSec } }
    .next (s.tatAdd (s.fld F.MP1_TATW_W (tatBin (sext (s.fld F.PM_MON_TJ) 16))))

/-- PD_MEM is powered again (R409): the LT elapsed since its isolation is added at SLPBIN's weight, unless LT is
INVALID. -/
def State.tatWake (s : State) : State :=
  match s.mp.isoAt with
  | none => s
  | some t0 =>
    let s := { s with mp := { s.mp with isoAt := none, tatSec := s.ltSec } }
    if ¬ s.flag F.MP1_TATCFG_EN then s
    else if s.ltq = 3 then s.raise F.MP1_TATCFG_TATINV
    else s.tatAdd ((s.ltNs - t0) / 1000000000 * s.fld F.MP1_TATW_W (s.fld F.MP1_TATCFG_SLPBIN))

end Sys2Proof.Machine
end

