-- ==== Sys2Proof/Machine/TwoWire.lean ====
section
/-! DEFINITION. The two-wire ports (06_two_wire): transactions, arbitration, in-band requests, timeouts, bus clear, the
target role and their records. -/

namespace Sys2Proof.Machine

/-- Two-wire port n. -/
def State.twOf (s : State) (n : Nat) : TwUnit := s.tw.get (fun _ => {}) n
/-- Replaces two-wire port n. -/
def State.setTw (s : State) (n : Nat) (v : TwUnit) : State := { s with tw := s.tw.set (fun _ => {}) n v }
/-- Port n is enabled. -/
def State.twEn (s : State) (n : Nat) : Bool := s.actB F.TW_CFG_EN n
/-- Port n may act as a controller. -/
def State.twCtl (s : State) (n : Nat) : Bool := s.act F.TW_CFG_ROLE n != 1
/-- Port n may act as a target. -/
def State.twTgt (s : State) (n : Nat) : Bool := s.act F.TW_CFG_ROLE n != 0
/-- Port n is STUCK. -/
def State.twStuck (s : State) (n : Nat) : Bool := s.flag F.TW_STATUS_STUCK n

/-- Bytes packed four to a word, byte 0 in bits 7 to 0 (R140). -/
def packBytes (l : List Byte) : List Word :=
  (List.range ((l.length + 3) / 4)).map fun j =>
    w32 ((List.range 4).foldl (fun a i => a + (l.getD (4 * j + i) 0).toNat * 256 ^ i) 0)

/-- The first k bytes of a buffer of eight words (R122, R139). -/
def State.twBytes (s : State) (r : Reg) (n k : Nat) : State × List Byte :=
  let (s, ws) := s.portWords r ((List.range ((k + 3) / 4)).map (8 * n + ·))
  (s, (List.range k).map fun i => BitVec.ofNat 8 (bits (ws.getD (i / 4) 0).toNat (8 * (i % 4) + 7) (8 * (i % 4))))

/-- A record of port n (R140). -/
def State.twRecord (s : State) (n kind status ms : Nat) (a10 : Bool) (addr : Nat) (data : List Byte) : State :=
  let w := w32 (kind * 2 ^ 28 + status * 2 ^ 24 + data.length % 256 * 65536 + (if a10 then 1024 else 0) + addr % 1024)
  s.present { typ := 2, idx := n, ms := ms, payload := w :: packBytes data }

/-- A bus event record (R140). -/
def State.twBusEvent (s : State) (n ev : Nat) : State := s.twRecord n 5 ev s.ltMs false 0 []

/-- One cycle of CK_TWB, 20 ns, in 2^-40 ns. -/
def twCyc : Nat := 20 * 2 ^ 40

/-- The stamp of an edge that the present sample confirms, in 2^-40 ns (R117): LT at the last CK_TWB edge, the first CK_FIELD edge of
every four, less FILT × 20 ns. -/
def State.twStamp (s : State) (n : Nat) : Nat :=
  s.lt40 - s.ct.field * wrap ((s.ckStep.lt40 : Int) - s.lt40) 104 - s.act F.TW_CFG_FILT n * twCyc

/-- The same stamp as a Milestone. -/
def State.twMs (s : State) (n : Nat) : Nat := s.twStamp n / 2 ^ 32

/-- tBUF of a port's rate in 2^-40 ns (R118). -/
def State.twBuf (s : State) (n : Nat) : Nat :=
  (match s.act F.TW_CFG_RATE n with
    | 0 => 260
    | 1 => 70
    | _ => 28) * twCyc

/-- A STOP, or a request's end, after which tBUF must pass until the bus is free (R120, R130). -/
def TwUnit.stopped (u : TwUnit) (now : Nat) : TwUnit :=
  { u with busy := false, free := false, quiet := now, follows := false, lostAt := none }

/-! ### Messages (R116, R121, R122) -/

/-- The address bytes of a target, for a write or a read (R121). -/
def twAddr (a10 : Bool) (a : Nat) (rd : Bool) : List Byte :=
  let d := if rd then 1 else 0
  if a10 then [BitVec.ofNat 8 (0xF0 + a / 256 % 4 * 2 + d), BitVec.ofNat 8 a] else [BitVec.ofNat 8 (a % 128 * 2 + d)]

/-- The bytes of step 1 of a transaction (R122): the address with d = 0 and the written bytes; none where a 7-bit transaction only
reads. -/
def TwXact.head (x : TwXact) : List Byte :=
  if x.wlen = 0 ∧ x.rlen > 0 ∧ ¬ x.a10 then [] else twAddr x.a10 x.addr false ++ x.bytes

/-- The address byte of step 2, where the transaction reads (R121, R122). -/
def TwXact.again (x : TwXact) : List Byte := if x.rlen > 0 then (twAddr x.a10 x.addr true).take 1 else []

/-- The level that the controller sends in bit bt (8 = acknowledge) of byte k of its message (R125): none where it drives nothing. -/
def TwXact.sends (x : TwXact) (k bt : Nat) : Option Bool :=
  let own := x.head ++ x.again
  match own[k]? with
  | some b => if bt < 8 then some (b.getLsbD bt) else none
  | none => if bt = 8 ∧ k < own.length + x.rlen then some (k + 1 == own.length + x.rlen) else none

/-- The bytes of the message in order, each with whether a START comes before it and its acknowledge bit; the data read follow the
repeated address, all acknowledged but the last (R122). -/
def TwXact.parts (x : TwXact) (data : List Byte) : List (Bool × Byte × Bool) :=
  let mark (l : List Byte) := l.zipIdx.map fun e => (e.2 == 0, e.1, true)
  mark x.head ++ mark x.again ++ data.zipIdx.map fun e => (false, e.1, e.2 + 1 != data.length)

/-- The message of those bytes. -/
def twToks (l : List (Bool × Byte × Bool)) : List TwTok :=
  l.flatMap fun e => (if e.1 then [.start] else []) ++ [.byte e.2.1 e.2.2]

/-- The message up to the NACK of byte k, with STOP (R123). -/
def TwXact.nacked (x : TwXact) (k : Nat) : List TwTok :=
  let l := x.parts []
  twToks (l.take k ++ ((l.drop k).take 1).map fun e => (e.1, e.2.1, false)) ++ [.stop]

/-- The kind of byte k of a transaction's message (R121-R123): 1 an address byte, 2 a written byte, 0 one that no target
acknowledges. -/
def TwXact.byteKind (x : TwXact) (k : Nat) : Nat :=
  if k < x.head.length then (if k < (if x.a10 then 2 else 1) then 1 else 2)
  else if k < x.head.length + x.again.length then 1
  else 0

/-! ### Controller transactions (R122-R126) -/

/-- A bus clear starts (R135). -/
def TwUnit.startClear (u : TwUnit) : TwUnit := { u with clear := true, clearWait := false, free := false }

/-- A transaction ends with a status and is delivered as a record; a clear that waited for its end starts (R122, R135). -/
def State.twEnd (s : State) (n : Nat) (x : TwXact) (status : Nat) (data : List Byte) : State :=
  let u := s.twOf n
  let u := if u.clearWait then u.startClear else u
  let s := s.setTw n { u with xact := none }
  let s := (s.setFld F.TW_XSTAT_CODE n status).setFld F.TW_XSTAT_TRIES n (min 15 x.losses)
  let s := if status = 1 ∨ status = 2 then s.bump F.TW_CNT_NACKN n else s
  s.twRecord n 0 status x.start x.a10 x.addr data

/-- A GO ends at once with status 5 on a STUCK bus (R136). -/
def State.twStuckGo (s : State) (n : Nat) : State :=
  s.twEnd n { addr := s.fld F.TW_XCFG_ADDR n, a10 := s.flag F.TW_XCFG_A10 n, wlen := 0, rlen := 0, retry := 0, bytes := [],
              start := s.ltMs } 5 []

/-- A transaction starts: the port reads TW_XCFG and TW_TXBUF and sends START (R122, R124). -/
def State.twStart (s : State) (n : Nat) : State :=
  let w := s.fld F.TW_XCFG_WLEN n
  let (s, bytes) := s.twBytes .TW_TXBUF n w
  s.setTw n { s.twOf n with
    pend := false, busy := true, free := false, start := s.twMs n, follows := false, lostAt := none,
    xact := some { addr := s.fld F.TW_XCFG_ADDR n, a10 := s.flag F.TW_XCFG_A10 n, wlen := w,
                   rlen := s.fld F.TW_XCFG_RLEN n, retry := s.fld F.TW_XCFG_RETRY n,
                   bytes := bytes, start := s.twMs n } }

/-- The bus is free for a message of the port's own: free under R120, and neither a target nor the port holds SDA low. -/
def TwUnit.open_ (u : TwUnit) : Bool := u.free && !u.sdaLow && u.req != .holding

/-- The port is idle: no transaction, no roll-call, no bus clear of its own. -/
def TwUnit.idle (u : TwUnit) : Bool := u.xact.isNone && u.roll.isNone && !u.clear

/-- The port may start a transaction now (R120, R124, R132). -/
def TwUnit.mayStart (u : TwUnit) : Bool := u.idle && u.open_ && u.rollDue.isNone

/-- The port sends a message of its own: a transaction that does not wait after a loss, a roll-call or a bus clear. -/
def TwUnit.talks (u : TwUnit) : Bool :=
  u.roll.isSome || u.clear || (match u.xact with
    | some x => !x.wait
    | none => false)

/-- TW_XCFG names a target that the controller accepts (R121): its reset value names none (notes/assumptions/193.md). -/
def State.twNames (s : State) (n : Nat) : Bool :=
  let a := s.fld F.TW_XCFG_ADDR n
  s.flag F.TW_XCFG_A10 n || decide (0x08 ≤ a ∧ a ≤ 0x77)

/-- A write of TW_CMD.GO (R121, R124, R136). -/
def State.twGo (s : State) (n : Nat) : State :=
  let u := s.twOf n
  if ¬ s.twEn n ∨ ¬ s.twCtl n ∨ ¬ s.twNames n then s.raise F.TW_STATUS_CMDREF n
  else if s.twStuck n then s.twStuckGo n
  else if u.pend then s.bump F.TW_CNT_CMDLOST n
  else if u.mayStart then s.twStart n
  else s.setTw n { u with pend := true }

/-- TW_TRANSACTION_START (R124, R132): a pending transaction starts on an idle port and a free bus, after any roll-call
due. -/
def execTwTransactionStart (n : Fin 8) (s : State) : Host.Outcome State Fault Refusal :=
  let u := s.twOf n
  .next (if s.twEn n ∧ ¬ s.twStuck n ∧ u.pend ∧ u.mayStart then s.twStart n else s)

/-- TW_TRANSACTION_END (R122, R123, R140): the transaction ends with STOP, complete with the bytes read, or after the NACK
of byte k of its message. Nothing where no transaction runs, on a STUCK port (R136), or where byte k is none that a target
acknowledges. -/
def execTwTransactionEnd (n : Fin 8) (nack : Option (Fin 67)) (rx : List Byte) (s : State) : Host.Outcome State Fault Refusal :=
  let u := s.twOf n
  match u.xact with
  | none => .next s
  | some x =>
    if x.wait ∨ s.twStuck n then .next s
    else match nack with
      | none =>
        let data := (rx ++ List.replicate x.rlen 0).take x.rlen
        let s := s.emit (.twMsg n (twToks (x.parts data) ++ [.stop]))
        .next ((s.setTw n (u.stopped s.lt40)).twEnd n x 0 data)
      | some k =>
        let kd := x.byteKind k
        if kd = 0 then .next s
        else
          let s := (s.setFld F.TW_XSTAT_BYTEI n k).setFld F.TW_XSTAT_BITI n 8
          let s := s.emit (.twMsg n (x.nacked k))
          .next ((s.setTw n (u.stopped s.lt40)).twEnd n x kd [])

/-- The level that the port sends in a bit of its roll-call (R125, R130): byte 0x07, and the NACK of the answer. -/
def rollSends (k bt : Nat) : Option Bool :=
  if k = 0 ∧ bt < 8 then some ((0x07 : Nat).testBit bt) else if k = 1 ∧ bt = 8 then some true else none

/-- A loss is recorded: its byte and bit, and in ARBL (R125, R126). -/
def State.twLoss (s : State) (n k bt : Nat) : State :=
  ((s.setFld F.TW_XSTAT_BYTEI n k).setFld F.TW_XSTAT_BITI n bt).bump F.TW_CNT_ARBL n

/-- The port releases SDA after a loss in bit bt of byte k, where it was sending `own`; lost within the first byte, its target logic
follows the winner's message in ROLE 2 (R126, R127). -/
def TwUnit.lose (u : TwUnit) (tgt : Bool) (own : Byte) (k bt : Nat) : TwUnit :=
  { u with follows := tgt && k == 0, lostAt := if k = 0 then some (own, bt) else none }

/-- TW_ARBITRATION_LOSS (R125-R127): the port loses arbitration at a bit in which it sends 1, and waits for the bus; a roll-call is
due again (notes/assumptions/199.md). Nothing at a bit that it sends as 0, or in which it sends nothing. -/
def execTwArbitrationLoss (n : Fin 8) (byte : Fin 67) (bt : Fin 9) (s : State) : Host.Outcome State Fault Refusal :=
  let u := s.twOf n
  match u.xact, u.roll with
  | some x, _ =>
    if x.wait ∨ x.sends byte bt ≠ some true then .next s
    else
      let u := u.lose (s.twTgt n) ((x.head ++ x.again).headD 0) byte bt
      let s := s.emit (.twMsg n (twToks ((x.parts []).take byte)))
      .next ((s.setTw n { u with xact := some { x with wait := true, losses := x.losses + 1 } }).twLoss n byte bt)
  | none, some ms =>
    if rollSends byte bt ≠ some true then .next s
    else .next ((s.setTw n { u.lose (s.twTgt n) 0x07 byte bt with roll := none, rollDue := some ms }).twLoss n byte bt)
  | none, none => .next s

/-- TW_ARBITRATION_RETRY (R126): the transaction starts again once the bus is free, or ends with status 3 when its retries
are used up; nothing on a STUCK port (R136). -/
def execTwArbitrationRetry (n : Fin 8) (s : State) : Host.Outcome State Fault Refusal :=
  let u := s.twOf n
  match u.xact with
  | none => .next s
  | some x =>
    if ¬ x.wait ∨ s.twStuck n then .next s
    else if x.losses > x.retry then .next (s.twEnd n x 3 [])
    else if ¬ u.open_ ∨ u.clear then .next s
    else .next (s.setTw n { u with busy := true, free := false, start := s.twMs n, follows := false, lostAt := none,
                                   xact := some { x with wait := false, start := s.twMs n } })

/-! ### The bus and in-band requests (R120, R128-R133) -/

/-- TW_BUS_FREE (R120, R133): tBUF has passed after a STOP, a request, or the enable with both lines high; the bus is free, and a
request of the port that waits holds SDA low. Nothing before, during a message, or while the port itself holds the bus. -/
def execTwBusFree (n : Fin 8) (s : State) : Host.Outcome State Fault Refusal :=
  let u := s.twOf n
  if ¬ s.twEn n ∨ u.busy ∨ u.talks ∨ s.lt40 < u.quiet + s.twBuf n then .next s
  else .next (s.setTw n { u with free := true, sdaLow := false, sclLow := false,
                                 req := if u.req = .waiting ∧ ¬ s.twStuck n then .holding else u.req })

/-- IN_BAND_REQUEST (R128, R130, R131): on a free bus SDA rises after it was low for d CK_TWB cycles with SCL high: spurious
under 100 cycles, a request up to 1 000, after which a roll-call waits for tBUF; a longer low period is a hang that ends. -/
def execInBandRequest (n : Fin 8) (d : Nat) (s : State) : Host.Outcome State Fault Refusal :=
  let u := s.twOf n
  if ¬ s.twEn n ∨ ¬ u.free then .next s
  else if d > 1000 then .next (s.setTw n { u with sdaLow := false })
  else if d < 100 then .next (s.bump F.TW_IBR_SPUR n)
  else
    let ms := (s.twStamp n - d * twCyc) / 2 ^ 32
    let s := s.bump F.TW_IBR_REQN n
    if s.act F.TW_CFG_IBREN n = 1 ∧ s.twCtl n ∧ ¬ s.twStuck n then
      .next (s.setTw n { u.stopped s.lt40 with rollDue := some ms })
    else .next s

/-- TW_HANG (R128): SDA has stayed low for over 20 µs on a free bus. -/
def execTwHang (n : Fin 8) (s : State) : Host.Outcome State Fault Refusal :=
  let u := s.twOf n
  if ¬ s.twEn n ∨ ¬ u.free then .next s
  else .next ((((s.setTw n { u with sdaLow := true }).raise F.TW_STATUS_HANG n).bump F.TW_IBR_HANGN n).twBusEvent n 0)

/-- ROLL_CALL (R130, R132): the roll-call due starts on the free bus. -/
def execRollCall (n : Fin 8) (s : State) : Host.Outcome State Fault Refusal :=
  let u := s.twOf n
  .next (if s.twEn n ∧ u.rollDue.isSome ∧ u.open_ ∧ ¬ u.talks ∧ ¬ s.twStuck n then
    s.setTw n { u with rollDue := none, roll := u.rollDue, busy := true, free := false, start := s.twMs n,
                       follows := false, lostAt := none } else s)

/-- The address with which a port that has requested answers a roll-call (R133): its own, of 7 bits; a port with a 10-bit address
does not answer (R130). -/
def State.twAnswer (s : State) (n : Nat) : Option Nat :=
  if (s.twOf n).req = .released ∧ s.twTgt n ∧ ¬ s.twStuck n ∧ ¬ s.actB F.TW_CFG_OWN10 n then some (s.act F.TW_CFG_OWNADDR n)
  else none

/-- The port's own request after a roll-call in which `other` was the lowest address of the others (R130, R133): the lowest address
wins, and the port that wins stops; one that loses requests again. -/
def State.twAnswered (s : State) (n : Nat) (other : Option Nat) : TwReq :=
  match s.twAnswer n with
  | none => (s.twOf n).req
  | some a => if other.all (a ≤ ·) then .none else .waiting

/-- The lowest answer to a roll-call. -/
def lowestAns : Option Nat → Option Nat → Option Nat
  | some a, some b => some (min a b)
  | some a, none => some a
  | none, b => b

/-- The message of a roll-call with its answer, or the NACK of 0x07 (R130). -/
def rollToks (a : Option Nat) : List TwTok :=
  match a with
  | some a => [.start, .byte 0x07 true, .byte (BitVec.ofNat 8 (a * 2)) false, .stop]
  | none => [.start, .byte 0x07 false, .stop]

/-- ROLL_CALL_END (R130, R133, R140): the roll-call ends, `winner` being the lowest address that another requester answers; the port's
own answer takes part where it has requested. Without an answer 0x07 receives NACK. -/
def execRollCallEnd (n : Fin 8) (winner : Option (Fin 128)) (s : State) : Host.Outcome State Fault Refusal :=
  let u := s.twOf n
  match u.roll with
  | none => .next s
  | some ms =>
    let other := winner.map Fin.val
    let ans := lowestAns (s.twAnswer n) other
    let s := (s.setTw n { u.stopped s.lt40 with roll := none, req := s.twAnswered n other }).emit (.twMsg n (rollToks ans))
    match ans with
    | some a => .next (s.twRecord n 3 0 ms false a [])
    | none => .next ((s.bump F.TW_IBR_NOANS n).twRecord n 4 0 ms false 0 [])

/-- A write of TW_CMD.REQ (R133, R135): the request waits for a free bus, and holds SDA low there at once. -/
def State.twReq (s : State) (n : Nat) : State :=
  let u := s.twOf n
  if ¬ s.twTgt n then s.raise F.TW_STATUS_CMDREF n
  else if ¬ s.twEn n then s
  else s.setTw n { u with req := if u.free ∧ ¬ u.sdaLow ∧ ¬ s.twStuck n then .holding else .waiting }

/-- TW_REQUEST_RELEASE (R133): after 5 µs the port releases SDA. -/
def execTwRequestRelease (n : Fin 8) (s : State) : Host.Outcome State Fault Refusal :=
  let u := s.twOf n
  .next (if u.req = .holding then s.setTw n { u with req := .released } else s)

/-- MESSAGE_OF_ANOTHER_CONTROLLER (R120, R128, R129, R133): its START makes the bus busy, and a request that the port is raising is
raised again; in a roll-call a port that has requested answers; its STOP ends the message. Nothing while the port sends a message of its own. -/
def execMessageOfAnotherController (n : Fin 8) (m : TwMsg) (s : State) : Host.Outcome State Fault Refusal :=
  let u := s.twOf n
  if ¬ s.twEn n ∨ u.talks then .next s
  else match m with
    | .start =>
      .next (s.setTw n { u with busy := true, free := false, start := s.twMs n, follows := true, lostAt := none,
                                req := if u.req = .holding then .waiting else u.req })
    | .roll other =>
      if ¬ u.busy ∨ ¬ u.follows then .next s
      else match s.twAnswer n with
        | none => .next s
        | some a =>
          .next ((s.setTw n { u with req := s.twAnswered n (other.map Fin.val) }).emit
            (.twMsg n [.byte 0x07 true, .byte (BitVec.ofNat 8 (a * 2)) false]))
    | .stop => .next (if u.busy then s.setTw n (u.stopped s.lt40) else s)

/-! ### Timeouts and bus clear (R134-R138) -/

/-- SCL_LOW_TIMEOUT (R134): SCL has been low for SCLTO ms; a transaction of the port ends with status 4. -/
def execSclLowTimeout (n : Fin 8) (s : State) : Host.Outcome State Fault Refusal :=
  if ¬ s.twEn n then .next s
  else
    let s := s.setTw n { s.twOf n with sclLow := true, free := false, roll := none }
    let s := (s.raise F.TW_STATUS_SCLLTO n).twBusEvent n 1
    match (s.twOf n).xact with
    | some x => .next (s.twEnd n x 4 [])
    | none => .next s

/-- SDA_LOW_TIMEOUT (R134): SDA has been low for SDATO ms on an otherwise free bus, on which no message runs; a bus clear starts where
AUTOCLR is 1. -/
def execSdaLowTimeout (n : Fin 8) (s : State) : Host.Outcome State Fault Refusal :=
  let u := s.twOf n
  if ¬ s.twEn n ∨ u.busy ∨ u.talks then .next s
  else
    let s := s.setTw n { u with sdaLow := true }
    let s := (s.raise F.TW_STATUS_SDALTO n).twBusEvent n 2
    if s.actB F.TW_TO_AUTOCLR n ∧ s.twCtl n ∧ ¬ s.twStuck n then .next (s.setTw n (s.twOf n).startClear) else .next s

/-- A write of TW_CMD.CLEAR (R135, R136). -/
def State.twClear (s : State) (n : Nat) : State :=
  let u := s.twOf n
  if ¬ s.twCtl n then s.raise F.TW_STATUS_CMDREF n
  else if ¬ s.twEn n ∨ s.twStuck n then s
  else if u.xact.isSome then s.setTw n { u with clearWait := true }
  else s.setTw n u.startClear

/-- The pin that the port pulses for power, where R136 and R249 let it: named, with the two-wire function, of the same
Quarter, and named by no lower-numbered enabled port. -/
def State.twPwrPin (s : State) (n : Nat) : Option Nat :=
  let p := s.act F.TW_CLR_PWRPIN n
  if p < 96 ∧ s.act F.GP_CFG_FUNC p = 3 ∧ s.ownerOf .pin p = s.ownerOf .twoWire n
      ∧ ((List.range n).all fun m => !(s.twEn m && s.act F.TW_CLR_PWRPIN m == p)) then some p else none

/-- BUS_CLEAR_END (R135, R136): the clear ends with STOP, or with SDA still low after the ninth pulse; then the port is STUCK
and may pulse its power pin once; a transaction that waits, and a pending one, end with status 5. -/
def execBusClearEnd (n : Fin 8) (ok : Bool) (s : State) : Host.Outcome State Fault Refusal :=
  let u := s.twOf n
  if ¬ u.clear then .next s
  else if ok then
    .next ((((s.setTw n { u.stopped s.lt40 with clear := false, sdaLow := false }).emit (.twMsg n [.stop])).raise
      F.TW_STATUS_CLRD n).twBusEvent n 3)
  else
    let pwr := s.actB F.TW_CLR_AUTOPWR n && (s.twPwrPin n).isSome && !u.further
    let s := s.setTw n { u with clear := false, sdaLow := true, pend := false, rollDue := none,
                                pwr := if pwr then .pulse else .off }
    let s := (s.raise F.TW_STATUS_STUCK n).twBusEvent n 4
    let s := match u.xact with
      | some x => s.twEnd n x 5 []
      | none => s
    .next (if u.pend then s.twStuckGo n else s)

/-- POWER_PULSE_END (R136): after PWRT ms the port releases the power pin. -/
def execPowerPulseEnd (n : Fin 8) (s : State) : Host.Outcome State Fault Refusal :=
  let u := s.twOf n
  .next (if u.pwr = .pulse then s.setTw n { u with pwr := .wait } else s)

/-- POWER_WAIT_END (R136): after PWRWAIT ms one further bus clear runs. -/
def execPowerWaitEnd (n : Fin 8) (s : State) : Host.Outcome State Fault Refusal :=
  let u := s.twOf n
  .next (if u.pwr = .wait then s.setTw n { u with pwr := .off, further := true, clear := true } else s)

/-- The port stops: it releases both lines and a transaction ends with status 6 (R137); STUCK clears (R138). -/
def State.twStop (s : State) (n : Nat) : State :=
  let s := match (s.twOf n).xact with
    | some x => s.twEnd n x 6 []
    | none => s
  (s.setTw n {}).setFld F.TW_STATUS_STUCK n 0

/-- The line check of a port that becomes enabled (R138): with SDA low and SCL high a bus clear runs at once. What the lines are is a
free value, for no command says it (notes/assumptions/70.md); tBUF counts from here. -/
def State.twEnable (s : State) (n : Nat) : State :=
  let (s, f) := s.fresh
  let u := { s.twOf n with sdaLow := f.getLsbD 0, sclLow := f.getLsbD 1, quiet := s.lt40 }
  s.setTw n (if u.sdaLow ∧ ¬ u.sclLow ∧ s.twCtl n then u.startClear else u)

/-- A write of TW_CMD.PRST (R138). -/
def State.twPrst (s : State) (n : Nat) : State := if s.twEn n then (s.twStop n).twEnable n else s

/-- A write of TW_CMD.UNREQ (R133). -/
def State.twUnreq (s : State) (n : Nat) : State := s.setTw n { s.twOf n with req := .none }

/-- A write of TW_CMD, its bits from PRST downwards (R142). -/
def State.twCmd (s : State) (n : Nat) (w : Word) : State :=
  let v := w.toNat
  let s := if bit v 2 then s.twPrst n else s
  let s := if bit v 4 then s.twUnreq n else s
  let s := if bit v 3 then s.twReq n else s
  let s := if bit v 1 then s.twClear n else s
  if bit v 0 then s.twGo n else s

/-! ### Target role (R127, R139) -/

/-- The START stamp of a message to the port: that of the message on the bus. -/
def State.twMsgStart (s : State) (n : Nat) : Nat := if (s.twOf n).busy then (s.twOf n).start else s.twMs n

/-- The first byte of a message to the port's own address (R121, R139). -/
def State.twOwnByte (s : State) (n : Nat) (rd : Bool) : Byte :=
  let a10 := s.actB F.TW_CFG_OWN10 n
  (twAddr a10 (s.act F.TW_CFG_OWNADDR n) (rd && !a10)).headD 0

/-- The target logic of port n serves a message to its address (R127, R135, R139): one that it follows, or that the command brings
whole; after a loss in the first address byte, only where the winner's bits as seen are its address's. -/
def State.twServes (s : State) (n : Nat) (rd : Bool) : Bool :=
  let u := s.twOf n
  s.twEn n && s.twTgt n && !s.twStuck n && !u.talks && (!u.busy || (u.follows && match u.lostAt with
    | none => true
    | some (own, bt) => (s.twOwnByte n rd).toNat / 2 ^ bt + 1 == own.toNat / 2 ^ bt))

/-- TW_TARGET_WRITE (R139, R140): a write to the port's own address, delivered with up to 32 bytes, and with status 2 where
a 33rd was sent, which receives NACK. -/
def execTwTargetWrite (n : Fin 8) (data : List Byte) (s : State) : Host.Outcome State Fault Refusal :=
  if ¬ s.twServes n false then .next s
  else
    let ms := s.twMsgStart n
    let a10 := s.actB F.TW_CFG_OWN10 n
    let own := s.act F.TW_CFG_OWNADDR n
    let s := s.setTw n ((s.twOf n).stopped s.lt40)
    let s := s.emit (.twMsg n (.start :: (twAddr a10 own false).map (.byte · true) ++
      (data.take 33).zipIdx.map (fun e => .byte e.1 (decide (e.2 < 32))) ++ [.stop]))
    .next (s.twRecord n 1 (if data.length > 32 then 2 else 0) ms a10 own (data.take 32))

/-- TW_TARGET_READ (R139, R140): a read of k bytes at the port's own address, served from the armed reply and then with
0xFF; ARM clears at its STOP. -/
def execTwTargetRead (n : Fin 8) (k : Fin 256) (s : State) : Host.Outcome State Fault Refusal :=
  if ¬ s.twServes n true then .next s
  else
    let armed := s.flag F.TW_TGT_ARM n
    let ms := s.twMsgStart n
    let a10 := s.actB F.TW_CFG_OWN10 n
    let own := s.act F.TW_CFG_OWNADDR n
    let (s, have_) := s.twBytes .TW_TGTBUF n (if armed then min k.val (s.fld F.TW_TGT_TLEN n) else 0)
    let data := (have_ ++ List.replicate k 0xFF).take k
    let s := s.setTw n ((s.twOf n).stopped s.lt40)
    let s := s.emit (.twMsg n (.start :: (if a10 then (twAddr true own false).map (.byte · true) ++ [.start] else []) ++
      ((twAddr a10 own true).take 1).map (.byte · true) ++ data.zipIdx.map (fun e => .byte e.1 (e.2 + 1 != data.length)) ++ [.stop]))
    let s := s.setFld F.TW_TGT_ARM n 0
    let s := if armed then s else s.bump F.TW_CNT_NOREPLY n
    .next (s.twRecord n 2 0 ms a10 own data)

/-- What a tick does to port n (R137, R138): a port disabled at it stops, one enabled at it checks the lines. -/
def State.twTick (s : State) (old : Tab Word) (n : Nat) : State :=
  let was := F.TW_CFG_EN.of old n == 1
  let en := s.twEn n
  if was && !en then s.twStop n
  else if en && !was then s.twEnable n
  else s

end Sys2Proof.Machine
end

