-- ==== Sys2Proof/Machine/Pads.lean ====
section
/-! DEFINITION. What drives each GP pad (11_lamplighters, R249, R250; 19_power_modes, R455, R457). -/

namespace Sys2Proof.Machine

/-- A pad at high impedance; 0 and 1 are the driven levels. -/
def padZ : Nat := 2

/-- The level of a bit. -/
def padOf (b : Bool) : Nat := if b then 1 else 0

/-- The lowest-numbered of n units that p selects. -/
def lowest (n : Nat) (p : Nat → Bool) : Option Nat := (List.range n).find? p

/-- What the function of GPn puts on its pad, before OD (R240, R215, R136, R249). A unit of another Quarter drives
nothing. -/
def State.padFunc (s : State) (n : Nat) : Nat :=
  match s.act F.GP_CFG_FUNC n with
  | 0 => if bit (s.reg .GP_OE (n / 32)).toNat (n % 32) then padOf (s.gpOut n) else padZ
  | 1 =>
    match lowest 16 fun m => s.actB F.LL_CFG_EN m && s.llPin m == some n with
    | some m =>
      if s.ownerOf .lamplighter m = s.ownerOf .pin n then padOf ((s.llOf m).run.isSome != s.actB F.LL_CFG_POL m) else padZ
    | none => padZ
  | 2 =>
    match lowest 128 fun c => s.actB F.XC_CFG_EN c && s.xPin c == some n with
    | some c => if s.xPinOk c n then padOf ((s.cellOf c).q != (s.act F.XC_ACT_PMODE c == 2)) else padZ
    | none => padZ
  | 3 =>
    match lowest 8 fun m => s.twEn m && s.act F.TW_CLR_PWRPIN m == n with
    | some m =>
      if s.twPwrPin m = some n then padOf (((s.twOf m).pwr == .pulse) == s.actB F.TW_CLR_PWRPOL m) else padZ
    | none => padZ
  | _ => padZ

/-- What the pad of GPn drives: the safe-value latch in SAFE (R455), the AON pad latch while PD_FIELD is unpowered (R457),
else its function, low or nothing with OD (R250). -/
def State.pad (s : State) (n : Nat) : Nat :=
  if s.mode ≤ 1 then padZ
  else if s.pm.safeOn then ((s.pm.safe.find? fun p => p.1 == n).map (·.2)).getD padZ
  else if ¬ s.powered pdField then ((s.pm.padLatch.find? fun p => p.1 == n).map (·.2)).getD padZ
  else
    let v := s.padFunc n
    if s.actB F.GP_CFG_OD n ∧ v = 1 then padZ else v

/-- The pads hold what they drive as PD_FIELD is isolated (R457). -/
def State.latchPads (s : State) : State :=
  { s with pm := { s.pm with padLatch := ((List.range 96).map fun n => (n, s.pad n)).filter fun p => p.2 != padZ } }

end Sys2Proof.Machine
end

