-- ==== Sys2Proof/Machine/FieldPorts.lean ====
section
/-! DEFINITION. The field ports (05_field_ports): launches, frames, target replies and what a tick does to a port. -/

namespace Sys2Proof.Machine

/-- Port n is enabled with the active configuration. -/
def State.fpEn (s : State) (n : Nat) : Bool := s.actB F.FP_CFG_EN n
/-- Port n is a target. -/
def State.fpTarget (s : State) (n : Nat) : Bool := s.act F.FP_CFG_ROLE n == 1
/-- Port n is an enabled controller. -/
def State.fpCtl (s : State) (n : Nat) : Bool := s.fpEn n && s.act F.FP_CFG_ROLE n == 0
/-- The word length W of port n. -/
def State.fpW (s : State) (n : Nat) : Nat := s.act F.FP_CFG_WLEN n + 1
/-- The frame length F of port n in words. -/
def State.fpF (s : State) (n : Nat) : Nat := s.act F.FP_CFG_FLEN n + 1

/-- The select pin of port n, where it has one. -/
def State.fpPin (s : State) (n : Nat) : Option Nat :=
  let p := s.act F.FP_SEL_SELPIN n
  if p < 96 then some p else none

/-- The active level of the select of port n. -/
def State.fpPol (s : State) (n : Nat) : Bool := s.actB F.FP_SEL_SELPOL n

/-- The select pin of port n is at its active level as its input path sees it (R101). -/
def State.fpSelected (s : State) (n : Nat) : Bool :=
  match s.fpPin n with
  | some p => (s.pinOf p).lvl == s.fpPol n
  | none => false

/-- The ball of the select pin of port n is at its active level (R107). -/
def State.fpBall (s : State) (n : Nat) : Bool :=
  match s.fpPin n with
  | some p => (s.pinOf p).ball == s.fpPol n
  | none => false

/-! ### The bit clock and the waveform (R89-R92) -/

/-- The bit period T of port n in ns (R90). -/
def State.fpT (s : State) (n : Nat) : Nat := 10 * s.act F.FP_CLK_DIVK n

/-- The end E = L + F × W × T of a frame of port n, in 2^-40 ns (R92). -/
def State.fpE (s : State) (n : Nat) (fr : FpFrame) : Nat := fr.at_ + s.fpF n * s.fpW n * s.fpT n * 2 ^ 40

/-- The idle level of SCK in a clock mode (R91). -/
def sckIdle (cmode : Nat) : Bool := decide (2 ≤ cmode)

/-- SCK of a frame of k bits at the time x after L, with bit period t (R91): the leading edge of a bit stands at its start in modes
1 and 3 and in its middle in modes 0 and 2, the trailing edge half a period later. -/
def sckLevel (cmode k t x : Nat) : Bool :=
  if x < k * t then sckIdle cmode != (decide (2 * (x % t) < t) == (cmode % 2 == 1)) else sckIdle cmode

/-- SDO of a frame at the time x after L, with bit period t: bit i from L + i × T on (R91), FILL from E on (R92). -/
def sdoLevel (fill : Bool) (bits : List Bool) (t x : Nat) : Bool := bits.getD (x / max 1 t) fill

/-- The time after L at which a controller samples SDI for bit i: RXDLY CK_FIELD cycles after the sampling edge of R91, which stands
in the middle of the bit period in every mode (R92). In ns. -/
def sampleAt (divk rxdly i : Nat) : Nat := i * (10 * divk) + 5 * divk + 5 * rxdly

/-- The bits of a word of w bits in the order in which they are sent (R89). -/
def wordBits (lsbf : Bool) (w : Nat) (v : Word) : List Bool :=
  let l := (List.range w).map v.getLsbD
  if lsbf then l else l.reverse

/-- The bits that words put on SDO of port n. -/
def State.fpBits (s : State) (n : Nat) (ws : List Word) : List Bool :=
  ws.flatMap (wordBits (s.actB F.FP_CFG_LSBF n) (s.fpW n))

/-- The level of FPn_SCK of an enabled or disabled controller port now (R91, R92, R115). -/
def State.fpSck (s : State) (n : Nat) : Bool :=
  let m := s.act F.FP_CFG_CMODE n
  match (s.fpOf n).frame with
  | some fr => sckLevel m (s.fpF n * s.fpW n) (s.fpT n * 2 ^ 40) (s.lt40 - fr.at_)
  | none => sckIdle m

/-- The level of FPn_SDO of a controller port now; none where it is high impedance (R91, R92, R115). -/
def State.fpSdo (s : State) (n : Nat) : Option Bool :=
  if ¬ s.fpCtl n then none
  else match (s.fpOf n).frame with
    | some fr => some (sdoLevel (s.actB F.FP_RPL_FILL n) (s.fpBits n fr.sent) (s.fpT n * 2 ^ 40) (s.lt40 - fr.at_))
    | none => some (s.actB F.FP_RPL_FILL n)

/-! ### Loading and receiving -/

/-- Words j of a transmitted frame or reply in the given order, their low W bits as the port reads them from its buffer;
words 192 to 255 are FILL bits (R93). -/
def State.fpTxWords (s : State) (n : Nat) (l : List Nat) : State × List Word :=
  let fill := w32 (if s.actB F.FP_RPL_FILL n then maxOf (s.fpW n) else 0)
  let (s, ws) := s.portWords .FP_TXBUF ((l.filter (· < 192)).map (192 * n + ·))
  (s, ws.map (fun w => w32 (w.toNat % 2 ^ s.fpW n)) ++ (l.filter (192 ≤ ·)).map fun _ => fill)

/-- The words of the frame in progress that the shift register has loaded by an instant of LT (2^-40 ns): word 0 at L, word
j + 1 at the start of the last bit of word j (R93). The time since L is taken as LT shows it (notes/assumptions/10.md). -/
def State.fpLoaded (s : State) (n start now : Nat) : Nat :=
  let w := s.fpW n
  let bitsDone := (now - start) / max 1 (s.fpT n * 2 ^ 40)
  min (s.fpF n) ((bitsDone + 1) / w + 1)

/-- Takes the words of an armed reply up to k from the transmit buffer into the select period (R93, R111). -/
def State.fpLoadSel (s : State) (n : Nat) (p : FpSel) (k : Nat) : State × FpSel :=
  let (s, more) := s.fpTxWords n ((List.range (min k (s.fpF n))).drop p.sent.length)
  (s, { p with sent := p.sent ++ more })

/-- Takes the words that have been loaded by now from the transmit buffer into the frame, or into the reply of the select period.
How far an outside clock has come within a select period is a free value (notes/assumptions/10.md). -/
def State.fpLoad (s : State) (n : Nat) : State :=
  let u := s.fpOf n
  match u.frame, u.sel with
  | some fr, _ =>
    let k := s.fpLoaded n fr.at_ s.lt40
    let (s, more) := s.fpTxWords n ((List.range k).drop fr.sent.length)
    s.setFp n { u with frame := some { fr with sent := fr.sent ++ more } }
  | none, some p =>
    if p.reply = .armed ∧ p.sent.length < s.fpF n then
      let (s, k) := s.fresh
      let (s, p) := s.fpLoadSel n p (1 + k.toNat % s.fpF n)
      s.setFp n { u with sel := some p }
    else s
  | none, none => s

/-- A bit sequence of one word as a number, in the order of R89. -/
def bitsToNat (lsbf : Bool) (bs : List Bool) : Nat :=
  (if lsbf then bs.reverse else bs).foldl (fun a b => 2 * a + (if b then 1 else 0)) 0

/-- Cuts a bit sequence into words of w bits; bits that the sender did not give are 0. -/
def chunkWords (lsbf : Bool) (w : Nat) : Nat → List Bool → List Nat
  | 0, _ => []
  | k + 1, bs =>
    let h := bs.take w
    bitsToNat lsbf (h ++ List.replicate (w - h.length) false) :: chunkWords lsbf w k (bs.drop w)

/-- The payload of a frame packet: each word right-justified, zero- or sign-extended (R104). -/
def State.fpItems (s : State) (n k : Nat) (bs : List Bool) : List Word :=
  let w := s.fpW n
  (chunkWords (s.actB F.FP_CFG_LSBF n) w k bs).map fun v =>
    if s.actB F.FP_CFG_SXT n then BitVec.ofInt 32 (sext v w) else w32 v

/-- Presents a frame packet, or discards it where two packets of the port still wait (R104, R106). -/
def State.fpDeliver (s : State) (n ms : Nat) (items : List Word) : State :=
  if (s.presented.filter fun p => p.typ == 1 && p.idx == n).length ≥ 2 then s.bump F.FP_DROP_DROPN n
  else s.present { typ := 1, idx := n, ms := ms, payload := items }

/-! ### Launches (R94-R103) -/

/-- The port starts a frame at launch edge l in 2^-40 ns (R96, R101, R103): abandoned where the select check fails. -/
def State.fpStart (s : State) (n : Nat) (entry : Option Nat) (l : Nat) : State :=
  if s.actB F.FP_SEL_SELCHK n ∧ ¬ s.fpSelected n then s.bump F.FP_ERR_NOSEL n
  else
    let u := s.fpOf n
    let (s, w0) := s.fpTxWords n [0]
    s.setFp n { u with frame := some { at_ := l, entry := entry, sent := w0 },
                       hist := (l / 2 ^ 32 :: u.hist).take 4, launched := u.launched + 1 }

/-- The nominal instant of launch entry i of port n in this tick, in 2^-40 ns (R94). -/
def State.fpNominal (s : State) (n i : Nat) : Nat := (s.ct.tickNom + 5 * s.act F.FP_LAUNCH_OFS5 (8 * n + i)) * 2 ^ 40

/-- Entry i of port n launches in this tick: enabled, and its offset below P (R94, R97). -/
def State.fpEntry (s : State) (n i : Nat) : Bool :=
  s.actB F.FP_LAUNCH_EN (8 * n + i) && decide (5 * s.act F.FP_LAUNCH_OFS5 (8 * n + i) < s.tickPeriod)

/-- The launch edge of entry i of port n, whose nominal instant LT has reached (R94, R95): the first CK_FIELD edge at which LT was
not below it, counted back from the present one in CK_FIELD cycles of the present length. -/
def State.fpEdge (s : State) (n i : Nat) : Nat :=
  let x := s.fieldEdge
  let cyc := 5 * wrap ((s.ckStep.lt40 : Int) - s.lt40) 104 / 4
  x - (x - s.fpNominal n i) / max 1 cyc * cyc

/-- The frame in progress on port n has not reached its end at an instant (R97). -/
def State.fpBusyAt (s : State) (n l : Nat) : Bool :=
  match (s.fpOf n).frame with
  | some fr => decide (l < s.fpE n fr)
  | none => false

/-- Entry i of port n has its launch in this tick (R94, R97): a frame starts at its edge, unless the port is busy at that edge or LT
had reached the nominal instant before the tick. -/
def State.fpLaunchOne (s : State) (n i : Nat) : State :=
  let l := s.fpEdge n i
  let busy := s.fpBusyAt n l
  let late := decide (s.fpNominal n i ≤ s.ct.tickPrev)
  let u := s.fpOf n
  if ¬ busy ∧ u.frame.isSome ∧ ¬ late then s
  else
    let s := s.setFp n { u with done := i :: u.done }
    if busy ∨ late then (s.bump F.FP_ERR_SKIPN n).raise F.FP_STATUS_SKIP n
    else s.fpStart n (some i) l

/-- Entry i of port n is due by an instant in 2^-40 ns and has not had its launch in this tick. -/
def State.fpDue (s : State) (n x i : Nat) : Bool :=
  s.fpEntry n i && !(s.fpOf n).done.contains i && decide (s.fpNominal n i ≤ x)

/-- The entries of port n that are due by an instant, the earliest first and of one instant the lowest index first (R97). -/
def State.fpDueList (s : State) (n x : Nat) : List Nat :=
  (((List.range 8).filter (s.fpDue n x)).map fun i => s.act F.FP_LAUNCH_OFS5 (8 * n + i) * 8 + i).foldr
    (fun k l => l.takeWhile (· < k) ++ k :: l.dropWhile (· < k)) [] |>.map (· % 8)

/-- Every launch of port n that is due by an instant, in order. -/
def State.fpLaunches (s : State) (n x : Nat) : State := (s.fpDueList n x).foldl (fun s i => s.fpLaunchOne n i) s

/-- FP_LAUNCH (R94-R97, R101): entry i of port n reaches its instant; the entries that come before it, or stand before it on the
same edge, have their launches first. An entry of the same edge still launches where the one before it was abandoned under R101
(notes/assumptions/188.md). Nothing before the edge, where the entry has had its launch in this tick, or while the bits of a frame that has
reached its end are still to come. -/
def execFpLaunch (n : Fin 32) (i : Fin 8) (s : State) : Host.Outcome State Fault Refusal :=
  if s.timeRuns ∧ s.fpCtl n ∧ s.fpDue n s.fieldEdge i then .next (s.fpLaunches n (s.fpNominal n i)) else .next s

/-- A command launch at the first CK_FIELD edge, at which the scheduled launches of the port come first (R99): the frame starts
where the port is idle at that edge, else the command is pending. -/
def State.fpCommand (s : State) (n : Nat) : State :=
  let x := s.fieldEdge
  let s := s.fpLaunches n x
  let u := s.fpOf n
  if u.frame.isSome then s.setFp n { u with pend := true }
  else (s.setFp n { u with pend := false }).fpStart n none x

/-- FP_PENDING_LAUNCH (R99): the pending command launch starts at an edge at which the port is idle and no scheduled launch falls. -/
def execFpPendingLaunch (n : Fin 32) (s : State) : Host.Outcome State Fault Refusal :=
  .next (if s.timeRuns ∧ s.fpCtl n ∧ (s.fpOf n).pend then s.fpCommand n else s)

/-- The frame that entry e launched is the one after which SELREL = 2 releases the select (R100): every enabled entry counts for the
greatest OFS5, one whose offset is not below P too (notes/assumptions/189.md). -/
def State.fpLastEntry (s : State) (n : Nat) (e : Option Nat) : Bool :=
  match e with
  | none => false
  | some e => (List.range 8).all fun i =>
      !s.actB F.FP_LAUNCH_EN (8 * n + i) || decide (s.act F.FP_LAUNCH_OFS5 (8 * n + i) ≤ s.act F.FP_LAUNCH_OFS5 (8 * n + e))

/-- FP_FRAME_END (R92, R103, R104): the frame in progress has reached its end E, with the bits sampled on SDI in order; its words
become a packet with the Milestone of launched frame n - r, or are discarded as a first frame of the history; a release of the
select is due TRAIL × 5 ns after E (R100). Nothing before E. -/
def execFpFrameEnd (n : Fin 32) (rx : List Bool) (s : State) : Host.Outcome State Fault Refusal :=
  let u := s.fpOf n
  match u.frame with
  | none => .next s
  | some fr =>
    let e := s.fpE n fr
    if ¬ s.timeRuns ∨ s.lt40 < e then .next s
    else
      let r := s.act F.FP_RPL_RPLOFS n
      let (s, rest) := s.fpTxWords n ((List.range (s.fpF n)).drop fr.sent.length)
      let s := s.emit (.fpFrame n fr.at_ (s.fpT n) (s.act F.FP_CFG_CMODE n) (s.fpBits n (fr.sent ++ rest)))
      let rel := s.act F.FP_SEL_SELREL n
      let due := rel == 1 || (rel == 2 && s.fpLastEntry n fr.entry)
      let s := s.setFp n { u with frame := none,
                                  rel := if due then u.rel ++ [e + 5 * s.act F.FP_SEL_TRAIL n * 2 ^ 40] else u.rel }
      if u.launched ≤ r then .next (s.bump F.FP_ERR_PRIME n)
      else .next (s.fpDeliver n (u.hist.getD r (fr.at_ / 2 ^ 32)) (s.fpItems n (s.fpF n) rx))

/-- FP_SELECT_RELEASE (R100): TRAIL × 5 ns after a frame's end the port sets its select pin to the inactive level; nothing before. -/
def execFpSelectRelease (n : Fin 32) (s : State) : Host.Outcome State Fault Refusal :=
  let u := s.fpOf n
  match u.rel with
  | [] => .next s
  | t :: rest =>
    if ¬ s.timeRuns ∨ s.lt40 < t then .next s
    else
      let s := s.setFp n { u with rel := rest }
      match s.fpPin n with
      | some p => .next (s.setGpOut p (!s.fpPol n))
      | none => .next s

/-- A write of FP_CMD (R99, R111). In controller mode a write with ARM is discarded; DISCARD acts before ARM, and on the reply too that
an empty select period would leave waiting. -/
def State.fpCmd (s : State) (n : Nat) (w : Word) : State :=
  let v := w.toNat
  if bit v 1 ∧ ¬ s.fpTarget n then s.raise F.FP_STATUS_CMDREF n
  else
    let u := s.fpOf n
    let s := if bit v 2 then s.setFp n { u with armed := none, sel := u.sel.map fun p => { p with tag := none } } else s
    let s := if bit v 1 then s.setFp n { s.fpOf n with armed := some (s.fld F.FP_TSTAT_TSEQ n) } else s
    if ¬ bit v 0 then s
    else if ¬ s.fpCtl n then s.raise F.FP_STATUS_CMDREF n
    else if (s.fpOf n).pend then s.bump F.FP_ERR_CMDLOST n
    else s.fpCommand n

/-! ### Target mode (R107-R112) -/

/-- The words of a reply that the port has as its select period starts: every word of a pattern, word 0 of the buffer. -/
def State.fpPat (s : State) (n : Nat) (r : FpReply) : State × List Word :=
  let pat (x : Reg) := List.replicate (s.fpF n) (w32 ((s.reg x n).toNat % 2 ^ s.fpW n))
  match r with
  | .reject => (s, pat .FP_REJPAT)
  | .idle => (s, pat .FP_IDLEPAT)
  | .armed => s.fpTxWords n [0]

/-- The reply that the port chooses as a select period starts (R111). -/
def State.fpChoose (s : State) (n : Nat) : FpReply :=
  let u := s.fpOf n
  if u.first then .idle
  else if u.lastRej then .reject
  else if u.armed = some (s.fld F.FP_TSTAT_TSEQ n) then .armed
  else .idle

/-- FP_SELECT_START (R107, R108, R111): the select of an enabled target has entered its active level, at interpolator phase p;
the Milestone is stamped, a reply is chosen and ARMED clears. Nothing while the pin is not at its active level. -/
def execFpSelectStart (n : Fin 32) (p : Fin 32) (s : State) : Host.Outcome State Fault Refusal :=
  let u := s.fpOf n
  if ¬ s.timeRuns ∨ ¬ s.fpEn n ∨ ¬ s.fpTarget n ∨ ¬ s.fpBall n ∨ u.sel.isSome then .next s
  else
    let ph := match s.fpPin n with
      | some g => if g < 16 then p.val else 0
      | none => 0
    let r := s.fpChoose n
    let late := !u.first && !u.lastRej && decide (r = .idle)
    let (s, ws) := s.fpPat n r
    let s := s.setFp n { u with armed := none,
                                sel := some { ms := s.stamp ph, reply := r, sent := ws, tag := u.armed, ignore := false } }
    .next (if late then s.bump F.FP_TCNT_LATERPL n else s)

/-- The bits that a select period of b bits has put on SDO (R110, R111): those of the reply's words, then FILL; word j + 1 of an
armed reply was loaded where the period reached the last bit of word j (R93). -/
def State.fpReplyBits (s : State) (n : Nat) (p : FpSel) (b : Nat) : State × List Bool :=
  let (s, p) := if p.reply = .armed then s.fpLoadSel n p (b / s.fpW n + 1) else (s, p)
  let bits := (s.fpBits n p.sent).take b
  (s, bits ++ List.replicate (b - bits.length) (s.actB F.FP_RPL_FILL n))

/-- FP_SELECT_END (R110): the select period ends, its pin having left the active level, after the given sampling edges; the frame is
accepted and delivered, rejected, or no frame at all. -/
def execFpSelectEnd (n : Fin 32) (rx : List Bool) (s : State) : Host.Outcome State Fault Refusal :=
  let u := s.fpOf n
  match u.sel with
  | none => .next s
  | some p =>
    let w := s.fpW n
    let b := rx.length
    if s.fpBall n then .next s
    else if p.ignore then .next (s.setFp n { u with sel := none })
    else if b = 0 then
      .next ((s.setFp n { u with sel := none, armed := if u.armed.isSome then u.armed else p.tag }).bump F.FP_TCNT_EMPTY n)
    else
      let (s, bits) := s.fpReplyBits n p b
      let s := s.emit (.fpReply n p.ms bits)
      let s := s.setFld F.FP_TSTAT_TSEQ n ((s.fld F.FP_TSTAT_TSEQ n + 1) % 65536)
      let rej := b % w ≠ 0 ∨ b > 256 * w
      let s := s.setFp n { u with sel := none, first := false, lastRej := decide rej }
      if b > 256 * w then
        .next (((s.setFld F.FP_TSTAT_RJCAUSE n 2).raise F.FP_STATUS_REJ n).bump F.FP_RJCNT_RJLONG n)
      else if b % w ≠ 0 then
        .next (((s.setFld F.FP_TSTAT_RJCAUSE n 1).raise F.FP_STATUS_REJ n).bump F.FP_RJCNT_RJPART n)
      else .next (s.fpDeliver n p.ms (s.fpItems n (b / w) rx))

/-! ### Configuration at stage close and at the tick -/

/-- The staged registers of port n. -/
def fpStaged (n : Nat) : List (Reg × Nat) :=
  [(.FP_CFG, n), (.FP_CLK, n), (.FP_SEL, n), (.FP_RPL, n)] ++ (List.range 8).map fun i => (.FP_LAUNCH, 8 * n + i)

/-- The values of a register file for port n form a combination that R498 reserves. -/
def fpReserved (t : Tab Word) (n : Nat) : Bool :=
  F.FP_CFG_ROLE.of t n == 1 &&
    (F.FP_SEL_SELREL.of t n != 0 || F.FP_SEL_SELCHK.of t n == 1 || F.FP_SEL_SELPIN.of t n == 127
      || F.FP_RPL_RPLOFS.of t n != 0)

/-- Clears the history of R103. -/
def FpUnit.clearHist (u : FpUnit) : FpUnit := { u with hist := [], launched := 0 }

/-- What a tick does to port n, whose active registers were `old` (R97, R99, R103, R112-R114): frames of a changed
configuration are cut and SCK goes to its idle level at the next CK_FIELD edge, a target ignores the rest of its select period, a pending command of a port that is no longer an
enabled controller is lost, and an enabled port starts with a clear history. OFSP is set on an enabled controller alone
(notes/assumptions/187.md). -/
def State.fpTick (s : State) (old : Tab Word) (n : Nat) : State :=
  let changed := regsDiffer old s.active (fpStaged n)
  let wasEn := F.FP_CFG_EN.of old n == 1
  let en := s.fpEn n
  let u := s.fpOf n
  let s := if changed ∧ u.frame.isSome then
      ((s.setFp n { u.clearHist with frame := none }).bump F.FP_DROP_CUT n).emit
        (.fpSck n (sckIdle (F.FP_CFG_CMODE.of old n)) (s.fieldEdge / 2 ^ 32)) else s
  let u := s.fpOf n
  let u := if changed then
      { u with first := true, sel := if ¬ en then none
          else u.sel.map (fun p => { p with ignore := true }) } else u
  let u := if (en && !wasEn) || F.FP_RPL_RPLOFS.of old n ≠ s.act F.FP_RPL_RPLOFS n then u.clearHist else u
  let begun := changed ∧ en ∧ s.fpTarget n ∧ (¬ wasEn ∨ F.FP_CFG_ROLE.of old n ≠ 1) ∧ s.fpBall n
  let u := if begun then { u with sel := some { ms := s.ltMs, reply := .idle, sent := [], tag := none, ignore := true } }
           else u
  let lost := u.pend && !s.fpCtl n
  let s := s.setFp n { u with pend := u.pend && s.fpCtl n, done := [] }
  let s := if lost then s.bump F.FP_ERR_CMDLOST n else s
  let s := if en ∧ ¬ wasEn then (s.setFld F.FP_TSTAT_TSEQ n 0).setFld F.FP_TSTAT_RJCAUSE n 0 else s
  let ofsp := s.fpCtl n && (List.range 8).any fun i => s.actB F.FP_LAUNCH_EN (8 * n + i) && !s.fpEntry n i
  s.raiseIf ofsp F.FP_STATUS_OFSP n

end Sys2Proof.Machine
end

