-- ==== Sys2Proof/Machine/Host.lean ====
section
/-! DEFINITION. The host ports and Quarters (16_host_quarters): links and configuration, the mailbox, DMA, messages,
quotas and watchdogs. MODE, DEVICE_RESET and the expiry of a watchdog stand in Modes.lean. -/

namespace Sys2Proof.Machine

/-! ### Links and configuration space (R357-R362, R430, R482) -/

/-- The data link of host port p is up. -/
def State.linkUp (s : State) (p : Nat) : Bool := s.flag F.HP_LSTAT_DLUP p

/-- HP_QSTAT.ACT of every function: its link is up and bus mastering is enabled. -/
def State.hostAct (s : State) : State :=
  s.each 4 fun s q => s.setFld F.HP_QSTAT_ACT q (if s.linkUp (q / 2) ∧ (s.qOf q).busMaster then 1 else 0)

/-- A QUARTER RESET of q is requested (R369, R385); of two requests the lower notice detail stands. -/
def State.askReset (s : State) (q detail : Nat) : State :=
  let u := s.qOf q
  (s.setQ q { u with qr := some (min detail (u.qr.getD detail)) }).raise F.HP_QSTAT_QRP q

/-- The configuration state of function q at its reset values (R362, R482). -/
def State.cfgReset (s : State) (q : Nat) : State :=
  (s.setQ q { s.qOf q with busMaster := false, msixEn := false, fmask := false, mps := 128, bar0 := 0, bar2a := 0 }).hostAct

/-- A function answers configuration requests with retry status (R430): LOAD has not ended nor lasted 900 ms, and it is
not HP0 function 0 with the push interface offered. -/
def State.cfgRetry (s : State) (q : Nat) : Bool :=
  s.mode == 2 && !(q == 0 && s.ld.offer) && decide (s.ltNs < s.ld.since + 900000000)

/-- A word of configuration space: identity, command, header type and BARs; what the spec does not place is free
(R357, R358, notes/assumptions/17.md). -/
def State.cfgWord (s : State) (q w : Nat) : Word :=
  let u := s.qOf q
  match w with
  | 0 => 0x48641F2B
  | 1 => if u.busMaster then 4 else 0
  | 2 => 0x118000B0
  | 3 => 0x00800000
  | 4 => w32 (u.bar0 + 4)
  | 5 => w32 (u.bar0 / 2 ^ 32)
  | 6 => w32 (u.bar2a + 4)
  | 7 => w32 (u.bar2a / 2 ^ 32)
  | 8 | 9 => 0
  | 11 => if s.mode = 2 then 0 else s.map.subsys
  | _ => Config.cfgWord q w

/-- PCIE_CONFIG_REQUEST (R357, R358, R430): answered, answered with retry status, or lost where the port is held by
HPn_PERST_N or unpowered. -/
def execPcieConfigRequest (q : Fin 4) (c : CfgReq) (s : State) : Host.Outcome State Fault Refusal :=
  if ¬ s.powered pdHost ∨ ¬ bit s.pm.perst (q / 2) then .next s
  else if s.cfgRetry q then .next (s.emit (.cfg q none))
  else
    let u := s.qOf q
    let done (s : State) : State := s.emit (.cfg q (some 0))
    .next (match c with
      | .read w => s.emit (.cfg q (some (s.cfgWord q w)))
      | .busMaster b => (done (s.setQ q { u with busMaster := b })).hostAct
      | .msix e m => done (s.setQ q { u with msixEn := e, fmask := m })
      | .payload b => done (s.setQ q { u with mps := if b then 256 else 128 })
      | .bar0 b => done (s.setQ q { u with bar0 := b.toNat * 2 ^ 20 })
      | .bar2 b => done (s.setQ q { u with bar2a := b.toNat * 2 ^ 16 })
      | .aspmL1 b =>
        let m := 2 ^ (q.val / 2)
        done { s with pm := { s.pm with aspm := if b then s.pm.aspm ||| m else s.pm.aspm - (s.pm.aspm &&& m) } })

/-- FUNCTION_LEVEL_RESET (R362): the configuration state resets and a QUARTER RESET of the Quarter is requested. -/
def execFunctionLevelReset (q : Fin 4) (s : State) : Host.Outcome State Fault Refusal :=
  .next ((s.cfgReset q).askReset q 0)

/-- The link of port p goes down. -/
def State.linkDown (s : State) (p : Nat) : State := (s.setReg .HP_LSTAT p 0).hostAct

/-- PERST_RELEASE (R482): the link and the configuration state, held at their reset values while HPn_PERST_N was low, begin
anew, and both of the port's Quarters are reset. -/
def execPerstRelease (p : Fin 2) (s : State) : Host.Outcome State Fault Refusal :=
  let s := { s with pm := { s.pm with perst := s.pm.perst ||| 2 ^ p.val } }
  let s := ((s.linkDown p).cfgReset (2 * p)).cfgReset (2 * p + 1)
  .next ((s.askReset (2 * p) 0).askReset (2 * p + 1) 0)

/-- Port p releases HPn_WAKE_N (R362). -/
def State.wakeRelease (s : State) (p : Nat) : State :=
  { s with pm := { s.pm with wakeN := s.pm.wakeN - (s.pm.wakeN &&& 2 ^ p) } }

/-- HOST_LINK_TRAINED (R362, R482): a powered link that HPn_PERST_N does not hold reaches L0 at 2.5 or 5 GT/s. -/
def execHostLinkTrained (p : Fin 2) (fast : Bool) (s : State) : Host.Outcome State Fault Refusal :=
  if ¬ s.powered pdHost ∨ ¬ bit s.pm.perst p then .next s
  else
    let s := ((s.raise F.HP_LSTAT_DLUP p).setFld F.HP_LSTAT_LST p 1).setFld F.HP_LSTAT_SPD p (if fast then 2 else 1)
    .next (s.wakeRelease p).hostAct

/-- HOST_LINK_L0 (R441, R362): a link that is up returns to L0 on the host's initiative; with DOZAX set, DOZE is to end. -/
def execHostLinkL0 (p : Fin 2) (s : State) : Host.Outcome State Fault Refusal :=
  if ¬ s.linkUp p ∨ s.fld F.HP_LSTAT_LST p = 1 then .next s
  else
    let s := (s.setFld F.HP_LSTAT_LST p 1).wakeRelease p
    if s.mode = 5 ∧ s.flag F.PM_CFG_DOZAX ∧ s.pm.dozeExit.isNone then
      let s := if s.pm.chg.isSome then s
               else (s.raise F.SYS_MODE_PEND).setFld F.SYS_MODE_TGT 0 (s.fld F.SYS_MODE_RETM)
      .next { s with pm := { s.pm with dozeExit := some false } }
    else .next s

/-- HOST_LINK_DOWN (R443): the link goes down. -/
def execHostLinkDown (p : Fin 2) (s : State) : Host.Outcome State Fault Refusal := .next (s.linkDown p)

/-- HOST_LINK_L1_ENTRY (R442): in DOZE a link in L0 or L0s enters L1 where host software has enabled ASPM L1. -/
def execHostLinkL1Entry (p : Fin 2) (s : State) : Host.Outcome State Fault Refusal :=
  let l := s.fld F.HP_LSTAT_LST p
  .next (if s.mode = 5 ∧ s.linkUp p ∧ (l = 1 ∨ l = 2) ∧ bit s.pm.aspm p then s.setFld F.HP_LSTAT_LST p 3 else s)

/-- BAR0_READ_TIMEOUT (R361): a BAR 0 read that arrived at the Milestone at_ and has not been served within 50 µs completes
with all ones; nothing before. -/
def execBar0ReadTimeout (q : Fin 4) (off : Fin 1048576) (at_ : Nat) (s : State) : Host.Outcome State Fault Refusal :=
  .next (if at_ + 12800000 ≤ s.ltMs then (s.raise F.HP_QSTAT_RDTO q).emit (.bar q off 0xFFFFFFFF false) else s)

/-- MSIX_PENDING_SEND (R377): a held message is sent once sending is permitted and its vector is unmasked. -/
def execMsixPendingSend (q : Fin 4) (vec : Fin 16) (s : State) : Host.Outcome State Fault Refusal :=
  let u := s.qOf q
  .next (if u.msixPend.contains vec.val ∧ s.mayMsg q vec then
      (s.setQ q { u with msixPend := u.msixPend.filter fun v => v != vec.val }).sendMsg q vec
    else s)

/-! ### The mailbox (R367-R371) -/

/-- A write of HP_CPI (R367): one that runs more than 64 ahead of HP_RPI is discarded. -/
def State.cpiWrite (s : State) (q : Nat) (w : Word) : State :=
  let v := w.toNat % 65536
  if wrap ((v : Int) - s.fld F.HP_RPI_IDX q) 16 > 64 then s.raise F.HP_QSTAT_CMDERR q else s.setFld F.HP_CPI_IDX q v

/-- Quarter q has a command to start: the index has moved and no response is owed (R367). -/
def State.mbReady (s : State) (q : Nat) : Bool :=
  s.powered pdHost && s.mode != 2 && (s.qOf q).cmd.isNone && s.fld F.HP_CCI_IDX q != s.fld F.HP_CPI_IDX q

/-- The 16 words of the command entry of an index. -/
def State.mbEntry (s : State) (q idx : Nat) : State × List Word :=
  (List.range 16).foldl (fun a j =>
    let (s, w) := a.1.bar2Own q (64 * (idx % 64) + 4 * j)
    (s, a.2 ++ [w])) (s, [])

/-- Argument word j of a command. -/
def arg (ws : List Word) (j : Nat) : Nat := (ws.getD j 0).toNat

/-- The opcode of an entry. -/
def mbOp (ws : List Word) : Nat := bits (arg ws 0) 31 24

/-- Posts the response of the command in progress (R367): its entry, HP_RPI, the message of vector CMDV. -/
def State.respond (s : State) (q status : Nat) (res : List Word) : State :=
  match (s.qOf q).cmd with
  | none => s
  | some c =>
    let w0 := w32 (status * 2 ^ 24 + mbOp c.words * 2 ^ 16 + arg c.words 0 % 65536)
    let out := w0 :: res
    let base := 0x1000 + 64 * (c.idx % 64)
    let s := (List.range 8).foldl
      (fun s j => s.bar2Pair q (base + 8 * j) (out.getD (2 * j) 0) (out.getD (2 * j + 1) 0)) s
    let s := s.setQ q { s.qOf q with cmd := none }
    let s := s.setFld F.HP_RPI_IDX q ((c.idx + 1) % 65536)
    s.message q (s.fld F.HP_VMAP_CMDV q)

/-- The status that a command meets before its own conditions (R368, R370, R455): 3 for a nonzero bit in [23:16] of W0
or a bad argument, 2 in SAFE or where the issuer may not use it. -/
def State.mbCheck (s : State) (ws : List Word) (badArg denied safeOk : Bool) : Option Nat :=
  if bits (arg ws 0) 23 16 ≠ 0 ∨ badArg then some 3
  else if denied ∨ (s.mode = 8 ∧ ¬ safeOk) then some 2 else none

/-- Takes the next command of q where its opcode satisfies p, and gives it to f with its words; nothing where none is
ready or its opcode is another. The words are those of the entry as the command starts: a later rewrite, which R367 forbids
with no consequence stated, has no effect (DESIGN CHOICE, notes/assumptions/191.md). -/
def State.mbRun (s : State) (q : Nat) (p : Nat → Bool) (f : State → List Word → State) : State :=
  if ¬ s.mbReady q then s
  else
    let idx := s.fld F.HP_CCI_IDX q
    let (s', ws) := s.mbEntry q idx
    if ¬ p (mbOp ws) then s
    else
      let s' := s'.setFld F.HP_CCI_IDX q ((idx + 1) % 65536)
      f (s'.setQ q { s'.qOf q with cmd := some { idx := idx, words := ws } }) ws

/-- RESERVED_COMMAND (R369): a reserved opcode gets status 1. -/
def execReservedCommand (q : Fin 4) (s : State) : Host.Outcome State Fault Refusal :=
  .next (s.mbRun q (fun o => o = 0 ∨ (0x0A ≤ o ∧ o ≤ 0x7F)) fun s _ => s.respond q 1 [])

/-- NOP_COMMAND (R369): status 0. -/
def execNopCommand (q : Fin 4) (s : State) : Host.Outcome State Fault Refusal :=
  .next (s.mbRun q (· = 1) fun s ws => s.respond q ((s.mbCheck ws false false true).getD 0) [])

/-! ### Quotas (R60, R378-R381) -/

/-- Rules A1 to A3 of R58 for Block b under a profile and budgets: the rule that fails first with the thread concerned; after
them an Avenue thread with a budget of 0 (R52), shown as rule 0 (DESIGN CHOICE, notes/assumptions/203.md). -/
def State.admitFail (s : State) (b : Nat) (p : Profile) (bud : Nat → Nat) : Option (Nat × Nat) :=
  let ts := (List.range 16).filterMap fun j =>
    let t := 16 * b + j
    if s.thrUsed t ∧ s.avenue t then some t else none
  let f := 25 * p.core
  let per := 4 * p.period
  if ts.length > 8 then some (1, 0)
  else if (ts.foldl (fun a t => a + bud t) 0) > 7 * (per * f / 1000) / 10 then some (2, 0)
  else match ts.find? fun t =>
      s.flag F.BK_TCFG_RELEN t &&
        decide (4 * s.fld F.BK_TCFG_RELOFS t * f + (bud t * max 4 (s.fld F.BK_ADMIT_NA t) + 40) * 1000 > per * f) with
    | some t => some (3, t % 16)
    | none => if ts.any fun t => bud t == 0 then some (0, 0) else none

/-- A budget v for thread t keeps A1 to A3 for its Block in every profile in which the Block runs (R58, R60). -/
def State.budgetOk (s : State) (t v : Nat) : Bool :=
  s.map.profiles.all fun p =>
    !(bit p.doms (pdB0 + t / 16)) || (s.admitFail (t / 16) p fun u => if u = t then v else s.fld F.BK_BUDGET_BUDGET u).isNone

/-- A QUOTA's arguments are reserved (R369, R379). -/
def quotaBad (ws : List Word) : Bool :=
  let w := arg ws 1
  let v := arg ws 2
  let inst := bits w 7 0
  bits w 27 8 != 0 || (match bits w 31 28 with
    | 0 => decide (inst > 63) || v == 0 || decide (v > 512)
    | 1 => decide (inst > 63) || decide (v > 1048575)
    | 2 => decide (inst > 3) || decide (v > 128)
    | 3 => decide (inst > 3) || decide (v > 16)
    | _ => true)

/-- A QUOTA is refused with status 4 (R379). -/
def State.quotaRefused (s : State) (ws : List Word) : Bool :=
  let inst := bits (arg ws 1) 7 0
  let v := arg ws 2
  match bits (arg ws 1) 31 28 with
  | 0 => decide (v > s.act F.ARC_REGION_SIZE inst)
  | 1 => (s.avenue inst && v == 0) || !s.budgetOk inst v
  | _ => false

/-- QUOTA (R379, R60): checked when it starts; it acts and answers at the first tick whose stage close follows. -/
def execQuota (q : Fin 4) (s : State) : Host.Outcome State Fault Refusal :=
  .next (s.mbRun q (· = 2) fun s ws =>
    match s.mbCheck ws (quotaBad ws) (s.sup != q.val) false with
    | some st => s.respond q st []
    | none => if s.quotaRefused ws then s.respond q 4 [] else s)

/-- The Quarter to which the resource of a QUOTA belongs (R385). -/
def State.quotaOwner (s : State) (ws : List Word) : Nat :=
  let inst := bits (arg ws 1) 7 0
  match bits (arg ws 1) 31 28 with
  | 0 => s.ownerOf .arcade inst
  | 1 => s.ownerOf .thread inst
  | _ => inst

/-- The field that a QUOTA sets, and its element. -/
def quotaField (ws : List Word) : Field × Nat :=
  let inst := bits (arg ws 1) 7 0
  match bits (arg ws 1) 31 28 with
  | 0 => (F.ARC_QCAP_QCAP, inst)
  | 1 => (F.BK_BUDGET_BUDGET, inst)
  | 2 => (F.HP_QQUOTA_XCQ, inst)
  | _ => (F.HP_QQUOTA_LLQ, inst)

/-- A QUOTA of Quarter q takes effect at a tick (R379): the resource is set, and the response gives the tick and the
previous value. -/
def State.quotaApply (s : State) (q : Nat) (ws : List Word) : State :=
  let (f, i) := quotaField ws
  let old := s.fld f i
  let s := s.setFld f i (arg ws 2)
  let s := if f = F.ARC_QCAP_QCAP then s.arcQuota i else s
  s.respond q 0 [w32 s.ct.tickCnt, w32 old]

/-! ### Resets and threads by command (R369, R382, R384) -/

/-- QUARTER_RESET (R369, R382): of the own Quarter, or of any by the supervisor; it acts at the tick. -/
def execQuarterReset (q : Fin 4) (s : State) : Host.Outcome State Fault Refusal :=
  .next (s.mbRun q (· = 3) fun s ws =>
    let n := arg ws 1 % 4
    match s.mbCheck ws (arg ws 1 ≥ 4) (n != q.val && s.sup != q.val) false with
    | some st => s.respond q st []
    | none => s.askReset n 0)

/-- THREAD_RESTART (R369, R384): of a thread that the Quarter owns; it acts at the tick. -/
def execThreadRestart (q : Fin 4) (s : State) : Host.Outcome State Fault Refusal :=
  .next (s.mbRun q (· = 4) fun s ws =>
    match s.mbCheck ws (arg ws 1 ≥ 64) (s.ownerOf .thread (arg ws 1 % 64) != q.val) false with
    | some st => s.respond q st []
    | none => s)

/-! ### Pins and wakes by command (R369) -/

/-- The pins of word k of a pin register that Quarter q owns, as a mask. -/
def State.pinMask (s : State) (q k : Nat) : Nat :=
  (List.range 32).foldl (fun a i => if s.ownerOf .pin (32 * k + i) = q then a + 2 ^ i else a) 0

/-- The levels at the balls of GP(32k) to GP(32k + 31), 3 CK_FIELD cycles ago (R252). -/
def State.gpIn (s : State) (k : Nat) : Nat :=
  (List.range 32).foldl (fun a i => if (s.pinOf (32 * k + i)).ballAt ((s.lt40 : Int) - field3) then a + 2 ^ i else a) 0

/-- PIN_GET (R369): input levels and output registers of the Quarter's pins. -/
def execPinGet (q : Fin 4) (s : State) : Host.Outcome State Fault Refusal :=
  .next (s.mbRun q (· = 5) fun s ws =>
    match s.mbCheck ws false false false with
    | some st => s.respond q st []
    | none =>
      let inp (k : Nat) := w32 (s.gpIn k &&& s.pinMask q k)
      let out (k : Nat) := w32 ((s.reg .GP_OUT k).toNat &&& s.pinMask q k)
      s.respond q 0 [0, inp 0, inp 1, inp 2, out 0, out 1, out 2])

/-- PIN_SET (R369): output-register bits of the Quarter's pins set and cleared by masks. -/
def execPinSet (q : Fin 4) (s : State) : Host.Outcome State Fault Refusal :=
  .next (s.mbRun q (· = 6) fun s ws =>
    let st (k : Nat) := arg ws (1 + k)
    let cl (k : Nat) := arg ws (4 + k)
    let bad := (List.range 3).any fun k => (st k &&& cl k) != 0
    let foreign := (List.range 3).any fun k => ((st k ||| cl k) &&& s.pinMask q k) != (st k ||| cl k)
    match s.mbCheck ws bad foreign false with
    | some x => s.respond q x []
    | none =>
      let s := (List.range 3).foldl (fun s k =>
        let o := (s.reg .GP_OUT k).toNat
        s.setReg .GP_OUT k (w32 ((o - (o &&& cl k)) ||| st k))) s
      s.respond q 0 [])

/-- EVT or WAKE with operand x may not be sent by Quarter q (R299): the target is unused, of another Quarter, or an
Avenue thread named for an entry signal. -/
def State.evtDenied (s : State) (q x : Nat) : Bool :=
  let t := x % 64
  !s.thrUsed t || s.ownerOf .thread t != q || (bit x 8 && s.avenue t)

/-- A wake or an entry signal is sent (R299). -/
def State.evtSend (s : State) (x : Nat) : State :=
  if bit x 8 then s.signalThread (x % 64) else s.wakeThread (x % 64)

/-- A bit that must be 0 is set in the operand of EVT (R299). -/
def evtBad (x : Nat) : Bool := bits x 31 9 != 0 || bits x 7 6 != 0

/-- WAKE (R369): a wake or an entry signal as EVT sends it. -/
def execWake (q : Fin 4) (s : State) : Host.Outcome State Fault Refusal :=
  .next (s.mbRun q (· = 9) fun s ws =>
    match s.mbCheck ws (evtBad (arg ws 1)) (s.evtDenied q (arg ws 1)) false with
    | some st => s.respond q st []
    | none => (s.evtSend (arg ws 1)).respond q 0 [])

/-! ### User commands (R371) -/

/-- USER_COMMAND (R371, R370): the words are copied into HP_UCMD and the mailbox thread is woken or signalled; status 1
where there is none and W0 is well formed. -/
def execUserCommand (q : Fin 4) (s : State) : Host.Outcome State Fault Refusal :=
  .next (s.mbRun q (fun o => o ≥ 0x80) fun s ws =>
    match s.mbCheck ws false false false with
    | some st => s.respond q st []
    | none =>
      if ¬ s.flag F.HP_UCFG_EN q then s.respond q 1 []
      else
        let s := (List.range 16).foldl (fun s j => s.setReg .HP_UCMD (16 * q + j) (ws.getD j 0)) s
        let s := (s.raise F.HP_QSTAT_UPEND q).setQ q { s.qOf q with late := false, uAt := s.ltMs }
        let t := s.fld F.HP_UCFG_UTHR q
        if s.flag F.HP_UCFG_UENT q then s.signalThread t else s.wakeThread t)

/-- UCTO ms have passed since the user command was copied (R371). -/
def State.userLate (s : State) (q : Nat) : Bool := s.lapsed (some (s.qOf q).uAt) (256000000 * s.fld F.HP_UCFG_UCTO q)

/-- A write of HP_UDONE (R371): it posts the response with the HP_URSP words, or is ignored. -/
def State.udoneWrite (s : State) (q : Nat) (w : Word) : State :=
  if s.flag F.HP_QSTAT_UPEND q then
    let res := (List.range 15).map fun j => s.reg .HP_URSP (16 * q + j + 1)
    (s.setFld F.HP_QSTAT_UPEND q 0).respond q (w.toNat % 256) res
  else if (s.qOf q).late then s.raise F.HP_QSTAT_LATEDONE q else s

/-- USER_COMMAND_TIMEOUT (R371): a user command not answered within UCTO ms gets status 5; nothing before. -/
def execUserCommandTimeout (q : Fin 4) (s : State) : Host.Outcome State Fault Refusal :=
  if ¬ s.flag F.HP_QSTAT_UPEND q ∨ ¬ s.userLate q then .next s
  else
    let s := s.setFld F.HP_QSTAT_UPEND q 0
    .next ((s.setQ q { s.qOf q with late := true }).respond q 5 [])

/-! ### Arcade DMA (R373-R376) -/

/-- The element of ring r of Quarter q in the ring registers. -/
def ringIx (q r : Nat) : Nat := 16 * q + r

/-- Where descriptor i of ring r stands in BAR 2. -/
def descOff (r i : Nat) : Nat := 0x4000 + 0x400 * r + 16 * (i % 64)

/-- A write of HP_DRCFG (R373). -/
def State.drcfgWrite (s : State) (q r : Nat) (w : Word) : State :=
  let i := ringIx q r
  let old := s.reg .HP_DRCFG i
  let en := bit w.toNat 31
  let change := bits w.toNat 11 8 ≠ s.fld F.HP_DRCFG_VEC i ∨ bits w.toNat 5 0 ≠ s.fld F.HP_DRCFG_ARC i
  if bit old.toNat 31 ∧ en ∧ change then s.raise F.HP_DRST_OVR i
  else
    let s := s.setReg .HP_DRCFG i w
    if en ∧ ¬ bit old.toNat 31 then (s.setReg .HP_DRPI i 0).setReg .HP_DRCI i 0 else s

/-- The transfer in progress on ring r. -/
def Qtr.xfer (u : Qtr) (r : Nat) : Option Xfer := u.xfers.find? fun x => x.ring == r

/-- A ring has a descriptor that waits (R374). -/
def State.dmaWaits (s : State) (q r : Nat) : Bool :=
  let i := ringIx q r
  s.flag F.HP_DRCFG_EN i && s.fld F.HP_DRPI_IDX i != s.fld F.HP_DRCI_IDX i && ((s.qOf q).xfer r).isNone

/-- The bound Arcade is the Quarter's, enabled, and drained by its host (R375). -/
def State.dmaBound (s : State) (q r : Nat) : Bool :=
  let a := s.fld F.HP_DRCFG_ARC (ringIx q r)
  s.ownerOf .arcade a == q && (s.arcOf a).act && s.act F.ARC_CFG_CONS a == 1

/-- A ring stops with a cause (R376, R372). -/
def State.dmaStop (s : State) (q r cause : Nat) : State :=
  let i := ringIx q r
  let s := ((s.setFld F.HP_DRCFG_EN i 0).raise F.HP_DRST_ERR i).setFld F.HP_DRST_CAUSE i cause
  s.notice q 8 cause r s.ltMs (s.reg .HP_DRCI i)

/-- The address, capacity and IRQ of the descriptor at HP_DRCI. -/
def State.dmaDesc (s : State) (q r : Nat) : State × Nat × Nat × Bool :=
  let o := descOff r (s.fld F.HP_DRCI_IDX (ringIx q r))
  let (s, lo) := s.bar2Own q o
  let (s, hi) := s.bar2Own q (o + 4)
  let (s, w) := s.bar2Own q (o + 8)
  (s, lo.toNat + 2 ^ 32 * hi.toNat, bits w.toNat 15 0, bit w.toNat 16)

/-- The engine reaches the descriptor at HP_DRCI and checks it and its binding (R374-R376). -/
def State.dmaReach (s : State) (q r : Nat) : State :=
  if ¬ s.dmaWaits q r then s
  else
    let (s, addr, cap, _) := s.dmaDesc q r
    if addr % 4 ≠ 0 ∨ cap = 0 ∨ cap > 16384 then s.dmaStop q r 2
    else if ¬ s.dmaBound q r then s.dmaStop q r 1 else s

/-- A write of HP_DRPI (R373). -/
def State.drpiWrite (s : State) (q r : Nat) (w : Word) : State :=
  let i := ringIx q r
  let v := w.toNat % 65536
  if wrap ((v : Int) - s.fld F.HP_DRCI_IDX i) 16 > 64 then s.raise F.HP_DRST_OVR i
  else (s.setFld F.HP_DRPI_IDX i v).dmaReach q r

/-- Ring r of Quarter q can take a transfer now (R374). -/
def State.dmaReady (s : State) (q r : Nat) : Bool :=
  s.dmaWaits q r && s.dmaBound q r && (s.qOf q).busMaster
    && decide (0 < (s.arcOf (s.fld F.HP_DRCFG_ARC (ringIx q r))).readable)

/-- The ring of port p whose turn it is: the first that is ready after the one served last (R374). -/
def State.dmaTurn (s : State) (p : Nat) : Option Nat :=
  let last := (s.qOf (2 * p)).rr
  ((List.range 32).map fun k => (last + 1 + k) % 32).find? fun k => s.dmaReady (2 * p + k / 16) (k % 16)

/-- A transfer of a function that may send is in progress on port p. -/
def State.dmaBusy (s : State) (p : Nat) : Bool :=
  [2 * p, 2 * p + 1].any fun q => (s.qOf q).busMaster && !(s.qOf q).xfers.isEmpty

/-- Replaces the transfer of a ring. -/
def State.setXfer (s : State) (q : Nat) (x : Xfer) : State :=
  let u := s.qOf q
  s.setQ q { u with xfers := u.xfers.map fun y => if y.ring = x.ring then x else y }

/-- The item of the store that a transfer from Arcade a reads next; none for a fill item or a marker. -/
def State.dmaItem (s : State) (a : Nat) : Option Nat :=
  if (s.arcOf a).next = .item then some (s.arcItem a (s.arcOf a).rd) else none

/-- A transfer after one item more, v as the host gets it. -/
def Xfer.moveOn (x : Xfer) (it : Option Nat) (v : Word) : Xfer :=
  { x with left := x.left - 1, moved := x.moved + 1, addr := x.addr + 4, last := it, tlp := x.tlp ++ [v] }

/-- The items gathered go out as one TLP (R360). -/
def State.dmaSend (s : State) (q : Nat) (x : Xfer) : State :=
  if x.tlp.isEmpty then s else s.emit (.hostWrite q (x.addr - 4 * x.tlp.length) x.tlp)

/-- The TLP of a transfer is full: it has the max payload size, ends at a 4 KiB boundary or holds the last item (R360;
DESIGN CHOICE, notes/assumptions/201.md: each TLP is as long as that allows). -/
def Xfer.full (x : Xfer) (mps : Nat) : Bool := decide (x.left = 0 ∨ x.addr % 4096 = 0 ∨ mps ≤ 4 * x.tlp.length)

/-- A transfer goes on from x, whose last item has come: a TLP that is full goes out. -/
def State.dmaStep (s : State) (q : Nat) (x : Xfer) : State :=
  if x.full (s.qOf q).mps then (s.dmaSend q x).setXfer q { x with tlp := [] } else s.setXfer q x

/-- Reads the next item of a transfer from Arcade a: the second of a pair comes with the access of the first (R185). -/
def State.dmaRead (s : State) (a : Nat) (x : Xfer) : State × ArcRead :=
  s.arcGet a (match s.dmaItem a with
    | some it => it % 2 == 1 && x.last == some (it - 1)
    | none => false)

/-- Moves up to n items of the transfer of a ring to host memory, in order; each is consumed as it is read, and a
poisoned one is written as 0xFFFF_FFFF (R374, R395). -/
def State.dmaMove (s : State) (q r : Nat) : Nat → State
  | 0 => s
  | n + 1 =>
    match (s.qOf q).xfer r with
    | none => s
    | some x =>
      if x.left = 0 then s
      else
        let a := s.fld F.HP_DRCFG_ARC (ringIx q r)
        let it := s.dmaItem a
        match s.dmaRead a x with
        | (s, .none) => s.setXfer q { x with left := 0 }
        | (s, .item v) => (s.dmaStep q (x.moveOn it v)).dmaMove q r n
        | (s, .poison _) => (s.dmaStep q { x.moveOn it 0xFFFFFFFF with psn := true }).dmaMove q r n

/-- DMA_TRANSFER (R374): the ring whose turn it is takes a transfer of min(readable items, capacity) items and moves its
first n; a transfer in progress moves n more. Nothing while bus mastering is disabled. -/
def execDmaTransfer (q : Fin 4) (r : Fin 16) (n : Nat) (s : State) : Host.Outcome State Fault Refusal :=
  match (s.qOf q).xfer r with
  | some _ => .next (if (s.qOf q).busMaster then s.dmaMove q r n else s)
  | none =>
    let s := s.dmaReach q r
    if s.dmaBusy (q / 2) ∨ s.dmaTurn (q / 2) ≠ some (16 * (q.val % 2) + r) then .next s
    else
      let (s, addr, cap, _) := s.dmaDesc q r
      let m := min (s.arcOf (s.fld F.HP_DRCFG_ARC (ringIx q r))).readable cap
      let p := 2 * (q.val / 2)
      let s := s.setQ p { s.qOf p with rr := 16 * (q.val % 2) + r }
      let x : Xfer := { ring := r, idx := s.fld F.HP_DRCI_IDX (ringIx q r), left := m, moved := 0, addr := addr,
                        psn := false, cap := cap }
      let s := s.setQ q { s.qOf q with xfers := (s.qOf q).xfers ++ [x] }
      .next (s.dmaMove q r n)

/-- A transfer ends: the items gathered go out, bytes 12-15 of its descriptor are written and HP_DRCI passes it (R373, R374,
R382). -/
def State.dmaBack (s : State) (q : Nat) (x : Xfer) (abort : Bool) : State :=
  let s := s.dmaSend q x
  let w := 2 ^ 31 + (if x.moved < x.cap then 2 ^ 30 else 0) + (if x.psn then 2 ^ 29 else 0)
    + (if abort then 2 ^ 28 else 0) + x.moved
  let s := s.bar2Poke q (descOff x.ring x.idx + 12) (w32 w)
  let s := s.setFld F.HP_DRCI_IDX (ringIx q x.ring) ((x.idx + 1) % 65536)
  let u := s.qOf q
  s.setQ q { u with xfers := u.xfers.filter fun y => y.ring != x.ring }

/-- DMA_TRANSFER_COMPLETE (R374): the rest of the transfer moves, the descriptor is written back, and the message of VEC
is sent where IRQ is 1. Nothing while no transfer is in progress or bus mastering is disabled. -/
def execDmaTransferComplete (q : Fin 4) (r : Fin 16) (s : State) : Host.Outcome State Fault Refusal :=
  if ¬ (s.qOf q).busMaster then .next s
  else match (s.qOf q).xfer r with
    | none => .next s
    | some x =>
      let (s, _, _, irq) := s.dmaDesc q r
      let s := s.dmaMove q r x.left
      let s := s.dmaBack q (((s.qOf q).xfer r).getD x) false
      let s := if irq then s.message q (s.fld F.HP_DRCFG_VEC (ringIx q r)) else s
      .next (s.dmaReach q r)

/-- The rings of q whose Arcade's configuration has changed at a tick are checked again (R374, R375). -/
def State.dmaTick (s : State) (old : Tab Word) (q : Nat) : State :=
  s.each 16 fun s r =>
    let a := s.fld F.HP_DRCFG_ARC (ringIx q r)
    if s.dmaWaits q r ∧ regsDiffer old s.active [(.ARC_CFG, a), (.ARC_REGION, a), (.ARC_TIDLE, a)] then s.dmaReach q r
    else s

/-! ### Host watchdogs (R386) -/

/-- Disarms the watchdog of q. -/
def State.wdOff (s : State) (q : Nat) : State :=
  (s.setQ q { s.qOf q with wdArmed := false, wdCyc := 0 }).setFld F.HP_WDCNT_CNT q 0

/-- A write of HP_WDKICK with its key (R386): the count restarts; a period of 0 leaves the watchdog off. -/
def State.wdKick (s : State) (q : Nat) : State :=
  let p := s.fld F.HP_WDOG_PERIOD q
  if p = 0 then s.wdOff q
  else (s.setQ q { s.qOf q with wdArmed := true, wdCyc := 0 }).setFld F.HP_WDCNT_CNT q p

/-- A write of HP_WDOG (R386): it disarms a running watchdog. -/
def State.wdWrite (s : State) (q : Nat) (w : Word) : State := (s.setReg .HP_WDOG q w).wdOff q

/-- The watchdogs count in RUN, STRICT and DOZE (R386). -/
def State.wdCounts (s : State) : Bool := s.mode == 3 || s.mode == 4 || s.mode == 5

/-- The count of the watchdog of q has reached PERIOD. -/
def State.wdDue (s : State) (q : Nat) : Bool := decide (s.fld F.HP_WDCNT_CNT q ≤ 1 ∧ 250000 ≤ (s.qOf q).wdCyc)

/-- One CK_TIME cycle of the watchdog of q: HP_WDCNT falls by 1 every 250 000 cycles, and stays at 1 from the last of them
until the expiry (notes/assumptions/18.md). -/
def State.wdCycle (s : State) (q : Nat) : State :=
  let u := s.qOf q
  if ¬ u.wdArmed ∨ ¬ s.wdCounts ∨ s.wdDue q then s
  else if u.wdCyc + 1 < 250000 ∨ s.fld F.HP_WDCNT_CNT q ≤ 1 then s.setQ q { u with wdCyc := u.wdCyc + 1 }
  else (s.setQ q { u with wdCyc := 0 }).setFld F.HP_WDCNT_CNT q (s.fld F.HP_WDCNT_CNT q - 1)

end Sys2Proof.Machine
end

