-- ==== Sys2Proof/Machine/Threads.lean ====
section
/-! DEFINITION. Threads: starting, stopping and restarting them, the divider, Bollards and releases
(03_tick, 12_blocks, 13_instruction_set). -/

namespace Sys2Proof.Machine

/-! ### Charging and running (R51, R56, R436) -/

/-- The mode lets thread t run: RUN, STRICT, DOZE and MAINT; in WATCH only the threads of BK0 (R436). -/
def State.modeRuns (s : State) (t : Nat) : Bool :=
  match s.mode with
  | 3 | 4 | 5 | 10 => true
  | 6 => decide (t < 16)
  | _ => false

/-- The Block of thread t is powered. -/
def State.blockOn (s : State) (t : Nat) : Bool := s.powered (pdB0 + t / 16)

/-- Charges n slots to thread t (R51). -/
def State.charge (s : State) (t n : Nat) : State := if n = 0 then s else s.bump F.BK_USED_USED t n

/-- Thread t after m more CK_CORE cycles of parking. -/
def Thr.parkedFor (th : Thr) (m : Nat) : Thr := { th with pkTen := th.pkTen + 10 * m }

/-- The slots for the cycles for which a thread has been parked: one for every 4 cycles or part of 4 (R51). -/
def Thr.parkSlots (th : Thr) : Nat := (th.pkTen + 39) / 40

/-- A thread context that is no longer parked. -/
def Thr.unparked (th : Thr) : Thr := { th with st := .active, park := none, pkTen := 0, pkSlots := 0 }

/-- Thread t is no longer parked. -/
def State.unpark (s : State) (t : Nat) : State := s.setThr t (s.thrOf t).unparked

/-- The active budget B_t; 0 is no limit. -/
def State.budget (s : State) (t : Nat) : Nat := s.fld F.BK_BUDGET_BUDGET t

/-- The Bollard of thread t lets it issue (R52): no limit, or U_t below B_t. -/
def State.inBudget (s : State) (t : Nat) : Bool :=
  s.budget t == 0 || decide (s.fld F.BK_USED_USED t < s.budget t)

/-! ### The divider (R266, R267) -/

/-- The waiting thread to which a released divider of Block b passes: the first waiting Avenue thread, else the first. -/
def State.divNext (s : State) (q : List Nat) : Option Nat :=
  match q.find? fun t => s.avenue t with
  | some t => some t
  | none => q.head?

/-- A free divider passes to a waiting thread. -/
def State.divPass (s : State) (b : Nat) : State :=
  let u := s.blkOf b
  match u.divOwn, s.divNext u.divQ with
  | none, some t => s.setBlk b { u with divOwn := some t, divQ := u.divQ.filter fun x => x != t }
  | _, _ => s

/-- Thread t no longer divides: a division in progress is abandoned and counted, a request withdrawn (R267). -/
def State.divDrop (s : State) (t : Nat) : State :=
  let b := t / 16
  let u := s.blkOf b
  if u.divOwn = some t then
    ((s.setBlk b { u with divOwn := none }).bump F.BK_CNT1_DIVAB b).divPass b
  else s.setBlk b { u with divQ := u.divQ.filter fun x => x != t }

/-- Thread t asks for the divider (R266, R267): a free one is taken; an Avenue thread preempts a Lane owner, which queues
again; else the request queues. -/
def State.divAsk (s : State) (t : Nat) : State :=
  let b := t / 16
  let u := s.blkOf b
  match u.divOwn with
  | none => s.setBlk b { u with divOwn := some t }
  | some o =>
    if s.avenue t ∧ ¬ s.avenue o then
      (s.setBlk b { u with divOwn := some t, divQ := o :: u.divQ }).bump F.BK_CNT1_DIVAB b
    else s.setBlk b { u with divQ := u.divQ ++ [t] }

/-! ### Starting, stopping and restarting (R280, R297, R308, R309, R382) -/

/-- Thread t is taken to its entry address with its context cleared: stacks, RPT, flags, pending wake, entry state and held
item go, its division is abandoned (R53, R280, R301, R308, R309, R382). -/
def State.thrClear (s : State) (t : Nat) : State :=
  let s := s.divDrop t
  let e := s.reg .BK_TENTRY t
  (s.setThr t { pc := e }).setReg .BK_TPC t e

/-- Thread t starts as at the end of LOAD (R297): a Lane thread in an activation, an Avenue thread waits for its first
release. -/
def State.thrStart (s : State) (t : Nat) : State :=
  let s := s.thrClear t
  if s.thrUsed t ∧ ¬ s.avenue t then s.beginActivation t else s

/-- The thread effects of R382: the open Arcade packet is abandoned (R230) and the thread starts as after LOAD; its
buffered stores drain. -/
def State.thrRestart (s : State) (t : Nat) : State := (s.arcAbandonBy t).thrStart t

/-- The record of a fault (R276, R305): its code, the faulting byte, the data addresses, and for a split access whether the
second part faulted and whether the first was written. -/
structure FaultRec where
  code : Nat
  pc : Word
  addr0 : Word := 0
  addr1 : Word := 0
  split : Bool := false
  firstw : Bool := false
deriving DecidableEq, Repr

/-- Thread t faults (R305-R309, R372): the fault is recorded, the thread stops, its open Arcade packet and its division are
abandoned, and its Quarter is notified. -/
def State.raiseFault (s : State) (t : Nat) (f : FaultRec) : State :=
  let s := s.setReg .BK_FCODE t (F.BK_FCODE_CODE.put (F.BK_FCODE_FIRSTW.put (F.BK_FCODE_SPLIT.put 0
    (if f.split then 1 else 0)) (if f.firstw then 1 else 0)) f.code)
  let s := ((s.setReg .BK_FPC t f.pc).setReg .BK_FADDR0 t f.addr0).setReg .BK_FADDR1 t f.addr1
  let s := (s.divDrop t).arcAbandonBy t
  let s := s.setThr t { s.thrOf t with st := .stopped, park := none, first := false, feed := none, pkTen := 0, pkSlots := 0 }
  let q := s.ownerOf .thread t
  let u := s.qOf q
  if u.faultTick.contains t then s
  else (s.setQ q { u with faultTick := t :: u.faultTick }).notice q 1 f.code t s.ltMs f.pc

/-- Thread t is suspended by its Bollard (R52, R53): a parked operation is abandoned, the suspension counted, and the
Quarter of an Avenue thread notified. -/
def State.suspend (s : State) (t : Nat) : State :=
  let s := (s.divDrop t).bump F.BK_OVERRUN_OVN t
  let s := s.setThr t { s.thrOf t with st := .suspended, park := none, first := false, feed := none,
                                       ripe := false, pkTen := 0, pkSlots := 0 }
  let q := s.ownerOf .thread t
  let u := s.qOf q
  if ¬ s.avenue t ∨ u.overTick.contains t then s
  else (s.setQ q { u with overTick := t :: u.overTick }).notice q 2 0 t s.ltMs (s.reg .BK_OVERRUN t)

/-- Thread t is suspended with its usage at its budget, or above it where it has passed it (R52). -/
def State.overrun (s : State) (t : Nat) : State :=
  (s.setFld F.BK_USED_USED t (max (s.fld F.BK_USED_USED t) (s.budget t))).suspend t

/-- The context th of thread t, which is parked, is to have cost n slots so far (R51, R52): those not charged yet are charged,
or the thread is suspended where they pass its budget. Answers whether it is still parked. -/
def State.parkBill (s : State) (t : Nat) (th : Thr) (n : Nat) : State × Bool :=
  let d := n - th.pkSlots
  let b := s.budget t
  if b ≠ 0 ∧ b < s.fld F.BK_USED_USED t + d then (s.overrun t, false)
  else ((s.charge t d).setThr t { th with pkSlots := max n th.pkSlots }, true)

/-- Thread t stays parked for m more CK_CORE cycles, which are charged (R51, R52). -/
def State.parkPass (s : State) (t m : Nat) : State × Bool :=
  let th := (s.thrOf t).parkedFor m
  s.parkBill t th th.parkSlots

/-- BOLLARD_SUSPEND (R51-R53): thread t in an activation, with a limit, is suspended where its usage stands at its budget as it
is to issue, or as m more CK_CORE cycles of parking are charged. Nothing happens otherwise. -/
def execBollardSuspend (t : Fin 64) (m : Nat) (s : State) : Host.Outcome State Fault Refusal :=
  let th := s.thrOf t
  let b := s.budget t
  let u := s.fld F.BK_USED_USED t
  let pk := th.parkedFor m
  let go := s.thrUsed t && s.modeRuns t && s.blockOn t && b != 0 && match th.st with
    | .active => decide (b ≤ u)
    | .parked => decide (b < u + (pk.parkSlots - pk.pkSlots))
    | _ => false
  .next (if go then s.overrun t else s)

/-! ### Releases (R44-R50) -/

/-- The tick release of thread t (R46, R48, R50): it begins an activation, resumes a suspended Avenue thread of which a
tick has passed, or is counted lost. -/
def State.tickRelease (s : State) (t : Nat) : State :=
  let th := s.thrOf t
  let s := s.setThr t { th with rel := true }
  match th.st with
  | .waiting => s.beginActivation t
  | .suspended =>
    if s.avenue t ∧ th.ripe then (s.setThr t { s.thrOf t with st := .active }) else s.bump F.BK_TSTAT_LOST t
  | .active | .parked => s.bump F.BK_TSTAT_LOST t
  | .stopped => s

/-- TICK_RELEASE (R45, R48, R50): LT has reached the tick's nominal instant plus the thread's offset; once in a tick, and
nothing before. -/
def execTickRelease (t : Fin 64) (s : State) : Host.Outcome State Fault Refusal :=
  let due := s.thrUsed t && s.modeRuns t && s.blockOn t && s.flag F.BK_TCFG_RELEN t && !(s.thrOf t).rel
    && decide (s.ct.tickNom + 4 * s.fld F.BK_TCFG_RELOFS t ≤ s.ltNs)
  .next (if due then s.tickRelease t else s)

/-- WAKE_RELEASE (R45-R47): a wake is presented for thread t in a mode in which it runs. -/
def execWakeRelease (t : Fin 64) (s : State) : Host.Outcome State Fault Refusal :=
  .next (if s.modeRuns t ∧ s.blockOn t then s.wakeThread t else s)

/-- What ADMIT_BROKEN of thread t shows at a tick (R56, R61): it follows the budget, and a change is notified. ADMITX is set as
ADMIT_BROKEN becomes 1: software that clears it while B_t < W_t lasts does not find it set again (DESIGN CHOICE,
notes/assumptions/186.md). -/
def State.admitTick (s : State) (t : Nat) : State :=
  let broken := decide (s.budget t < s.fld F.BK_ADMIT_WCET t) && s.avenue t
  if broken = s.flag F.BK_TSTAT_ADMIT_BROKEN t then s
  else
    let s := s.setFld F.BK_TSTAT_ADMIT_BROKEN t (if broken then 1 else 0)
    let s := s.raiseIf broken F.BK_TSTAT_ADMITX t
    s.notice (s.ownerOf .thread t) 3 (if broken then 1 else 0) t s.ltMs (w32 (s.budget t))

/-- What a tick does to thread t (R42, R48, R50, R61, R297, R308): usage restarts, a stopped Avenue thread is restarted, a
suspended one resumes or waits for its tick release, WAITTICK without a tick release ends, and ADMIT_BROKEN follows the
budget. -/
def State.thrTick (s : State) (t : Nat) : State :=
  let rel := s.flag F.BK_TCFG_RELEN t
  let s := s.setFld F.BK_USED_USED t 0
  let s := s.setThr t { s.thrOf t with rel := false }
  let th := s.thrOf t
  let s := match th.st with
    | .stopped => if s.avenue t then s.thrClear t else s
    | .suspended =>
      if s.avenue t ∧ rel then s.setThr t { th with ripe := true } else s.setThr t { th with st := .active }
    | .waiting => if th.waitTick ∧ ¬ rel then s.beginActivation t else s
    | _ => s
  s.admitTick t

/-- What a tick does to every used thread (R41); at T0 the threads have just started (R61, R297). -/
def State.threadsTick (s : State) (t0 : Bool) : State :=
  s.each 64 fun s t => if ¬ s.thrUsed t then s else if t0 then s.admitTick t else s.thrTick t

end Sys2Proof.Machine
end

