-- ==== Sys2Proof/Machine/QuarterReset.lean ====
section
/-! DEFINITION. The instance a register belongs to (R22, R363) and the effects of a QUARTER RESET (R382-R385). -/

namespace Sys2Proof.Machine

/-- The instance of R363 that element i of a register belongs to; none for a register tied to no such instance. -/
def Reg.inst (r : Reg) (i : Nat) : Option (Kind × Nat) :=
  match r with
  | .LL_CFG | .LL_WIDTH | .LL_PER | .LL_CNT | .LL_ARMT_LO | .LL_ARMT_HI | .LL_CMD | .LL_STAT | .LL_NEXT_LO | .LL_NEXT_HI
  | .LL_CNTS => some (.lamplighter, i)
  | .LL_CAPCFG | .LL_CAPSTAT | .GP_CFG => some (.pin, i)
  | .PM_AON_WKPIN => some (if i < 96 then (.pin, i) else (.fieldPort, i - 96))
  | .XC_CFG | .XC_INA | .XC_INB | .XC_P0 | .XC_P1 | .XC_P2 | .XC_P3 | .XC_OUT | .XC_ACT | .XC_ARMOFS | .XC_STAT | .XC_CNT
  | .XC_VAL | .XC_CMD => some (.cell, i)
  | .ARC_CFG | .ARC_REGION | .ARC_TIDLE | .ARC_QCAP | .ARC_LEVEL | .ARC_LIMIT | .ARC_LOST | .ARC_STAT | .ARC_CNT
  | .ARC_WPTR | .ARC_RPTR | .ARC_RLPTR | .ARC_CMD => some (.arcade, i)
  | .BK_TCFG | .BK_TENTRY | .BK_BUDGET | .BK_ADMIT | .BK_USED | .BK_OVERRUN | .BK_TSTAT | .BK_TPC | .BK_FCODE | .BK_FPC
  | .BK_FADDR0 | .BK_FADDR1 => some (.thread, i)
  | .FP_LAUNCH => some (.fieldPort, i / 8)
  | .FP_TXBUF => some (.fieldPort, i / 192)
  | .TW_TXBUF | .TW_TGTBUF => some (.twoWire, i / 8)
  | .HL_TBLSHD => some (.headLink, i / 36)
  | .HL_TBL => some (.headLink, i / 576)
  | .HL_SNR => some (.headLink, i / 1440)
  | r => match r.blk with
    | .FP => some (.fieldPort, i)
    | .TW => some (.twoWire, i)
    | .HL => some (.headLink, i)
    | _ => none

/-- The register at a key of a register file. -/
def keyReg (k : Nat) : Reg := Reg.ofNat (k / 16384)

/-- The register element at a key is a field of an instance of Quarter q. -/
def State.keyOwned (s : State) (q k : Nat) : Bool :=
  match (keyReg k).inst (k % 16384) with
  | some (kd, i) => s.ownerOf kd i == q
  | none => false

/-- A register file in which the elements that p selects take the values of another. -/
def takeFrom (p : Nat → Bool) (src t : Tab Word) : Tab Word :=
  (src.filter fun e => p e.1).foldl (fun t e => t.set regDefault e.1 e.2) (t.filter fun e => !p e.1)

/-- The output registers of the pins that Quarter q owns take their Map values (R382). -/
def State.gpioReset (s : State) (q : Nat) : State :=
  (List.range 3).foldl (fun s k =>
    let m := s.pinMask q k
    let mix (r : Reg) := w32 (((s.reg r k).toNat - ((s.reg r k).toNat &&& m)) ||| ((s.mapw r k).toNat &&& m))
    (s.setReg .GP_OUT k (mix .GP_OUT)).setReg .GP_OE k (mix .GP_OE)) s

/-- The code of a word of region 13 that belongs to an instance of Quarter q. -/
def State.bufOwned (s : State) (q k : Nat) : Bool :=
  let w := k % 2 ^ 20
  k / 2 ^ 20 == rgPort && (
    if w < 3072 then s.ownerOf .fieldPort (w / 96) == q
    else if w < 3104 then s.ownerOf .twoWire ((w - 3072) / 4) == q
    else if w < 3136 then s.ownerOf .twoWire ((w - 3104) / 4) == q
    else false)

/-- Every register field of the instances of Quarter q, and its quotas, return to their Map values (R382). The active
copies follow as if captured. -/
def State.quarterRegs (s : State) (q : Nat) : State :=
  let p := s.keyOwned q
  let ecc := s.ecc.filter fun e => !s.bufOwned q e.1
  let mq := s.mapw .HP_QQUOTA q
  let s := s.gpioReset q
  let s := { s with live := takeFrom p s.mapv s.live, staged := takeFrom p s.mapv s.staged,
                    captured := takeFrom p s.mapv s.captured, active := takeFrom p s.mapv s.active,
                    ecc := ecc }
  (s.setFld F.HP_QQUOTA_XCQ q (F.HP_QQUOTA_XCQ.get mq)).setFld F.HP_QQUOTA_LLQ q (F.HP_QQUOTA_LLQ.get mq)

/-- f for each of n instances of a kind that Quarter q owns. -/
def State.eachOwned (s : State) (k : Kind) (q n : Nat) (f : State → Nat → State) : State :=
  s.each n fun s i => if s.ownerOf k i = q then f s i else s

/-- The units of Quarter q stop (R382): frames are cut, transactions end, links restart, arms and trains drop and pulses
end, cells return to their initial state, Arcades empty. -/
def State.quarterUnits (s : State) (q : Nat) : State :=
  let s := s.eachOwned .fieldPort q 32 fun s n =>
    s.setFp n { sel := (s.fpOf n).sel.map fun p => { p with ignore := true } }
  let s := s.eachOwned .twoWire q 8 fun s n => s.twStop n
  let s := s.eachOwned .headLink q 2 fun s n => s.hlDown n
  let s := s.eachOwned .lamplighter q 16 fun s n => s.setLl n {}
  let s := s.eachOwned .cell q 128 fun s c => s.setCell c {}
  s.eachOwned .arcade q 64 fun s a => s.arcEmpty a

/-- A two-wire port of Quarter q that stays enabled checks its lines as when it was enabled (R138, R382). -/
def State.quarterLines (s : State) (q : Nat) : State :=
  s.eachOwned .twoWire q 8 fun s n => if s.twEn n then s.twEnable n else s

/-- The rings of Quarter q are disabled, transfers in progress written back with ABORT (R382). -/
def State.quarterRings (s : State) (q : Nat) : State :=
  let s := (s.qOf q).xfers.foldl (fun s x => s.dmaBack q x true) s
  s.each 16 fun s r => s.setFld F.HP_DRCFG_EN (ringIx q r) 0

/-- The mailbox, the notice ring and the watchdog of Quarter q (R382, R383): indices catch up, the command without a
response goes, QRDONE is set and the QRESET notice written. -/
def State.quarterHost (s : State) (q detail : Nat) : State :=
  let s := (s.setQ q { s.qOf q with cmd := none, late := false, qrDue := none }).wdOff q
  let cpi := s.fld F.HP_CPI_IDX q
  let s := (s.setFld F.HP_CCI_IDX q cpi).setFld F.HP_RPI_IDX q cpi
  let s := s.setFld F.HP_QSTAT_UPEND q 0
  let s := s.setFld F.HP_QSTAT_QRP q (if (s.qOf q).qr.isSome then 1 else 0)
  let s := (s.setFld F.HP_NCI_IDX q (s.fld F.HP_NPI_IDX q)).raise F.HP_QSTAT_QRDONE q
  s.notice q 7 detail q s.ltMs 0

/-- The threads of Quarter q stop and start as after LOAD (R382). -/
def State.quarterThreads (s : State) (q : Nat) : State :=
  s.each 64 fun s t => if s.thrUsed t ∧ s.ownerOf .thread t = q then s.thrRestart t else s

/-- What a QUARTER RESET of q does to its instances before the units see the tick (R382). -/
def State.quarterReset (s : State) (q : Nat) : State :=
  let s := ((s.quarterUnits q).quarterRings q).quarterRegs q
  (s.eachOwned .arcade q 64 State.arcQuota).quarterThreads q

/-- The command of Quarter q that acts at this tick (R367, R369): its words. -/
def State.dueCmd (s : State) (q : Nat) : Option (List Word) :=
  match (s.qOf q).cmd with
  | some c => if c.due then some c.words else none
  | none => none

/-- A QUOTA, QUARTER_RESET or THREAD_RESTART of Quarter q acts and answers at a tick at which the Quarters of `qs` are reset
(R369, R379, R384, R385). A command of a Quarter that is reset goes without a response, but for a QUARTER_RESET. -/
def State.tickCmd (s : State) (qs : List Nat) (q : Nat) : State :=
  match s.dueCmd q with
  | none => s
  | some ws =>
    match mbOp ws with
    | 2 =>
      if qs.contains (s.quotaOwner ws) then (if qs.contains q then s else s.respond q 6 [])
      else if qs.contains q then s
      else s.quotaApply q ws
    | 3 => s.respond q 0 [w32 s.ct.tickCnt]
    | 4 =>
      let t := arg ws 1 % 64
      if qs.contains q then s
      else if qs.contains (s.ownerOf .thread t) then s.respond q 2 []
      else (s.thrRestart t).respond q 0 [w32 s.ct.tickCnt]
    | _ => s

end Sys2Proof.Machine
end

