-- ==== Sys2Proof/Machine/LineCode.lean ====
section
/-! DEFINITION. The 8b/10b line code of the ring ports (R331, R332). The spec names the code and its usual running disparity; its
tables are those of the published code (PRESUMED, notes/assumptions/196.md). A code group is a number of ten bits, the bit that is
sent first on the left. -/

namespace Sys2Proof.Machine

/-- The six-bit codes of D0 to D31 at negative running disparity. -/
def code6 : List Nat :=
  [0b100111, 0b011101, 0b101101, 0b110001, 0b110101, 0b101001, 0b011001, 0b111000,
   0b111001, 0b100101, 0b010101, 0b110100, 0b001101, 0b101100, 0b011100, 0b010111]
  ++ [0b011011, 0b100011, 0b010011, 0b110010, 0b001011, 0b101010, 0b011010, 0b111010,
      0b110011, 0b100110, 0b010110, 0b110110, 0b001110, 0b101110, 0b011110, 0b101011]

/-- The six-bit code of K28 at negative running disparity. -/
def code6K28 : Nat := 0b001111

/-- The four-bit codes of D.x.0 to D.x.7 at negative running disparity. -/
def code4 : List Nat := [0b1011, 0b1001, 0b0101, 0b1100, 0b1101, 0b1010, 0b0110, 0b1110]

/-- The four-bit codes of K28.0 to K28.7 at negative running disparity. -/
def code4K : List Nat := [0b1011, 0b0110, 0b1010, 0b1100, 0b1101, 0b0101, 0b1001, 0b0111]

/-- The ones among the n low bits of a number. -/
def ones : Nat → Nat → Nat
  | 0, _ => 0
  | n + 1, w => w % 2 + ones n (w / 2)

/-- The running disparity after a sub-block of n bits; true is positive. -/
def rdAfter (rd : Bool) (n w : Nat) : Bool := if 2 * ones n w = n then rd else decide (n < 2 * ones n w)

/-- The six-bit sub-block of a code at a running disparity: unbalanced codes and that of D7 are inverted at positive disparity. -/
def sub6 (rd : Bool) (c : Nat) : Nat := if rd ∧ (ones 6 c ≠ 3 ∨ c = 0b111000) then 63 - c else c

/-- The four-bit sub-block of D.x.y at a running disparity, with the alternative for y = 7. -/
def sub4 (rd : Bool) (x y : Nat) : Nat :=
  let c := if y = 7 ∧ (if rd then x = 11 ∨ x = 13 ∨ x = 14 else x = 17 ∨ x = 18 ∨ x = 20) then 0b0111 else code4.getD y 0
  if rd ∧ (ones 4 c ≠ 2 ∨ c = 0b1100) then 15 - c else c

/-- The four-bit sub-block of a control code. -/
def sub4K (rd : Bool) (x y : Nat) : Nat :=
  let c := if x = 28 then code4K.getD y 0 else 0b0111
  if rd then 15 - c else c

/-- The code group of a symbol at a running disparity. A violation is never sent. -/
def codeGroup (rd : Bool) : RgSym → Nat
  | .d b =>
    let six := sub6 rd (code6.getD (b.toNat % 32) 0)
    16 * six + sub4 (rdAfter rd 6 six) (b.toNat % 32) (b.toNat / 32)
  | .k b =>
    let x := b.toNat % 32
    let six := sub6 rd (if x = 28 then code6K28 else code6.getD x 0)
    16 * six + sub4K (rdAfter rd 6 six) x (b.toNat / 32)
  | .bad => 0

/-- The running disparity after a code group. -/
def rdGroup (rd : Bool) (g : Nat) : Bool := rdAfter (rdAfter rd 6 (g / 16)) 4 (g % 16)

/-- The code groups of symbols sent from a running disparity, and the disparity after them. -/
def encodeLine (rd : Bool) : List RgSym → List Nat × Bool
  | [] => ([], rd)
  | x :: xs =>
    let g := codeGroup rd x
    let (l, r) := encodeLine (rdGroup rd g) xs
    (g :: l, r)

/-- A code group is no code violation at a running disparity: that of a data byte or of one of the control codes given (R332). -/
def groupOk (ks : List Byte) (rd : Bool) (g : Nat) : Bool :=
  ((List.range 32).any fun x => sub6 rd (code6.getD x 0) == g / 16
      && (List.range 8).any fun y => sub4 (rdAfter rd 6 (g / 16)) x y == g % 16)
    || ks.any fun k => codeGroup rd (.k k) == g

/-- Which of the code groups received from a running disparity on are violations. -/
def violations (ks : List Byte) (rd : Bool) : List Nat → List Bool
  | [] => []
  | g :: gs => (!groupOk ks rd g) :: violations ks (rdGroup rd g) gs

/-- The last n elements of a list. -/
def lastN {α : Type} (n : Nat) (l : List α) : List α := l.drop (l.length - n)

/-- The fewest violations among the last 64 code groups received, over the disparity at which they may begin. -/
def recentBad (ks : List Byte) (gs : List Nat) : Nat :=
  let n (rd : Bool) : Nat := ((lastN 64 (violations ks rd gs)).filter id).length
  min (n false) (n true)

/-- A code group that holds a comma. -/
def isComma (g : Nat) : Bool := g / 8 == 0b0011111 || g / 8 == 0b1100000

/-- Four commas stand in consecutive even positions of the code groups from the one given on. -/
def fourCommas : List Nat → Bool
  | a :: b :: c :: d :: e :: f :: g :: rest =>
    (isComma a && isComma c && isComma e && isComma g) || fourCommas (b :: c :: d :: e :: f :: g :: rest)
  | _ => false

/-- A receiver that has got these code groups is locked (R331): four commas in consecutive even positions, and no violation in the
last 64. -/
def lockSeen (ks : List Byte) (gs : List Nat) : Bool := fourCommas gs && decide (64 ≤ gs.length) && recentBad ks gs == 0

/-- A receiver that has got these code groups loses lock (R331): four violations within 64. -/
def lockGone (ks : List Byte) (gs : List Nat) : Bool := decide (4 ≤ recentBad ks gs)

/-- The control codes of Parliar (R332): K28.5, K28.1, K28.3, K27.7, K29.7 and K30.7. -/
def parliarK : List Byte := [0xBC, 0x3C, 0x7C, 0xFB, 0xFD, 0xFE]

/-- The control codes of 1000BASE-X (IEEE 802.3 clause 36): K28.5, K23.7, K27.7, K29.7 and K30.7. -/
def ethernetK : List Byte := [0xBC, 0xF7, 0xFB, 0xFD, 0xFE]

/-- The IDLE of Parliar and of 1000BASE-X, which fills a line between frames (R332). -/
def idleSet : List RgSym := [.k 0xBC, .d 0x50]

end Sys2Proof.Machine
end

