-- ==== Sys2Proof/Machine/Ring.lean ====
section
/-! DEFINITION. The ring ports (15_ring_ports): Parliar, link delay, slots, the Kerb, the ring Bell, 1000BASE-X and PTP.
Stamps are in 1/256 ns; port 0 is RG0. -/

namespace Sys2Proof.Machine

/-! ### Shared parts -/

/-- The personality of the ring ports: 0 passive, 1 Parliar, 2 1000BASE-X. -/
def State.rgPers (s : State) : Nat := s.act F.RG_CFG_PERS
/-- The upstream port of Parliar. -/
def State.rgU (s : State) : Nat := s.act F.RG_CFG_UPP
/-- The downstream port of Parliar. -/
def State.rgD (s : State) : Nat := 1 - s.act F.RG_CFG_UPP
/-- The device is the master of its ring. -/
def State.rgMaster (s : State) : Bool := s.rgPers == 1 && s.actB F.RG_CFG_PMASTER
/-- The device is a node of its ring. -/
def State.rgNode (s : State) : Bool := s.rgPers == 1 && !s.actB F.RG_CFG_PMASTER
/-- The Kerb is open. -/
def State.kerbOpen (s : State) : Bool := s.fld F.RG_KSTAT_KST == 2
/-- The receiver of a port is locked. -/
def State.rxLocked (s : State) (p : Nat) : Bool := if p = 0 then s.flag F.RG_STATUS_RXL0 else s.flag F.RG_STATUS_RXL1

/-- The stamp of an arrival at a port's receive balls in this cycle (R350). -/
def State.rgArrive (s : State) (ph : Nat) : Int := (s.stamp ph : Int) - 16 * s.fld F.RG_CAL_RXLAT
/-- The stamp of a departure from a port's transmit balls in this cycle (R350). -/
def State.rgDepart (s : State) (ph : Nat) : Int := (s.stamp ph : Int) + 16 * s.fld F.RG_CAL_TXLAT

/-- The time of domain x at the arrival whose stamp is rgArrive (R70). -/
def State.rgArriveIn (s : State) (x : Bool) (ph : Nat) : Int := (s.domStamp x ph : Int) - 16 * s.fld F.RG_CAL_RXLAT
/-- The time of domain x at the departure whose stamp is rgDepart. -/
def State.rgDepartIn (s : State) (x : Bool) (ph : Nat) : Int := (s.domStamp x ph : Int) + 16 * s.fld F.RG_CAL_TXLAT

/-- ns of a ring's time in 1/256 ns. -/
def rgNs (n : Nat) : Int := (256 * n : Nat)

/-- Code groups pass through the device (R353): the Kerb is open, or its opening has come to step 4, 1 200 ns after its start
(DESIGN CHOICE, notes/assumptions/197.md). -/
def State.kerbThru (s : State) : Bool :=
  s.kerbOpen || (s.fld F.RG_KSTAT_KST == 1 && match s.ring.openAt with
    | some t => decide (t + ns256 1200 ≤ s.ltMs)
    | none => false)

/-- A port can send: code groups pass and no Bell has its transmit pair (R352, R355). -/
def State.rgSends (s : State) (port : Nat) : Bool := s.kerbThru && !s.ring.bells.any (fun b => b.1 == port)

/-- A list of small records by number: the value at k. -/
def assoc {α : Type} (l : List (Nat × α)) (k : Nat) : Option α := (l.find? fun p => p.1 == k).map (·.2)
/-- The list with the value at k replaced. -/
def assocSet {α : Type} (l : List (Nat × α)) (k : Nat) (v : α) : List (Nat × α) := (k, v) :: l.filter fun p => p.1 != k
/-- The list without k. -/
def assocDel {α : Type} (l : List (Nat × α)) (k : Nat) : List (Nat × α) := l.filter fun p => p.1 != k

/-- The code groups of symbols that leave a port now, in the running disparity that its line has come to (R331). -/
def State.rgLine (s : State) (port : Nat) (l : List RgSym) : List Nat × Bool := encodeLine ((assoc s.ring.rds port).getD false) l

/-- The line of a port has the running disparity rd. -/
def State.rgKeepRd (s : State) (port : Nat) (rd : Bool) : State :=
  { s with ring := { s.ring with rds := assocSet s.ring.rds port rd } }

/-- Symbols leave a port from an instant on, followed by IDLE (R332). -/
def State.rgPut (s : State) (port : Nat) (at_ : Int) (l : List RgSym) : State :=
  let l := l ++ idleSet
  let g := s.rgLine port l
  (s.rgKeepRd port g.2).emit (.ringTx port at_ l g.1)

/-- A port sends where it can. -/
def State.rgSend (s : State) (port : Nat) (at_ : Int) (l : List RgSym) : State :=
  if s.rgSends port then s.rgPut port at_ l else s

/-- A port event of an instant (R355). -/
def State.rgEvent (s : State) (kind port cause ms : Nat) : State :=
  s.present { typ := 8, idx := 64, ms := ms, payload := [w32 (kind * 2 ^ 28 + port * 2 ^ 24 + cause)] }

/-- Bytes of a number list. -/
def toBytes (l : List Nat) : List Byte := l.map (BitVec.ofNat 8)
/-- Data symbols of numbers. -/
def dataSyms (l : List Nat) : List RgSym := l.map fun v => .d (BitVec.ofNat 8 v)
/-- A CSM of 28 bytes (R332). -/
def csmSyms (l : List Nat) : List RgSym := .k 0x3C :: dataSyms l
/-- An ECHO of 10 bytes. -/
def echoSyms (l : List Nat) : List RgSym := .k 0x7C :: dataSyms l
/-- A frame: SOF, its symbols and EOF. -/
def frameSyms (l : List RgSym) : List RgSym := .k 0xFB :: l ++ [.k 0xFD]
/-- Numbers of a byte list. -/
def fromBytes (l : List Byte) : List Nat := l.map (·.toNat)

/-- Bytes followed by their CRC-32, or by its complement (R335, R337). -/
def withCrc (l : List Nat) (good : Bool) : List Nat :=
  l ++ leBytes 4 (if good then crc32 l else Nat.xor (crc32 l) 0xFFFFFFFF)

/-! ### The Kerb (R352-R354) -/

/-- Why the Kerb must be closed, coded as RG_KSTAT.CAUSE; none where nothing of R352 holds. -/
def State.kerbBar (s : State) : Option Nat :=
  if ¬ s.actB F.RG_KERB_OPEN then some 1
  else if s.mode ≤ 2 ∨ s.mode = 8 ∨ s.mode = 11 ∨ s.fld F.LC_STATE_STATE = 5 ∨ ¬ s.powered pdRing then some 2
  else if s.rgPers = 0 then some 3
  else if s.ring.kclose then some 5
  else none

/-- The conditions for opening hold (R352). -/
def State.kerbReady (s : State) : Bool :=
  s.kerbBar.isNone && s.ring.pll && s.rxLocked 0 && s.rxLocked 1

/-- Sets the state of the Kerb; a change sets KCHG. -/
def State.setKst (s : State) (k : Nat) : State :=
  if s.fld F.RG_KSTAT_KST = k then s else (s.setFld F.RG_KSTAT_KST 0 k).raise F.RG_STATUS_KCHG

/-- A closing of the Kerb begins now with a cause (R353, R354): what is being forwarded is lost, and KERB_N is released. -/
def State.kerbClose (s : State) (cause : Nat) : State :=
  let k := s.fld F.RG_KSTAT_KST
  if k = 1 ∨ k = 2 then
    let s := (s.setKst 3).setFld F.RG_KSTAT_CAUSE 0 cause
    { s with ring := { s.ring with since := none, openAt := none, fwd := [], kerbN := false } }.emit (.kerbN false s.ltMs)
  else s

/-- Notes since when a requested transition of the Kerb is possible, and shows why a closed Kerb is closed (R352, R353). -/
def State.kerbEval (s : State) : State :=
  let k := s.fld F.RG_KSTAT_KST
  let want := (k == 0 && s.kerbReady && !s.ring.hold) || (k == 2 && s.kerbBar == some 1)
  let s := { s with ring := { s.ring with since := if want then (match s.ring.since with
      | some t => some t
      | none => some s.ltMs) else none } }
  if k ≠ 0 then s
  else match s.kerbBar with
    | some c => s.setFld F.RG_KSTAT_CAUSE 0 c
    | none =>
      if s.kerbReady then s
      else if ¬ s.ring.pll ∧ s.fld F.RG_KSTAT_CAUSE = 6 then s
      else s.setFld F.RG_KSTAT_CAUSE 0 4

/-- The transition instant of this tick, in 1/256 ns (R353). -/
def State.kerbTime (s : State) : Nat := 256 * (s.ct.tickNom + s.act F.RG_KERB_KOFS * 1000 % max 1 s.tickPeriod)

/-- The transition instant of this tick has come, a given time or more after the conditions changed (R353). -/
def State.kerbInstant (s : State) (wait : Nat) : Bool :=
  match s.ring.since with
  | some t => decide (t + wait ≤ s.kerbTime ∧ s.kerbTime ≤ s.ltMs)
  | none => false

/-- The relay wait before an opening: RLYT ms (R353). -/
def State.kerbRelay (s : State) : Nat := s.act F.RG_KERB_RLYT * 1000 * us256

/-- KERB_OPEN (R352-R354): the opening begins at the transition offset while the conditions hold, RLYT ms after KERB_N was driven
low (DEDUCED, notes/assumptions/197.md); the drivers of both ports send IDLE. -/
def execKerbOpen (s : State) : Host.Outcome State Fault Refusal :=
  if s.fld F.RG_KSTAT_KST = 0 ∧ s.kerbReady ∧ ¬ s.ring.hold ∧ s.kerbInstant s.kerbRelay then
    let s := { s.setKst 1 with ring := { s.ring with since := none, openAt := some s.kerbTime, kerbN := true } }
    let s := s.emit (.kerbN true (s.kerbTime - s.kerbRelay))
    .next ((s.rgPut 0 s.kerbTime []).rgPut 1 s.kerbTime [])
  else .next s

/-- What a port of 1000BASE-X sends when its link comes up (R346): clause 37 with full duplex and no pause (PRESUMED,
notes/assumptions/196.md). -/
def negotiation : List RgSym := [.k 0xBC, .d 0xB5, .d 0x20, .d 0x00, .k 0xBC, .d 0x42, .d 0x20, .d 0x00]

/-- KERB_OPEN_COMPLETE (R353): the neighbours are aligned; KST becomes 2 and an event is sent. The CSMs that were due
while the Kerb was closed are not launched. -/
def execKerbOpenComplete (s : State) : Host.Outcome State Fault Refusal :=
  if s.fld F.RG_KSTAT_KST = 1 then
    let s := ((s.setKst 2).setFld F.RG_KSTAT_CAUSE 0 0).bump F.RG_KSTAT_KTRN
    let s := { s with ring := { s.ring with csmDue := s.ring.csmDue.filter fun n => decide (s.ltMs ≤ 256 * n) } }
    let s := (s.rgEvent 0 0 0 s.ltMs).kerbEval
    .next (if s.rgPers = 2 then (s.rgSend 0 s.ltMs negotiation).rgSend 1 s.ltMs negotiation else s)
  else .next s

/-- KERB_CLOSE (R353): a closing that OPEN = 0 requests begins at the transition offset; one for another cause of R352 at
once. -/
def execKerbClose (s : State) : Host.Outcome State Fault Refusal :=
  match s.kerbBar with
  | some 1 => .next (if s.kerbInstant 0 then s.kerbClose 1 else s)
  | some c => .next (s.kerbClose c)
  | none => .next s

/-- KERB_CLOSE_COMPLETE (R353): the neighbours are aligned through the switch; KST becomes 0 and an event is sent. -/
def execKerbCloseComplete (s : State) : Host.Outcome State Fault Refusal :=
  if s.fld F.RG_KSTAT_KST = 3 then
    let s := (s.setKst 0).bump F.RG_KSTAT_KTRN
    .next ((s.rgEvent 1 0 (s.fld F.RG_KSTAT_CAUSE) s.ltMs).kerbEval)
  else .next s

/-- A write of RG_CMD (R352, R355): KCLOSE closes at once; a Bell waits for the next tick. -/
def State.rgCmd (s : State) (w : Word) : State :=
  let v := w.toNat
  let bell (s : State) (p : Nat) : State :=
    if ¬ bit v p then s
    else if ¬ s.kerbOpen then s.raise F.RG_STATUS_CMDREF
    else { s with ring := { s.ring with bellReq := p :: s.ring.bellReq } }
  let s := bell (bell s 0) 1
  if bit v 2 then ({ s with ring := { s.ring with kclose := true } }.kerbClose 5).kerbEval else s

/-- RG_BELL_END (R355): 102.4 µs after its tick a Bell ends; nothing before. -/
def execRgBellEnd (p : Fin 2) (s : State) : Host.Outcome State Fault Refusal :=
  match assoc s.ring.bells p with
  | some e =>
    if s.ltMs < e then .next s
    else
      let b := assocDel s.ring.bells p
      let s := { s with ring := { s.ring with bells := b } }
      .next ((s.setFld F.RG_STATUS_BELLACT 0 (if b.isEmpty then 0 else 1)).rgEvent 5 p 0 e)
  | none => .next s

/-- The control codes that are no code violation on the lines (R332, R346). -/
def State.rgK (s : State) : List Byte := if s.rgPers = 2 then ethernetK else parliarK

/-- RG_RX_LOCK (R331, R355): a receiver gains lock by the code groups that it has received last, the newest at the end; nothing where
they do not give it. -/
def execRgRxLock (p : Fin 2) (groups : List (Fin 1024)) (s : State) : Host.Outcome State Fault Refusal :=
  if ¬ s.powered pdRing ∨ s.rxLocked p ∨ ¬ lockSeen s.rgK (groups.map (·.val)) then .next s
  else
    let s := (s.raise (if p.val = 0 then F.RG_STATUS_RXL0 else F.RG_STATUS_RXL1)).raise F.RG_STATUS_LCHG
    .next ((s.rgEvent 2 p 0 s.ltMs).kerbEval)

/-- RG_RX_LOCK_LOST (R331, R352, R355): a receiver loses lock by the code groups that it has received last; an open Kerb stays open. -/
def execRgRxLockLost (p : Fin 2) (groups : List (Fin 1024)) (s : State) : Host.Outcome State Fault Refusal :=
  if ¬ s.rxLocked p ∨ ¬ lockGone s.rgK (groups.map (·.val)) then .next s
  else
    let s := (s.setFld (if p.val = 0 then F.RG_STATUS_RXL0 else F.RG_STATUS_RXL1) 0 0).raise F.RG_STATUS_LCHG
    .next ((s.rgEvent 3 p 0 s.ltMs).kerbEval)

/-- TRANSMIT_PLL_LOCK (R352). -/
def execTransmitPllLock (s : State) : Host.Outcome State Fault Refusal :=
  .next (if s.powered pdRing then ({ s with ring := { s.ring with pll := true } }).kerbEval else s)

/-- TRANSMIT_PLL_LOSS (R352, R353): the Kerb closes at once with cause 6. -/
def execTransmitPllLoss (s : State) : Host.Outcome State Fault Refusal :=
  .next (({ s with ring := { s.ring with pll := false } }.kerbClose 6).kerbEval)

/-! ### The cycle-start mark and link delay (R335-R338, R351) -/

/-- The link delay in 1/16 ns that the ring shows. -/
def State.rgDelta (s : State) : Nat := bits (s.reg .RG_DELAY).toNat 15 0
/-- The link delay is valid. -/
def State.rgDval (s : State) : Bool := bit (s.reg .RG_DELAY).toNat 16

/-- The bytes of a CSM before its CRC (R335). -/
def csmBytes (t : Nat) (q dom : Nat) (inc : Bool) (cyc acc rtt clen : Nat) : List Nat :=
  leBytes 8 (t / 256) ++ [t % 256, q + 4 * dom + (if inc then 8 else 0)] ++ leBytes 2 cyc ++ leBytes 4 acc ++ leBytes 4 rtt
    ++ leBytes 4 clen

/-- The enabled transmit slots. -/
def State.rgSlots (s : State) : List Nat := (List.range 8).filter fun i => s.actB F.RG_SLOT_EN i

/-- The nominal cycle length in ns (R336). -/
def State.rgClen (s : State) : Nat :=
  let k := s.act F.RG_CYC_KM1 + 1
  if s.actB F.RG_CYC_MODE then s.tickPeriod / k else k * s.tickPeriod

/-- The time that separates frames and ordered sets: two IDLE sets (R339). -/
def rgGap : Int := rgNs 32

/-- The time that a frame with n symbols between SOF and EOF takes (R339). -/
def symNs (n : Nat) : Nat := 8 * (2 + n)

/-- The time in ns that a frame of n words takes (R339). -/
def frameNs (n : Nat) : Nat := symNs (12 + 4 * n)

/-- An instant falls into an interval at D or the gap after it. -/
def within (i : Int × Int) (t : Int) : Bool := decide (i.1 ≤ t ∧ t < i.2 + rgGap)

/-- A forwarded frame, or the gap after it, is at D at an instant. -/
def State.rgBusy (s : State) (t : Int) : Bool := s.ring.fwd.any fun f => within (f.at_, f.stop) t

/-- What the node sends of its own takes D in an interval: the forwarded frames that would begin in it are removed and counted
(R342; for a CSM of the master DESIGN CHOICE, notes/assumptions/125.md). -/
def State.rgTake (s : State) (i : Int × Int) : State :=
  let hit (f : RgFwd) : Bool := !f.left && within i f.at_
  let n := (s.ring.fwd.filter hit).length
  let s := { s with ring := { s.ring with fwd := s.ring.fwd.filter fun f => !hit f } }
  if n = 0 then s else s.bump F.RG_ERR1_FWDDROP 0 n

/-- The forwarded frames whose SOF has come to D leave, and their packets are presented; those that have left go (R334, R344). -/
def State.rgFlush (s : State) : State :=
  let now : Int := s.ltMs
  let due := s.ring.fwd.filter fun f => !f.left && decide (f.at_ ≤ now)
  let s := due.foldl (fun s f =>
    let s := s.rgSend s.rgD f.at_ (frameSyms f.syms)
    match f.pkt with
    | some p => s.present p
    | none => s) s
  { s with ring := { s.ring with
      fwd := (s.ring.fwd.filter fun f => decide (now < f.stop + rgGap)).map fun f =>
        if f.at_ ≤ now then { f with left := true } else f } }

/-- CSM_LAUNCH (R336, R339, R340): the master launches the CSM due at the transmit symbol boundary at interpolator phase ph of this
cycle. While a forwarded frame or the gap after it is at D it waits, and a CSM so delayed by a frame sets CSLATE. One that a Bell keeps from
D is lost. -/
def execCsmLaunch (ph : Fin 32) (s : State) : Host.Outcome State Fault Refusal :=
  let r := s.ring
  match r.csmDue with
  | [] => .next s
  | nom :: rest =>
    let now := s.stamp ph
    let dep := s.rgDepart ph
    if ¬ s.timeRuns ∨ ¬ s.rgMaster ∨ ¬ s.kerbOpen ∨ now < 256 * nom ∨ s.rgBusy dep ∨ within r.own dep then .next s
    else
      let late := r.fwd.any fun f => decide (f.at_ ≤ 256 * nom ∧ (256 * nom : Int) < f.stop)
      let clen := s.rgClen
      let b := csmBytes dep.toNat s.ltq (s.fld F.CT_CTRL_SEL) (!s.rgDval) r.cyc s.rgDelta r.rtt clen
      let sent := s.rgSends s.rgD
      let s := s.raiseIf late F.RG_STATUS_CSLATE
      let s := s.rgSend s.rgD dep (csmSyms (withCrc b true))
      let s := { s with ring := { s.ring with
        csmDue := rest, cyc := (r.cyc + 1) % 65536, good := sent, t1 := dep, cycRtt := r.rtt, clen := clen, lastAt := dep,
        csm := (dep, dep + rgNs 232), slotsDue := s.rgSlots, ret := if sent then r.ret ++ [(r.cyc, dep)] else r.ret,
        lastCyc := if sent then some r.cyc else r.lastCyc } }
      .next (if sent then (s.rgTake (dep, dep + rgNs 232)).setReg .RG_CYCN 0 (w32 r.cyc) else s)

/-- A CSM with a correct CRC has reached U at stamp rx (R338): an ECHO leaves U turn/16 ns later. -/
def State.rgEcho (s : State) (rx : Int) (turn cyc : Nat) : State :=
  s.rgSend s.rgU (rx + 16 * (turn : Int)) (echoSyms (withCrc (leBytes 2 cyc ++ leBytes 4 turn) true))

/-- CSM_RECEIVE (R337, R338, R345, R350, R351): a node's U receives a CSM at interpolator phase ph; it leaves D after
316 ns + lat/16 ns, and an ECHO of a correct one leaves U turn/16 ns after the arrival. -/
def execCsmReceive (ph : Fin 32) (lat : Fin 129) (turn : Fin 16001) (bytes : List Byte) (s : State) :
    Host.Outcome State Fault Refusal :=
  if ¬ s.timeRuns ∨ ¬ s.rgNode ∨ ¬ s.rxLocked s.rgU ∨ bytes.length ≠ 28 then .next s
  else
    let l := fromBytes bytes
    let le (i k : Nat) : Nat := fromLe ((l.drop i).take k)
    let good := crc32 (l.take 24) == le 24 4
    let rx := s.rgArrive ph
    let tx := rx + 16 * (5056 + lat.val : Nat)
    let cyc := le 10 2
    let info := l.getD 9 0
    let inc := bit info 3 || !s.rgDval
    let acc := (le 12 4 + (5056 + lat) + s.rgDelta) % 2 ^ 32
    let fw := l.take 9 ++ [info - (if bit info 3 then 8 else 0) + (if inc then 8 else 0)] ++ (l.drop 10).take 2 ++ leBytes 4 acc
      ++ (l.drop 16).take 8
    let sent := s.rgSends s.rgD
    let s := s.rgSend s.rgD tx (csmSyms (withCrc fw good))
    let r := s.ring
    let s := { s with ring := { r with t1 := if sent then tx else r.t1, lastCyc := if sent then some cyc else r.lastCyc,
                                       good := good && sent, lastAt := rx, expect := r.expect || sent,
                                       slotsDue := s.rgSlots, cycRtt := if good then le 16 4 else r.cycRtt,
                                       clen := if good then le 20 4 else r.clen } }
    if ¬ good then .next s
    else
      let s := (s.setReg .RG_CYCN 0 (w32 cyc)).setReg .RG_RTT 0 (w32 (le 16 4))
      let s := s.rgEcho rx turn cyc
      if bit info 3 ∨ info % 4 = 3 then .next s
      else
        let ref : Int := 256 * le 0 8 + l.getD 8 0 + 16 * le 12 4
        .next ([false, true].foldl (fun s x => s.offer x 2 (ref - s.rgArriveIn x ph)) s)

/-- The departures that still await their returns once the CSM of cycle cyc has come, and its own departure; without a cycle number the
oldest (R336). -/
def retAfter (cyc : Option Nat) : List (Nat × Int) → Option (Int × List (Nat × Int))
  | [] => none
  | (c, dep) :: rest => if cyc.all (· == c) then some (dep, rest) else retAfter cyc rest

/-- CSM_RETURN (R336, R338): a CSM comes round to the master's U, which terminates it and measures the round trip from the
departure of its cycle; one with a correct CRC is answered by an ECHO, and one without is taken for the oldest that is out. -/
def execCsmReturn (ph : Fin 32) (turn : Fin 16001) (bytes : List Byte) (s : State) : Host.Outcome State Fault Refusal :=
  if ¬ s.timeRuns ∨ ¬ s.rgMaster ∨ ¬ s.rxLocked s.rgU ∨ bytes.length ≠ 28 then .next s
  else
    let l := fromBytes bytes
    let good := crc32 (l.take 24) == fromLe (l.drop 24)
    let cyc := fromLe ((l.drop 10).take 2)
    let rx := s.rgArrive ph
    let s := match retAfter (if good then some cyc else none) s.ring.ret with
      | some (dep, rest) =>
        let rtt := wrap ((rx - dep) / 16) 32
        ({ s with ring := { s.ring with ret := rest, rtt := rtt } }).setReg .RG_RTT 0 (w32 rtt)
      | none => s
    .next (if good then s.rgEcho rx turn cyc else s)

/-- ECHO_RECEIVE (R338): an ECHO arrives at D; one of another cycle or with a wrong CRC is ignored. A value more than 16 ns
from the mean restarts it. -/
def execEchoReceive (ph : Fin 32) (bytes : List Byte) (s : State) : Host.Outcome State Fault Refusal :=
  let l := fromBytes bytes
  let cyc := fromLe (l.take 2)
  if ¬ s.timeRuns ∨ s.rgPers ≠ 1 ∨ l.length ≠ 10 ∨ crc32 (l.take 6) ≠ fromLe (l.drop 6) ∨ s.ring.lastCyc ≠ some cyc then .next s
  else
    let turn := fromLe ((l.drop 2).take 4)
    let dm : Int := (s.rgArrive ph - s.ring.t1) - 16 * turn
    let old := s.ring.deltas
    let n := old.length
    let jump := n ≠ 0 ∧ (dm * n - old.foldl (· + ·) 0).natAbs > 16 * 512 * n
    let ds := if jump then [dm] else (dm :: old).take 8
    let s := s.raiseIf (decide jump) F.RG_STATUS_DJUMP
    let s := { s with ring := { s.ring with deltas := ds } }
    .next (s.setReg .RG_DELAY 0 (w32 (65536 + wrap (shown (ds.foldl (· + ·) 0) (32 * ds.length)) 16)))

/-- CSM_MISS (R345): no CSM has come within CLEN + 1 µs of the last. -/
def execCsmMiss (s : State) : Host.Outcome State Fault Refusal :=
  let r := s.ring
  if s.rgNode ∧ r.expect ∧ r.lastAt + 256 * r.clen + us256 ≤ s.ltMs then
    let s := { s with ring := { r with expect := false, good := false, slotsDue := s.rgSlots } }
    .next (((s.bump F.RG_ERR0_CSMISS).raise F.RG_STATUS_CSLOST).rgEvent 4 s.rgU 0 (r.lastAt + 256 * r.clen + us256).toNat)
  else .next s

/-! ### Slots and frames (R339-R344) -/

/-- A write of RG_SLOTCMD (R340): the buffers of the named slots are posted as they stand. -/
def State.rgPost (s : State) (w : Word) : State :=
  s.each 8 fun s i =>
    if ¬ bit w.toNat i then s
    else
      let (s, ws) := s.portWords .RG_SLOTBUF ((List.range 64).map (64 * i + ·))
      { s with ring := { s.ring with posts := s.ring.posts ++ [(i, s.ltMs, ws)] } }

/-- SLOT_FRAME_SEND (R339-R342): the frame of slot i is due at its offset from the CSM; it is not sent without a correct CSM,
where it would overrun the cycle, or while a forwarded frame is at D. -/
def execSlotFrameSend (i : Fin 8) (s : State) : Host.Outcome State Fault Refusal :=
  let r := s.ring
  let ofs := 8 * s.act F.RG_SLOT_OFS8 i
  let sof : Int := r.t1 + 256 * ofs
  if ¬ s.timeRuns ∨ s.rgPers ≠ 1 ∨ ¬ s.kerbOpen ∨ ¬ r.slotsDue.contains i.val then .next s
  else
    let s1 := { s with ring := { r with slotsDue := r.slotsDue.filter (· ≠ i.val) } }
    if ¬ r.good then .next (s1.bump F.RG_ERR1_NOCSM)
    else if (s.ltMs : Int) < sof then .next s
    else
      let ready := r.posts.filter fun p => p.1 == i.val && decide ((p.2.1 : Int) + 64 * 256 ≤ sof)
      let words := match ready.getLast? with
        | some (_, _, ws) => ws.take (s.act F.RG_SLOT_LEN i)
        | none => []
      let dur := frameNs words.length
      if 16 * (ofs + dur + 64) + r.cycRtt > 16 * r.clen then .next (s1.bump F.RG_ERR1_SLOTSKIP)
      else if s.rgBusy sof then .next (s1.bump F.RG_ERR1_SLOTCOL)
      else
        let hd := [s.act F.RG_CFG_ADDR, i.val, 0, words.length] ++ leBytes 2 (r.lastCyc.getD 0) ++ [0, 0]
        let b := withCrc (hd ++ words.flatMap fun w => leBytes 4 w.toNat) true
        let s := { s1 with ring := { s1.ring with
          posts := r.posts.filter fun p => !(p.1 == i.val && decide ((p.2.1 : Int) + 64 * 256 ≤ sof)),
          own := (sof, sof + rgNs dur) } }
        .next ((s.rgTake (sof, sof + rgNs dur)).rgSend s.rgD sof (frameSyms (dataSyms b)))

/-- The lowest-numbered filter that matches a sender and slot (R344). -/
def State.rgFilter (s : State) (src slot : Nat) : Option Nat :=
  (List.range 64).find? fun k => s.actB F.RG_RXF_EN k && s.act F.RG_RXF_SRCADR k == src
    && (s.actB F.RG_RXF_ALLS k || s.act F.RG_RXF_SLOT k == slot)

/-- A received symbol is a data byte. -/
def RgSym.isData : RgSym → Bool
  | .d _ => true
  | _ => false

/-- The value of a data byte. -/
def RgSym.val : RgSym → Nat
  | .d b => b.toNat
  | _ => 0

/-- A received symbol as a node sends it on (R332, R343): ERR in place of a code violation, which every K code is that Parliar does
not use. -/
def RgSym.onward : RgSym → RgSym
  | .d b => .d b
  | .k b => if parliarK.contains b then .k b else .k 0xFE
  | .bad => .k 0xFE

/-- What the master sends on of a frame (R343): M set, and where it is a frame of data with a CRC, a recomputed one, its complement
for a wrong one. -/
def masterSyms (l : List RgSym) : List RgSym :=
  let v := l.map RgSym.val
  let body := v.take (v.length - 4)
  let m (b : Nat) : Nat := b / 2 * 2 + 1
  if l.all RgSym.isData ∧ 12 ≤ l.length then
    dataSyms (withCrc (body.take 2 ++ [m (body.getD 2 0)] ++ body.drop 3) (crc32 body == fromLe (v.drop (v.length - 4))))
  else l.mapIdx fun i x => match x with
    | .d b => if i = 2 then .d (BitVec.ofNat 8 (m b.toNat)) else .d b
    | x => x.onward

/-- RING_FRAME_RECEIVE (R334, R342-R344): a frame reaches U with its SOF at interpolator phase ph: the symbols between SOF and EOF.
It is removed, or forwarded after 316 ns + lat/16 ns and delivered where a filter matches. -/
def execRingFrameReceive (ph : Fin 32) (lat : Fin 129) (syms : List RgSym) (s : State) : Host.Outcome State Fault Refusal :=
  if ¬ s.timeRuns ∨ s.rgPers ≠ 1 ∨ ¬ s.rxLocked s.rgU then .next s
  else
    let l := syms.map RgSym.val
    let src := l.getD 0 0
    let slot := l.getD 1 0 % 8
    let m := bit (l.getD 2 0) 0
    let n := l.getD 3 0
    let crcOk := crc32 (l.take (l.length - 4)) == fromLe (l.drop (l.length - 4))
    let shape := syms.all RgSym.isData && decide (n ≤ 64) && decide (l.length = 12 + 4 * n)
    let s := if ¬ shape then s.bump F.RG_ERR0_CODEERR else if ¬ crcOk then s.bump F.RG_ERR0_CRCERR else s
    let rx := s.rgArrive ph
    let tx := rx + 16 * (5056 + lat.val : Nat)
    if syms.head? = some (.d (BitVec.ofNat 8 (s.act F.RG_CFG_ADDR))) then .next s
    else if s.rgMaster ∧ m then .next (s.bump F.RG_ERR0_ORPHAN)
    else if within s.ring.own tx ∨ within s.ring.csm tx then .next (s.bump F.RG_ERR1_FWDDROP)
    else
      let w0 := fromLe ((l.drop 4).take 2) * 65536 + src * 256 + (if m then 128 else 0) + slot
      let items := w32 w0 :: (List.range n).map fun j => w32 (fromLe ((l.drop (8 + 4 * j)).take 4))
      let pkt : Option Packet := if ¬ shape ∨ ¬ crcOk then none
        else (s.rgFilter src slot).map fun k => { typ := 8, idx := k, ms := rx.toNat, payload := items }
      let f : RgFwd := { at_ := tx, stop := tx + rgNs (symNs l.length), pkt := pkt,
                         syms := if s.rgMaster then masterSyms syms else syms.map RgSym.onward }
      .next { s with ring := { s.ring with fwd := s.ring.fwd ++ [f] } }

/-! ### 1000BASE-X and PTP (R346-R349) -/

/-- A power of two of seconds in 1/256 ns, from its 4-bit signed logarithm. -/
def logSec (v : Nat) : Nat :=
  let k := sext v 4
  if k ≥ 0 then 256000000000 * 2 ^ k.toNat else 256000000000 / 2 ^ (-k).toNat

/-- The 1000BASE-X ports take part: the personality is 2 and code groups pass the device. -/
def State.ethOn (s : State) : Bool := s.rgPers == 2 && s.kerbThru

/-- A number from bytes, most significant first. -/
def fromBe (l : List Nat) : Nat := l.foldl (fun a b => 256 * a + b) 0

/-- The n bytes of a number, most significant first. -/
def beBytes (n v : Nat) : List Nat := (leBytes n v).reverse

/-- The own MAC address. -/
def State.ownMac (s : State) : Nat := s.act F.RG_MAC_HI_ID * 2 ^ 32 + s.act F.RG_MAC_LO_ID

/-- The mean of delay values in 1/512 ns, in 1/16 ns. -/
def meanDelay (l : List Int) : Int := shown (l.foldl (· + ·) 0) (32 * max 1 l.length)

/-- The symbols of a frame on a 1000BASE-X line (R346; IEEE 802.3 clause 36, PRESUMED, notes/assumptions/196.md): start, preamble,
frame and end. -/
def pcsSyms (l : List Nat) : List RgSym :=
  .k 0xFB :: dataSyms ([0x55, 0x55, 0x55, 0x55, 0x55, 0x55, 0xD5] ++ l) ++ [.k 0xFD, .k 0xF7]
    ++ if l.length % 2 = 0 then [] else [.k 0xF7]

/-- How long a frame of n bytes keeps a port, with its preamble and the gap after it. -/
def ethNs (n : Nat) : Nat := 8 * (n + 20)

/-- When a port is free of the frames that have begun to leave it. -/
def State.ethFree (s : State) (port : Nat) : Int := (assoc s.ring.ethEnd port).getD 0

/-- A frame, FCS included, leaves a port at an instant where the port can send. -/
def State.ethSend (s : State) (port : Nat) (at_ : Int) (l : List Nat) : State :=
  if ¬ s.rgSends port then s
  else
    let g := s.rgLine port (pcsSyms l ++ idleSet)
    let s := (s.rgKeepRd port g.2).emit (.eth port at_ (toBytes l) g.1)
    { s with ring := { s.ring with ethEnd := assocSet s.ring.ethEnd port (at_ + rgNs (ethNs l.length)) } }

/-- The transparent clock's change to a forwarded PTP frame that came by port p (R347): the correction of a one-step Sync grows by
its residence and the receiving port's meanLinkDelay (2^-16 ns); that of a two-step Sync goes into its Follow_Up. -/
def State.tcForward (s : State) (p : Nat) (l : List Nat) (add : Int) : State × List Nat :=
  let msg := l.getD 14 0 % 16
  let key := toBytes (p :: l.getD 18 0 :: (l.drop 34).take 12)
  let bump (d : Int) : List Nat :=
    let c := fromBe ((l.drop 22).take 8)
    l.take 22 ++ beBytes 8 (wrap ((c : Int) + d) 64) ++ l.drop 30
  if msg = 0 then
    if bit (l.getD 20 0) 1 then ({ s with ring := { s.ring with tc := (key, add) :: s.ring.tc.filter fun p => p.1 != key } }, l)
    else (s, bump add)
  else if msg = 8 then
    match s.ring.tc.find? fun p => p.1 == key with
    | some p => ({ s with ring := { s.ring with tc := s.ring.tc.filter fun q => q.1 != key } }, bump p.2)
    | none => (s, l)
  else (s, l)

/-- Instance x is a slave that takes messages of a domain from a port. -/
def State.ptpSlave (s : State) (x p dom : Nat) : Bool :=
  s.actB F.RG_PTPCFG_EN x && s.act F.RG_PTPCFG_ROLE x == 0 && s.act F.RG_PTPCFG_PORT x == p
    && s.act F.RG_PTPCFG_DOM x == dom

/-- The slaves count an Announce (R346). -/
def State.countAnnounce (s : State) (p dom : Nat) : State :=
  s.each 2 fun s x => if s.ptpSlave x p dom then
      { s with ring := { s.ring with annN := assocSet s.ring.annN x ((assoc s.ring.annN x).getD 0 + 1) } } else s

/-- ETHERNET_FRAME_RECEIVE (R346, R347): a frame with its FCS arrives at a port and is forwarded to the other 320 ns and res/16 ns
later, or when that port is free, or it is terminated, or processed by the rows of its PTP message. Frames below 64 bytes go as
longer ones (DESIGN CHOICE, notes/assumptions/198.md). -/
def execEthernetFrameReceive (p : Fin 2) (res : Nat) (bytes : List Byte) (s : State) : Host.Outcome State Fault Refusal :=
  if ¬ s.ethOn then .next s
  else
    let l := fromBytes bytes
    let body := l.take (l.length - 4)
    let good := crc32 body == fromLe (l.drop (l.length - 4))
    let sized := decide (64 ≤ l.length ∧ l.length ≤ 1522)
    let dest := fromBe (l.take 6)
    let isPtp := fromBe ((l.drop 12).take 2) == 0x88F7 && sized
    let other := 1 - p.val
    let dep := max ((s.ltMs : Int) + rgNs 320 + 16 * res) (s.ethFree other)
    if ¬ good then .next ((s.bump F.RG_ETHERR_FCSERR).ethSend other dep (withCrc body false))
    else
      let msg := body.getD 14 0 % 16
      let known := msg = 0 ∨ msg = 2 ∨ msg = 3 ∨ msg = 8 ∨ msg = 10 ∨ msg = 11
      let s := if isPtp ∧ ¬ known then s.bump F.RG_ETHERR_UNSUP else s
      let s := if isPtp ∧ msg = 11 then s.countAnnounce p (body.getD 18 0) else s
      if dest = 0x0180C200000E ∧ sized then .next s
      else if dest = s.ownMac ∧ sized then .next (if isPtp then s else s.bump F.RG_ETHERR_DROPOWN)
      else if isPtp ∧ s.actB F.RG_CFG_TCEN then
        let dly := bits (s.reg .RG_PDLY p).toNat 23 0
        let (s, out) := s.tcForward p body ((dep - s.ltMs) * 256 + (dly * 4096 : Nat))
        .next (s.ethSend other dep (withCrc out true))
      else .next (s.ethSend other dep l)

/-- Instance x is a master. -/
def State.ptpMaster (s : State) (x : Nat) : Bool :=
  s.ethOn && s.actB F.RG_PTPCFG_EN x && s.act F.RG_PTPCFG_ROLE x == 1

/-- Its own messages can leave a port: no frame is leaving it (R347). -/
def State.ethIdle (s : State) (port : Nat) : Bool := decide (s.ethFree port ≤ (s.ltMs : Int))

/-- The clockIdentity. -/
def State.clockId (s : State) : Nat := s.act F.RG_CLKID_HI_ID * 2 ^ 32 + s.act F.RG_CLKID_LO_ID

/-- A time in 1/256 ns as a PTP timestamp, seconds and nanoseconds (R348). -/
def ptpTime (t : Int) : List Nat :=
  let n := (t / 256).toNat
  beBytes 6 (n / 1000000000) ++ beBytes 4 (n % 1000000000)

/-- The part of a time below 1 ns, in 2^-16 ns. -/
def ptpFrac (t : Int) : Int := t % 256 * 256

/-- The fields of an own PTP message beside its body. -/
structure PtpMsg where
  msg : Nat
  dom : Nat := 0
  seq : Nat
  flags : Nat := 0
  corr : Int := 0
  ctl : Nat := 5
  every : Nat := 0x7F
deriving DecidableEq, Repr

/-- An own PTP message as a frame with its FCS (R346; layout of IEEE 1588-2019, PRESUMED, notes/assumptions/196.md): peer-delay
messages go to 01-80-C2-00-00-0E and the others to 01-1B-19-00-00-00, from the device's MAC address and port identity. -/
def State.ptpFrame (s : State) (port : Nat) (m : PtpMsg) (body : List Nat) : List Nat :=
  let dest := if m.msg = 2 ∨ m.msg = 3 ∨ m.msg = 10 then 0x0180C200000E else 0x011B19000000
  let hdr := [m.msg, 0x12] ++ beBytes 2 (34 + body.length) ++ [m.dom, 0] ++ beBytes 2 m.flags ++ beBytes 8 (wrap m.corr 64)
    ++ [0, 0, 0, 0] ++ beBytes 8 s.clockId ++ beBytes 2 (port + 1) ++ beBytes 2 m.seq ++ [m.ctl, m.every]
  let f := beBytes 6 dest ++ beBytes 6 s.ownMac ++ [0x88, 0xF7] ++ hdr ++ body
  withCrc (f ++ List.replicate (60 - f.length) 0) true

/-- A 4-bit logarithm of an interval as the byte of a message. -/
def logByte (v : Nat) : Nat := wrap (sext v 4) 8

/-- A completed Sync gives its domain a measurement (R348, R349): the domain's time at the arrival, the origin in ns, the corrections
in 2^-16 ns. -/
def State.ptpMeasure (s : State) (x : Nat) (tx : Int) (origin : Nat) (corr : Int) : State :=
  let w := (s.reg .RG_PDLY (s.act F.RG_PTPCFG_PORT x)).toNat
  if ¬ bit w 31 then s
  else
    let ref : Int := 256 * origin + shown corr 256 + 16 * bits w 23 0
    s.offer (x == 1) 1 (ref - tx)

/-- PTP_SYNC_RECEIVE (R348): a Sync arrives at a port at interpolator phase ph: domainNumber, sequenceId, whether it is
two-step, its origin timestamp in ns and its correctionField in 2^-16 ns. -/
def execPtpSyncReceive (p : Fin 2) (ph : Fin 32) (dom : Fin 256) (sq : Fin 65536) (two : Bool) (origin : Nat) (corr : Int)
    (s : State) : Host.Outcome State Fault Refusal :=
  if ¬ s.timeRuns ∨ ¬ s.ethOn then .next s
  else
    let m := s.rgArrive ph
    let at_ (x : Nat) : Int := s.rgArriveIn (x == 1) ph
    .next (s.each 2 fun s x =>
      if ¬ s.ptpSlave x p dom then s
      else
        let s := (s.bump F.RG_PTPSTAT_SYNCN x).setFld F.RG_PTPSTAT_SEQ x sq
        if two then
          { s with ring := { s.ring with ptpWait := assocSet s.ring.ptpWait x { seq := sq, m := m, tx := at_ x, corr := corr } } }
        else ({ s with ring := { s.ring with ptpWait := assocDel s.ring.ptpWait x } }).ptpMeasure x (at_ x) origin corr)

/-- The Follow_Up of a Sync of instance x has not come within 2^SYNCLOG s (R348). -/
def State.followLate (s : State) (x : Nat) (w : PtpWait) : Bool :=
  decide (w.m + logSec (s.act F.RG_PTPCFG_SYNCLOG x) ≤ (s.ltMs : Int))

/-- PTP_FOLLOW_UP_RECEIVE (R348): the Follow_Up of the Sync that waits completes its measurement, where it comes in time. -/
def execPtpFollowUpReceive (p : Fin 2) (dom : Fin 256) (sq : Fin 65536) (origin : Nat) (corr : Int) (s : State) :
    Host.Outcome State Fault Refusal :=
  if ¬ s.timeRuns ∨ ¬ s.ethOn then .next s
  else .next (s.each 2 fun s x =>
    match assoc s.ring.ptpWait x with
    | some w =>
      if s.ptpSlave x p dom ∧ w.seq = sq.val then
        let late := s.followLate x w
        let s := { s with ring := { s.ring with ptpWait := assocDel s.ring.ptpWait x } }
        if late then s else s.ptpMeasure x w.tx origin (w.corr + corr)
      else s
    | none => s)

/-- FOLLOW_UP_TIMEOUT (R348): no Follow_Up within 2^SYNCLOG s; the Sync gives no measurement. -/
def execFollowUpTimeout (x : Fin 2) (s : State) : Host.Outcome State Fault Refusal :=
  match assoc s.ring.ptpWait x with
  | some w => .next (if s.followLate x w then
      { s with ring := { s.ring with ptpWait := assocDel s.ring.ptpWait x } } else s)
  | none => .next s

/-- The flags of a message that tell of RG_PTPUTC: currentUtcOffsetValid, and the PTP timescale. -/
def State.utcFlags (s : State) (x : Nat) : Nat := 8 + (if bit (s.actw .RG_PTPUTC x).toNat 16 then 4 else 0)

/-- PTP_SYNC_SEND (R346, R348): every 2^SYNCLOG s a master instance sends Sync, with T_x of its domain at the departure, and its
Follow_Up where two-step. Nothing before it is due, or while a frame leaves the port. -/
def execPtpSyncSend (x : Fin 2) (s : State) : Host.Outcome State Fault Refusal :=
  let p := s.act F.RG_PTPCFG_PORT x
  let every := s.act F.RG_PTPCFG_SYNCLOG x
  if ¬ s.timeRuns ∨ ¬ s.ptpMaster x ∨ ¬ s.lapsed (assoc s.ring.ptpAt x) (logSec every) ∨ ¬ s.ethIdle p then .next s
  else
    let q := (assoc s.ring.ptpSeq x).getD 0
    let t := s.rgDepartIn (x.val == 1) 0
    let dep := s.rgDepart 0
    let two := s.actB F.RG_PTPCFG_STEP x
    let m : PtpMsg := { msg := 0, dom := s.act F.RG_PTPCFG_DOM x, seq := q, flags := if two then 0x200 else 0,
                        corr := if two then 0 else ptpFrac t, ctl := 0, every := logByte every }
    let s := { s with ring := { s.ring with ptpSeq := assocSet s.ring.ptpSeq x ((q + 1) % 65536),
                                            ptpAt := assocSet s.ring.ptpAt x s.ltMs } }
    let s := s.ethSend p dep (s.ptpFrame p m (ptpTime t))
    .next (if two then
        s.ethSend p (max dep (s.ethFree p)) (s.ptpFrame p { m with msg := 8, flags := 0, corr := ptpFrac t, ctl := 2 } (ptpTime t))
      else s)

/-- PTP_ANNOUNCE_SEND (R346): every 2^ANNLOG s a master instance sends Announce from RG_PTPANN, with the UTC offset; priority2 and
the variance, of which the spec gives nothing, are free values. -/
def execPtpAnnounceSend (x : Fin 2) (s : State) : Host.Outcome State Fault Refusal :=
  let p := s.act F.RG_PTPCFG_PORT x
  let every := s.act F.RG_PTPCFG_ANNLOG x
  if ¬ s.timeRuns ∨ ¬ s.ptpMaster x ∨ ¬ s.lapsed (assoc s.ring.annAt x) (logSec every) ∨ ¬ s.ethIdle p then .next s
  else
    let q := (assoc s.ring.annSeq x).getD 0
    let a := (s.actw .RG_PTPANN x).toNat
    let f := s.fresh.2
    let s := s.fresh.1
    let s := { s with ring := { s.ring with annSeq := assocSet s.ring.annSeq x ((q + 1) % 65536),
                                            annAt := assocSet s.ring.annAt x s.ltMs } }
    let m : PtpMsg := { msg := 11, dom := s.act F.RG_PTPCFG_DOM x, seq := q, flags := s.utcFlags x, every := logByte every }
    let body := List.replicate 10 0 ++ beBytes 2 ((s.actw .RG_PTPUTC x).toNat % 65536) ++ [0, bits a 7 0, bits a 31 24, bits a 23 16]
      ++ beBytes 2 (bits f.toNat 15 0) ++ [bits f.toNat 23 16] ++ beBytes 8 s.clockId ++ [0, 0, bits a 15 8]
    .next (s.ethSend p (s.rgDepart 0) (s.ptpFrame p m body))

/-- The exchange of a port is not complete within its time (R349): it is counted, and after three in a row VAL clears. -/
def State.pdExpire (s : State) (p : Nat) : State :=
  let k := (assoc s.ring.pdMiss p).getD 0 + 1
  let s := ({ s with ring := { s.ring with pd := assocDel s.ring.pd p, pdMiss := assocSet s.ring.pdMiss p k } }).bump
    F.RG_ETHERR_PDTO
  if k ≥ 3 then s.setFld F.RG_PDLY_VAL p 0 else s

/-- The exchange of a port in progress has run for 2^PDLOG s. -/
def State.pdLate (s : State) (p : Nat) : Bool :=
  match assoc s.ring.pd p with
  | some (_, t1) => decide (t1 + logSec (s.act F.RG_PDCFG_PDLOG p) ≤ (s.ltMs : Int))
  | none => false

/-- PDELAY_REQ_SEND (R346, R349): every 2^PDLOG s a port with PDCFG.EN sends Pdelay_Req at interpolator phase ph and keeps its
departure t1; an exchange that is not complete then has timed out. -/
def execPdelayReqSend (p : Fin 2) (ph : Fin 32) (s : State) : Host.Outcome State Fault Refusal :=
  let every := s.act F.RG_PDCFG_PDLOG p
  if ¬ s.timeRuns ∨ ¬ s.ethOn ∨ ¬ s.actB F.RG_PDCFG_EN p ∨ ¬ s.lapsed (assoc s.ring.pdAt p) (logSec every) ∨ ¬ s.ethIdle p then
    .next s
  else
    let s := if (assoc s.ring.pd p).isSome then s.pdExpire p else s
    let q := (assoc s.ring.pdSeq p).getD 0
    let t1 := s.rgDepart ph
    let s := { s with ring := { s.ring with pdSeq := assocSet s.ring.pdSeq p ((q + 1) % 65536),
                                            pdAt := assocSet s.ring.pdAt p s.ltMs, pd := assocSet s.ring.pd p (q, t1) } }
    .next (s.ethSend p t1 (s.ptpFrame p { msg := 2, seq := q, every := logByte every } (List.replicate 20 0)))

/-- PDELAY_REQ_RECEIVE (R346): a Pdelay_Req of a port identity that arrives at interpolator phase ph is answered in two steps: a
Pdelay_Resp with t2, which leaves turn/16 ns later or when the port is free, and a Pdelay_Resp_Follow_Up with its departure t3. -/
def execPdelayReqReceive (p : Fin 2) (ph : Fin 32) (sq : Fin 65536) (who : BitVec 80) (turn : Nat) (s : State) :
    Host.Outcome State Fault Refusal :=
  if ¬ s.timeRuns ∨ ¬ s.ethOn then .next s
  else
    let t2 := s.rgArrive ph
    let t3 := max (t2 + 16 * turn) (s.ethFree p)
    let whom := beBytes 10 who.toNat
    let s := s.ethSend p t3 (s.ptpFrame p { msg := 3, seq := sq, flags := 0x200, corr := -ptpFrac t2 } (ptpTime t2 ++ whom))
    .next (s.ethSend p (max t3 (s.ethFree p)) (s.ptpFrame p { msg := 10, seq := sq, corr := ptpFrac t3 } (ptpTime t3 ++ whom)))

/-- PDELAY_RESP_RECEIVE (R349): the response to the exchange in progress is complete: it arrived at interpolator phase ph
with t2 and t3 (2^-16 ns). One that is not complete within 2^PDLOG s gives no value. -/
def execPdelayRespReceive (p : Fin 2) (ph : Fin 32) (sq : Fin 65536) (t2 t3 : Int) (s : State) : Host.Outcome State Fault Refusal :=
  match assoc s.ring.pd p with
  | some (q, t1) =>
    if ¬ s.timeRuns ∨ ¬ s.ethOn ∨ q ≠ sq.val ∨ s.pdLate p then .next s
    else
      let v : Int := (s.rgArrive ph - t1) - shown (t3 - t2) 256
      let ds := (v :: (assoc s.ring.pdDelta p).getD []).take 8
      let s := { s with ring := { s.ring with pd := assocDel s.ring.pd p, pdMiss := assocDel s.ring.pdMiss p,
                                              pdDelta := assocSet s.ring.pdDelta p ds } }
      .next (s.setReg .RG_PDLY p (w32 (2 ^ 31 + wrap (meanDelay ds) 24)))
  | none => .next s

/-- PDELAY_TIMEOUT (R349): the response is not complete within 2^PDLOG s; after three in a row VAL clears. -/
def execPdelayTimeout (p : Fin 2) (s : State) : Host.Outcome State Fault Refusal :=
  .next (if s.pdLate p then s.pdExpire p else s)

/-! ### The tick -/

/-- The instants at which the master's CSMs of the tick of index i are due (R336); none where the cycle or offset is too long. -/
def State.csmPlan (s : State) (i : Int) : List Nat :=
  let k := s.act F.RG_CYC_KM1 + 1
  let t := s.ct.tickNom + 4 * s.act F.RG_CYC_CSOFS
  if s.actB F.RG_CYC_MODE then (List.range k).map fun j => t + j * s.tickPeriod / k
  else if i % (k : Int) = 0 then [t] else []

/-- A master's active cycle exceeds 4 ms, or its offset is not less than P (R336). -/
def State.csmBad (s : State) : Bool :=
  decide (s.tickPeriod ≤ 4 * s.act F.RG_CYC_CSOFS)
    || (!s.actB F.RG_CYC_MODE && decide ((s.act F.RG_CYC_KM1 + 1) * s.tickPeriod > 4000000))

/-- What the tick of index i does to the ring ports (R336, R340, R352, R353, R355). The cause shown for a closing by a change of
configuration alone is a free value (notes/assumptions/2.md). -/
def State.rgTick (s : State) (old : Tab Word) (i : Int) : State :=
  let s := { s with ring := { s.ring with kclose := s.ring.kclose && s.actB F.RG_KERB_OPEN, hold := false } }
  let same (f : Field) : Bool := f.of old 0 == s.act f
  let changed := !(same F.RG_CFG_PERS && same F.RG_CFG_UPP && same F.RG_CFG_PMASTER && same F.RG_CFG_ADDR)
  let s := if ¬ changed then s
    else
      let (s, c) := match s.kerbBar with
        | some c => (s, c)
        | none => let (s, f) := s.fresh; (s, f.toNat % 6 + 1)
      let s := s.kerbClose c
      let r := s.ring
      ({ s with ring := { r with hold := true, csmDue := [], ret := [], lastCyc := none, good := false, expect := false,
                                 slotsDue := [], fwd := [], deltas := [], ptpWait := [], pd := [], pdDelta := [], pdMiss := [], tc := [] } }).setReg
        .RG_DELAY 0 0
  let s := if s.rgMaster then
      (if s.csmBad then s.raise F.RG_STATUS_CFGERR
       else { s with ring := { s.ring with csmDue := (if s.kerbOpen then s.ring.csmDue else []) ++ s.csmPlan i } })
    else s
  let now := 256 * s.ct.tickNom
  let s := s.ring.bellReq.eraseDups.foldl (fun s p =>
    if ¬ s.kerbOpen then s.raise F.RG_STATUS_CMDREF
    else (({ s with ring := { s.ring with bells := assocSet s.ring.bells p (now + 102400 * 256) } }).raise F.RG_STATUS_BELLACT).emit
      (.ringBell p)) s
  ({ s with ring := { s.ring with bellReq := [] } }).kerbEval

end Sys2Proof.Machine
end

