-- ==== Sys2Proof/Machine/Power.lean ====
section
/-! DEFINITION. Power domains, resets and SAFE, and what the life-cycle fuses show (R15, R398, R436, R453-R457, R460). -/

namespace Sys2Proof.Machine

/-! ### What each power domain holds (R15, R392) -/

/-- The power domain that holds element i of a register (notes/assumptions/40.md). -/
def Reg.pd (r : Reg) (i : Nat) : Nat :=
  match r with
  | .BK_CRCP | .BK_CRCC => pdB0 + i / 8
  | .BK_CTL | .BK_STATUS | .BK_CMD | .BK_CNT0 | .BK_CNT1 | .BK_PAIRN => pdB0 + i
  | .HP_SUPQ => pdAon
  | .HP_QQUOTA | .MP_ECC_CFG | .MP_ECC_STAT | .MP_ECC_LASTADDR | .MP_ECC_INJ | .MP_PSNCLR | .MP_ECC_CNT => pdPlaza
  | r => match r.blk with
    | .CT | .LL => pdTime
    | .XC | .ARC => pdB0
    | .BK => pdB0 + i / 16
    | .PZ => pdPlaza
    | .FP | .TW | .GP => pdField
    | .RG => pdRing
    | .HL => pdHead
    | .HP => pdHost
    | .MP => pdMem
    | .SYS | .PM | .LC => pdAon

/-- The power domain of a region's word (R392). -/
def regionPd (rg w : Nat) : Nat :=
  if rg < 4 then pdB0 + rg
  else if rg < 8 then pdB0 + (rg - 4)
  else match rg with
    | 8 => pdPlaza
    | 9 => pdB0
    | 10 => pdB0 + w / 2048
    | 11 => pdHead
    | 12 => pdHost
    | 13 => if w < 3136 then pdField else pdRing
    | _ => pdMem

/-- A set of domains, as the bits of PM_STATUS.DOM. -/
def pdSet (l : List Nat) : Nat := l.foldl (fun a d => a ||| 2 ^ d) 0

/-- The key of an element of MP1_TAT, which only a device reset clears (R409). -/
def isTat (k : Nat) : Bool := keyReg k == .MP1_TAT_LO || keyReg k == .MP1_TAT_HI

/-- The register element at a key stands in one of the domains of m and starts anew with it. -/
def keyIn (m k : Nat) : Bool := bit m ((keyReg k).pd (k % 16384)) && !isTat k

/-- Whom a holding register or a snapshot belongs to stands in one of the domains of m. Threads 0-63 come first, then
functions, then the debug port. -/
def reqIn (m q : Nat) : Bool :=
  if q < 64 then bit m (pdB0 + q / 16) else if q < 68 then bit m pdHost else false

/-- A table without the keys that p selects. -/
def tabDrop {α : Type} (p : Nat → Bool) (t : Tab α) : Tab α := t.filter fun e => !p e.1

/-- A table of units after f, without those that f leaves at their initial value d. -/
def tabMap {α : Type} [DecidableEq α] (d : α) (f : α → α) (t : Tab α) : Tab α :=
  t.filterMap fun e => if f e.2 = d then none else some (e.1, f e.2)

/-- A register file without the elements of the domains of m. -/
def regDrop (m : Nat) (t : Tab Word) : Tab Word := tabDrop (keyIn m) t

/-- A pin after the domains of m have started anew: its level is the outside's, which its input path then takes as accepted. -/
def Pin.init (m : Nat) (p : Pin) : Pin :=
  let p := if bit m pdTime then { p with last := none, capN := 0, balls := [], cand := none, smp := none, lvl := p.ball } else p
  if bit m pdB0 then { p with held := none, recN := 0, ref := false } else p

/-- The units of the domains of m start anew. -/
def State.unitsInit (s : State) (m : Nat) : State :=
  let on (d : Nat) : Bool := bit m d
  { s with
    ct := if on pdTime then {} else s.ct
    ll := if on pdTime then [] else s.ll
    pin := tabMap {} (Pin.init m) s.pin
    presented := if on pdPlaza then [] else s.presented
    blk := tabDrop (fun b => on (pdB0 + b)) s.blk
    thr := tabDrop (fun t => on (pdB0 + t / 16)) s.thr
    arc := if on pdB0 then [] else s.arc
    xq := if on pdB0 then [] else s.xq
    xc := if on pdB0 then [] else s.xc
    xcEv := if on pdB0 then 0 else s.xcEv
    fp := if on pdField then [] else s.fp
    tw := if on pdField then [] else s.tw
    ring := if on pdRing then {} else s.ring
    hl := if on pdHead then [] else s.hl
    qtr := if on pdHost then [] else s.qtr
    bar2 := if on pdHost then [] else s.bar2
    mp := if on pdMem then { tatSec := s.mp.tatSec, isoAt := s.mp.isoAt, scrub := s.mp.scrub, passed := s.mp.passed } else s.mp }

/-- The domains of m are initialised as at power-up: registers at their Reset values, every protected word zero with
correct check nibbles, units as after reset (R398, R454). -/
def State.domInit (s : State) (m : Nat) : State :=
  let region (k : Nat) : Bool := bit m (regionPd (k / 2 ^ 20) (k % 2 ^ 20))
  let s := s.unitsInit m
  { s with
    live := regDrop m s.live, staged := regDrop m s.staged, captured := regDrop m s.captured
    active := regDrop m s.active
    holdReg := tabDrop (fun k => reqIn m (k / 2 ^ 24)) s.holdReg
    holdMark := tabDrop (fun k => reqIn m (k / 2 ^ 24)) s.holdMark
    snap := tabDrop (fun k => reqIn m (k / 2 ^ 24)) s.snap
    mem := tabDrop (fun k => bit m (regionPd (k / 2 ^ 24) 0)) s.mem
    ecc := tabDrop region s.ecc
    scrubQ := s.scrubQ.filter fun k => !region k }

/-- The domains of m lose power: PM_STATUS.DOM shows it, and they will be initialised at power-up. MP1 notes when PD_MEM is
isolated (R409); the pads hold their states where PD_FIELD is isolated (R457). -/
def State.powerOff (s : State) (m : Nat) : State :=
  let s := if bit m pdField ∧ s.powered pdField then s.latchPads else s
  let memOff := bit m pdMem && s.powered pdMem
  let at_ := s.ltNs
  let s := s.domInit m
  let s := if memOff then { s with mp := { s.mp with isoAt := some at_ } } else s
  let dom := s.fld F.PM_STATUS_DOM
  s.setFld F.PM_STATUS_DOM 0 (dom - (dom &&& m))

/-- The domains of m are powered; those that were not are initialised (R398, R456). -/
def State.powerOn (s : State) (m : Nat) : State :=
  let dom := s.fld F.PM_STATUS_DOM
  (s.domInit (m - (m &&& dom))).setFld F.PM_STATUS_DOM 0 (dom ||| m)

/-! ### The life-cycle state (R460, R461, R466) -/

/-- The majority of three copies (R466): a value that two share, else the first. -/
def majority (l : List Nat) : Nat :=
  match l with
  | [a, b, c] => if a = b ∨ a = c then a else if b = c then b else a
  | _ => 0

/-- The life-cycle state. -/
def State.lcState (s : State) : Nat := s.fld F.LC_STATE_STATE

/-- The current key slot. -/
def State.lcSlot (s : State) : KeySlot := if s.lc.slot = 0 then s.lc.slot0 else s.lc.slot1

/-- The debug port is open (R460). -/
def State.debugOpen (s : State) : Bool :=
  match s.lcState with
  | 0 | 1 | 2 => true
  | 4 => s.flag F.LC_STATE_TOPEN
  | _ => false

/-- LC_STATE shows the state st, the slot and what they open. -/
def State.lcShow (s : State) (st : Nat) : State :=
  let s := (s.setFld F.LC_STATE_STATE 0 st).setFld F.LC_STATE_SLOT 0 s.lc.slot
  let s := s.setFld F.LC_STATE_KEYV 0 (if s.lcSlot.key.isSome then 1 else 0)
  s.setFld F.LC_STATE_DBGO 0 (if s.debugOpen then 1 else 0)

/-! ### Modes (R436) -/

/-- The mode becomes m: a change sets MODECHG, and RETM follows RUN and STRICT (R441, R458). -/
def State.setMode (s : State) (m : Nat) : State :=
  let s := if m = 3 ∨ m = 4 then s.setFld F.SYS_MODE_RETM 0 m else s
  if s.mode = m then s else (s.setFld F.SYS_MODE_MODE 0 m).raise F.SYS_STATUS_MODECHG

/-- No mode change is pending. -/
def State.noChange (s : State) : State :=
  { (s.setFld F.SYS_MODE_PEND 0 0).setFld F.SYS_MODE_TGT 0 0 with pm := { s.pm with chg := none } }

/-! ### SAFE (R452, R455) -/

/-- SAFE is entered with a cause: the GPIO pads take the safe-value latch, the Kerb closes, threads stop, and every domain
but PD_AON and PD_HOST loses power (R455). -/
def State.enterSafe (s : State) (cause : Nat) : State :=
  let s := (s.setFld F.PM_AON_SAFE_CAUSE 0 cause).noChange
  let s := s.powerOff (0xFFF - pdSet [pdAon, pdHost])
  let s := s.powerOn (pdSet [pdHost])
  let s := { s with ld := { st := .idle }, map := { s.map with sw := none },
                    pm := { s.pm with safeOn := true, safeCnt := s.aon.cnt, armed := false, isolated := false, dozeExit := none, lost := 0 }
                    lc := { s.lc with haltWait := false } }
  s.setMode 8

/-- A device fault enters SAFE; in OFF, RESET and SAFE there is nothing more to enter (R436, R437, R452). -/
def State.deviceFault (s : State) (cause : Nat) : State :=
  if s.mode ≤ 1 ∨ s.mode = 8 then s else s.enterSafe cause

/-! ### Resets (R453, R454) -/

/-- The registers that a reset leaves: PM_AON_* (R454). -/
def isAon (k : Nat) : Bool :=
  match keyReg k with
  | .PM_AON_CFG | .PM_AON_WKEN | .PM_AON_WKSTAT | .PM_AON_WKCNT_LO | .PM_AON_WKCNT_HI | .PM_AON_CNT_LO | .PM_AON_CNT_HI
  | .PM_AON_ALARM_LO | .PM_AON_ALARM_HI | .PM_AON_CWIN_W0 | .PM_AON_CWIN_W1 | .PM_AON_CWIN_W2 | .PM_AON_RSTCAUSE
  | .PM_AON_SAFE | .PM_AON_WKPIN => true
  | _ => false

/-- The state of the fuses when a reset or a loss of supply meets a command in progress (R466, R470, R468): how many copies
have been programmed, and whether a key has been fused, are free values. -/
def State.fusesAtReset (s : State) : State :=
  match s.lc.cmd with
  | none => s
  | some c =>
    let (s, w) := s.fresh
    let n := w.toNat % 4
    let lc := { s.lc with cmd := none }
    if c.op = 2 then
      if n % 2 = 0 ∨ c.res ≠ 1 then { s with lc := lc }
      else
        let k := s.lcSlot
        { s with lc := if lc.slot = 0 then { lc with slot0 := { k with key := c.key } }
                       else { lc with slot1 := { k with key := c.key } } }
    else if c.op = 5 then { s with lc := lc }
    else
      let lc := { lc with copies := List.replicate n c.dest ++ lc.copies.drop n }
      { s with lc := if c.op = 7 ∧ s.lcState = 4 ∧ 2 ≤ n then { lc with slot := lc.slot + 1 } else lc }

/-- The device is in RESET with every register but PM_AON_* at its Reset value, every domain initialised and the fuses read
(R453, R454, R466); a new nonce is drawn (R467). What is outside the device stays: pin levels, supplies. -/
def State.intoReset (s : State) : State :=
  let (s, nonce) := s.fusesAtReset.fresh
  let r := State.reset
  let lc := s.lc
  let pm := s.pm
  let s' := { r with pending := s.pending, free := s.free, out := s.out, aon := s.aon
                     live := s.live.filter fun e => isAon e.1
                     pin := tabMap {} (Pin.init 0xFFF) s.pin
                     lc := { copies := lc.copies, slot := lc.slot, slot0 := lc.slot0, slot1 := lc.slot1 }
                     pm := { safe := pm.safe, vin := pm.vin, ref := pm.ref, perst := pm.perst, inReset := true }
                     ld := { st := .idle } }
  let s' := s'.setReg .LC_NONCE 0 nonce
  (s'.setFld F.SYS_MODE_MODE 0 1).lcShow (majority lc.copies)

/-- A device reset with the bit of its source in PM_AON_RSTCAUSE (R453). -/
def State.deviceReset (s : State) (src : Field) : State := s.intoReset.raise src

end Sys2Proof.Machine
end

