-- ==== Sys2Proof/Machine/RegMap.lean ====
section
/-! DEFINITION. The register map as an address decoder, reserved encodings, and the fields that a Map sets
(R19, R20, R25, R26). -/

namespace Sys2Proof.Machine

/-- The number of elements of the remaining dimensions. -/
def dimCount (l : List (Nat × Nat)) : Nat := l.foldl (fun a d => a * d.1) 1

/-- The flat index of the element at distance d from a register's first word; none between elements. -/
def dimIndex : List (Nat × Nat) → Nat → Option Nat
  | [], d => if d = 0 then some 0 else none
  | (n, st) :: rest, d =>
    if d / st < n then (dimIndex rest (d % st)).map fun j => d / st * dimCount rest + j else none

/-- The distance of element i from a register's first word. -/
def dimOffset : List (Nat × Nat) → Nat → Nat
  | [], _ => 0
  | (_, st) :: rest, i => i / dimCount rest * st + dimOffset rest (i % dimCount rest)

/-- The offset from 0x4000_0000 of element i of a register. -/
def Reg.offset (r : Reg) (i : Nat) : Nat := r.desc.off + dimOffset r.desc.dims i

/-- The element of a register that stands at an offset from 0x4000_0000. -/
def Reg.indexAt (r : Reg) (off : Nat) : Option Nat :=
  if off < r.desc.off then none else dimIndex r.desc.dims (off - r.desc.off)

/-- The control block at an offset from 0x4000_0000 (R19); none for the unused block and the unused range within FP
(R20). -/
def blkAt (off : Nat) : Option Blk :=
  match off / 65536 with
  | 0 => some .SYS
  | 1 => some .CT
  | 2 => some .LL
  | 3 => some .PZ
  | 4 => some .XC
  | 5 => some .ARC
  | 6 => some .BK
  | 8 => if off % 65536 < 32768 then some .FP else none
  | 9 => some .TW
  | 10 => some .RG
  | 11 => some .HL
  | 12 => some .HP
  | 13 => some .MP
  | 14 => some .PM
  | 15 => some .LC
  | 16 => some .GP
  | _ => none

/-- The register and element at an offset from 0x4000_0000; none where no chapter defines one (R20). -/
def regAt (off : Nat) : Option (Reg × Nat) :=
  match blkAt off with
  | none => none
  | some b => b.regs.findSome? fun r => (r.indexAt off).map fun i => (r, i)

/-- A value lies in one of the ranges. -/
def inRanges (l : List (Nat × Nat)) (v : Nat) : Bool := l.any fun p => decide (p.1 ≤ v ∧ v ≤ p.2)

/-- A field by its access type takes what software writes. -/
def Acc.writable : Acc → Bool
  | .rw | .wo | .st | .w1c | .w1s => true
  | .ro | .rc => false

/-- A source number that R187 reserves. -/
def srcBad (v : Nat) : Bool := decide (0x161 ≤ v ∧ v ≤ 0x16F) || decide (0x180 ≤ v ∧ v ≤ 0x1FE)

/-- An address is reserved as a 7-bit target address (R142). -/
def addrBad (ten : Bool) (a : Nat) : Bool := !ten && !(decide (8 ≤ a ∧ a ≤ 0x77))

/-- A word holds, for element i of a register, an encoding that is reserved for several of its fields together. -/
def crossBad (r : Reg) (i : Nat) (w : Word) : Bool :=
  let v := w.toNat
  match r with
  | .SYS_PUSHCTL => bit v 31 && (bit v 29 || bits v 13 0 == 0)
  | .CT_SRV_CFG => bit v 0 && F.CT_SRV_CFG_SRC.get w == 0
  | .LL_CMD => bit v 0 && bit v 1
  | .XC_CFG => F.XC_CFG_PRIM.get w == 8 && decide (i < 112)
  | .XC_INA => decide (F.XC_INA_LSB.get w + F.XC_INA_WIDM1.get w > 31) || srcBad (F.XC_INA_SRC.get w)
  | .XC_INB => decide (F.XC_INB_LSB.get w + F.XC_INB_WIDM1.get w > 31) || srcBad (F.XC_INB_SRC.get w)
  | .ARC_CFG => F.ARC_CFG_CTEN.get w == 1 && F.ARC_CFG_CONS.get w == 1
  | .ARC_REGION => decide (F.ARC_REGION_BASE.get w + F.ARC_REGION_SIZE.get w > 512)
  | .FP_CLK => decide (F.FP_CLK_DIVK.get w ≤ F.FP_CLK_RXDLY.get w)
  | .FP_SEL => F.FP_SEL_SELPIN.get w == 127 && (F.FP_SEL_SELCHK.get w == 1 || F.FP_SEL_SELREL.get w != 0)
  | .TW_CFG => addrBad (F.TW_CFG_OWN10.get w == 1) (F.TW_CFG_OWNADDR.get w)
  | .TW_CLR => F.TW_CLR_AUTOPWR.get w == 1 && F.TW_CLR_PWRPIN.get w == 127
  | .TW_XCFG => addrBad (F.TW_XCFG_A10.get w == 1) (F.TW_XCFG_ADDR.get w)
  | .TW_TGT => F.TW_TGT_ARM.get w == 1 && F.TW_TGT_TLEN.get w == 0
  | .RG_CFG => F.RG_CFG_PERS.get w == 1 && F.RG_CFG_ADDR.get w == 0
  | .RG_CYC => F.RG_CYC_MODE.get w == 1 && F.RG_CYC_KM1.get w == 0
  | .MP_PSNCLR => decide (regionWords (F.MP_PSNCLR_REGION.get w) ≤ F.MP_PSNCLR_WIDX.get w)
  | .LC_DBGCTL => bit v 0 && bit v 1
  | _ => false

/-- A write of w places a reserved encoding into a field of element i of a register (R26). -/
def Reg.badWrite (r : Reg) (i : Nat) (w : Word) : Bool :=
  (r.desc.fields.any fun f => f.acc.writable && inRanges f.bad (f.get w)) || crossBad r i w

/-- The RO fields whose Reset column reads "Map" (R25, R425). -/
def mapRO : List Reg :=
  [.ARC_QCAP, .BK_TCFG, .BK_TENTRY, .BK_BUDGET, .BK_ADMIT, .HP_SUPQ, .HP_UCFG, .HP_QQUOTA]

/-- The loader sets a field: RW, ST, or RO with Reset "Map" (R425). -/
def Field.loads (f : Field) : Bool :=
  match f.acc with
  | .rw | .st => true
  | .ro => mapRO.contains f.reg && f != F.HP_QQUOTA_LLH && f != F.HP_QQUOTA_XCN
  | _ => false

/-- The word that an entry with value v gives a register: the fields that the loader sets from v, the others at reset. -/
def Reg.loadWord (r : Reg) (v : Word) : Word :=
  r.desc.fields.foldl (fun w f => if f.loads then f.put w (f.get v) else w) r.resetWord

/-- A value that a Map may not give an RO field of mapRO. -/
def mapBad (r : Reg) (v : Word) : Bool :=
  match r with
  | .ARC_QCAP => F.ARC_QCAP_QCAP.get v == 0 || decide (F.ARC_QCAP_QCAP.get v > 512)
  | .BK_TCFG => decide (F.BK_TCFG_RELOFS.get v > 249999)
  | .BK_ADMIT => decide (F.BK_ADMIT_NA.get v > 8)
  | .HP_UCFG => F.HP_UCFG_UCTO.get v == 0
  | .HP_QQUOTA => decide (F.HP_QQUOTA_XCQ.get v > 128) || decide (F.HP_QQUOTA_LLQ.get v > 16)
  | _ => false

/-- A value of a Map entry holds a reserved encoding (R425). -/
def Reg.badEntry (r : Reg) (i : Nat) (v : Word) : Bool :=
  mapBad r v || (r.desc.fields.any fun f => f.loads && inRanges f.bad (f.get v)) || crossBad r i v

/-- A register has a WO field. -/
def Reg.hasWo (r : Reg) : Bool := r.desc.fields.any fun f => f.acc == .wo

/-- Every field of a register is ST or RO. -/
def Reg.onlyStaged (r : Reg) : Bool := r.desc.fields.all fun f => f.acc == .st || f.acc == .ro

end Sys2Proof.Machine
end

