-- ==== Sys2Proof/Machine/Boot.lean ====
section
/-! DEFINITION. Loading a Map: the header, sections, register entries, signatures, host push and profile switches
(18_map_boot). What takes effect at T0 stands with the tick. -/

namespace Sys2Proof.Machine

/-! ### Reading bytes -/

/-- n bytes from offset i, little-endian. -/
def le (b : List Nat) (i n : Nat) : Nat := fromLe ((b.drop i).take n)

/-- The first condition that holds, with its load error and offset. -/
def firstBad : List (Bool × Nat × Nat) → Option (Nat × Nat)
  | [] => none
  | (c, e) :: t => if c then some e else firstBad t

/-! ### Load errors (R414, R429) -/

/-- A word index has bytes in a range. -/
def wordHits (ofs len w : Nat) : Bool := decide (ofs < 8 * w + 8 ∧ 8 * w < ofs + len)

/-- The region and offset of an image (R423). -/
def imageRegion (target : Nat) : Nat := if target < 4 then rgCode target else if target < 8 then rgData (target - 4) else rgMarket

/-- The size in bytes of an image's target. -/
def imageSize (target : Nat) : Nat := 8 * regionWords (imageRegion target)

/-- The bytes of an image as zero, with correct check nibbles (R429). -/
def State.wipe (s : State) (im : Image) : State :=
  let rg := imageRegion im.target
  { s with
    mem := tabDrop (fun k => k / 2 ^ 24 == rg && decide (im.ofs ≤ k % 2 ^ 24 ∧ k % 2 ^ 24 < im.ofs + im.len)) s.mem
    ecc := tabDrop (fun k => k / 2 ^ 20 == rg && wordHits im.ofs im.len (k % 2 ^ 20)) s.ecc }

/-- The push interface is offered (R414, R431). -/
def State.offerPush (s : State) : State :=
  let s := (s.raise F.SYS_BOOT_FALLBK).raise F.SYS_PUSHSTAT_READY
  { s with ld := { s.ld with offer := true, chunk := none } }

/-- A load error (R429): the load stops, what the loader wrote is cleared, the error is recorded, and the push interface
offered except in BLANK and SCRAP. In the restore of R449 it is device fault 6. -/
def State.loadFail (s : State) (code detail sect prof ofs : Nat) : State :=
  let s := s.setReg .SYS_LOADERR 0 (w32 (sect % 256 * 65536 + detail * 256 + code))
  let s := s.setReg .SYS_LOADOFS 0 (w32 (prof * 2 ^ 24 + ofs % 2 ^ 24))
  let push := s.fld F.SYS_BOOT_SRC = 1 ∧ s.ld.st ≠ .idle
  let restore := s.ld.restore
  let s := if restore then s else s.ld.images.foldl State.wipe s
  let s := { s with ld := { st := .failed, since := s.ld.since, offer := s.ld.offer } }
  if restore then s.deviceFault 6
  else
    let s := if push then s.raise F.SYS_PUSHSTAT_ERR else s
    if s.lcState = 0 ∨ s.lcState = 5 then s else s.offerPush

/-- The loader starts to read a source (R412, R428 step 3). -/
def State.loadBegin (s : State) (src : Nat) (restore : Bool) : State :=
  let s := s.setFld F.SYS_BOOT_SRC 0 src
  { s with ld := { st := .header, since := s.ltNs, restore := restore, offer := s.ld.offer } }

/-- LOAD begins with a strap (R412, R427, R428 step 1): what the life-cycle state and the strap forbid loads nothing; strap 01
waits for a push. -/
def State.loadStart (s : State) (boot : Nat) (restore : Bool) : State :=
  let src := if boot = 0 then 0 else if boot = 1 then 1 else if boot = 2 then 2 else 3
  let s := s.loadBegin src restore
  if boot = 3 then s.loadFail 0x13 0 0xFF 0 0
  else if s.lcState = 0 ∨ s.lcState = 5 then s.loadFail 0x10 0 0xFF 0 0
  else if boot = 1 then (s.offerPush) else s

/-! ### The header (R416) -/

/-- What is wrong with a Map header read from a source. -/
def headerErr (src : Nat) (b : List Nat) : Option (Nat × Nat) :=
  let total := le b 12 4
  firstBad [
    (le b 0 4 != 0x41524C46, 0x01, 0),
    (crc32 (b.take 28) != le b 28 4, 0x02, 28),
    (le b 4 2 != 1, 0x04, 4),
    (le b 6 2 != 0x4864, 0x03, 6),
    (b.getD 8 0 != 0xB0, 0x03, 8),
    (decide (b.getD 9 0 < 4), 0x08, 9),
    (le b 10 2 != 0, 0x07, 10),
    (decide (total < 64 ∨ total > 16777216) || total % 4 != 0, 0x09, 12),
    (src == 0 && decide (b.getD 23 0 % 32 < 4), 0x07, 23),
    (src == 0 && b.getD 27 0 != 0, 0x07, 27)]

/-- The header has arrived (R427, R428 step 3). -/
def State.ldHeader (s : State) (b : List Byte) : State :=
  let v := fromBytes b
  let s := { s with ld := { s.ld with bytes := b } }
  match headerErr (s.fld F.SYS_BOOT_SRC) v with
  | some (c, o) => s.loadFail c 0 0xFF 0 o
  | none =>
    let s := { s with ld := { s.ld with st := .sections, total := le v 12 4, count := v.getD 9 0, mapId := w32 (le v 16 4) } }
    if s.ld.restore ∧ s.ld.mapId ≠ s.reg .SYS_MAPID then s.deviceFault 6 else s

/-! ### Sections (R417-R426) -/

/-- The place of a section type in the order of R418; none for a reserved type. -/
def sectRank (t : Nat) : Option Nat :=
  match t with
  | 1 => some 1
  | 2 => some 2
  | 3 => some 3
  | 4 => some 4
  | 5 | 6 => some 5
  | 0x7F00 => some 6
  | t => if (0x100 ≤ t ∧ t ≤ 0x106) ∨ (0x108 ≤ t ∧ t ≤ 0x110) then some 5 else none

/-- How many sections of a kind have been read. -/
def countOf (p : Nat → Bool) (seen : List Nat) : Nat := (seen.filter p).length

/-- A section of type t breaks the order or the counts of R418, as the next after those seen (newest first); `last` says that
it is the last by the header's count. -/
def orderBad (seen : List Nat) (t : Nat) (last : Bool) : Bool :=
  match sectRank t with
  | none => true
  | some r =>
    let lr := match seen with
      | [] => 0
      | x :: _ => (sectRank x).getD 0
    decide (r < lr ∨ lr + 1 < r) || (last != (r == 6)) || (match r with
      | 2 => decide (4 ≤ countOf (· == 2) seen)
      | 5 =>
        if t = 6 then seen.contains 6
        else if t = 5 then decide (250 ≤ countOf (· == 5) seen)
        else decide (250 ≤ countOf (fun x => decide (x ≥ 0x100 ∧ x < 0x7F00)) seen)
      | 6 => lr == 6 || !seen.contains 6
      | _ => lr == r)

/-- What is wrong with a DEVICE body (R419). -/
def deviceErr (b : List Nat) : Option (Nat × Nat) :=
  firstBad [
    (b.length != 32, 0x09, 0),
    (bits (b.getD 4 0) 3 2 != 0, 0x07, 4),
    (b.getD 5 0 / 2 != 0, 0x07, 5),
    (le b 6 2 != 0, 0x07, 6),
    (le b 8 4 % 4096 != 0, 0x07, 8),
    (le b 12 4 % 4096 != 0 || decide (le b 8 4 + le b 12 4 > 2097152), 0x07, 12),
    (decide (b.getD 16 0 > 1), 0x07, 16),
    (le b 17 3 != 0, 0x07, 17),
    (le b 24 8 != 0, 0x07, 24)]

/-- The domain enables that R451 demands of a class, and its clock. -/
def profileDomsOk (cls doms core : Nat) : Bool :=
  let has (l : List Nat) : Bool := l.all fun d => bit doms d
  if cls = 1 then
    has [pdAon, pdTime, pdB0, pdPlaza] && core == 4
      && !([pdB0 + 1, pdB0 + 2, pdB0 + 3, pdHead, pdHost].any fun d => bit doms d)
  else has [pdAon, pdTime, pdB0, pdPlaza, pdHost]

/-- What is wrong with a PROFILE body (R420, R451). -/
def profileErr (have_ : List Profile) (b : List Nat) : Option (Nat × Nat) :=
  let ix := b.getD 0 0
  let cls := b.getD 1 0
  firstBad [
    (b.length != 16, 0x09, 0),
    (decide (ix > 3), 0x07, 0),
    (have_.any fun p => p.idx == ix, 0x0D, 0),
    (decide (cls > 2), 0x07, 1),
    (ix == 0 && cls != 0, 0x0D, 1),
    (le b 2 2 != 0, 0x07, 2),
    (decide (le b 4 4 < 2500 ∨ le b 4 4 > 250000), 0x07, 4),
    (decide (le b 8 4 > 262143), 0x07, 8),
    (decide (le b 12 2 > 4095), 0x07, 12),
    (decide (b.getD 14 0 < 4 ∨ b.getD 14 0 > 16), 0x07, 14),
    (b.getD 15 0 != 0, 0x07, 15),
    (!profileDomsOk cls (le b 12 2) (b.getD 14 0), 0x0D, 12)]

/-- The 2-bit values packed from bit 0 of byte 0 (R421, R423). -/
def twoBits (b : List Nat) (n : Nat) : List Nat := (List.range n).map fun i => b.getD (i / 4) 0 / 4 ^ (i % 4) % 4

/-- What is wrong with an OWNER body (R421). -/
def ownerErr (b : List Nat) : Option (Nat × Nat) :=
  firstBad [(b.length != 104, 0x0B, 0), (le b 102 2 / 16 != 0, 0x07, 102)]

/-- What is wrong with a THREAD body (R422). -/
def threadErr (b : List Nat) : Option (Nat × Nat) :=
  if b.length ≠ 1024 then some (0x09, 0)
  else firstBad ((List.range 64).flatMap fun i => [
    (bits (le b (16 * i) 4) 29 28 != 0 || mapBad .BK_TCFG (w32 (le b (16 * i) 4)), 0x07, 16 * i),
    (decide (le b (16 * i + 8) 4 > 1048575), 0x07, 16 * i + 8),
    (mapBad .BK_ADMIT (w32 (le b (16 * i + 12) 4)), 0x07, 16 * i + 12)])

/-- Two byte ranges share a byte. -/
def overlaps (a la b lb : Nat) : Bool := decide (a < b + lb ∧ b < a + la)

/-- What is wrong with an IMAGE body (R423). -/
def State.imageErr (s : State) (b : List Nat) : Option (Nat × Nat) :=
  let tg := b.getD 0 0
  let ofs := le b 4 4
  let len := b.length - 8
  firstBad [
    (decide (b.length < 8), 0x09, 0),
    (decide (tg > 8), 0x07, 0),
    (le b 1 3 != 0, 0x07, 1),
    (decide (ofs + len > imageSize tg), 0x0A, 4),
    (tg == 8 && overlaps ofs len s.ld.psBase s.ld.psSize, 0x0A, 4),
    (s.ld.images.any fun im => im.target == tg && overlaps ofs len im.ofs im.len, 0x0A, 4)]

/-- What is wrong with a SAFE body (R423). -/
def safeErr (b : List Nat) : Option (Nat × Nat) :=
  if b.length ≠ 24 then some (0x09, 0)
  else firstBad ((List.range 24).map fun i => (((twoBits (b.drop i) 4).contains 3), 0x07, i))

/-- What is wrong with a SIGN body (R424). -/
def signErr (b : List Nat) : Option (Nat × Nat) :=
  firstBad [
    (b.length != 4 && b.length != 68, 0x09, 0),
    (decide (b.getD 0 0 > 1), 0x07, 0),
    (le b 1 3 != 0, 0x07, 1),
    (b.length != (if b.getD 0 0 = 0 then 4 else 68), 0x09, 0)]

/-- The profile mask that names every profile of the Map. -/
def allMask (l : List Profile) : Nat := pdSet (l.map fun p => p.idx)

/-- What is wrong with an entry of a REGBLK section for block k (R425): a load error, the offset within the entry, and the
profile concerned. -/
def entryErr (ps : List Profile) (k : Nat) (w v : Nat) : Option (Nat × Nat × Nat) :=
  let pm := bits w 31 28
  let all := allMask ps
  let missing := ((List.range 4).find? fun i => bit pm i && !bit all i).getD 0
  if bits w 27 16 ≠ 0 ∨ w % 4 ≠ 0 then some (0x07, 0, 0)
  else
    match regAt (65536 * k + bits w 15 2 * 4) with
    | none => some (0x14, 0, 0)
    | some (r, i) =>
      if r = .CT_TICK_PERIOD ∨ r = .CT_TICK_PHASE ∨ r.hasWo then some (0x14, 0, 0)
      else if pm ≠ all ∧ ¬ r.onlyStaged then some (0x14, 0, 0)
      else if pm = 0 ∨ missing ≠ 0 ∨ (bit pm 0 && !bit all 0) then some (0x0D, 0, missing)
      else if r.badEntry i (w32 v) then some (0x07, 4, 0)
      else none

/-- The register entry of two words. -/
def entryOf (k w v : Nat) : Option RegEnt :=
  (regAt (65536 * k + bits w 15 2 * 4)).map fun p =>
    { pm := bits w 31 28, key := p.1.key p.2, val := p.1.loadWord (w32 v) }

/-- The entries of a REGBLK body, or the first error: load error, offset within the body, profile. -/
def regblk (ps : List Profile) (k : Nat) (b : List Nat) : Nat → Nat → Option (Nat × Nat × Nat) × List RegEnt
  | 0, _ => (none, [])
  | n + 1, o =>
    let w := le b o 4
    let v := le b (o + 4) 4
    match entryErr ps k w v with
    | some (c, d, p) => (some (c, o + d, p), [])
    | none =>
      let r := regblk ps k b n (o + 8)
      (r.1, (entryOf k w v).toList ++ r.2)

/-- Writes the bytes of an image, with correct check nibbles. -/
def State.placeImage (s : State) (im : Image) (bytes : List Byte) : State :=
  let rg := imageRegion im.target
  let s := s.wipe im
  (bytes.foldl (fun a b => (a.1.setByte rg a.2 b, a.2 + 1)) (s, im.ofs)).1

/-- An image is written: whole at boot; in the restore of R449 only where its target lost power. -/
def State.takesImage (s : State) (target : Nat) : Bool :=
  !s.ld.restore || bit s.pm.lost (regionPd (imageRegion target) 0)

/-- The body of a section of type t is applied, or gives a load error with its offset in the body and the profile. -/
def State.ldBody (s : State) (t : Nat) (raw : List Byte) : Option (Nat × Nat × Nat) × State :=
  let b := fromBytes raw
  let ld := s.ld
  let no (e : Option (Nat × Nat)) (k : State) : Option (Nat × Nat × Nat) × State :=
    match e with
    | some (c, o) => (some (c, o, 0), s)
    | none => (none, k)
  match t with
  | 1 => no (deviceErr b) { s with ld := { ld with
      subsys := w32 (le b 0 4), supq := b.getD 4 0, strict := b.getD 5 0 == 1, psBase := le b 8 4, psSize := le b 12 4
      layout := b.getD 16 0, budget := w32 (le b 20 4) } }
  | 2 =>
    match profileErr ld.profiles b with
    | some (c, o) => (some (c, o, b.getD 0 0), s)
    | none => (none, { s with ld := { ld with profiles := ld.profiles ++ [
        { idx := b.getD 0 0, cls := b.getD 1 0, period := le b 4 4, phase := le b 8 4, doms := le b 12 2, core := b.getD 14 0 }] } })
  | 3 =>
    if ld.profiles.all fun p => p.idx != 0 then (some (0x0D, 0, 0), s)
    else no (ownerErr b) { s with ld := { ld with owners := twoBits b 410 } }
  | 4 => no (threadErr b) { s with ld := { ld with threads := (List.range 256).map fun i => w32 (le b (4 * i) 4) } }
  | 5 => match s.imageErr b with
    | some (c, o) => (some (c, o, 0), s)
    | none =>
      let im : Image := { target := b.getD 0 0, ofs := le b 4 4, len := b.length - 8 }
      let s := { s with ld := { ld with images := ld.images ++ [im] } }
      (none, if s.takesImage im.target then s.placeImage im (raw.drop 8) else s)
  | 6 => no (safeErr b) { s with ld := { ld with safe := twoBits b 96 } }
  | 0x7F00 => no (signErr b) { s with ld := { ld with
      kind := b.getD 0 0, sigR := beNum ((raw.drop 4).take 32), sigS := beNum ((raw.drop 36).take 32) } }
  | t =>
    if b.length % 8 ≠ 0 then (some (0x09, 0, 0), s)
    else match regblk ld.profiles (t - 0x100) b (b.length / 8) 0 with
      | (some e, _) => (some e, s)
      | (none, l) => (none, { s with ld := { ld with ents := ld.ents ++ l } })

/-- A section has arrived with its header, body and CRC (R417, R427): checked and applied, or a load error. -/
def State.ldSection (s : State) (raw : List Byte) : State :=
  let b := fromBytes raw
  let ofs := s.ld.bytes.length
  let i := s.ld.done
  let t := le b 0 2
  let len := le b 4 4
  let fail (c o p : Nat) : State := s.loadFail c 0 i p (ofs + o)
  let last := i + 1 == s.ld.count
  if len % 4 ≠ 0 ∨ ofs + 12 + len > s.ld.total then fail 0x09 4 0
  else if crc32 (b.take (8 + len)) ≠ le b (8 + len) 4 then fail 0x05 (8 + len) 0
  else if (sectRank t).isNone then fail 0x06 0 0
  else if b.getD 2 0 ≠ 1 ∨ b.getD 3 0 ≠ 0 then fail 0x07 2 0
  else if orderBad s.ld.seen t last then fail 0x08 0 0
  else if last ∧ ofs + 12 + len ≠ s.ld.total then fail 0x09 4 0
  else match s.ldBody t ((raw.drop 8).take len) with
    | (some (c, o, p), _) => fail c (8 + o) p
    | (none, s) =>
      let ld := s.ld
      { s with ld := { ld with bytes := ld.bytes ++ raw, done := i + 1, seen := t :: ld.seen,
                               signAt := if t = 0x7F00 then ofs else ld.signAt,
                               st := if last then .all else .sections } }

/-- The length of the next part of the Map, given its first bytes: the header, or a section with its CRC; none while a
section's own header is not complete. -/
def State.ldNeed (s : State) (b : List Byte) : Option Nat :=
  match s.ld.st with
  | .header => some 32
  | .sections => if b.length < 8 then none else some (12 + le (fromBytes b) 4 4)
  | _ => none

/-- The next part of the Map is taken. -/
def State.ldPart (s : State) (b : List Byte) : State := if s.ld.st = .header then s.ldHeader b else s.ldSection b

/-- The loader reads: LOAD, or WATCH in the restore of R449. -/
def State.loading (s : State) : Bool := s.mode == 2 || s.ld.restore

/-- What SYS_LOADERR.SECT shows of the part that is being read. -/
def State.ldSect (s : State) : Nat := if s.ld.st = .header then 0xFF else s.ld.done

/-- The whole Map cannot be read: a load error at the part that is being read. -/
def State.ldStop (s : State) (code : Nat) : State := s.loadFail code 0 s.ldSect 0 s.ld.bytes.length

/-! ### The flash sources (R413, R415) -/

/-- The single-line read of n bytes at an address: command 0x03 with a 3-byte address (R413). -/
def plainRead (a n : Nat) : List FlPhase := [.out [0x03#8], .out (addressBytes 3 a), .read n]

/-- The loader's access of n bytes at an address of MP0 by the single-line read at 25 MHz (R413). -/
def State.bootPlain (s : State) (a n : Nat) : State := s.emit (.mp0 3 true (plainRead a n))

/-- Header byte i of the Map that is read. -/
def Loader.hdr (l : Loader) (i : Nat) : Nat := (l.bytes.getD i 0).toNat

/-- After the header: where CFGOP is not 0, write enable and then CFGOP with its address and data byte (R413). -/
def State.bootConfig (s : State) : State :=
  let op := s.ld.hdr 20
  if op = 0 then s
  else
    let a := s.ld.hdr 24 + 256 * s.ld.hdr 25 + 65536 * s.ld.hdr 26
    (s.emit (.mp0 3 true [.out [0x06#8]])).emit
      (.mp0 3 true [.out [BitVec.ofNat 8 op], .out (addressBytes 3 a), .out [BitVec.ofNat 8 (s.ld.hdr 21)]])

/-- The k-th 64-byte access of the rest of the Map: octal as the header sets it where OCT is 1, else single-line (R413). -/
def State.bootLine (s : State) (k : Nat) : State :=
  let c := s.ld.hdr 23
  if bit c 5 then
    s.emit (.mp0 (bits c 7 6) false [octalCommand (s.ld.hdr 22), .out (addressBytes 4 (64 * k)), .hiz (c % 32), .read 64])
  else s.bootPlain (64 * k) 64

/-- The accesses are made that reach byte n of the Map. -/
def State.bootReach (s : State) (n : Nat) : State :=
  let have_ := s.ld.lines
  let need := (n + 63) / 64
  let s := (List.range (need - have_)).foldl (fun s i => s.bootLine (have_ + i)) s
  { s with ld := { s.ld with lines := max have_ need } }

/-- A part of the Map arrives from MP0, with the accesses that read it (R413). -/
def State.bootPart (s : State) (b : List Byte) : State :=
  if s.ld.st = .header then
    let s := (s.bootPlain 0 32).ldPart b
    if s.ld.st = .sections then s.bootConfig else s
  else (s.bootReach (min s.ld.total (s.ld.bytes.length + b.length))).ldPart b

/-- A page of MP1 arrives, with all its codewords correctable: its user bytes from 8 on follow those read before (R415). -/
def State.bootBytes (s : State) (b p : Nat) (cws : List HlCw) : State :=
  let user := (cws.map fun c => (c.map (·.1)).getD []).flatten
  let at_ := if p + 1 < State.reset.mpPages then (b, p + 1) else (b + 1, 0)
  { s with ld := { s.ld with nandOn := true, nandAt := at_, pushed := s.ld.pushed ++ (user.drop 8).map (BitVec.ofNat 8) } }

/-- MP1 sends a command to the flash with the reset values of its registers (R415). -/
def State.bootNand (s : State) (c : NandCmd) : State :=
  s.emit (.mp1 (State.reset.fld F.MP1_CFG_D1) (State.reset.flag F.MP1_CFG_WID8) c)

/-- User byte 4 of page 0 says that a block holds a Map (R415), given the page's codewords. -/
def mapMarked (cws : List HlCw) : Bool :=
  match cws.head? with
  | some (some (l, _)) => l.getD 4 0 == 4
  | _ => false

/-- The next page of MP1 arrives as the flash sends it (R415), read with the reset values of the MP1 registers and without
decryption. The search passes to the next block until page 0 of one has a correctable codeword 0 with user byte 4 = 0x04; that
none of blocks 0-15 has one is no Map (notes/assumptions/206.md). -/
def State.bootPage (s : State) (page : List Byte) : State :=
  let b := s.ld.nandAt.1
  let p := s.ld.nandAt.2
  let cws := State.mpDecode .reset page
  let s := (s.bootNand (.row (State.reset.fld F.MP1_OPS0_PGRD) b p)).bootNand (.cache (State.reset.fld F.MP1_OPS0_RDCACHE))
  if p = 0 ∧ ¬ mapMarked cws then
    if s.ld.nandOn then s.ldStop 0x12
    else if b < 15 then { s with ld := { s.ld with nandAt := (b + 1, 0) } }
    else s.ldStop 0x01
  else if cws.all fun c => c.isSome then s.bootBytes b p cws
  else s.ldStop 0x12

/-! ### Reading a Map (R427) -/

/-- The bytes that wait are one whole part, or more than the Map may hold: the part is taken, or a load error; `more` where
more bytes must come. -/
def State.ldTake (s : State) (more : State → State) : State :=
  match s.ldNeed s.ld.pushed with
  | some n =>
    if n ≤ s.ld.pushed.length then
      ({ s with ld := { s.ld with pushed := s.ld.pushed.drop n } } : State).ldPart (s.ld.pushed.take n)
    else if s.ld.bytes.length + n > max 32 s.ld.total then s.ldStop 0x09
    else more s
  | none => more s

/-- The next part from MP0: the bytes given where they are one whole part. -/
def State.ldFlash (s : State) (b : List Byte) : State :=
  match s.ldNeed b with
  | some n => if n = b.length ∨ (s.ld.st = .sections ∧ s.ld.bytes.length + n > s.ld.total) then s.bootPart b else s
  | none => s

/-- The next part of the Map from a source, with what the flash sends. -/
def State.ldRead (s : State) (src : Nat) (rd : Option (List Byte)) : State :=
  match src, rd with
  | 0, some b => s.ldFlash b
  | 0, none => s
  | 1, _ => s.ldTake fun s => if s.ld.last then s.ldStop 0x09 else s
  | _, some page => s.ldTake fun s => s.bootPage page
  | _, none => s.ldTake fun s => s.ldStop 0x12

/-- MAP_SECTION_READ (R413, R415, R427): the header or the next section has arrived. From MP0 the bytes given are the part,
and nothing happens while they are not one whole part. From MP1 they are the next page as the flash sends it, none where it does
not answer; like the pushed chunks, pages wait until they hold a whole part. -/
def execMapSectionRead (rd : Option (List Byte)) (s : State) : Host.Outcome State Fault Refusal :=
  if ¬ s.loading ∨ (s.ld.st ≠ .header ∧ s.ld.st ≠ .sections) then .next s
  else .next (s.ldRead (s.fld F.SYS_BOOT_SRC) rd)

/-! ### The values of a Map (R25, R421-R426) -/

/-- The entries that the DEVICE, PROFILE, OWNER and THREAD sections give (R419-R422). -/
def Loader.sectionEnts (l : Loader) : List RegEnt :=
  let thr := (List.range 64).flatMap fun i =>
    let w (j : Nat) : Word := l.threads.getD (4 * i + j) 0
    [({ pm := 15, key := Reg.key .BK_TCFG i, val := F.BK_TCFG_OWNQ.put (Reg.loadWord .BK_TCFG (w 0)) (l.owners.getD i 0) } : RegEnt),
     { pm := 15, key := Reg.key .BK_TENTRY i, val := w 1 },
     { pm := 15, key := Reg.key .BK_BUDGET i, val := Reg.loadWord .BK_BUDGET (w 2) },
     { pm := 15, key := Reg.key .BK_ADMIT i, val := Reg.loadWord .BK_ADMIT (w 3) }]
  let prof := l.profiles.flatMap fun p =>
    [({ pm := 2 ^ p.idx, key := Reg.key .CT_TICK_PERIOD 0, val := w32 p.period } : RegEnt),
     { pm := 2 ^ p.idx, key := Reg.key .CT_TICK_PHASE 0, val := w32 p.phase }]
  { pm := 15, key := Reg.key .HP_SUPQ 0, val := Reg.loadWord .HP_SUPQ (w32 l.supq) } :: (thr ++ prof)

/-- The register file that entries give under a profile, a later entry replacing an earlier (R425). -/
def mapTable (ents : List RegEnt) (p : Nat) : Tab Word :=
  ents.foldl (fun t e => if bit e.pm p then t.set regDefault e.key e.val else t) []

/-- The Map values under a profile (R25): ARC_QCAP takes the region's size where no entry gives it (R236). -/
def mapValues (ents : List RegEnt) (p : Nat) : Tab Word :=
  let t := mapTable ents p
  (List.range 64).foldl (fun t a =>
    let k := Reg.key .ARC_QCAP a
    if ents.any fun e => e.key == k then t else t.set regDefault k (w32 (F.ARC_REGION_SIZE.of t a))) t

/-- The profile entries of a Map: those whose mask does not name every profile (R425, R426). -/
def Loader.profileEnts (l : Loader) : List RegEnt := l.ents.filter fun e => e.pm != allMask l.profiles

/-- PSTORE holds every profile entry of every profile, 8 bytes each (R426). -/
def Loader.pstoreUse (l : Loader) : Nat :=
  8 * (l.profileEnts.foldl (fun a e => a + ((List.range 4).filter fun i => bit e.pm i).length) 0)

/-- A profile whose values form a reserved combination of a field port (R498). -/
def Loader.comboBad (l : Loader) : Option Nat :=
  (l.profiles.find? fun p =>
    let t := mapTable l.ents p.idx
    (List.range 32).any fun n => fpReserved t n).map fun p => p.idx

/-- The admission rule that the Map breaks first: profile, Block, rule, thread (R58, R59, R427), with the values that the
registers will have under each profile. -/
def State.admitErr (s : State) : Option (Nat × Nat × Nat × Nat) :=
  s.ld.profiles.findSome? fun p => (List.range 4).findSome? fun b =>
    let s' := { s with live := mapTable (s.ld.sectionEnts ++ s.ld.ents) p.idx }
    if bit p.doms (pdB0 + b) then
      (s'.admitFail b p fun t => s'.fld F.BK_BUDGET_BUDGET t).map fun e => (p.idx, b, e.1, e.2)
    else none

/-- What the signature means for acceptance (R427): a load error, or whether the Map is taken unverified with UNVER set. -/
def State.signCheck (s : State) : Option Nat × Bool :=
  let l := s.ld
  let good (k : Nat × Nat) : Bool := ecdsaVerify k (sha256 (l.bytes.take l.signAt)) l.sigR l.sigS
  let verify : Option Nat := match s.lcSlot.key with
    | some k => if good k then none else some 0x0F
    | none => some 0x0F
  match s.lcState with
  | 1 | 4 => (none, false)
  | 2 =>
    if l.kind = 0 then (none, false)
    else if s.lcSlot.key.isSome then (verify, false) else (none, true)
  | 3 => if l.kind = 0 then (some 0x0E, false) else (verify, false)
  | _ => (some 0x10, false)

/-- The checks after the SIGN section (R426, R427, R428 step 5): A1-A3, then acceptance, then PSTORE; answers the accepted state, or the state after a load
error. -/
def State.loadCheck (s : State) : State × Bool :=
  let l := s.ld
  let sect := l.done - 1
  if s.fld F.SYS_BOOT_SRC = 1 ∧ ¬ l.pushed.isEmpty then (s.loadFail 0x09 0 sect 0 l.total, false)
  else match l.comboBad with
    | some p => (s.loadFail 0x07 0 sect p l.signAt, false)
    | none =>
      match s.admitErr with
      | some (p, b, r, t) => (s.loadFail 0x0C (b * 64 + r * 16 + t) sect p l.signAt, false)
      | none =>
        match s.signCheck with
        | (some c, _) => (s.loadFail c 0 sect 0 (l.signAt + (if c = 0x0F then 12 else 8)), false)
        | (none, unver) =>
          if l.pstoreUse > l.psSize then (s.loadFail 0x0D 0 sect 0 l.signAt, false)
          else (s.setFld F.SYS_BOOT_UNVER 0 (if unver then 1 else 0), true)

/-- MAP_LOAD_COMPLETE (R427, R428 step 5): with the whole Map read, the signature, A1-A3 and PSTORE are checked; an accepted
Map waits for the next stage close. -/
def execMapLoadComplete (s : State) : Host.Outcome State Fault Refusal :=
  if s.mode ≠ 2 ∨ s.ld.restore ∨ s.ld.st ≠ .all ∨ (s.fld F.SYS_BOOT_SRC = 1 ∧ ¬ s.ld.last) then .next s
  else match s.loadCheck with
    | (s, true) => .next { s with ld := { s.ld with st := .ready } }
    | (s, false) => .next s

/-! ### Host push (R431) -/

/-- A new push begins at byte 0. -/
def State.pushNew (s : State) : State :=
  let s := (s.setFld F.SYS_PUSHSTAT_ERR 0 0).setFld F.SYS_PUSHSTAT_DONE 0 0
  let s := s.setFld F.SYS_PUSHSTAT_RECV 0 0
  let since := s.ld.since
  let s := s.loadBegin 1 s.ld.restore
  { s with ld := { s.ld with since := since } }

/-- A write of SYS_PUSHCTL with GO (R431): the chunk is handed over, or the write is discarded with CMDREF. -/
def State.pushGo (s : State) (w : Word) : State :=
  if ¬ s.ld.offer then s
  else if ¬ s.flag F.SYS_PUSHSTAT_READY then s.raise F.SYS_PUSHSTAT_CMDREF
  else
    let s := if s.ld.st = .idle ∨ s.ld.st = .failed ∨ s.fld F.SYS_BOOT_SRC ≠ 1 then s.pushNew else s
    let s := s.setFld F.SYS_PUSHSTAT_READY 0 0
    { s with ld := { s.ld with chunk := some (F.SYS_PUSHCTL_LENW.get w, F.SYS_PUSHCTL_LAST.get w == 1) } }

/-- A write of SYS_PUSHCTL with ABORT (R431): the push ends without an error; the next GO begins a new Map. -/
def State.pushAbort (s : State) : State :=
  if ¬ s.ld.offer ∨ s.ld.st = .ready ∨ s.ld.st = .captured then s
  else { (s.raise F.SYS_PUSHSTAT_READY) with ld := { st := .idle, since := s.ld.since, offer := true, restore := s.ld.restore } }

/-- A write of SYS_PUSHCTL (R431, R435). -/
def State.pushCtl (s : State) (w : Word) : State :=
  if bit w.toNat 29 then s.pushAbort else if bit w.toNat 31 then s.pushGo w else s

/-- PUSH_CHUNK_TAKEN (R431): the loader takes the chunk from the buffer; READY is set again unless it was the last. -/
def execPushChunkTaken (s : State) : Host.Outcome State Fault Refusal :=
  match s.ld.chunk with
  | none => .next s
  | some (n, last) =>
    let r := (List.range n).foldl (fun (a : State × List Byte) i =>
      let (s, w) := a.1.bar2Own 0 (4 * i)
      (s, toBytes (leBytes 4 w.toNat).reverse ++ a.2)) (s, [])
    let s := r.1
    let s := { s with ld := { s.ld with pushed := s.ld.pushed ++ r.2.reverse, chunk := none, last := last, chunkAt := s.ltMs } }
    let s := s.setFld F.SYS_PUSHSTAT_RECV 0 (s.fld F.SYS_PUSHSTAT_RECV + 4 * n)
    .next (if last then s else s.raise F.SYS_PUSHSTAT_READY)

/-- PUSH_TIMEOUT (R431): more than 10 s between two chunks end the push with error 0x11; nothing where no push is between
chunks, or before that time. -/
def execPushTimeout (s : State) : Host.Outcome State Fault Refusal :=
  .next (if s.lapsed (some s.ld.chunkAt) (2560000000000 + 1) ∧ s.ld.offer ∧ s.fld F.SYS_BOOT_SRC = 1 ∧ s.fld F.SYS_PUSHSTAT_RECV ≠ 0 ∧ s.ld.chunk.isNone ∧ ¬ s.ld.last
      ∧ (s.ld.st = .header ∨ s.ld.st = .sections) then
    s.loadFail 0x11 0 (if s.ld.st = .header then 0xFF else s.ld.done) 0 s.ld.bytes.length else s)

/-! ### Profile switches (R432-R434) -/

/-- A profile of the Map in effect. -/
def State.profile (s : State) (i : Nat) : Option Profile := s.map.profiles.find? fun p => p.idx == i

/-- The active profile. -/
def State.activeProf (s : State) : Nat := s.fld F.SYS_PROF_ACTIVE

/-- A switch to a profile begins (R432 step 1); one that is pending is replaced, which sets REF (R434). -/
def State.switchStart (s : State) (p : Nat) (byMode : Bool) : State :=
  let s := s.raiseIf s.map.sw.isSome F.SYS_PROF_REF
  let s := ((s.raise F.SYS_PROF_BUSY).raise F.SYS_PROF_PEND).setFld F.SYS_PROF_REQP 0 p
  { s with map := { s.map with sw := some { prof := p, byMode := byMode } } }

/-- A write of SYS_PROFCMD (R433): a switch to a class-0 profile, or refused with REF. -/
def State.profCmd (s : State) (w : Word) : State :=
  if ¬ bit w.toNat 31 then s
  else
    let p := F.SYS_PROFCMD_PROF.get w
    let ok : Bool := match s.profile p with
      | some x => x.cls == 0
      | none => false
    if ok ∧ s.map.sw.isNone ∧ (s.mode = 3 ∨ s.mode = 4 ∨ s.mode = 5) then s.switchStart p false
    else s.raise F.SYS_PROF_REF

/-- PROFILE_COPY_COMPLETE (R432 step 3): the last entry of the pending switch has been copied. -/
def execProfileCopyComplete (s : State) : Host.Outcome State Fault Refusal :=
  .next (match s.map.sw with
    | some w => { s with map := { s.map with sw := some { w with copied := true } } }
    | none => s)

/-- The entries of a profile that a switch writes: its profile entries, and its tick period and phase (R432). -/
def State.switchEnts (s : State) (p : Nat) : List RegEnt :=
  let all := allMask s.map.profiles
  let common (e : RegEnt) : Bool := (e.pm &&& all) == all && e.key != Reg.key .CT_TICK_PERIOD 0 && e.key != Reg.key .CT_TICK_PHASE 0
  s.map.ents.filter fun e => bit e.pm p && !common e

/-- At a stage close the copied values of a switch go into the staged copies and are captured (R432 step 4); the domains
that the profile adds are powered before its tick (R456). -/
def State.switchCapture (s : State) : State :=
  match s.map.sw with
  | none => s
  | some w =>
    if ¬ w.copied ∨ w.captured then s
    else
      let add := match s.profile w.prof with
        | some p => p.doms - (p.doms &&& s.fld F.PM_STATUS_DOM)
        | none => 0
      let s := s.powerOn add
      let s := (s.switchEnts w.prof).foldl (fun s e => { s with staged := s.staged.set regDefault e.key e.val }) s
      let s := s.setFld F.SYS_PROF_BUSY 0 0
      { s with map := { s.map with sw := some { w with captured := true } } }

/-- At the tick a captured switch takes effect (R432 step 5): ACTIVE changes, the Map values are those of the profile, and
the domains it removes lose power (R456). -/
def State.switchEffect (s : State) : State :=
  match s.map.sw with
  | none => s
  | some w =>
    if ¬ w.captured then s
    else
      let s := (s.setFld F.SYS_PROF_ACTIVE 0 w.prof).setFld F.SYS_PROF_PEND 0 0
      { s with mapv := mapValues s.map.ents w.prof, map := { s.map with sw := none } }

end Sys2Proof.Machine
end

