-- ==== Sys2Proof/Machine/Modes.lean ====
section
/-! DEFINITION. Operating modes: the MODE command, entry to WATCH and CURFEW, wake, SAFE, resets and supervision
(19_power_modes, 21_electrical, R386). What a tick does to the modes stands here; TickOp.lean calls it. -/

namespace Sys2Proof.Machine

/-! ### HALT (R438, R464) -/

/-- HALT is entered (R464). -/
def State.enterHalt (s : State) : State := { s with lc := { s.lc with haltFrom := s.mode, haltWait := false } }.setMode 9

/-- A request for HALT, from HALTREQ or BREAK (R310, R464): it waits where a mode change is pending. -/
def State.askHalt (s : State) : State :=
  if s.flag F.SYS_MODE_PEND then { s with lc := { s.lc with haltWait := true } } else s.enterHalt

/-- A HALTREQ that waited for a mode change (R464): it acts once the change is complete and is dropped in WATCH and
CURFEW. -/
def State.haltSettle (s : State) : State :=
  if ¬ s.lc.haltWait then s
  else match s.mode with
    | 3 | 4 | 5 | 10 => if s.flag F.SYS_MODE_PEND then s else s.enterHalt
    | 6 | 7 => { s with lc := { s.lc with haltWait := false } }
    | _ => s

/-! ### The MODE command (R439-R441) -/

/-- The class of a profile of the Map; none where it is absent. -/
def State.profClass (s : State) (p : Nat) : Option Nat := (s.profile p).map fun x => x.cls

/-- The argument of a MODE is reserved, or names no profile of the class that the target needs (R439). -/
def State.modeBad (s : State) (ws : List Word) : Bool :=
  let a := arg ws 1
  let t := a % 16
  let p := bits a 9 8
  bits a 7 4 != 0 || bits a 31 10 != 0 || (match t with
    | 3 | 4 | 5 | 7 => p != 0
    | 6 => s.profClass p != some 1
    | 10 => s.profClass p != some 2
    | _ => true)

/-- Quarter q may not issue MODE (R440). -/
def State.modeDenied (s : State) (q : Nat) : Bool := s.sup != q && !(bit (s.fld F.HP_SUPQ_MODEPERM) q)

/-- A mode change is under way. -/
def State.modeBusy (s : State) : Bool := s.pm.chg.isSome || s.pm.dozeExit.isSome || s.ld.restore

/-- A MODE with target t switches profile (R441, R443). -/
def State.modeSwitches (s : State) (t : Nat) : Bool := t == 6 || t == 10 || (s.mode == 10 && (t == 3 || t == 4))

/-- The transition to t is permitted from the present mode (R439). -/
def State.modePermits (s : State) (t : Nat) : Bool :=
  match s.mode with
  | 3 | 4 | 5 => true
  | 10 => t == 3 || t == 4 || t == 10
  | _ => false

/-- MODE is refused with status 4 (R440). -/
def State.modeRefused (s : State) (t : Nat) : Bool :=
  !s.modePermits t || s.modeBusy
    || ([0, 1, 2, 3].any fun q => (s.qOf q).qr.isSome || (s.qOf q).qrDue.isSome)
    || (match s.map.sw with
        | some w => !s.modeSwitches t || t == s.mode || w.captured
        | none => false)
    || (t == 6 && s.fld F.PM_AON_WKEN_WATCHEN == 0) || (t == 7 && s.fld F.PM_AON_WKEN_CURFEN == 0)

/-- A change to mode t begins to wait (R458). -/
def State.modePend (s : State) (c : ModeChg) : State :=
  let s := (s.raise F.SYS_MODE_PEND).setFld F.SYS_MODE_TGT 0 c.target
  { s with pm := { s.pm with chg := some { c with since := s.ltMs } } }

/-- A MODE of Quarter q that is not refused (R439, R441, R443 step 1): WATCH and CURFEW answer at once, the tick at which
units will stop being a free value (notes/assumptions/41.md); the others answer at T_e. -/
def State.modeStart (s : State) (q t p : Nat) : State :=
  let old := w32 s.mode
  if t = s.mode then s.respond q 0 [w32 s.ct.tickCnt, old]
  else if t = 6 ∨ t = 7 then
    let (s, te) := s.fresh
    let s := (s.respond q 0 [te, old]).modePend { target := t, q := none, at_ := .links }
    if t = 7 then s else ({ s with pm := { s.pm with back := s.activeProf } }).switchStart p true
  else if s.modeSwitches t then
    let goal := if t = 10 then p else s.pm.back
    let s := if t = 10 then { s with pm := { s.pm with back := s.activeProf } } else s
    (s.modePend { target := t, q := some q, at_ := .prof }).switchStart goal true
  else s.modePend { target := t, q := some q, at_ := .tick false }

/-- MODE (R439, R440). -/
def execMode (q : Fin 4) (s : State) : Host.Outcome State Fault Refusal :=
  .next (s.mbRun q (· = 7) fun s ws =>
    let t := arg ws 1 % 16
    match s.mbCheck ws (s.modeBad ws) (s.modeDenied q) false with
    | some st => s.respond q st []
    | none => if s.modeRefused t then s.respond q 4 [] else s.modeStart q t (bits (arg ws 1) 9 8))

/-- DEVICE_RESET (R369, R453). -/
def execDeviceReset (q : Fin 4) (s : State) : Host.Outcome State Fault Refusal :=
  .next (s.mbRun q (· = 8) fun s ws =>
    match s.mbCheck ws (arg ws 1 != 0x48640001) (s.sup != q.val) true with
    | some st => s.respond q st []
    | none => s.deviceReset F.PM_AON_RSTCAUSE_CMD)

/-- WATCHDOG_EXPIRY (R386): the count of an armed watchdog that counts has reached PERIOD; nothing otherwise. -/
def execWatchdogExpiry (q : Fin 4) (s : State) : Host.Outcome State Fault Refusal :=
  if ¬ (s.qOf q).wdArmed ∨ ¬ s.wdCounts ∨ ¬ s.wdDue q then .next s
  else
    let a := s.fld F.HP_WDOG_ACTION q
    let s := (s.raise F.HP_QSTAT_WDEXP q).notice q 6 a q s.ltMs 0
    let s := s.wdOff q
    .next (match a with
      | 1 => s.askReset q 1
      | 2 => (s.deviceReset F.PM_AON_RSTCAUSE_WDOG).setFld F.PM_AON_RSTCAUSE_WDQ 0 q.val
      | _ => s)

/-! ### Mode changes at a stage close and a tick (R441, R443 step 3) -/

/-- A switch may be captured: the one that MODE WATCH needs waits for the host links (R443 step 3). -/
def State.switchMay (s : State) : Bool :=
  match s.pm.chg with
  | some c => c.at_ != .links
  | none => true

/-- A change that waits for a tick, and the automatic exit from DOZE, take the tick whose stage close this is; WATCH also
waits for the copy of its profile (R441, R443 step 3). -/
def State.modeStageClose (s : State) : State :=
  let copied : Bool := match s.map.sw with
    | some w => w.copied
    | none => true
  let chg := s.pm.chg.map fun c =>
    if c.at_ = .tick false ∧ (c.target ≠ 6 ∨ copied) then { c with at_ := .tick true } else c
  { s with pm := { s.pm with chg := chg, dozeExit := s.pm.dozeExit.map fun _ => true } }

/-- The response of a change is no longer owed to a Quarter that is reset (R382). -/
def State.modeForget (s : State) (qs : List Nat) : State :=
  { s with pm := { s.pm with chg := s.pm.chg.map fun c => match c.q with
      | some q => if qs.contains q then { c with q := none } else c
      | none => c } }

/-- The threads of BK1-BK3 start as at the end of LOAD (R448 step 6, R297). -/
def State.startBack (s : State) : State :=
  s.each 64 fun s t => if 16 ≤ t ∧ s.blockOn t then s.thrStart t else s

/-- A change takes effect at its tick T_e (R441), or the return from WATCH at T_r (R448 step 6). -/
def State.modeDone (s : State) (c : ModeChg) : State :=
  let old := s.mode
  let s := (s.setMode c.target).noChange
  let s := { s with pm := { s.pm with dozeExit := none } }
  let s := match c.q with
    | some q => s.respond q 0 [w32 s.ct.tickCnt, w32 old]
    | none => s
  if old = 6 then { s with pm := { s.pm with armed := false, isolated := false, lost := 0 } }.startBack else s

/-- The domains that a mode keeps: the active profile's in WATCH, PD_AON in CURFEW (R456). -/
def State.keptDoms (s : State) (t : Nat) : Nat :=
  if t = 7 then pdSet [pdAon]
  else match s.profile s.activeProf with
    | some p => p.doms
    | none => 0xFFF

/-- The wake detectors are armed (R443 step 3, notes/assumptions/42.md). -/
def State.wakeArm (s : State) : State :=
  let s := (s.setFld F.PM_AON_WKSTAT_SRC 0 0).setFld F.PM_AON_WKSTAT_PIN 0 0
  { s with pm := { s.pm with armed := true, isolated := false } }

/-- T_e of an entry to WATCH or CURFEW (R443 steps 3 and 4): the mode is shown, the detectors are armed, the domains to
lose power are known, and the Kerb closes where PD_RING is one of them. -/
def State.modeStop (s : State) (c : ModeChg) : State :=
  let dom := s.fld F.PM_STATUS_DOM
  let lost := dom - (dom &&& s.keptDoms c.target)
  let s := (s.setMode c.target).wakeArm
  let s := { s with pm := { s.pm with lost := lost, dozeExit := none, chg := some { c with at_ := .stopping } } }
  if bit lost pdRing then s.kerbClose 2 else s

/-- The enable of a unit that R443 step 3 stops, in a register. -/
def stopField (r : Reg) : Option Field :=
  match r with
  | .FP_CFG => some F.FP_CFG_EN
  | .FP_LAUNCH => some F.FP_LAUNCH_EN
  | .TW_CFG => some F.TW_CFG_EN
  | .HL_CFG => some F.HL_CFG_EN
  | .LL_CFG => some F.LL_CFG_EN
  | .LL_CAPCFG => some F.LL_CAPCFG_EN
  | .XC_CFG => some F.XC_CFG_EN
  | .XC_PMCFG => some F.XC_PMCFG_EN
  | .ARC_CFG => some F.ARC_CFG_EN
  | .PZ_RSRC => some F.PZ_RSRC_EN
  | .RG_SLOT => some F.RG_SLOT_EN
  | .RG_RXF => some F.RG_RXF_EN
  | .RG_PTPCFG => some F.RG_PTPCFG_EN
  | .RG_PDCFG => some F.RG_PDCFG_EN
  | _ => none

/-- While an entry stops units, those of the domains to lose power are at EN = 0 (R443 step 3). -/
def State.stopUnits (s : State) : State :=
  if s.pm.armed ∧ ¬ s.pm.isolated then
    { s with active := s.active.foldl (fun t e =>
        match stopField (keyReg e.1) with
        | some f => if keyIn s.pm.lost e.1 then t.set regDefault e.1 (f.put e.2 0) else t
        | none => t) s.active }
  else s

/-- The mode change of a tick (R441, R443): `sw` says that a profile switch takes effect at it. -/
def State.modeTick (s : State) (sw : Bool) : State :=
  let act : Option ModeChg := match s.pm.chg with
    | some c => if c.at_ = .tick true ∨ (c.at_ = .prof ∧ sw) then some c else none
    | none => none
  match act with
  | some c => if c.at_ = .tick true ∧ (c.target = 6 ∨ c.target = 7) then s.modeStop c else s.modeDone c
  | none =>
    if s.pm.dozeExit = some true then
      let s := { s with pm := { s.pm with dozeExit := none } }
      let s := if s.pm.chg.isSome then s else (s.setFld F.SYS_MODE_PEND 0 0).setFld F.SYS_MODE_TGT 0 0
      if s.mode = 5 then s.setMode (s.fld F.SYS_MODE_RETM) else s
    else s

/-! ### Wake (R444-R448) -/

/-- The device drives HP0_WAKE_N and HP1_WAKE_N low (R362). -/
def State.wakeHosts (s : State) : State :=
  (({ s with pm := { s.pm with wakeN := 3 } } : State).emit (.wakeN 0)).emit (.wakeN 1)

/-- LOAD after a CURFEW wake is to end in WATCH, with PD_HOST unpowered (R447). -/
def State.wakesToWatch (s : State) : Bool :=
  s.flag F.PM_AON_CFG_CWTGT && s.profClass (s.fld F.PM_AON_CFG_WPROF) == some 1 && s.fld F.SYS_BOOT_STRAP != 1

/-- A wake acts (R447, R448 steps 1-5): from CURFEW to LOAD, from WATCH to the restore. -/
def State.wakeAct (s : State) : State :=
  let boot := s.fld F.SYS_BOOT_STRAP
  if s.mode = 7 then
    let w := s.wakesToWatch
    let s := s.powerOn (if w then 0xFFF - pdSet [pdHost] else 0xFFF)
    let s := { s with aon := { s.aon with reconDue := true }, map := { s.map with sw := none }
                      pm := { s.pm with armed := false, isolated := false, lost := 0 } }
    let s := s.setMode 2
    (if w then s else s.wakeHosts).loadStart boot false
  else
    let back := match s.profile s.pm.back with
      | some p => p.doms
      | none => 0xFFF
    let s := (s.wakeHosts.setFld F.PM_STATUS_LPREG 0 0).powerOn back
    let s := (s.raise F.SYS_MODE_PEND).setFld F.SYS_MODE_TGT 0 (s.fld F.SYS_MODE_RETM)
    s.loadStart boot true

/-- A source becomes pending; the first wake is recorded (R446). -/
def State.wakeHit (s : State) (code pin : Nat) : State :=
  let s := s.setFld F.PM_AON_WKSTAT_PEND 0 (s.fld F.PM_AON_WKSTAT_PEND ||| 2 ^ (code - 1))
  if s.fld F.PM_AON_WKSTAT_SRC ≠ 0 then s
  else
    let s := s.setFld F.PM_AON_WKSTAT_SRC 0 code
    let s := if code = 1 then s.setFld F.PM_AON_WKSTAT_PIN 0 pin else s
    (s.setReg .PM_AON_WKCNT_LO 0 (w32 s.aon.cnt)).setReg .PM_AON_WKCNT_HI 0 (w32 (s.aon.cnt / 2 ^ 32))

/-- The AON count has reached alarm x (R445). -/
def State.alarmDue (s : State) (x : Nat) : Bool :=
  decide ((s.reg .PM_AON_ALARM_LO x).toNat + 2 ^ 32 * (s.reg .PM_AON_ALARM_HI x).toNat ≤ s.aon.cnt)

/-- A detector recognises what it meets (R175, R355, R445, R487); none where the spec leaves it open between what is always
and what is never recognised. -/
def State.wakeMeets (s : State) (w : WakeSig) : Option Bool :=
  let rule (yes never : Bool) : Option Bool := if yes then some true else if never then some false else none
  match w with
  | .pin k was now =>
    some (match s.fld F.PM_AON_WKPIN_TYPE k with
      | 0 => !was && now
      | 1 => was && !now
      | 2 => now
      | _ => !now)
  | .twoWire _ scl => some scl
  | .ringEnergy _ mv ns => rule (decide (120 ≤ mv ∧ 2000 ≤ ns)) (decide (mv ≤ 40))
  | .ringBell _ mv n hz => rule (decide (150 ≤ mv ∧ 64 ≤ n ∧ 1125000 ≤ hz ∧ hz ≤ 1375000)) (decide (n ≤ 32))
  | .headEnergy _ mv hz ns => rule (decide (30 ≤ mv ∧ 2000 ≤ ns ∧ 15000000 ≤ hz ∧ hz ≤ 110000000)) (decide (mv ≤ 10))
  | .headBell _ mv hz ns => rule (decide (50 ≤ mv ∧ 60000 ≤ ns ∧ 9500000 ≤ hz ∧ hz ≤ 10500000)) (decide (mv ≤ 15 ∨ ns ≤ 20000))
  | .idleExit _ | .wakePin _ => some true
  | .alarm x => some (s.alarmDue x)

/-- Whether a detector recognises what it meets: a free value where the spec leaves it open (notes/assumptions/204.md). -/
def State.wakeTold (s : State) (w : WakeSig) : State × Bool :=
  match s.wakeMeets w with
  | some b => (s, b)
  | none => (s.fresh.1, s.fresh.2.getLsbD 0)

/-- A wake source is enabled for the mode (R445). -/
def State.wakeOn (s : State) (code pin : Nat) : Bool :=
  let w := s.mode == 6
  (1 ≤ code && code ≤ 10) && bit (s.fld (if w then F.PM_AON_WKEN_WATCHEN else F.PM_AON_WKEN_CURFEN)) (code - 1)
    && (code != 1 || s.flag (if w then F.PM_AON_WKPIN_WEN else F.PM_AON_WKPIN_CEN) pin)

/-- A source is of the level type (R445). -/
def State.wakeLevel (s : State) (code pin : Nat) : Bool :=
  match code with
  | 1 => decide (2 ≤ s.fld F.PM_AON_WKPIN_TYPE pin)
  | 3 | 5 | 7 | 8 | 9 | 10 => true
  | _ => false

/-- Where the entry stands at the detectors: an edge is latched from T_e to A and again from the end of isolation; a level
counts from the sampling at the end of isolation (R443, R444). Before the T_e of an entry nothing counts. -/
def State.wakeSees (s : State) (level : Bool) : Bool :=
  s.pm.armed && (match s.pm.chg with
    | some c => c.at_ == .stopping && !level
    | none => s.pm.isolated)

/-- WAKE_DETECT (R444-R446): an enabled source meets its criterion; once isolation is complete the first one acts. Nothing
where the source is not enabled, or the detectors do not see or do not recognise it. -/
def execWakeDetect (sig : WakeSig) (s : State) : Host.Outcome State Fault Refusal :=
  if ¬ s.wakeOn sig.code sig.pinOf ∨ ¬ s.wakeSees (s.wakeLevel sig.code sig.pinOf) then .next s
  else
    let (s, told) := s.wakeTold sig
    if ¬ told then .next s
    else
      let first := s.fld F.PM_AON_WKSTAT_SRC == 0
      let s := s.wakeHit sig.code sig.pinOf
      .next (if first ∧ s.pm.isolated then s.wakeAct else s)

/-- A write of PM_MODEREQ (R443, R445, R459): in WATCH, a return to RETM is a wake of source 11, CURFEW waits for its tick;
outside WATCH, and while a change is under way, it is discarded with REQREF. -/
def State.modeReq (s : State) (w : Word) : State :=
  if s.mode ≠ 6 ∨ s.modeBusy then s.raise F.PM_STATUS_REQREF
  else if F.PM_MODEREQ_TGT.get w = 7 then s.modePend { target := 7, q := none, at_ := .tick false }
  else (s.wakeHit 11 0).wakeAct

/-! ### Entry to WATCH and CURFEW (R443) -/

/-- Link p has come to L2/L3 Ready, where it is up and `l2` says so. -/
def State.linkReady (s : State) (p : Nat) (l2 : Bool) : State := if l2 ∧ s.linkUp p then s.setFld F.HP_LSTAT_LST p 4 else s

/-- The wait for the host links ends (R443 step 2): each is in L2/L3 Ready or down, or HLTO ms have passed since the command
(notes/assumptions/18.md). -/
def State.linksDone (s : State) (since : Nat) : Bool :=
  ([0, 1].all fun p => s.fld F.HP_LSTAT_LST p == 4 || !s.linkUp p) || s.lapsed (some since) (256000000 * s.fld F.PM_CFG_HLTO)

/-- HOST_LINK_WAIT_END (R443 step 2): the links given come to L2/L3 Ready; the entry goes on once the wait ends. -/
def execHostLinkWaitEnd (l20 l21 : Bool) (s : State) : Host.Outcome State Fault Refusal :=
  match s.pm.chg with
  | some c =>
    if c.at_ = .links then
      let s := (s.linkReady 0 l20).linkReady 1 l21
      .next (if s.linksDone c.since then { s with pm := { s.pm with chg := some { c with at_ := .tick false } } } else s)
    else .next s
  | none => .next s

/-- The Kerb and MP1 have finished what they were doing at T_e (R443 step 4). -/
def State.entryQuiet (s : State) : Bool :=
  (!bit s.pm.lost pdRing || s.fld F.RG_KSTAT_KST == 0) && s.mp.op.isNone

/-- MODE_ENTRY_ACCEPT (R443 step 5): acceptance, whose Long Milestone is latched into PM_AON_CWIN. -/
def execModeEntryAccept (s : State) : Host.Outcome State Fault Refusal :=
  match s.pm.chg with
  | some c =>
    if c.at_ = .stopping ∧ s.entryQuiet then
      let ns := s.ltNs
      let s := (s.setReg .PM_AON_CWIN_W0 0 (w32 ns)).setReg .PM_AON_CWIN_W1 0 (w32 (ns / 2 ^ 32))
      let s := s.setReg .PM_AON_CWIN_W2 0 s.msW2
      .next { s with pm := { s.pm with chg := some { c with at_ := .accepted } } }
    else .next s
  | none => .next s

/-- A level source is sampled at the end of isolation (R443 step 7): it becomes pending where it is enabled and met. -/
def State.wakeSample (s : State) (w : WakeSig) : State :=
  if ¬ s.wakeOn w.code w.pinOf ∨ ¬ s.wakeLevel w.code w.pinOf then s
  else if (s.wakeTold w).2 then (s.wakeTold w).1.wakeHit w.code w.pinOf else (s.wakeTold w).1

/-- ISOLATION_COMPLETE (R443 steps 6-8, R82): the level sources given, with the alarms, are sampled, the
domains lose power, and a pending wake acts. `writing` says that isolation fell while an entry record was written. -/
def execIsolationComplete (levels : List WakeSig) (writing : Bool) (s : State) : Host.Outcome State Fault Refusal :=
  match s.pm.chg with
  | some c =>
    if c.at_ = .accepted then
      let s := (levels ++ [WakeSig.alarm 0, WakeSig.alarm 1]).foldl State.wakeSample s
      let s := s.noChange
      let s : State := if s.mode = 7 then { s with aon := { s.aon with prev := writing, rcSeen := s.aon.rc } } else s
      let s := s.powerOff s.pm.lost
      let s := s.setFld F.PM_STATUS_LPREG 0 (if s.mode = 6 then 1 else 0)
      let s : State := { s with pm := { s.pm with isolated := true } }
      .next (if s.fld F.PM_AON_WKSTAT_SRC ≠ 0 then s.wakeAct else s)
    else .next s
  | none => .next s

/-! ### Return from WATCH (R448, R449) -/

/-- The units of the domains that lost power take their Map values as at T0 (R449). -/
def State.restoreLost (s : State) : State :=
  let mv := mapValues (s.ld.sectionEnts ++ s.ld.ents) 0
  let p := keyIn s.pm.lost
  let s := { s with live := takeFrom p mv s.live, staged := takeFrom p mv s.staged }
  if bit s.pm.lost pdMem then s.tatWake else s

/-- WATCH_RESTORE_COMPLETE (R449, R448 step 6): the Map has been read again and checked in full; a Map that is accepted
restores the domains that lost power, and the return waits for the switch to the profile before WATCH. -/
def execWatchRestoreComplete (s : State) : Host.Outcome State Fault Refusal :=
  if ¬ s.ld.restore ∨ s.ld.st ≠ .all ∨ (s.fld F.SYS_BOOT_SRC = 1 ∧ ¬ s.ld.last) then .next s
  else match s.loadCheck with
    | (s, false) => .next s
    | (s, true) =>
      let s := s.restoreLost
      let s := { s with ld := { st := .idle } }
      let s := s.modePend { target := s.fld F.SYS_MODE_RETM, q := none, at_ := .prof }
      .next (s.switchStart s.pm.back true)

/-! ### Supervision (R452, R478, R484) -/

/-- A measurement lies outside the recommended operating conditions of R484. -/
def outOfRange (tj : Int) (vin vcore : Nat) : Bool :=
  decide (tj < -880 ∨ tj > 2400 ∨ vin < 3135 ∨ vin > 3465 ∨ vcore < 776 ∨ vcore > 824)

/-- PM_MONITOR_SAMPLE (R452): junction temperature in 1/16 °C, VIN and VCORE in mV, the LP regulator current in mA; the two
flags say what the overvoltage detectors make of voltages between the bounds of R478, the last whether the PM reports an AON
supply fault (R84). In CURFEW VCORE is off (R443) and out of no range. -/
def execPmMonitorSample (tj vin vcore ildo : BitVec 16) (ovc ovin aonBad : Bool) (s : State) : Host.Outcome State Fault Refusal :=
  if s.mode ≤ 1 then .next s
  else
    let t := sext tj.toNat 16
    let s := s.setReg .PM_MON 0 (w32 (vcore.toNat * 65536 + tj.toNat))
    let s := s.setReg .PM_MON2 0 (w32 ((if s.flag F.PM_STATUS_LPREG then ildo.toNat else 0) * 65536 + vin.toNat))
    let s := s.raiseIf (outOfRange t vin.toNat (if s.mode = 7 then 800 else vcore.toNat)) F.PM_STATUS_OOR
    let s := s.raiseIf (decide (t > sext (s.fld F.PM_TWARN_TW) 16)) F.PM_STATUS_TWARN
    let hot := decide (t ≥ 2560)
    let was := s.pm.hot
    let s := { s with pm := { s.pm with hot := hot }, aon := { s.aon with supplyBad := aonBad } }
    let above (v lo hi : Nat) (word : Bool) : Bool := decide (v > hi) || (decide (v > lo) && word)
    .next (if hot ∧ was then s.deviceFault 1
      else if above vcore.toNat 920 980 ovc then s.deviceFault 2
      else if above vin.toNat 3700 3900 ovin then s.deviceFault 3 else s)

/-- PLL_LOCK_LOSS (R452): the core PLL, or the time PLL or its reference. In CURFEW no PLL runs. -/
def execPllLockLoss (time : Bool) (s : State) : Host.Outcome State Fault Refusal :=
  .next (if s.mode = 7 then s else s.deviceFault (if time then 5 else 4))

/-- ARST × 100 ms have passed in SAFE, counted in periods of 1/32768 s of the AON counter: LT does not run there
(notes/assumptions/205.md). -/
def State.restartDue (s : State) : Bool :=
  decide (32768 * s.fld F.PM_AON_SAFE_ARST ≤ 10 * wrap ((s.aon.cnt : Int) - s.pm.safeCnt) 48)

/-- AUTO_RESTART (R455): ARST × 100 ms in SAFE have passed; nothing before, with ARST = 0 or with N = ARSTN. -/
def execAutoRestart (s : State) : Host.Outcome State Fault Refusal :=
  let n := s.fld F.PM_AON_SAFE_N
  .next (if s.mode = 8 ∧ s.fld F.PM_AON_SAFE_ARST ≠ 0 ∧ s.restartDue ∧ n < s.fld F.PM_AON_SAFE_ARSTN then
      (s.deviceReset F.PM_AON_RSTCAUSE_ARST).setFld F.PM_AON_SAFE_N 0 (n + 1)
    else s)

/-! ### Power and resets (R453, R479, R480) -/

/-- POWER_ON (R479, R454): VIN rises through the power-on threshold; the PM_AON registers and the safe-value latch take
their power-on values. -/
def execPowerOn (s : State) : Host.Outcome State Fault Refusal :=
  if s.mode ≠ 0 then .next s
  else
    let s := s.intoReset
    .next { s with live := s.live.filter (fun e => !isAon e.1), aon := {}
                   pm := { vin := true, ref := false, perst := s.pm.perst, inReset := true } }

/-- POWER_OFF (R480): VIN falls below the power-on threshold. -/
def execPowerOff (s : State) : Host.Outcome State Fault Refusal :=
  let s := if s.mode = 0 then s else s.intoReset
  let s := { s with pm := { s.pm with vin := false, ref := false, inReset := false, safeOn := false } }
  .next ((s.setFld F.SYS_MODE_MODE 0 0).setFld F.PM_STATUS_DOM 0 0)

/-- REFERENCE_DETECT (R479): the 25 MHz reference is detected. -/
def execReferenceDetect (s : State) : Host.Outcome State Fault Refusal :=
  .next (if s.pm.vin then { s with pm := { s.pm with ref := true } } else s)

/-- RESET_PIN (R453): RESET_N has been low for ns. At least 1 µs resets the device, under 100 ns is ignored; what a pulse
between does is a free value (notes/assumptions/204.md). -/
def execResetPin (ns : Nat) (s : State) : Host.Outcome State Fault Refusal :=
  if s.mode = 0 ∨ ns < 100 then .next s
  else if 1000 ≤ ns then .next (s.deviceReset F.PM_AON_RSTCAUSE_PIN)
  else
    let (s, f) := s.fresh
    .next (if f.getLsbD 0 then s.deviceReset F.PM_AON_RSTCAUSE_PIN else s)

/-- The brown-out reset (R453): after it the device enters SAFE. -/
def State.brownReset (s : State) : State :=
  let s := s.deviceReset F.PM_AON_RSTCAUSE_BOR
  { s with pm := { s.pm with toSafe := true } }

/-- BROWN_OUT (R453, R478): VCORE has stood at no more than mv for ns. Below 0.68 V it is below the threshold, from 0.72 V on
it is not; between, a free value says so (notes/assumptions/204.md). Nothing under 1 µs, or where VCORE is off. -/
def execBrownOut (mv ns : Nat) (s : State) : Host.Outcome State Fault Refusal :=
  if s.mode ≤ 1 ∨ (s.mode = 7 ∧ s.pm.isolated) ∨ ns < 1000 ∨ 720 ≤ mv then .next s
  else if mv < 680 then .next s.brownReset
  else
    let (s, f) := s.fresh
    .next (if f.getLsbD 0 then s.brownReset else s)

/-- The keys of the current slot are erased (R468). -/
def State.eraseKeys (s : State) : State :=
  let k : KeySlot := { erased := true }
  { s with lc := if s.lc.slot = 0 then { s.lc with slot0 := k } else { s.lc with slot1 := k } }

/-- RESET_END (R412, R428, R453, R468, R479): the reset sequence has ended, ns after RESET began, and RESET_N is high;
BOOT[1:0] is sampled, and the device enters TEST, SAFE after a brown-out, or LOAD. Nothing without supply and reference, or
before 20 µs have passed. -/
def execResetEnd (boot : Fin 4) (ns : Nat) (s : State) : Host.Outcome State Fault Refusal :=
  if ¬ s.pm.inReset ∨ ¬ s.pm.vin ∨ ¬ s.pm.ref ∨ ns < 20000 then .next s
  else
    let st := s.lcState
    let toSafe := s.pm.toSafe
    let s := { s with pm := { s.pm with inReset := false, toSafe := false } }
    let s := s.setFld F.SYS_BOOT_STRAP 0 boot.val
    let s := if st = 4 then s.eraseKeys.lcShow 4 else s
    .next (if toSafe then s.enterSafe 7
      else if boot.val = 3 ∧ st ≤ 1 then s.setMode 11
      else (s.setFld F.SYS_MODE_MODE 0 2).loadStart boot false)

end Sys2Proof.Machine
end

