-- ==== Sys2Proof/Machine/LifeCycle.lean ====
section
/-! DEFINITION. Life-cycle transitions, tokens, the debug halt and the test access port (20_lifecycle). The writes of LC_CMD
and LC_DBGCTL and DBGACC reach these operations through RegAccess.lean. -/

namespace Sys2Proof.Machine

/-! ### Tokens and keys (R461, R467) -/

/-- The bytes of elements i to i + n - 1 of a register, byte 4j in bits [7:0] of element j. -/
def State.regBytes (s : State) (r : Reg) (i n : Nat) : List Byte :=
  (List.range n).flatMap fun j => toBytes (leBytes 4 (s.reg r (i + j)).toNat)

/-- The key in LC_KEYBUF (R471). -/
def State.lcKey (s : State) : Nat × Nat := (beNum (s.regBytes .LC_KEYBUF 0 8), beNum (s.regBytes .LC_KEYBUF 8 8))

/-- The token in LC_TOKEN is well formed: its type, the UID and the nonce (R467). -/
def State.tokenOk (s : State) (typ : Nat) (nonce : Word) : Bool :=
  (s.reg .LC_TOKEN 0).toNat == typ && s.reg .LC_TOKEN 1 == s.reg .LC_UID_LO && s.reg .LC_TOKEN 2 == s.reg .LC_UID_HI
    && s.reg .LC_TOKEN 3 == nonce

/-- The signature of the token in LC_TOKEN verifies against a key (R467). -/
def State.tokenVerifies (s : State) (key : Nat × Nat) : Bool :=
  ecdsaVerify key (sha256 (s.regBytes .LC_TOKEN 0 4)) (beNum (s.regBytes .LC_TOKEN 4 8)) (beNum (s.regBytes .LC_TOKEN 12 8))

/-- The result of checking a token: 1 where it is good, 3 malformed, 4 where the signature fails (R467). -/
def State.tokenResult (s : State) (typ : Nat) (nonce : Word) (key : Nat × Nat) : Nat :=
  if ¬ s.tokenOk typ nonce then 3 else if ¬ s.tokenVerifies key then 4 else 1

/-- Four free words as a 128-bit Archive key (R461). -/
def State.freshKey (s : State) : State × Nat :=
  let (s, a) := s.fresh
  let (s, b) := s.fresh
  let (s, c) := s.fresh
  let (s, d) := s.fresh
  (s, a.toNat + 2 ^ 32 * b.toNat + 2 ^ 64 * c.toNat + 2 ^ 96 * d.toNat)

/-- Replaces the current key slot. -/
def State.setSlot (s : State) (k : KeySlot) : State :=
  { s with lc := if s.lc.slot = 0 then { s.lc with slot0 := k } else { s.lc with slot1 := k } }

/-! ### Transitions (R465, R466) -/

/-- A command of LC_CMD ends at once with a result. -/
def State.lcEnd (s : State) (res : Nat) : State := s.setFld F.LC_STATUS_RES 0 res

/-- A command is in progress. -/
def State.lcBegin (s : State) (c : LcCmd) : State :=
  ({ s with lc := { s.lc with cmd := some c } } : State).raise F.LC_STATUS_BUSY

/-- The conditions of R465 for an OP, from DBGACC or not: the result that refuses it, or none. -/
def State.lcRefuses (s : State) (op : Nat) (dbg : Bool) : Option Nat :=
  let st := s.lcState
  let mode : Bool := s.mode == 3 || s.mode == 4 || s.mode == 2 || s.mode == 11
  let exists_ : Bool := match op with
    | 7 => dbg && (st == 0 || (st == 4 && s.flag F.LC_STATE_TOPEN))
    | 1 => st == 1
    | 2 | 3 => st == 2
    | 4 => st == 3
    | 5 => dbg && st == 4
    | 6 => st != 5
    | _ => false
  if ¬ mode ∨ ¬ exists_ then some 2
  else if s.flag F.PM_STATUS_OOR then some 7
  else match op with
    | 7 => if st = 4 ∧ (s.lc.slot ≠ 0 ∨ s.lc.slot1.erased ∨ s.lc.slot1.key.isSome) then some 6 else none
    | 2 => if s.lcSlot.key.isSome then some 5 else if ecValid s.lcKey then none else some 3
    | 3 => if s.lcSlot.key.isSome then none else some 5
    | 4 =>
      match s.tokenResult 1 0 (s.lcSlot.key.getD (0, 0)) with
      | 1 => none
      | r => some r
    | _ => none

/-- An accepted OP begins (R461, R465, R466). -/
def State.lcStart (s : State) (op : Nat) : State :=
  match op with
  | 7 => s.lcBegin { op := 7, dest := 1 }
  | 1 => s.lcBegin { op := 1, dest := 2 }
  | 2 => s.lcBegin { op := 2, key := some s.lcKey }
  | 3 =>
    let (s, k) := s.freshKey
    (s.setSlot { s.lcSlot with archive := k }).lcBegin { op := 3, dest := 3 }
  | 4 => s.lcBegin { op := 4, dest := 4 }
  | 5 => s.lcBegin { op := 5, res := s.tokenResult 2 (s.reg .LC_NONCE) Config.torralaKey }
  | _ => s.lcBegin { op := 6, dest := 5 }

/-- The first OP 6 lies 1 ms or more back (R465). -/
def State.scrapLate (s : State) : Bool := s.lapsed (some s.lc.scrpAt) 256000000

/-- A write of LC_CMD with its key (R465, R470): refused with a result, begun, or for a first OP 6 kept for the second.
While a command is in progress a write does nothing (notes/assumptions/43.md). -/
def State.lcCmd (s : State) (op : Nat) (dbg : Bool) : State :=
  if s.flag F.LC_STATUS_BUSY then s
  else
    let first := op = 6 ∧ (¬ s.flag F.LC_STATUS_SCRP ∨ s.scrapLate)
    let s := s.setFld F.LC_STATUS_SCRP 0 0
    match s.lcRefuses op dbg with
    | some r => s.lcEnd r
    | none =>
      if first then { s.raise F.LC_STATUS_SCRP with lc := { s.lc with scrpAt := s.ltMs } } else (s.lcEnd 0).lcStart op

/-- SCRAP_CONFIRM_EXPIRY (R465): 1 ms after the first OP 6 its confirmation lapses; nothing before. -/
def execScrapConfirmExpiry (s : State) : Host.Outcome State Fault Refusal :=
  .next (if s.scrapLate then s.setFld F.LC_STATUS_SCRP 0 0 else s)

/-- LC_COMMAND_COMPLETE (R465, R460): a KEYFUSE or TOPEN ends with its result; nothing while no such command runs. -/
def execLcCommandComplete (s : State) : Host.Outcome State Fault Refusal :=
  match s.lc.cmd with
  | some c =>
    if c.op = 2 ∨ c.op = 5 then
      let s := { s with lc := { s.lc with cmd := none } }
      let s := (s.setFld F.LC_STATUS_BUSY 0 0).lcEnd c.res
      let s := if c.res ≠ 1 then s
        else if c.op = 2 then s.setSlot { s.lcSlot with key := c.key }
        else s.raise F.LC_STATE_TOPEN
      .next (s.lcShow s.lcState)
    else .next s
  | none => .next s

/-- One copy of the state fuses after programming: what it verifies as, or a free value (R466). -/
def State.lcCopy (s : State) (dest : Nat) (ok : Bool) : State × Nat :=
  if ok then (s, dest)
  else
    let (s, w) := s.fresh
    (s, w.toNat % 8)

/-- LC_PROGRAM_COMPLETE (R466, R468, R465): the three copies have been programmed, verified as given; a slot changes with
RETURN to MAKER, its keys are erased with SEALED to RETURN, and the device resets, which clears LC_STATUS with its result
(notes/assumptions/202.md). Nothing while no transition runs. -/
def execLcProgramComplete (ok0 ok1 ok2 : Bool) (s : State) : Host.Outcome State Fault Refusal :=
  match s.lc.cmd with
  | some c =>
    if c.op = 2 ∨ c.op = 5 then .next s
    else
      let was := s.lcState
      let (s, a) := s.lcCopy c.dest ok0
      let (s, b) := s.lcCopy c.dest ok1
      let (s, d) := s.lcCopy c.dest ok2
      let s := { s with lc := { s.lc with copies := [a, b, d], cmd := none } }
      let s := if c.op = 4 then s.eraseKeys else s
      let s := if c.op = 7 ∧ was = 4 then { s with lc := { s.lc with slot := s.lc.slot + 1 } } else s
      .next (s.deviceReset F.PM_AON_RSTCAUSE_CMD)
  | none => .next s

/-! ### Debug halt (R464) -/

/-- A write of LC_DBGCTL (R464, R471): BKEN, a request for HALT or to leave it. -/
def State.dbgCtl (s : State) (w : Word) : State :=
  let s := s.setFld F.LC_DBGCTL_BKEN 0 (F.LC_DBGCTL_BKEN.get w)
  if bit w.toNat 0 then
    if s.mode = 3 ∨ s.mode = 4 ∨ s.mode = 5 ∨ s.mode = 10 then s.askHalt else s.raise F.LC_DBGSTAT_REF
  else if bit w.toNat 1 ∧ s.mode = 9 then s.setMode s.lc.haltFrom
  else s

/-! ### The test access port (R462) -/

/-- The test instructions act (R460). -/
def State.testOpen (s : State) : Bool :=
  match s.lcState with
  | 0 | 1 => true
  | 4 => s.flag F.LC_STATE_TOPEN
  | _ => false

/-- The instruction that a code of the instruction register selects (R462). -/
def State.tapSelect (s : State) (code : Nat) : Nat :=
  match code with
  | 0x02 => 2
  | 0x08 => if s.lcState = 5 then 0x1F else 8
  | 0x00 | 0x01 => if s.testOpen then code else 0x1F
  | c => if 0x10 ≤ c ∧ c ≤ 0x17 ∧ s.testOpen then c else 0x1F

/-- An instruction code is loaded; in OFF the port is not supplied. -/
def State.tapLoad (s : State) (code : Nat) : State :=
  if s.mode = 0 then s else { s with lc := { s.lc with ir := s.tapSelect code } }

/-- IDCODE (R462): the instruction returns 0xB486_43A5. -/
def execIdcode (s : State) : Host.Outcome State Fault Refusal :=
  .next (if s.mode = 0 then s else (s.tapLoad 2).emit (.tdo 0xB48643A5))

/-- EXTEST (R462): selected, or BYPASS where test instructions are closed. -/
def execExtest (s : State) : Host.Outcome State Fault Refusal := .next (s.tapLoad 0)

/-- SAMPLE/PRELOAD (R462): selected, or BYPASS where test instructions are closed. -/
def execSamplePreload (s : State) : Host.Outcome State Fault Refusal := .next (s.tapLoad 1)

/-- BYPASS, which every code that is closed or not listed selects too (R462). -/
def execBypass (code : Fin 32) (s : State) : Host.Outcome State Fault Refusal := .next (s.tapLoad code)

end Sys2Proof.Machine
end

