-- ==== Sys2Proof/Machine/RegAccess.lean ====
section
/-! DEFINITION. Register accesses: what a read shows, what a write does, Quarter filtering, staged and wide registers, BAR 0
and BAR 2, and the commands that are register writes (02_address_space, R356-R366, R463). -/

namespace Sys2Proof.Machine

/-! ### Who may access what (R22, R251, R363, R387) -/

/-- The Quarter that owns element i of a register; none where it is tied to no instance (R22, R276, R363, R387, R411,
R459). -/
def State.regOwner (s : State) (r : Reg) (i : Nat) : Option Nat :=
  match r.inst i with
  | some (k, j) => some (s.ownerOf k j)
  | none => match r with
    | .HP_LSTAT | .HP_SUPQ => none
    | .HP_DRCFG | .HP_DRPI | .HP_DRCI | .HP_DRST | .HP_UCMD | .HP_URSP => some (i / 16)
    | .MP_ECC_CFG | .MP_ECC_STAT | .MP_ECC_LASTADDR | .MP_ECC_INJ | .MP_PSNCLR | .MP_ECC_CNT => none
    | r => match r.blk with
      | .HP => some i
      | .RG | .MP => some s.sup
      | _ => none

/-- Each Quarter has its own bits in a register (R22, R236, R251). -/
def Reg.shared (r : Reg) : Bool :=
  match r with
  | .ARC_IDLEN0 | .ARC_IDLEN1 | .ARC_OVWN0 | .ARC_OVWN1 | .GP_IN | .GP_OUT | .GP_OUTSET | .GP_OUTCLR | .GP_OE => true
  | _ => false

/-- The bits of Quarter q in a shared register. -/
def State.ownBits (s : State) (q : Nat) (r : Reg) (i : Nat) : Nat :=
  match r with
  | .ARC_IDLEN0 | .ARC_OVWN0 => (List.range 32).foldl (fun a j => if s.ownerOf .arcade j = q then a + 2 ^ j else a) 0
  | .ARC_IDLEN1 | .ARC_OVWN1 => (List.range 32).foldl (fun a j => if s.ownerOf .arcade (32 + j) = q then a + 2 ^ j else a) 0
  | _ => s.pinMask q i

/-- A read of element i by Quarter q is refused (R22). -/
def State.readDenied (s : State) (q : Nat) (r : Reg) (i : Nat) : Bool :=
  match s.regOwner r i with
  | some o => o != q
  | none => false

/-- A write of element i by a requester is refused (R22, R386, R471): of another Quarter's register, of one tied to no
instance by any but the supervisor (HP0 function 0 writes SYS_PUSHCTL while push is offered, R431), of a watchdog register but through the Quarter's own function, of LC_DBGCTL but by
DBGACC. -/
def State.writeDenied (s : State) (req : Req) (r : Reg) (i : Nat) : Bool :=
  let q := s.quarterOf req
  let push : Bool := r == .SYS_PUSHCTL && req == .fn 0 && s.ld.offer
  let fnOnly := match r, req with
    | .HP_WDOG, .fn _ | .HP_WDKICK, .fn _ => false
    | .HP_WDOG, _ | .HP_WDKICK, _ => true
    | .LC_DBGCTL, .dbg => false
    | .LC_DBGCTL, _ => true
    | _, _ => false
  fnOnly || (match s.regOwner r i with
    | some o => o != q
    | none => !r.shared && !push && s.sup != q)

/-- The code of a requester in the keys of holding registers and snapshots. -/
def reqCode : Req → Nat
  | .thr t => t
  | .fn q => 64 + q
  | .dbg => 68

/-! ### What a read shows (R24, R31, R34, R43, R87) -/

/-- The nominal instant of the coming tick (R36, R43). -/
def State.tickNext (s : State) : Int := (s.ct.kMax + 1) * s.tickPeriod + s.tickPhase

/-- The code of a thread's state in BK_TSTAT. -/
def State.thrCode (s : State) (t : Nat) : Nat :=
  if ¬ s.thrUsed t then 5
  else match (s.thrOf t).st with
    | .waiting => 0
    | .active => 1
    | .parked => 2
    | .suspended => 3
    | .stopped => 4

/-- A bit as a number. -/
def b2n (b : Bool) : Nat := if b then 1 else 0

/-- A word with fields set. -/
def putAll (w : Word) (l : List (Field × Nat)) : Word := l.foldl (fun w p => p.1.put w p.2) w

/-- The word that element i of a register shows, before masking: the staged copy of a staged register, the live register,
and in it the fields that show the state of a unit. -/
def State.regView (s : State) (r : Reg) (i : Nat) : Word :=
  let raw := if r.desc.staged then s.stg r i else s.reg r i
  let ns := s.ltNs
  match r with
  | .CT_STATUS => putAll raw [(F.CT_STATUS_CONV, b2n (s.ct.d != 0)), (F.CT_STATUS_LTQ, s.ltq)]
  | .CT_LT_W0 => w32 ns
  | .CT_LT_W1 => w32 (ns / 2 ^ 32)
  | .CT_LT_W2 => s.msW2
  | .CT_LT_FRAC => w32 (s.lt40 / 2 ^ 8)
  | .CT_DOFF_LO => w32 (wrap (shown s.ct.d (2 ^ 32)) 64)
  | .CT_DOFF_HI => w32 (wrap (shown s.ct.d (2 ^ 32)) 64 / 2 ^ 32)
  | .CT_INCR_LO => w32 (s.dom (i == 1)).incr
  | .CT_INCR_HI => w32 ((s.dom (i == 1)).incr / 2 ^ 32)
  | .CT_DT_W0 => w32 ((s.dom (i == 1)).t / 2 ^ 40)
  | .CT_DT_W1 => w32 ((s.dom (i == 1)).t / 2 ^ 72)
  | .CT_SRV_FREQ => w32 (wrap (shown (devOf (s.dom (i == 1)).incr) (2 ^ 42)) 32)
  | .CT_SRV_INTG => w32 (wrap (shown (s.dom (i == 1)).integ (2 ^ 42)) 32)
  | .CT_TICK_POS => putAll 0 [(F.CT_TICK_POS_SC, b2n s.ct.sc), (F.CT_TICK_POS_POS, ns - s.ct.tickNom)]
  | .CT_TICK_CNT_LO => w32 s.ct.tickCnt
  | .CT_TICK_CNT_HI => w32 (s.ct.tickCnt / 2 ^ 32)
  | .CT_TICK_NEXT_LO => w32 (wrap s.tickNext 64)
  | .CT_TICK_NEXT_HI => w32 (wrap s.tickNext 64 / 2 ^ 32)
  | .LL_STAT =>
    let u := s.llOf i
    let src := match u.arm with
      | none => 0
      | some a => match a.src with
        | .reg => 1
        | .thr _ => 2
        | .cell _ => 3
    putAll raw [(F.LL_STAT_PSRC, src), (F.LL_STAT_COMMIT, b2n (!u.com.isEmpty)), (F.LL_STAT_TRAIN, b2n u.train.isSome),
      (F.LL_STAT_PULSE, b2n u.run.isSome), (F.LL_STAT_ARMED, b2n u.arm.isSome), (F.LL_STAT_ACT, b2n u.act)]
  | .LL_NEXT_LO | .LL_NEXT_HI =>
    let u := s.llOf i
    let v : Nat := match u.com, u.arm with
      | p :: _, _ => p.rise / ps125
      | [], some a => wrap a.a 64
      | [], none => 0
    w32 (if r = .LL_NEXT_LO then v else v / 2 ^ 32)
  | .LL_CAPSTAT => F.LL_CAPSTAT_LVL.put raw (b2n (s.pinOf i).lvl)
  | .XC_STAT => F.XC_STAT_Q.put raw (b2n (s.cellOf i).q)
  | .XC_PMSTAT => F.XC_PMSTAT_LVL.put raw (b2n (s.pmActive i (s.pinOf i).lvl))
  | .ARC_LEVEL => w32 (s.arcOf i).level
  | .ARC_LIMIT => w32 (s.arcOf i).lim
  | .ARC_STAT =>
    let c := s.arcOf i
    putAll raw [(F.ARC_STAT_LIMACT, b2n (decide (s.arcQl i < c.lim))), (F.ARC_STAT_CTA, b2n c.ct.isSome),
      (F.ARC_STAT_FLP, b2n c.flp), (F.ARC_STAT_ACT, b2n c.act)]
  | .ARC_WPTR => w32 ((s.arcOf i).w % max 1 (s.arcCap i))
  | .ARC_RPTR => w32 ((s.arcOf i).rd % max 1 (s.arcCap i))
  | .ARC_RLPTR => w32 ((s.arcOf i).rel % max 1 (s.arcCap i))
  | .BK_STATUS =>
    let u := s.blkOf i
    putAll 0 [(F.BK_STATUS_DETA, b2n u.det), (F.BK_STATUS_SBN, u.sb.length), (F.BK_STATUS_DIVBUSY, b2n u.divOwn.isSome),
      (F.BK_STATUS_DIVOWN, u.divOwn.getD 0 % 16)]
  | .BK_TSTAT =>
    let th := s.thrOf i
    putAll raw [(F.BK_TSTAT_PEND, b2n th.pend), (F.BK_TSTAT_STATE, s.thrCode i), (F.BK_TSTAT_RSD, th.rs.length),
      (F.BK_TSTAT_DSD, th.ds.length)]
  | .FP_STATUS =>
    let u := s.fpOf i
    putAll raw [(F.FP_STATUS_PEND, b2n u.pend), (F.FP_STATUS_ARMED, b2n u.armed.isSome),
      (F.FP_STATUS_BUSY, b2n (u.frame.isSome || u.sel.isSome)), (F.FP_STATUS_ACT, b2n (s.fpEn i))]
  | .TW_STATUS =>
    let u := s.twOf i
    putAll raw [(F.TW_STATUS_PEND, b2n u.pend), (F.TW_STATUS_BUSY, b2n u.busy),
      (F.TW_STATUS_XACT, b2n (u.xact.isSome || u.roll.isSome)), (F.TW_STATUS_ACT, b2n (s.twEn i))]
  | .HL_SNR => if s.act F.HL_CFG_ROLE (i / 1440) = 1 ∧ i / 720 % 2 = 1 then 0 else raw
  | .HL_STATUS => F.HL_STATUS_BELLACT.put raw (b2n (s.hl.get (fun _ => {}) i).bellEnd.isSome)
  | .MP1_STAT => F.MP1_STAT_ENC.put raw (b2n (s.lcState == 3))
  | .PM_AON_CNT_LO => w32 s.aon.cnt
  | .PM_AON_CNT_HI => w32 (s.aon.cnt / 2 ^ 32)
  | .LC_DBGSTAT => F.LC_DBGSTAT_HALTED.put raw (b2n (s.mode == 9))
  | .GP_IN => w32 (s.gpIn i)
  | .HP_URSP => if i % 16 = 0 then 0 else raw
  | _ => raw

/-- The bits of a word that a read returns: the fields of a register but WO ones (R24, R26). -/
def Reg.readMask (r : Reg) (w : Word) : Word :=
  r.desc.fields.foldl (fun a f => if f.acc = .wo then a else f.put a (f.get w)) 0

/-- The words of the wide register that a register is part of, lowest first, where its chapter reads it under R34 or writes it
under R35; none for others, so that CT_INCR_x and LC_UID are read word by word (notes/assumptions/185.md). -/
def Reg.wide (r : Reg) : List Reg :=
  match r with
  | .CT_LT_W0 | .CT_LT_W1 | .CT_LT_W2 | .CT_LT_FRAC => [.CT_LT_W0, .CT_LT_W1, .CT_LT_W2, .CT_LT_FRAC]
  | .CT_DOFF_LO | .CT_DOFF_HI => [.CT_DOFF_LO, .CT_DOFF_HI]
  | .CT_AON_CAL_LO | .CT_AON_CAL_HI => [.CT_AON_CAL_LO, .CT_AON_CAL_HI]
  | .CT_WAKE_LT_LO | .CT_WAKE_LT_HI => [.CT_WAKE_LT_LO, .CT_WAKE_LT_HI]
  | .CT_WAKE_DAON_LO | .CT_WAKE_DAON_HI => [.CT_WAKE_DAON_LO, .CT_WAKE_DAON_HI]
  | .CT_DT_W0 | .CT_DT_W1 => [.CT_DT_W0, .CT_DT_W1]
  | .CT_TICK_CNT_LO | .CT_TICK_CNT_HI => [.CT_TICK_CNT_LO, .CT_TICK_CNT_HI]
  | .CT_TICK_NEXT_LO | .CT_TICK_NEXT_HI => [.CT_TICK_NEXT_LO, .CT_TICK_NEXT_HI]
  | .LL_ARMT_LO | .LL_ARMT_HI => [.LL_ARMT_LO, .LL_ARMT_HI]
  | .LL_NEXT_LO | .LL_NEXT_HI => [.LL_NEXT_LO, .LL_NEXT_HI]
  | .RG_CLKID_LO | .RG_CLKID_HI => [.RG_CLKID_LO, .RG_CLKID_HI]
  | .RG_MAC_LO | .RG_MAC_HI => [.RG_MAC_LO, .RG_MAC_HI]
  | .MP1_TAT_LO | .MP1_TAT_HI => [.MP1_TAT_LO, .MP1_TAT_HI]
  | .PM_AON_WKCNT_LO | .PM_AON_WKCNT_HI => [.PM_AON_WKCNT_LO, .PM_AON_WKCNT_HI]
  | .PM_AON_CNT_LO | .PM_AON_CNT_HI => [.PM_AON_CNT_LO, .PM_AON_CNT_HI]
  | .PM_AON_ALARM_LO | .PM_AON_ALARM_HI => [.PM_AON_ALARM_LO, .PM_AON_ALARM_HI]
  | .PM_AON_CWIN_W0 | .PM_AON_CWIN_W1 | .PM_AON_CWIN_W2 => [.PM_AON_CWIN_W0, .PM_AON_CWIN_W1, .PM_AON_CWIN_W2]
  | _ => []

/-- Where a requester's snapshot or holding register of a word stands. -/
def snapKey (req : Req) (r : Reg) (i : Nat) : Nat := reqCode req * 2 ^ 24 + r.key i

/-- A read of the lowest word of a wide register latches the others into the requester's snapshot (R34). -/
def State.latchWide (s : State) (req : Req) (r : Reg) (i : Nat) : State :=
  match r.wide with
  | l :: rest => if l = r then rest.foldl (fun s x =>
      { s with snap := s.snap.set (fun _ => 0) (snapKey req x i) (x.readMask (s.regView x i)) }) s else s
  | [] => s

/-- Element i of a register is a higher word of a wide register. -/
def Reg.isHigh (r : Reg) : Bool :=
  match r.wide with
  | l :: _ => l != r
  | [] => false

/-- The RC fields of a register clear when it is read (R24, R33). -/
def State.clearRc (s : State) (r : Reg) (i : Nat) : State :=
  if r.desc.fields.any fun f => f.acc == .rc then
    s.setReg r i (r.desc.fields.foldl (fun w f => if f.acc = .rc then f.put w 0 else w) (s.reg r i))
  else s

/-- A read of element i of a register by a requester that may read it: the word, or none where it is poisoned (R395). -/
def State.regGet (s : State) (req : Req) (r : Reg) (i : Nat) : State × Option Word :=
  if r.isBuf then s.bufRead r i
  else if r = .MP1_PATRES then
    match s.patPop with
    | (s, w) => (s, some w)
  else if r.isHigh then (s, some (s.snap.get (fun _ => 0) (snapKey req r i)))
  else
    let w := r.readMask (s.regView r i)
    let w := if r.shared then w &&& w32 (s.ownBits (s.quarterOf req) r i) else w
    ((s.latchWide req r i).clearRc r i, some w)

/-- The domain of element i of a register is powered; an isolated one shows 0 and takes nothing (R457). -/
def State.regOn (s : State) (r : Reg) (i : Nat) : Bool := s.powered (r.pd i)

/-- A read of a register by a requester: filtered (R22), 0 from a domain without power, else what it shows. -/
def State.regRead (s : State) (req : Req) (r : Reg) (i : Nat) : State × Option Word :=
  if ¬ s.regOn r i then (s, some 0)
  else if s.readDenied (s.quarterOf req) r i then (s.refuse req false (r.offset i), some 0)
  else s.regGet req r i

/-! ### What a write does (R24-R27, R35) -/

/-- A word after a write of w to its RW, W1C, W1S and ST fields (R24). -/
def Reg.written (r : Reg) (old w : Word) : Word :=
  r.desc.fields.foldl (fun a f =>
    match f.acc with
    | .rw | .st => f.put a (f.get w)
    | .w1c => f.put a (f.get a - (f.get a &&& f.get w))
    | .w1s => f.put a (f.get a ||| f.get w)
    | _ => a) old

/-- A plain write of element i: to the staged copy of a staged register, else to the live one (R24, R27). -/
def State.regStore (s : State) (r : Reg) (i : Nat) (w : Word) : State :=
  if r.desc.staged then s.setStg r i (r.written (s.stg r i) w) else s.setReg r i (r.written (s.reg r i) w)

/-- A write of a GP register by Quarter q (R251, R252): it acts on the Quarter's pins; a 1 for another's is flagged. -/
def State.gpWrite (s : State) (req : Req) (r : Reg) (k : Nat) (w : Word) : State :=
  let m := s.pinMask (s.quarterOf req) k
  let v := w.toNat &&& m
  let s := if v ≠ w.toNat then s.refuse req true (r.offset k) else s
  let old (x : Reg) := (s.reg x k).toNat
  let keep (x : Reg) := old x - (old x &&& m)
  match r with
  | .GP_OUT => s.setReg .GP_OUT k (w32 (keep .GP_OUT ||| v))
  | .GP_OE => s.setReg .GP_OE k (w32 (keep .GP_OE ||| v))
  | .GP_OUTSET => s.setReg .GP_OUT k (w32 (old .GP_OUT ||| v))
  | .GP_OUTCLR => s.setReg .GP_OUT k (w32 (old .GP_OUT - (old .GP_OUT &&& v)))
  | _ => s

/-- A write of BK_CMD (R276). -/
def State.bkCmd (s : State) (b : Nat) (w : Word) : State :=
  let u := s.blkOf b
  let u := if bit w.toNat 1 then { u with btb := [] } else u
  let u := if bit w.toNat 0 then { u with icache := [], lineBuf := none, fillKeep := u.fillKeep && u.fill.isNone } else u
  s.setBlk b u

/-- A write of MP1_CFG or MP1_GEOM, discarded while an operation is in progress (R404). -/
def State.mp1Guard (s : State) (f : State) : State := if s.flag F.MP1_STAT_BUSY then s.raise F.MP1_STAT_CMDREF else f

/-- A write of a register by a requester that may write it, with no reserved encoding: the action of its unit. -/
def State.regEffect (s : State) (req : Req) (r : Reg) (i : Nat) (w : Word) : State :=
  match r with
  | .SYS_PROFCMD => s.profCmd w
  | .SYS_PUSHCTL => s.pushCtl w
  | .CT_CTRL => s.wrCtrl (r.written (s.reg r i) w)
  | .CT_INCR_LO => s.wrIncrLo (i == 1) w
  | .CT_INCR_HI => s.wrIncrHi (i == 1) w
  | .CT_SRV_CFG => s.wrSrvCfg (i == 1) (r.written (s.reg r i) w)
  | .LL_CMD => s.llCmd i w
  | .XC_CMD => s.xcCmd i w
  | .ARC_IDLEN0 | .ARC_IDLEN1 | .ARC_OVWN0 | .ARC_OVWN1 => s.regStore r i (w &&& w32 (s.ownBits (s.quarterOf req) r i))
  | .ARC_CMD => if bit w.toNat 0 then s.arcFlush i else s
  | .BK_CMD => s.bkCmd i w
  | .FP_CMD => s.fpCmd i w
  | .FP_TXBUF => (s.fpLoad (i / 192)).portWrite r i w
  | .TW_TXBUF | .TW_TGTBUF | .RG_SLOTBUF => s.portWrite r i w
  | .TW_CMD => s.twCmd i w
  | .RG_CMD => s.rgCmd w
  | .RG_SLOTCMD => s.rgPost w
  | .HL_CMD => s.hlCmd i w
  | .HL_TBLCMD => s.hlTblCmd i w
  | .HP_CPI => s.cpiWrite i w
  | .HP_WDOG => s.wdWrite i (r.written (s.reg r i) w)
  | .HP_WDKICK => s.wdKick i
  | .HP_DRCFG => s.drcfgWrite (i / 16) (i % 16) (r.written (s.reg r i) w)
  | .HP_DRPI => s.drpiWrite (i / 16) (i % 16) w
  | .HP_UDONE => s.udoneWrite i w
  | .HP_URSP => if i % 16 = 0 then s else s.regStore r i w
  | .MP0_CTL => s.mp0Ctl w
  | .MP0_RAWCMD => s.mp0Raw w
  | .MP1_CFG | .MP1_GEOM => s.mp1Guard (s.regStore r i w)
  | .MP1_PGBUF => s.mp1Guard (s.portWrite r i w)
  | .MP1_BBT => s
  | .MP1_CMD => s.mp1Cmd w
  | .MP_PSNCLR => s.mpPsnClr w
  | .MP_ECC_STAT =>
    let s := s.regStore r i w
    if bit w.toNat 0 then { s with mp := { s.mp with passed := [] } } else s
  | .PM_MODEREQ => s.modeReq w
  | .PM_AON_SAFE => (s.regStore r i w).setFld F.PM_AON_SAFE_N 0 0
  | .LC_CMD => s.lcCmd (F.LC_CMD_OP.get w) (req == .dbg)
  | .LC_DBGCTL => s.dbgCtl w
  | .GP_IN | .GP_OUT | .GP_OUTSET | .GP_OUTCLR | .GP_OE => s.gpWrite req r i w
  | _ => s.regStore r i w

/-- A wide register that is written under R35. -/
def Reg.held (r : Reg) : Bool :=
  match r with
  | .CT_DT_W0 | .CT_DT_W1 | .LL_ARMT_LO | .LL_ARMT_HI | .RG_CLKID_LO | .RG_CLKID_HI | .RG_MAC_LO | .RG_MAC_HI
  | .PM_AON_ALARM_LO | .PM_AON_ALARM_HI => true
  | _ => false

/-- A write of one word of a wide register (R35, R69): the low word goes to the requester's holding register; the high word
commits both, an unmarked low word keeping its present value. -/
def State.wideWrite (s : State) (req : Req) (r : Reg) (i : Nat) (w : Word) : State :=
  match r.wide with
  | [lo, hi] =>
    let k := snapKey req lo i
    if r = lo then
      { s with holdReg := s.holdReg.set (fun _ => 0) k w, holdMark := s.holdMark.set (fun _ => false) k true }
    else
      let low := if s.holdMark.get (fun _ => false) k then some (s.holdReg.get (fun _ => 0) k) else none
      let s := { s with holdMark := s.holdMark.set (fun _ => false) k false }
      if r = .CT_DT_W1 then s.wrDt (i == 1) w low
      else (s.regStore lo i (low.getD (s.regView lo i))).regStore hi i w
  | _ => s

/-- A write holds a reserved encoding (R26); ACTION 2 of a watchdog is one but for the supervisor (R386). -/
def State.regBad (s : State) (r : Reg) (i : Nat) (w : Word) : Bool :=
  r.badWrite i w || (r == .HP_WDOG && F.HP_WDOG_ACTION.get w == 2 && s.sup != i)

/-- A write of a register by a requester: lost in a domain without power (R457), refused and flagged (R22), discarded with
RSVW (R26; INCRW too where it is one that the servo discards, R68), held (R35), or performed. -/
def State.regWrite (s : State) (req : Req) (r : Reg) (i : Nat) (w : Word) : State :=
  if ¬ s.regOn r i then s
  else if s.writeDenied req r i then s.refuse req true (r.offset i)
  else if s.regBad r i w then
    (s.raise F.SYS_STATUS_RSVW).raiseIf (r == .CT_INCR_HI && s.servo (i == 1)) F.CT_SRV_STAT_INCRW i
  else if r.held then s.wideWrite req r i w
  else s.regEffect req r i w

/-! ### Accesses by offset (R18, R20, R23) -/

/-- A read at an aligned offset from 0x4000_0000: 0 where no register stands (R20, R23). -/
def State.ctlRead (s : State) (req : Req) (off : Nat) : State × Option Word :=
  match regAt off with
  | some (r, i) => s.regRead req r i
  | none => (s, some 0)

/-- A write at an aligned offset from 0x4000_0000; a host's to an unused block is flagged (R20, R23), and so is one to the unused
range within FP, of which the spec states no host's case (notes/assumptions/184.md). -/
def State.ctlWrite (s : State) (req : Req) (off : Nat) (w : Word) : State :=
  match regAt off with
  | some (r, i) => s.regWrite req r i w
  | none =>
    match blkAt off, req with
    | none, .fn _ => s.refuse req true off
    | _, _ => s

/-! ### BAR 0 (R21, R23, R361, R430, R431, R455, R469) -/

/-- A function answers memory requests: in a mode in which registers are reachable, with PD_HOST powered. -/
def State.hostOn (s : State) : Bool := decide (s.mode ≥ 2 ∧ s.mode ≠ 7) && s.powered pdHost

/-- Function q reaches an offset of BAR 0 for reading, or for writing. -/
def State.bar0Sees (s : State) (q off : Nat) (write : Bool) : Bool :=
  if s.lcState = 5 then !write && (off / 4 == 0 || off / 4 == 0x104 / 4 || off / 4 == 0xF0000 / 4)
  else if s.mode = 2 then s.ld.offer && q == 0 && decide (off < 4096)
  else if s.mode = 8 ∧ ¬ write then off / 65536 == 0 || off / 65536 == 14
  else true

/-- A read of BAR 0 by function q: the aligned word, 0 where nothing is reached; a poisoned one completes as all ones with EP
(R23, R395). -/
def State.bar0Read (s : State) (q : Fin 4) (off : Nat) : State :=
  let off := off / 4 * 4
  if ¬ s.hostOn ∨ off ≥ 1048576 then s
  else if ¬ s.bar0Sees q off false then s.emit (.bar q off 0 false)
  else match s.ctlRead (.fn q) off with
    | (s, some w) => s.emit (.bar q off w false)
    | (s, none) => s.emit (.bar q off 0xFFFFFFFF true)

/-- A write of BAR 0 by function q with byte enables; one that does not cover its word is discarded and flagged (R23). -/
def State.bar0Write (s : State) (q : Fin 4) (off : Nat) (w : Word) (be : Nat) : State :=
  let off := off / 4 * 4
  if ¬ s.hostOn ∨ off ≥ 1048576 ∨ ¬ s.bar0Sees q off true then s
  else if be ≠ 15 then s.refuse (.fn q) true off
  else s.ctlWrite (.fn q) off w

/-! ### BAR 2 (R366, R377, R430, R431) -/

/-- An offset of BAR 2 that holds memory. -/
def bar2Mem (off : Nat) : Bool :=
  decide (off < 0x3000) || decide (0x4000 ≤ off ∧ off < 0x8000) || decide (0xF000 ≤ off ∧ off < 0xF100)

/-- Function q reaches an offset of BAR 2: the chunk buffer of the push interface during LOAD, else its memory. -/
def State.bar2Sees (s : State) (q off : Nat) : Bool :=
  if s.lcState = 5 then false
  else if s.ld.offer ∧ q = 0 ∧ off < 0x8000 then true
  else if s.mode = 2 then false
  else bar2Mem off

/-- The MSI-X pending bits of function q as a number. -/
def State.pba (s : State) (q : Nat) : Nat :=
  (List.range 16).foldl (fun a v => if (s.qOf q).msixPend.contains v then a + 2 ^ v else a) 0

/-- A read of BAR 2 by function q. -/
def State.bar2ReadBy (s : State) (q : Fin 4) (off : Nat) : State :=
  let off := off / 4 * 4
  if ¬ s.hostOn then s
  else if off = 0xF800 ∧ s.mode ≠ 2 then s.emit (.bar q off (w32 (s.pba q)) false)
  else if ¬ s.bar2Sees q off then s.emit (.bar q off 0 false)
  else match s.bar2Read q off with
    | (s, some w) => s.emit (.bar q off w false)
    | (s, none) => s.emit (.bar q off 0xFFFFFFFF true)

/-- A write of BAR 2 by function q. -/
def State.bar2WriteBy (s : State) (q : Fin 4) (off : Nat) (w : Word) (be : Nat) : State :=
  let off := off / 4 * 4
  if ¬ s.hostOn ∨ ¬ s.bar2Sees q off then s
  else if be ≠ 15 then s.refuse (.fn q) true off
  else s.bar2Poke q off w

/-! ### The debug port (R463) -/

/-- DBGACC may perform an access to a register while the debug port is closed. -/
def dbgClosedOk (write : Bool) (r : Reg) (w : Word) : Bool :=
  match r with
  | .LC_STATE | .LC_UID_LO | .LC_UID_HI | .LC_NONCE | .LC_STATUS => !write
  | .LC_TOKEN => write
  | .LC_CMD => write && F.LC_CMD_OP.get w == 5
  | _ => false

/-- DBGACC reaches the access at an offset from 0x4000_0000. -/
def State.dbgReaches (s : State) (write : Bool) (off : Nat) (w : Word) : Bool :=
  s.debugOpen || (match regAt off with
    | some (r, _) => dbgClosedOk write r w
    | none => false)

/-- The device answers the debug port: in a mode in which registers are reachable, and not in SCRAP. -/
def State.dbgOn (s : State) : Bool := decide (s.mode ≥ 2 ∧ s.mode ≠ 7) && s.lcState != 5

/-- What the next Capture-DR returns: bit 64, bit 65 and the data. -/
def State.dbgAnswer (s : State) (acc busy : Bool) (w : Word) : State :=
  { s with lc := { s.lc with ir := 8, acc := acc, busy := busy, data := w } }

/-- A read of control space or GP by DBGACC. -/
def State.dbgCtlRead (s : State) (off : Nat) : State :=
  if off % 4 ≠ 0 ∨ (blkAt off).isNone ∨ ¬ s.dbgReaches false off 0 then s.dbgAnswer true false 0
  else match s.ctlRead .dbg off with
    | (s, some w) => s.dbgAnswer false false w
    | (s, none) => s.dbgAnswer true false 0

/-- A write of control space or GP by DBGACC. -/
def State.dbgCtlWrite (s : State) (off : Nat) (w : Word) : State :=
  if off % 4 ≠ 0 ∨ (blkAt off).isNone ∨ ¬ s.dbgReaches true off w then s.dbgAnswer true false 0
  else (s.ctlWrite .dbg off w).dbgAnswer false false 0

/-! ### Commands that are register accesses -/

/-- A thread's access at an offset that no register access serves raises ACCESS: unaligned (R18), or in an unused block or the
unused range within FP (R20). -/
def ctlHole (off : Nat) : Bool := off % 4 != 0 || (blkAt off).isNone

/-- ACCESS (R305) for thread t at an offset of control space. -/
def State.ctlFault (s : State) (t off : Nat) : State :=
  s.raiseFault t { code := 0x08, pc := (s.thrOf t).pc, addr0 := w32 (0x40000000 + off) }

/-- A register write as it arrives from a requester: a host's through BAR 0, the debug port's through DBGACC, a thread's from
its store buffer. -/
def State.arrive (s : State) (req : Req) (r : Reg) (i : Nat) (w : Word) : State :=
  match req with
  | .fn q => s.bar0Write q (r.offset i) w 15
  | .dbg => if s.dbgOn then s.dbgCtlWrite (r.offset i) w else s
  | .thr t => if s.mode ≥ 2 ∧ s.blockOn t then s.regWrite req r i w else s

/-- REGISTER_WRITE (R21-R27, R361, R366): a host's write of a word of BAR 0 or BAR 2 with its byte enables, or a debug or
thread write of control space. -/
def execRegisterWrite (req : Req) (a : RegTarget) (w : Word) (be : Fin 16) (s : State) : Host.Outcome State Fault Refusal :=
  .next (match req, a with
    | .fn q, .ctl off => s.bar0Write q off w be
    | .fn q, .bar2 off => s.bar2WriteBy q off w be
    | .dbg, .ctl off => if s.dbgOn then s.dbgCtlWrite off w else s
    | .thr t, .ctl off =>
      if ¬ (s.mode ≥ 2 ∧ s.blockOn t) then s
      else if ctlHole off then s.ctlFault t off
      else s.ctlWrite req off w
    | _, .bar2 _ => s)

/-- REGISTER_READ (R22, R33, R34, R366): a host's read of a word of BAR 0 or BAR 2, or a debug or thread read of control
space. -/
def execRegisterRead (req : Req) (a : RegTarget) (s : State) : Host.Outcome State Fault Refusal :=
  .next (match req, a with
    | .fn q, .ctl off => s.bar0Read q off
    | .fn q, .bar2 off => s.bar2ReadBy q off
    | .dbg, .ctl off => if s.dbgOn then s.dbgCtlRead off else s
    | .thr t, .ctl off =>
      if ¬ (s.mode ≥ 2 ∧ s.blockOn t) then s
      else if ctlHole off then s.ctlFault t off
      else match s.ctlRead req off with
        | (s, w) => s.emit (.read req off (w.getD 0xFFFFFFFF))
    | _, .bar2 _ => s)

/-- A command of a unit, written with one bit set. -/
def cmdBit (i : Nat) : Word := w32 (2 ^ i)

/-- CT_INCR_LO_WRITE (R67). -/
def execCtIncrLoWrite (req : Req) (x : Bool) (w : Word) (s : State) : Host.Outcome State Fault Refusal :=
  .next (s.arrive req .CT_INCR_LO (domIx x) w)

/-- CT_INCR_HI_WRITE (R67, R68). -/
def execCtIncrHiWrite (req : Req) (x : Bool) (w : Word) (s : State) : Host.Outcome State Fault Refusal :=
  .next (s.arrive req .CT_INCR_HI (domIx x) w)

/-- CT_DT_WRITE (R69): a write of one word of CT_DT_x; that of W1 commits a step. -/
def execCtDtWrite (req : Req) (x : Bool) (high : Bool) (w : Word) (s : State) : Host.Outcome State Fault Refusal :=
  .next (s.arrive req (if high then .CT_DT_W1 else .CT_DT_W0) (domIx x) w)

/-- CT_SRV_CFG_WRITE (R72). -/
def execCtSrvCfgWrite (req : Req) (x : Bool) (w : Word) (s : State) : Host.Outcome State Fault Refusal :=
  .next (s.arrive req .CT_SRV_CFG (domIx x) w)

/-- DOMAIN_SWITCH (R75): a write of CT_CTRL. -/
def execDomainSwitch (req : Req) (w : Word) (s : State) : Host.Outcome State Fault Refusal := .next (s.arrive req .CT_CTRL 0 w)

/-- FP_GO (R99). -/
def execFpGo (req : Req) (n : Fin 32) (s : State) : Host.Outcome State Fault Refusal := .next (s.arrive req .FP_CMD n (cmdBit 0))
/-- FP_ARM (R111). -/
def execFpArm (req : Req) (n : Fin 32) (s : State) : Host.Outcome State Fault Refusal := .next (s.arrive req .FP_CMD n (cmdBit 1))
/-- FP_DISCARD (R111). -/
def execFpDiscard (req : Req) (n : Fin 32) (s : State) : Host.Outcome State Fault Refusal :=
  .next (s.arrive req .FP_CMD n (cmdBit 2))

/-- TW_GO (R124). -/
def execTwGo (req : Req) (n : Fin 8) (s : State) : Host.Outcome State Fault Refusal := .next (s.arrive req .TW_CMD n (cmdBit 0))
/-- TW_CLEAR (R135). -/
def execTwClear (req : Req) (n : Fin 8) (s : State) : Host.Outcome State Fault Refusal := .next (s.arrive req .TW_CMD n (cmdBit 1))
/-- TW_PRST (R138). -/
def execTwPrst (req : Req) (n : Fin 8) (s : State) : Host.Outcome State Fault Refusal := .next (s.arrive req .TW_CMD n (cmdBit 2))
/-- TW_REQ (R133). -/
def execTwReq (req : Req) (n : Fin 8) (s : State) : Host.Outcome State Fault Refusal := .next (s.arrive req .TW_CMD n (cmdBit 3))
/-- TW_UNREQ (R133). -/
def execTwUnreq (req : Req) (n : Fin 8) (s : State) : Host.Outcome State Fault Refusal := .next (s.arrive req .TW_CMD n (cmdBit 4))

/-- HL_BELL (R174). -/
def execHlBell (req : Req) (n : Fin 2) (s : State) : Host.Outcome State Fault Refusal := .next (s.arrive req .HL_CMD n (cmdBit 0))
/-- HL_LRST (R173). -/
def execHlLrst (req : Req) (n : Fin 2) (s : State) : Host.Outcome State Fault Refusal := .next (s.arrive req .HL_CMD n (cmdBit 1))
/-- HL_PRBNOW (R170). -/
def execHlPrbnow (req : Req) (n : Fin 2) (s : State) : Host.Outcome State Fault Refusal := .next (s.arrive req .HL_CMD n (cmdBit 2))
/-- HL_TBLCMD_GO (R171): direction (true = up) and table. -/
def execHlTblcmdGo (req : Req) (n : Fin 2) (up : Bool) (tab : Fin 8) (s : State) : Host.Outcome State Fault Refusal :=
  .next (s.arrive req .HL_TBLCMD n (w32 (16 + 8 * b2n up + tab)))

/-- XC_RESET (R196). -/
def execXcReset (req : Req) (c : Fin 128) (s : State) : Host.Outcome State Fault Refusal := .next (s.arrive req .XC_CMD c (cmdBit 0))
/-- XC_REARM (R212). -/
def execXcRearm (req : Req) (c : Fin 128) (s : State) : Host.Outcome State Fault Refusal := .next (s.arrive req .XC_CMD c (cmdBit 1))
/-- ARCADE_FLUSH (R232). -/
def execArcadeFlush (req : Req) (a : Fin 64) (s : State) : Host.Outcome State Fault Refusal :=
  .next (s.arrive req .ARC_CMD a (cmdBit 0))
/-- LL_CMD_ARM (R242). -/
def execLlCmdArm (req : Req) (n : Fin 16) (s : State) : Host.Outcome State Fault Refusal := .next (s.arrive req .LL_CMD n (cmdBit 0))
/-- LL_CANCEL (R244). -/
def execLlCancel (req : Req) (n : Fin 16) (s : State) : Host.Outcome State Fault Refusal := .next (s.arrive req .LL_CMD n (cmdBit 1))

/-- A write of a GP register: no BAR 0 reaches one, so a function's does nothing (R21, R252). -/
def State.gpArrive (s : State) (req : Req) (r : Reg) (k : Nat) (w : Word) : State :=
  match req with
  | .fn _ => s
  | req => s.arrive req r k w

/-- GP_OUTSET_WRITE (R251, R252). -/
def execGpOutsetWrite (req : Req) (k : Fin 3) (w : Word) (s : State) : Host.Outcome State Fault Refusal :=
  .next (s.gpArrive req .GP_OUTSET k w)
/-- GP_OUTCLR_WRITE (R251, R252). -/
def execGpOutclrWrite (req : Req) (k : Fin 3) (w : Word) (s : State) : Host.Outcome State Fault Refusal :=
  .next (s.gpArrive req .GP_OUTCLR k w)

/-- BK_BTBINV (R276). -/
def execBkBtbinv (req : Req) (b : Fin 4) (s : State) : Host.Outcome State Fault Refusal := .next (s.arrive req .BK_CMD b (cmdBit 1))
/-- BK_ICINV (R276). -/
def execBkIcinv (req : Req) (b : Fin 4) (s : State) : Host.Outcome State Fault Refusal := .next (s.arrive req .BK_CMD b (cmdBit 0))

/-- RG_POST (R340): the slots whose bit is set. -/
def execRgPost (req : Req) (m : Fin 256) (s : State) : Host.Outcome State Fault Refusal :=
  .next (s.arrive req .RG_SLOTCMD 0 (w32 m))
/-- RG_KCLOSE (R352). -/
def execRgKclose (req : Req) (s : State) : Host.Outcome State Fault Refusal := .next (s.arrive req .RG_CMD 0 (cmdBit 2))
/-- RG_BELL (R355): on RG0 or RG1. -/
def execRgBell (req : Req) (p : Fin 2) (s : State) : Host.Outcome State Fault Refusal := .next (s.arrive req .RG_CMD 0 (cmdBit p))

/-- HP_CPI_WRITE (R367): of Quarter q. -/
def execHpCpiWrite (req : Req) (q : Fin 4) (w : Word) (s : State) : Host.Outcome State Fault Refusal :=
  .next (s.arrive req .HP_CPI q w)
/-- HP_UDONE_WRITE (R371). -/
def execHpUdoneWrite (req : Req) (q : Fin 4) (w : Word) (s : State) : Host.Outcome State Fault Refusal :=
  .next (s.arrive req .HP_UDONE q w)
/-- HP_DRCFG_WRITE (R373). -/
def execHpDrcfgWrite (req : Req) (q : Fin 4) (r : Fin 16) (w : Word) (s : State) : Host.Outcome State Fault Refusal :=
  .next (s.arrive req .HP_DRCFG (ringIx q r) w)
/-- HP_DRPI_WRITE (R373). -/
def execHpDrpiWrite (req : Req) (q : Fin 4) (r : Fin 16) (w : Word) (s : State) : Host.Outcome State Fault Refusal :=
  .next (s.arrive req .HP_DRPI (ringIx q r) w)
/-- HP_WDKICK (R386). -/
def execHpWdkick (req : Req) (q : Fin 4) (s : State) : Host.Outcome State Fault Refusal :=
  .next (s.arrive req .HP_WDKICK q 0xA5)
/-- HP_WDOG_WRITE (R386). -/
def execHpWdogWrite (req : Req) (q : Fin 4) (w : Word) (s : State) : Host.Outcome State Fault Refusal :=
  .next (s.arrive req .HP_WDOG q w)

/-- MP0_CTL_HOLD_WRITE (R391): a write of MP0_CTL with HOLD as given. -/
def execMp0CtlHoldWrite (req : Req) (hold : Bool) (s : State) : Host.Outcome State Fault Refusal :=
  .next (s.arrive req .MP0_CTL 0 (w32 (b2n hold)))
/-- MP0_INVPF (R391): a write of MP0_CTL with INVPF and HOLD as given. -/
def execMp0Invpf (req : Req) (hold : Bool) (s : State) : Host.Outcome State Fault Refusal :=
  .next (s.arrive req .MP0_CTL 0 (w32 (2 + b2n hold)))
/-- MP0_RAW_GO (R391): a write of MP0_RAWCMD with GO. -/
def execMp0RawGo (req : Req) (w : Word) (s : State) : Host.Outcome State Fault Refusal :=
  .next (s.arrive req .MP0_RAWCMD 0 (w ||| 0x80000000))
/-- MP_PSNCLR_WRITE (R396). -/
def execMpPsnclrWrite (req : Req) (w : Word) (s : State) : Host.Outcome State Fault Refusal := .next (s.arrive req .MP_PSNCLR 0 w)
/-- MP_ECC_INJ_ARM (R400): a write of MP_ECC_INJ with ARM. -/
def execMpEccInjArm (req : Req) (rg : Fin 16) (m : BitVec 24) (s : State) : Host.Outcome State Fault Refusal :=
  .next (s.arrive req .MP_ECC_INJ 0 (w32 (2 ^ 31 + rg * 2 ^ 24 + m.toNat)))

/-- A write of MP1_CMD with GO, an operation, a block and a page (R404). -/
def State.mp1Arrive (s : State) (req : Req) (op b p : Nat) : State :=
  s.arrive req .MP1_CMD 0 (w32 (2 ^ 31 + op * 2 ^ 28 + b * 256 + p))

/-- MP1_READ (R404). -/
def execMp1Read (req : Req) (b : Fin 65536) (p : Fin 256) (s : State) : Host.Outcome State Fault Refusal :=
  .next (s.mp1Arrive req 0 b p)
/-- MP1_READRAW (R404). -/
def execMp1Readraw (req : Req) (b : Fin 65536) (p : Fin 256) (s : State) : Host.Outcome State Fault Refusal :=
  .next (s.mp1Arrive req 1 b p)
/-- MP1_PROGRAM (R404, R405). -/
def execMp1Program (req : Req) (b : Fin 65536) (p : Fin 256) (s : State) : Host.Outcome State Fault Refusal :=
  .next (s.mp1Arrive req 2 b p)
/-- MP1_ERASE (R404, R405). -/
def execMp1Erase (req : Req) (b : Fin 65536) (p : Fin 256) (s : State) : Host.Outcome State Fault Refusal :=
  .next (s.mp1Arrive req 3 b p)
/-- MP1_BBTSCAN (R404, R406). -/
def execMp1Bbtscan (req : Req) (b : Fin 65536) (p : Fin 256) (s : State) : Host.Outcome State Fault Refusal :=
  .next (s.mp1Arrive req 4 b p)

/-- MP1_PATRES_READ (R408): a read of MP1_PATRES. -/
def execMp1PatresRead (req : Req) (s : State) : Host.Outcome State Fault Refusal :=
  let off := Reg.offset .MP1_PATRES 0
  .next (match req with
    | .fn q => s.bar0Read q off
    | .dbg => if s.dbgOn then s.dbgCtlRead off else s
    | .thr t =>
      if s.mode ≥ 2 ∧ s.blockOn t then
        match s.regRead req .MP1_PATRES 0 with
        | (s, w) => s.emit (.read req off (w.getD 0))
      else s)

/-- PUSH_GO (R431): length in words and LAST. -/
def execPushGo (req : Req) (len : Fin 16384) (last : Bool) (s : State) : Host.Outcome State Fault Refusal :=
  .next (s.arrive req .SYS_PUSHCTL 0 (w32 (2 ^ 31 + b2n last * 2 ^ 30 + len)))
/-- PUSH_ABORT (R431). -/
def execPushAbort (req : Req) (s : State) : Host.Outcome State Fault Refusal := .next (s.arrive req .SYS_PUSHCTL 0 (cmdBit 29))
/-- SYS_PROFCMD (R433): GO to a profile. -/
def execSysProfcmd (req : Req) (p : Fin 4) (s : State) : Host.Outcome State Fault Refusal :=
  .next (s.arrive req .SYS_PROFCMD 0 (w32 (2 ^ 31 + p)))
/-- PM_MODEREQ_WRITE (R443). -/
def execPmModereqWrite (req : Req) (w : Word) (s : State) : Host.Outcome State Fault Refusal :=
  .next (s.arrive req .PM_MODEREQ 0 w)

/-- A write of LC_CMD with its key. -/
def State.lcArrive (s : State) (req : Req) (op : Nat) : State := s.arrive req .LC_CMD 0 (w32 (0x4C43 * 65536 + op))

/-- BLANK_TO_MAKER (R465 OP 7): from BLANK, or from RETURN with a fresh slot. -/
def execBlankToMaker (req : Req) (s : State) : Host.Outcome State Fault Refusal := .next (s.lcArrive req 7)
/-- MAKER_TO_OPEN (R465 OP 1). -/
def execMakerToOpen (req : Req) (s : State) : Host.Outcome State Fault Refusal := .next (s.lcArrive req 1)
/-- KEYFUSE (R465 OP 2). -/
def execKeyfuse (req : Req) (s : State) : Host.Outcome State Fault Refusal := .next (s.lcArrive req 2)
/-- OPEN_TO_SEALED (R465 OP 3). -/
def execOpenToSealed (req : Req) (s : State) : Host.Outcome State Fault Refusal := .next (s.lcArrive req 3)
/-- SEALED_TO_RETURN (R465 OP 4). -/
def execSealedToReturn (req : Req) (s : State) : Host.Outcome State Fault Refusal := .next (s.lcArrive req 4)
/-- TOPEN (R465 OP 5). -/
def execTopen (req : Req) (s : State) : Host.Outcome State Fault Refusal := .next (s.lcArrive req 5)
/-- SCRAP (R465 OP 6). -/
def execScrap (req : Req) (s : State) : Host.Outcome State Fault Refusal := .next (s.lcArrive req 6)

/-- HALTREQ (R464): a write of LC_DBGCTL through DBGACC with HALTREQ and BKEN as given. -/
def execHaltreq (bken : Bool) (s : State) : Host.Outcome State Fault Refusal :=
  .next (s.arrive .dbg .LC_DBGCTL 0 (w32 (4 * b2n bken + 1)))
/-- RESUME (R464): a write of LC_DBGCTL through DBGACC with RESUME and BKEN as given. -/
def execResume (bken : Bool) (s : State) : Host.Outcome State Fault Refusal :=
  .next (s.arrive .dbg .LC_DBGCTL 0 (w32 (4 * b2n bken + 2)))

end Sys2Proof.Machine
end

