-- ==== Sys2Proof/Machine/Issue.lean ====
section
/-! DEFINITION. The issue of an instruction: fetch, the checks at issue, pairing, charging, retirement, branches
(12_blocks, 13_instruction_set). A command names the thread and the instruction it issues, whose bytes the thread has
fetched; which bytes those are, old or new, is the command's word (R271, notes/assumptions/20.md). -/

namespace Sys2Proof.Machine

/-! ### Fetch (R257, R258, R271, R272, R283) -/

/-- Where a code byte lies (R17). -/
inductive CodeAt where
  | tcm (off : Nat) | market (off : Nat) | xip (off : Nat) | none
deriving DecidableEq, Repr

/-- An offset of the Market lies in PSTORE (R426). -/
def State.inPstore (s : State) (off : Nat) : Bool := decide (s.map.psBase ≤ off ∧ off < s.map.psBase + s.map.psSize)

/-- Where a thread fetches the byte at an address from (R17, R390, R426). -/
def State.codeAt (s : State) (a : Nat) : CodeAt :=
  if a < 0x10000 then .tcm a
  else if 0x10000000 ≤ a ∧ a < 0x10200000 then
    let o := a - 0x10000000
    if s.inPstore o then .none else .market o
  else if 0x30000000 ≤ a ∧ a < 0x30000000 + s.xipSize then .xip (a - 0x30000000)
  else .none

/-- The addresses at which the bytes of an instruction of n bytes begin a new aligned 8-byte group. -/
def groupsOf (pc : Word) (n : Nat) : List Nat :=
  ((List.range n).filter fun j => j == 0 || (pc.toNat + j) % 8 == 0).map fun j => (pc + w32 j).toNat

/-- The lines of the set of the instruction cache that a line belongs to, most recently used first, with their ways. -/
def Blk4.lines (u : Blk4) (line : Nat) : List (Nat × Nat) := u.icache.get (fun _ => []) (line % 256)

/-- The way in which the instruction cache of a Block holds a line. -/
def Blk4.wayOf (u : Blk4) (line : Nat) : Option Nat := ((u.lines line).find? fun e => e.1 == line).map (·.2)

/-- A line stands in a way of its set as the most recently used (R254). -/
def Blk4.place (u : Blk4) (line way : Nat) : Blk4 :=
  { u with icache := u.icache.set (fun _ => []) (line % 256) ((line, way) :: (u.lines line).filter fun e => e.1 != line && e.2 != way) }

/-- The way that a line enters: its own, a free one, or that of the least recently used line (R254). -/
def Blk4.wayFor (u : Blk4) (line : Nat) : Nat :=
  match u.wayOf line, (List.range 2).find? fun w => (u.lines line).all fun e => e.2 != w with
  | some w, _ => w
  | none, some w => w
  | none, none => ((u.lines line).getLast?.map (·.2)).getD 0

/-- A line leaves the instruction cache. -/
def Blk4.icDrop (u : Blk4) (line : Nat) : Blk4 :=
  { u with icache := u.icache.set (fun _ => []) (line % 256) ((u.lines line).filter fun e => e.1 != line) }

/-- The line buffer's line is written into the cache of Block b, each of its words whole (R254, R258, R394). -/
def State.icStore (s : State) (b line : Nat) : State :=
  let w := (s.blkOf b).wayFor line
  let s := (List.range 4).foldl (fun s j => (s.eccWrite rgCache (icWord b w line j) true).1) s
  s.setBlk b ((s.blkOf b).place line w)

/-- A hit of Block b on word j of a line in a way of its cache (R254, R395): the line becomes the most recently used; one of
which the word is poisoned is invalidated, to be fetched again, and no poison flag stays. -/
def State.icHit (s : State) (b line way j : Nat) : State × Bool :=
  match s.eccRead rgCache (icWord b way line j) with
  | (s, .ok _) => (s.setBlk b ((s.blkOf b).place line way), true)
  | (s, .poison) => ((s.setEcc rgCache (icWord b way line j) {}).setBlk b ((s.blkOf b).icDrop line), false)

/-- What a fetch gives. -/
inductive Fetched where
  | ok | access | poison | miss (line : Nat)
deriving DecidableEq, Repr

/-- The 8-byte group that holds address a is in the fetch buffer of thread t (R257). -/
def State.buffer (s : State) (t a : Nat) : State := s.setThr t { s.thrOf t with buf := some (a / 8) }

/-- Thread t fetches the 8-byte group that holds address a: from its fetch buffer, code TCM, or the cache and line buffer
(R254, R257, R258, R272). -/
def State.fetchGroup (s : State) (t a : Nat) : State × Fetched :=
  let b := t / 16
  let u := s.blkOf b
  let held := (s.thrOf t).buf == some (a / 8)
  let exit := s.raiseIf (s.avenue t) F.BK_TSTAT_TCM_EXIT t
  match s.codeAt a with
  | .tcm o =>
    if held then (s, .ok)
    else match s.eccRead (rgCode b) (o / 8) with
      | (s, .poison) => (s, .poison)
      | (s, .ok _) => (s.buffer t a, .ok)
  | .none => (exit, .access)
  | _ =>
    let line := a / 32
    if u.det then (exit, .access)
    else if held then (s, .ok)
    else
      let got (s : State) : State × Fetched :=
        if u.bad.contains (a / 8) then (s, .poison) else (s.buffer t a, .ok)
      match u.wayOf line with
      | some w => match exit.icHit b line w (a % 32 / 8) with
        | (s, true) => got s
        | (s, false) => (s, .miss line)
      | none => if u.lineBuf = some line then got exit else (exit, .miss line)

/-- Thread t fetches the groups of an instruction in order, up to the first that is not there. -/
def State.fetchAll (s : State) (t : Nat) : List Nat → State × Fetched
  | [] => (s, .ok)
  | a :: l =>
    match s.fetchGroup t a with
    | (s, .ok) => s.fetchAll t l
    | r => r

/-- Thread t fetches an instruction of n bytes at its PC. -/
def State.fetch (s : State) (t n : Nat) : State × Fetched := s.fetchAll t (groupsOf (s.thrOf t).pc n)

/-- A fill of a line begins in Block b (R258, R390): the line buffer's line goes to the cache; a line of the XIP window
is asked for as class B. -/
def State.fillStart (s : State) (b line : Nat) : State :=
  let s := match (s.blkOf b).lineBuf with
    | some l => s.icStore b l
    | none => s
  let s := s.setBlk b { s.blkOf b with lineBuf := none, fill := some line, fillKeep := true }
  match s.codeAt (32 * line) with
  | .xip o => s.xipAsk 2 (o / 64)
  | _ => s

/-- Thread t parks on a line that it misses (R258): the fill begins unless one is in progress. -/
def State.fetchMiss (s : State) (t line : Nat) : State :=
  let b := t / 16
  let s := s.bump F.BK_CNT0_ICMISS b
  let s := s.setThr t { s.thrOf t with st := .parked, park := some (.fetch line), feed := none }
  if (s.blkOf b).fill.isNone then s.fillStart b line else s

/-! ### What an instruction is (R279, R281, R285, R312) -/

/-- The pairing group of an instruction (R262). -/
inductive Pairing where
  | alone | feeder | worker
deriving DecidableEq, Repr

/-- One row of the instruction tables: opcode, immediate bytes, whether only a Lane thread has it, whether the immediate
is not reserved, the pairing group, and the cells and return entries it takes and leaves (R312). -/
structure Row where
  code : Nat
  imm : Nat := 0
  lane : Bool := false
  good : Bool := true
  pr : Pairing := .alone
  di : Nat := 0
  dout : Nat := 0
  ri : Nat := 0
  rout : Nat := 0
deriving DecidableEq, Repr

/-- The length of an instruction in bytes. -/
def Row.len (r : Row) : Nat := 1 + r.imm

/-- A pending entry would be taken at the next issue boundary of thread t (R302, R304). -/
def State.entryDue (s : State) (t : Nat) : Bool :=
  let th := s.thrOf t
  th.entPend && th.entEn && !(match th.rep with | some r => r.x | none => false)

/-- The instruction forms a pair with the feeder that issued just before it (R262). -/
def State.pairs (s : State) (t : Nat) (r : Row) : Bool :=
  let th := s.thrOf t
  let pc := th.pc.toNat
  r.pr == .worker && th.feed == some th.pc && th.rep.isNone && !(s.blkOf (t / 16)).det
    && (pc + r.len - 1) / 8 == (pc - 1) / 8 && decide (0 < pc)

/-- Thread t issues an instruction now (R49, R52, R264, R292, R302, R436): the mode and the power let it run, it is in an
activation and not parked, a repeat names this instruction, no entry comes first, and the Bollard allows it; the worker
of a pair shares its feeder's issue. -/
def State.canIssue (s : State) (t : Nat) (r : Row) : Bool :=
  let th := s.thrOf t
  s.thrUsed t && s.modeRuns t && s.blockOn t && th.st == .active
    && (match th.rep with | some p => p.op.toNat == r.code | none => true)
    && (s.pairs t r || (s.inBudget t && !s.entryDue t))

/-- What issuing costs and records (R51, R263, R276): one slot, none for the worker of a pair, and the PC. -/
def State.issued (s : State) (t : Nat) (r : Row) : State :=
  let s' := s.setReg .BK_TPC t (s.thrOf t).pc
  if s.pairs t r then s'.bump F.BK_PAIRN_PAIRN (t / 16) else s'.charge t 1

/-- A fault code of R305. -/
def fcUndef : Nat := 0x01
def fcPrefix : Nat := 0x02
def fcDOver : Nat := 0x03
def fcDUnder : Nat := 0x04
def fcROver : Nat := 0x05
def fcRUnder : Nat := 0x06
def fcAlign : Nat := 0x07
def fcAccess : Nat := 0x08
def fcPoison : Nat := 0x09
def fcDivZero : Nat := 0x0A
def fcBreak : Nat := 0x0B
def fcTrap : Nat := 0x0C

/-- The first fault of the stack checks of R279, in the order of R306. -/
def stackFault (ds rs : List Word) (r : Row) : Option Nat :=
  if ds.length < r.di then some fcDUnder
  else if 16 < ds.length - r.di + r.dout then some fcDOver
  else if rs.length < r.ri then some fcRUnder
  else if 8 < rs.length - r.ri + r.rout then some fcROver
  else none

/-- The first fault of the checks before the stacks': UNDEF (R283, R285). -/
def State.undefined (s : State) (t : Nat) (r : Row) : Bool := !r.good || (r.lane && s.avenue t)

/-- Thread t faults at its PC with BK_FADDR0 as given. -/
def State.faultAt (s : State) (t code : Nat) (a : Word := 0) : State :=
  s.raiseFault t { code := code, pc := (s.thrOf t).pc, addr0 := a }

/-- Thread t faults at its PC where the spec gives no data address: BK_FADDR0 is a free value
(notes/assumptions/21.md). -/
def State.faultFree (s : State) (t code : Nat) : State :=
  match s.fresh with
  | (s, a) => s.faultAt t code a

/-- Thread t issues an instruction (R256, R263, R277, R283, R306): fetch faults, UNDEF and the stack checks, in that order;
`chk` is a check that comes first of the stack checks (R293), `body` what the instruction then does. -/
def State.issueWith (s : State) (t : Nat) (r : Row) (chk : State → Option Nat) (body : State → State) : State :=
  if ¬ s.canIssue t r then s
  else match s.fetch t r.len with
    | (s, .miss line) => s.fetchMiss t line
    | (s, .access) => (s.issued t r).faultFree t fcAccess
    | (s, .poison) => (s.issued t r).faultFree t fcPoison
    | (s, .ok) =>
      let s := s.issued t r
      if s.undefined t r then s.faultAt t fcUndef
      else match chk s with
        | some c => s.faultAt t c
        | none =>
          match stackFault (s.thrOf t).ds (s.thrOf t).rs r with
          | some c => s.faultAt t c
          | none => body s

/-- Thread t issues an instruction without a check of its own. -/
def State.issue (s : State) (t : Nat) (r : Row) (body : State → State) : State := s.issueWith t r (fun _ => none) body

/-! ### Retirement (R256, R262, R292, R295) -/

/-- The fetch buffer after the PC moves within the same 8-byte group (R257). -/
def keepBuf (buf : Option Nat) (pc next : Word) : Option Nat := if pc.toNat / 8 = next.toNat / 8 then buf else none

/-- The instruction of n bytes retires: the PC moves past it, or an iteration of a repeat completes (R292, R295). -/
def Thr.retired (th : Thr) (n : Nat) : Thr :=
  let next := th.pc + w32 n
  let go : Thr := { th with pc := next, feed := none, first := false, buf := keepBuf th.buf th.pc next }
  match th.rep with
  | none => go
  | some _ =>
    if th.rpt.toNat ≤ 1 then { go with rep := none, rpt := 0 }
    else { th with rpt := th.rpt - 1, feed := none, first := false }

/-- Thread t retires an instruction of n bytes. -/
def State.retire (s : State) (t n : Nat) : State := s.setThr t ((s.thrOf t).retired n)

/-- Thread t leaves a data stack and retires an instruction of n bytes. -/
def State.leave (s : State) (t n : Nat) (ds : List Word) : State :=
  s.setThr t (({ s.thrOf t with ds := ds } : Thr).retired n)

/-- A feeder that issued last (R262): the next instruction may pair with it where both lie in its 8-byte group, outside
deterministic mode and outside a repeat. -/
def State.fed (s : State) (t : Nat) (pc : Word) (inRep : Bool) : State :=
  let th := s.thrOf t
  if inRep ∨ (s.blkOf (t / 16)).det ∨ pc.toNat / 8 ≠ th.pc.toNat / 8 then s
  else s.setThr t { th with feed := some th.pc }

/-- An instruction that replaces cells of the data stack and retires; a feeder then waits for its worker. -/
def State.stackOp (s : State) (t : Nat) (r : Row) (f : List Word → List Word) : State :=
  s.issue t r fun s =>
    let th := s.thrOf t
    let s := s.leave t r.len (f th.ds)
    if r.pr = .feeder then s.fed t th.pc th.rep.isSome else s

/-- An instruction that also leaves the return stack. -/
def State.stackOp2 (s : State) (t : Nat) (r : Row) (f : List Word → List Word → List Word × List Word) : State :=
  s.issue t r fun s =>
    let th := s.thrOf t
    let (ds, rs) := f th.ds th.rs
    s.setThr t (({ th with ds := ds, rs := rs } : Thr).retired r.len)

/-- An arithmetic instruction (R285, R287): the cells it leaves, and its flags in a Lane thread. -/
def State.aluOp (s : State) (t : Nat) (r : Row) (f : List Word → Flags → List Word × Flags) : State :=
  s.issue t r fun s =>
    let th := s.thrOf t
    let (ds, fl) := f th.ds th.flags
    s.setThr t (({ th with ds := ds, flags := if s.avenue t then th.flags else fl } : Thr).retired r.len)

/-- The row of a one-byte instruction that takes two cells and leaves one. -/
def rowAlu2 (code : Nat) (pr : Pairing := .worker) (lane : Bool := false) : Row :=
  { code := code, lane := lane, pr := pr, di := 2, dout := 1 }
/-- The row of a one-byte instruction that takes one cell and leaves one. -/
def rowAlu1 (code : Nat) (pr : Pairing := .worker) : Row := { code := code, pr := pr, di := 1, dout := 1 }

/-- A binary arithmetic instruction with flags: a is NOS, b is TOS (R278, R287). -/
def bin (f : Word → Word → Flags → Word × Flags) : List Word → Flags → List Word × Flags
  | b :: a :: l, fl => match f a b fl with | (r, fl) => (r :: l, fl)
  | l, fl => (l, fl)

/-- A binary arithmetic instruction that leaves the flags. -/
def bin' (f : Word → Word → Word) : List Word → Flags → List Word × Flags := bin fun a b fl => (f a b, fl)

/-- A unary arithmetic instruction with flags. -/
def una (f : Word → Flags → Word × Flags) : List Word → Flags → List Word × Flags
  | a :: l, fl => match f a fl with | (r, fl) => (r :: l, fl)
  | l, fl => (l, fl)

/-- A unary arithmetic instruction that leaves the flags. -/
def una' (f : Word → Word) : List Word → Flags → List Word × Flags := una fun a fl => (f a, fl)

/-! ### Branches (R259-R261, R272, R282, R329) -/

/-- The branch target buffer removes the entry of a branch found not taken (R259). -/
def Blk4.btbDrop (u : Blk4) (pc : Word) : Blk4 := { u with btb := u.btb.filter fun e => e.1 != pc }

/-- A taken branch creates or updates its entry, which becomes the most recently used of 64 (R254, R259). -/
def Blk4.btbTake (u : Blk4) (pc target : Word) : Blk4 :=
  { u with btb := ((pc, target) :: u.btb.filter fun e => e.1 != pc).take 64 }

/-- The kills of a taken branch (R260, R272): one where the buffer predicted it with the right target, else two. -/
def Blk4.kills (u : Blk4) (pc target : Word) : Nat :=
  if !u.det && u.btb.contains (pc, target) then 1 else 2

/-- Thread t branches to a target, with its stacks as they stand: the kills are charged and the target is fetched. -/
def State.jump (s : State) (t : Nat) (target : Word) : State :=
  let b := t / 16
  let th := s.thrOf t
  let u := s.blkOf b
  let k := u.kills th.pc target
  let s := if k = 2 then s.bump F.BK_CNT0_BTBMISS b else s
  let s := if u.det then s else s.setBlk b (u.btbTake th.pc target)
  (s.charge t k).setThr t { th with pc := target, feed := none, buf := none, first := false }

/-- Thread t passes a branch that it does not take. -/
def State.pass (s : State) (t n : Nat) : State :=
  let b := t / 16
  let u := s.blkOf b
  let s := if u.det then s else s.setBlk b (u.btbDrop (s.thrOf t).pc)
  s.retire t n

/-- A conditional branch of n bytes with displacement d (R282). -/
def State.condJump (s : State) (t n : Nat) (d : Word) (taken : Bool) : State :=
  if taken then s.jump t ((s.thrOf t).pc + w32 n + d) else s.pass t n

/-- A branch that replaces cells of the data stack and tests what it took (R286, R329). -/
def State.branchOp (s : State) (t : Nat) (r : Row) (d : Word) (f : List Word → Flags → List Word × Bool) : State :=
  s.issue t r fun s =>
    let th := s.thrOf t
    let (ds, taken) := f th.ds th.flags
    (s.setThr t { th with ds := ds }).condJump t r.len d taken

end Sys2Proof.Machine
end

