-- ==== Sys2Proof/Machine/MemoryOps.lean ====
section
/-! DEFINITION. The instructions that reach memory or an Arcade: addresses, split accesses, the store buffer, parking and
completion (12_blocks, R265-R274; 14_opcodes, R317-R322). -/

namespace Sys2Proof.Machine

/-! ### Addresses (R17, R18, R270) -/

/-- Where a data address lies for a thread of a given Block (R17). -/
inductive DataAt where
  | tcm (rg off : Nat) | market (off : Nat) | window (off : Nat) | xip (off : Nat) | ctl (off : Nat) | none
deriving DecidableEq, Repr

/-- The region of an address (R17). -/
def dataAt (b a : Nat) : DataAt :=
  if a < 0x10000 then .tcm (rgCode b) a
  else if a < 0x30000 then .tcm (rgData b) (a - 0x10000)
  else if 0x10000000 ≤ a ∧ a < 0x10200000 then .market (a - 0x10000000)
  else if 0x20000000 ≤ a ∧ a < 0x20100000 then .window (a - 0x20000000)
  else if 0x30000000 ≤ a ∧ a < 0x38000000 then .xip (a - 0x30000000)
  else if 0x40000000 ≤ a ∧ a < 0x40110000 then .ctl (a - 0x40000000)
  else .none

/-- The region is a TCM. -/
def DataAt.isTcm : DataAt → Bool
  | .tcm _ _ => true
  | _ => false

/-- The region is control space or GP. -/
def DataAt.isCtl : DataAt → Bool
  | .ctl _ => true
  | _ => false

/-- The region is the Market. -/
def DataAt.isMarket : DataAt → Bool
  | .market _ => true
  | _ => false

/-- An Avenue access to the region leaves the TCMs under R56. -/
def DataAt.leaves : DataAt → Bool
  | .market _ | .window _ | .xip _ => true
  | _ => false

/-- The aligned parts of an access of n bytes (R270). -/
def parts (a n : Nat) : List (Nat × Nat) :=
  if a % n = 0 then [(a, n)]
  else
    let k := n - a % n
    [(a, k), ((a + k) % 2 ^ 32, n - k)]

/-- Deterministic mode is active in the Block of thread t. -/
def State.detOf (s : State) (t : Nat) : Bool := (s.blkOf (t / 16)).det

/-- The access of thread t to one part is forbidden (R17, R20, R272, R390, R426). -/
def State.denied (s : State) (t : Nat) (store : Bool) (p : Nat × Nat) : Bool :=
  match dataAt (t / 16) p.1 with
  | .tcm _ _ => false
  | .market o => s.inPstore o || (s.detOf t && s.avenue t)
  | .window _ => s.ownerOf .thread t != s.sup || (s.detOf t && (s.avenue t || !store))
  | .xip o => store || s.detOf t || decide (s.xipSize ≤ o)
  | .ctl o => (blkAt o).isNone
  | .none => true

/-- An access of n bytes is one that control space does not take (R18). -/
def ctlBad (b a n : Nat) : Bool := (dataAt b a).isCtl && (n != 4 || a % 4 != 0)

/-- The second address of an access, 0 where it is not split (R276). -/
def second (a n : Nat) : Word :=
  match parts a n with
  | [_, p] => w32 p.1
  | _ => 0

/-- The record of a fault in part i of an access of n bytes of thread t (R270, R276, R305); n is 1 for an access that is never
split. -/
def State.dataFault (s : State) (t code a n i : Nat) (firstw : Bool := false) : FaultRec :=
  { code := code, pc := (s.thrOf t).pc, addr0 := w32 a, addr1 := second a n, split := i == 1, firstw := firstw }

/-- Marks an Avenue access outside the TCMs (R56). -/
def State.noteExit (s : State) (t a : Nat) : State :=
  s.raiseIf (s.avenue t && (dataAt (t / 16) a).leaves) F.BK_TSTAT_TCM_EXIT t

/-! ### The store buffer (R268, R269, R272) -/

/-- The buffered stores of thread t. -/
def State.ownStores (s : State) (t : Nat) : List SbEnt := (s.blkOf (t / 16)).sb.filter fun e => e.thr == t

/-- Thread t may use one more entry (R268). -/
def State.sbRoom (s : State) (t : Nat) : Bool :=
  decide ((s.blkOf (t / 16)).sb.length < 4) && (s.avenue t || decide ((s.ownStores t).length < 2))

/-- An entry joins the store buffer. -/
def State.sbPush (s : State) (t : Nat) (e : SbEnt) : State :=
  let u := s.blkOf (t / 16)
  s.setBlk (t / 16) { u with sb := u.sb ++ [e] }

/-- An entry overlaps an access of n bytes at a. -/
def SbEnt.meets (e : SbEnt) (a n : Nat) : Bool := e.arc.isNone && decide (e.addr < a + n) && decide (a < e.addr + e.size)

/-- An entry covers every byte of an access. -/
def SbEnt.covers (e : SbEnt) (a n : Nat) : Bool := e.arc.isNone && decide (e.addr ≤ a) && decide (a + n ≤ e.addr + e.size)

/-- The value that a load takes from the youngest covering entry of its thread (R269). -/
def State.forwarded (s : State) (t a n : Nat) : Option Nat :=
  ((s.ownStores t).filter fun e => e.covers a n).getLast?.map fun e => e.data / 256 ^ (a - e.addr) % 256 ^ n

/-- A store of thread t overlaps the access. -/
def State.overlapped (s : State) (t a n : Nat) : Bool := (s.ownStores t).any fun e => e.meets a n

/-- Performs the aligned part of a store at its target (R17, R20, R268). -/
def State.perform (s : State) (t a n v : Nat) : State :=
  match dataAt (t / 16) a with
  | .tcm rg o => s.memWrite rg o n v
  | .market o => s.memWrite rgMarket o n v
  | .window o => s.memWrite rgArc o n v
  | .ctl o => s.ctlWrite (.thr (Fin.ofNat 64 t)) o (w32 v)
  | _ => s

/-- Reads one aligned part: none while its data is not there (XIP), else the value or poison. -/
def State.readPart (s : State) (t : Nat) (p : Nat × Nat) : State × Option (Option Nat) :=
  match dataAt (t / 16) p.1 with
  | .tcm rg o => match s.memRead rg o p.2 with | (s, v) => (s, some v)
  | .market o => match s.memRead rgMarket o p.2 with | (s, v) => (s, some v)
  | .window o => match s.memRead rgArc o p.2 with | (s, v) => (s, some v)
  | .xip o =>
    match s.xipRead (if s.avenue t then 0 else 1) o p.2 with
    | (s, some v) => (s, some (some v))
    | (s, none) => (s, none)
  | .ctl o => match s.ctlRead (.thr (Fin.ofNat 64 t)) o with | (s, w) => (s, some (w.map (·.toNat)))
  | .none => (s, some none)

/-- What a load or a read comes to. -/
inductive Loaded where
  | val (v : Nat)
  | fault (f : FaultRec)
  | overlap            -- own stores overlap it in part (R269)
  | away               -- it goes outside the TCMs, or its data is not there yet (R265)
deriving DecidableEq, Repr

/-- Reads the parts of a load in order (R270). -/
def State.readParts (s : State) (t a n : Nat) (i k v : Nat) : List (Nat × Nat) → State × Loaded
  | [] => (s, .val v)
  | p :: ps =>
    match s.readPart t p with
    | (s, none) => (s, .away)
    | (s, some none) => (s, .fault (s.dataFault t fcPoison a n i))
    | (s, some (some x)) => s.readParts t a n (i + 1) (k + p.2) (v + 256 ^ k * x) ps

/-- A load of n bytes at a by thread t (R265, R269, R270, R306): its faults, its own stores, then memory; `fin` where the
data has come. -/
def State.load (s : State) (t a n : Nat) (fin : Bool) : State × Loaded :=
  let ps := parts a n
  let s := ps.foldl (fun s p => s.noteExit t p.1) s
  if ctlBad (t / 16) a n then (s, .fault (s.dataFault t fcAccess a 1 0))
  else match ps.findIdx? (s.denied t false) with
    | some i => (s, .fault (s.dataFault t fcAccess a n i))
    | none =>
      if fin then s.readParts t a n 0 0 0 ps
      else match s.forwarded t a n with
        | some v => (s, .val v)
        | none =>
          if s.overlapped t a n then (s, .overlap)
          else if ps.all fun p => (dataAt (t / 16) p.1).isTcm then s.readParts t a n 0 0 0 ps
          else
            let cls := if s.avenue t then 0 else 1
            (ps.foldl (fun s p => match dataAt (t / 16) p.1 with
              | .xip o => if (s.xipLine (o / 64)).isNone then s.xipAsk cls (o / 64) else s
              | _ => s) s, .away)

/-- What a store comes to. -/
inductive Stored where
  | done
  | fault (f : FaultRec)
  | full               -- no entry it may use (R268)
  | fixed              -- an unbuffered transfer of deterministic mode (R272)
deriving DecidableEq, Repr

/-- A store to the region bypasses the store buffer in deterministic mode: at M for a TCM, in a fixed time for a Lane
thread's Market store and an Avenue thread's control-space store (R272). -/
def State.fixedStore (s : State) (t a : Nat) : Bool :=
  let d := dataAt (t / 16) a
  s.detOf t && ((d.isMarket && !s.avenue t) || (d.isCtl && s.avenue t))

/-- Part i of a store: checked, then written where unbuffered or placed in the buffer (R268, R270, R272). -/
def State.storePart (s : State) (t a n i : Nat) (p : Nat × Nat) (v : Nat) (fin : Bool) : State × Stored :=
  let s := s.noteExit t p.1
  if s.denied t true p then (s, .fault (s.dataFault t fcAccess a n i (i == 1)))
  else if s.detOf t ∧ (dataAt (t / 16) p.1).isTcm then (s.perform t p.1 p.2 v, .done)
  else if s.fixedStore t p.1 then if fin then (s.perform t p.1 p.2 v, .done) else (s, .fixed)
  else if s.sbRoom t then (s.sbPush t { thr := t, addr := p.1, size := p.2, data := v }, .done)
  else (s, .full)

/-- A store of n bytes of v at a by thread t (R268, R270, R272). A split store's second part is checked once its first
part is in; `first` of the thread says that it is. -/
def State.store (s : State) (t a n v : Nat) (fin : Bool) : State × Stored :=
  if ctlBad (t / 16) a n then (s, .fault (s.dataFault t fcAccess a 1 0))
  else match parts a n with
    | [p, q] =>
      let two (s : State) : State × Stored := s.storePart t a n 1 q (v / 256 ^ p.2 % 256 ^ q.2) fin
      if (s.thrOf t).first then two s
      else match s.storePart t a n 0 p (v % 256 ^ p.2) fin with
        | (s, .done) => two (s.setThr t { s.thrOf t with first := true })
        | r => r
    | _ => s.storePart t a n 0 (a, n) (v % 256 ^ n) fin

/-! ### The operations (R317-R322) -/

/-- The length of the instruction in bytes. -/
def MemI.len : MemI → Nat
  | .ldwo _ | .stwo _ | .arcIn _ | .arcInm _ | .arcOut _ | .arcOutm _ => 2
  | _ => 1

/-- What one attempt at an operation comes to. -/
inductive Done where
  | out (ds : List Word) (extra : Nat)    -- complete: the data stack it leaves, and slots beyond the issue
  | fault (f : FaultRec)
  | faultFree (code : Nat)                -- a fault for which the spec gives no data address
  | park (p : Park)
deriving DecidableEq, Repr

/-- The slot that a split access adds (R274, R277). -/
def splitCost (a n : Nat) : Nat := (parts a n).length - 1

/-- A load instruction: the cells it leaves from the value. -/
def State.doLoad (s : State) (t : Nat) (mi : MemI) (a n : Nat) (fin : Bool) (leave : Nat → List Word) : State × Done :=
  match s.load t a n fin with
  | (s, .val v) => (s, .out (leave v) (splitCost a n))
  | (s, .fault f) => (s, .fault f)
  | (s, .overlap) => (s, .park (.overlap mi))
  | (s, .away) => (s, .park (.load mi))

/-- A store instruction: the cells it leaves. -/
def State.doStore (s : State) (t : Nat) (mi : MemI) (a n v : Nat) (fin : Bool) (ds : List Word) : State × Done :=
  match s.store t a n v fin with
  | (s, .done) => (s, .out ds (splitCost a n))
  | (s, .fault f) => (s, .fault f)
  | (s, .full) => (s, .park (.storeBuf mi))
  | (s, .fixed) => (s, .park (.load mi))

/-- The address lies in the data TCM (R318, R320, R322). -/
def inDataTcm (a : Word) : Bool := decide (0x10000 ≤ a.toNat ∧ a.toNat < 0x30000)

/-- MOVW and MOVB (R317, R318) of n bytes. -/
def State.doMove (s : State) (t : Nat) (mi : MemI) (n : Nat) (src dst : Word) (l : List Word) : State × Done :=
  let bad (x : Word) : Bool := !inDataTcm x || x.toNat % n != 0
  if bad src then (s, .fault (s.dataFault t fcAccess src.toNat 1 0))
  else if bad dst then (s, .fault (s.dataFault t fcAccess dst.toNat 1 0))
  else match s.load t src.toNat n false with
    | (s, .val v) => s.doStore t mi dst.toNat n v false ((dst + w32 n) :: (src + w32 n) :: l)
    | (s, .fault f) => (s, .fault f)
    | (s, .overlap) => (s, .park (.overlap mi))
    | (s, .away) => (s, .park (.load mi))

/-- XCHG of the word at a (R265, R270, R317, R318): on a TCM at once, elsewhere when its transfer completes. -/
def State.doXchg (s : State) (t : Nat) (a x : Word) (l : List Word) (fin : Bool) : State × Done :=
  let d := dataAt (t / 16) a.toNat
  let s := s.noteExit t a.toNat
  if a.toNat % 4 ≠ 0 then (s, .fault (s.dataFault t fcAlign a.toNat 1 0))
  else if d.isCtl ∨ s.denied t true (a.toNat, 4) ∨ s.denied t false (a.toNat, 4) then
    (s, .fault (s.dataFault t fcAccess a.toNat 4 0))
  else if ¬ fin ∧ s.overlapped t a.toNat 4 then (s, .park (.overlap .xchg))
  else if ¬ fin ∧ ¬ d.isTcm then (s, .park (.load .xchg))
  else match s.readPart t (a.toNat, 4) with
    | (s, some (some y)) => (s.perform t a.toNat 4 x.toNat, .out (w32 y :: l) (if d.isTcm then 1 else 0))
    | (s, some none) => (s, .fault (s.dataFault t fcPoison a.toNat 4 0))
    | (s, none) => (s, .park (.load .xchg))

/-- The active polynomial register p of the class of thread t (R289, R290). -/
def State.crcBy (s : State) (t p : Nat) (crc byte : Nat) : Nat :=
  let k := t / 16 * 8 + (if s.avenue t then 4 else 0) + p
  let w := match s.act F.BK_CRCC_WID k with | 0 => 8 | 1 => 16 | _ => 32
  crcStep w (s.act F.BK_CRCP_POLY k) (s.actB F.BK_CRCC_REFL k) crc byte

/-- A held item is that of the IN or INM of Arcade a at which the thread stands (R53). -/
def Thr.holds (th : Thr) (a : Nat) (h : HeldItem) : Bool := h.pc == th.pc && h.arc == a && h.entry == th.save.isSome

/-- The item that the IN or INM of Arcade a at which the thread stands has consumed (R53). -/
def Thr.heldFor (th : Thr) (a : Nat) : Option Word := (th.held.find? (th.holds a)).map (·.val)

/-- The thread with the item of its IN or INM of Arcade a delivered. -/
def Thr.delivered (th : Thr) (a : Nat) : Thr := { th with held := th.held.filter fun h => !th.holds a h }

/-- The thread with an item that its IN or INM of Arcade a has consumed. -/
def Thr.holding (th : Thr) (a : Nat) (v : Word) : Thr :=
  { th with held := { pc := th.pc, arc := a, entry := th.save.isSome, val := v } :: th.held }

/-- IN and INM ask for an item (R53, R224, R265): the item held from an abandoned execution of this instruction, else the
next; the thread parks until its data has come. -/
def State.arcAsk (s : State) (t : Nat) (mi : MemI) (a : Nat) : State × Done :=
  if ¬ s.mayIn t a then
    (s.arcRefuse a (s.act F.ARC_CFG_CONS a == 0 && s.arcConsumer a == t), .faultFree fcAccess)
  else if ((s.thrOf t).heldFor a).isSome then (s, .park (.load mi))
  else match s.arcGet a with
    | (s, .item v) => (s.setThr t ((s.thrOf t).holding a v), .park (.load mi))
    | (s, .poison it) => (s, .fault (s.dataFault t fcPoison (0x20000000 + 4 * it) 4 0))
    | (s, .none) => (s, .park (.arc mi))

/-- OUT and OUTM give an item (R221, R268, R322): it enters the store buffer. -/
def State.arcGive (s : State) (t : Nat) (mi : MemI) (a : Nat) (v : Word) (ds : List Word) : State × Done :=
  if s.sbRoom t then
    (s.sbPush t { thr := t, addr := 0, size := 0, data := v.toNat, arc := some a }, .out ds 0)
  else (s, .park (.storeBuf mi))

/-- OUT and OUTM may not write Arcade a: flagged where another thread is named (R221). -/
def State.arcDeny (s : State) (t a : Nat) : State × Done :=
  (s.arcRefuse a (s.actB F.ARC_CFG_PROD a && s.arcProducer a == t), .faultFree fcAccess)

/-- A value of n bytes as a cell, zero- or sign-extended (R317). -/
def extend (n : Nat) (sgn : Bool) (v : Nat) : Word := if sgn then BitVec.ofInt 32 (sext v (8 * n)) else w32 v

/-- One attempt at a memory or Arcade operation of thread t; `fin` where the transfer it waits for has completed. -/
def State.attempt (s : State) (t : Nat) (mi : MemI) (fin : Bool) : State × Done :=
  let ds := (s.thrOf t).ds
  match mi, ds with
  | .ld n sgn, a :: l => s.doLoad t mi a.toNat n fin fun v => extend n sgn v :: l
  | .ldwo k, a :: l => s.doLoad t mi (a + w32 (4 * k.toNat)).toNat 4 fin fun v => w32 v :: l
  | .ldwPlus, a :: l => s.doLoad t mi a.toNat 4 fin fun v => (a + 4) :: w32 v :: l
  | .st n, a :: x :: l => s.doStore t mi a.toNat n x.toNat fin l
  | .stwo k, a :: x :: l => s.doStore t mi (a + w32 (4 * k.toNat)).toNat 4 x.toNat fin l
  | .stPlus, a :: v :: l => s.doStore t mi a.toNat 4 v.toNat fin ((a + 4) :: v :: l)
  | .stbPlus, a :: v :: l => s.doStore t mi a.toNat 1 v.toNat fin ((a + 1) :: v :: l)
  | .movw, d :: x :: l => s.doMove t mi 4 x d l
  | .movb, d :: x :: l => s.doMove t mi 1 x d l
  | .xchg, a :: x :: l => s.doXchg t a x l fin
  | .crcm p, a :: c :: l =>
    if ¬ inDataTcm a then (s, .fault (s.dataFault t fcAccess a.toNat 1 0))
    else s.doLoad t mi a.toNat 1 fin fun v => (a + 1) :: w32 (s.crcBy t p.val c.toNat v) :: l
  | .arcIn k, l =>
    if fin then match (s.thrOf t).heldFor k.toNat with
      | some v => (s.setThr t ((s.thrOf t).delivered k.toNat), .out (v :: l) 0)
      | none => (s, .park (.load mi))
    else s.arcAsk t mi k.toNat
  | .arcInm k, a :: l =>
    if ¬ inDataTcm a ∨ a.toNat % 4 ≠ 0 then (s, .fault (s.dataFault t fcAccess a.toNat 1 0))
    else if fin then match (s.thrOf t).heldFor k.toNat with
      | some v =>
        match s.doStore t mi a.toNat 4 v.toNat fin ((a + 4) :: l) with
        | (s, .out ds c) => (s.setThr t ((s.thrOf t).delivered k.toNat), .out ds c)
        | r => r
      | none => (s, .park (.load mi))
    else s.arcAsk t mi k.toNat
  | .arcOut k, v :: l => if ¬ s.mayOut t k.toNat then s.arcDeny t k.toNat else s.arcGive t mi k.toNat v l
  | .arcOutm k, a :: l =>
    if ¬ inDataTcm a ∨ a.toNat % 4 ≠ 0 then (s, .fault (s.dataFault t fcAccess a.toNat 1 0))
    else if ¬ s.mayOut t k.toNat then s.arcDeny t k.toNat
    else match s.load t a.toNat 4 false with
      | (s, .val v) => s.arcGive t mi k.toNat (w32 v) ((a + 4) :: l)
      | (s, .fault f) => (s, .fault f)
      | (s, .overlap) => (s, .park (.overlap mi))
      | (s, .away) => (s, .park (.load mi))
  | _, _ => (s, .out ds 0)

/-- Thread t, parked on an entry of the store buffer, is counted as it begins to wait (R268). -/
def State.waitsOn (s : State) (t : Nat) (p : Park) : State :=
  match p with
  | .storeBuf _ => s.bump F.BK_CNT1_SBFULL (t / 16)
  | _ => s

/-- Thread t makes its first attempt at an operation and acts on what it comes to: retires, faults or parks. -/
def State.tryMem (s : State) (t : Nat) (mi : MemI) : State :=
  match s.attempt t mi false with
  | (s, .out ds n) => (s.charge t n).leave t mi.len ds
  | (s, .fault f) => s.raiseFault t f
  | (s, .faultFree c) => s.faultFree t c
  | (s, .park p) =>
    let s := s.waitsOn t p
    s.setThr t { s.thrOf t with st := .parked, park := some p, feed := none }

/-- Thread t, whose cycles of parking are charged, goes on with the operation that it is parked on: it retires, faults, or
waits for something else in the same parking. -/
def State.retryMem (s : State) (t : Nat) (mi : MemI) (fin : Bool) : State :=
  let was := (s.thrOf t).park
  match s.attempt t mi fin with
  | (s, .out ds n) => ((s.unpark t).charge t n).leave t mi.len ds
  | (s, .fault f) => s.raiseFault t f
  | (s, .faultFree c) => s.faultFree t c
  | (s, .park p) =>
    let s := if was = some p then s else s.waitsOn t p
    s.setThr t { s.thrOf t with park := some p }

/-- The slots of the parking of a transfer that has come, with the context th of the thread at its end: the fixed times of
deterministic mode (R272, R274, R318), else one for every 4 cycles (R51). An Avenue IN of deterministic mode that waited on
an empty Arcade costs its whole wait, and no less than its fixed time (R313). -/
def State.loadSlots (s : State) (t : Nat) (mi : MemI) (th : Thr) : Nat :=
  let a := match mi, (s.thrOf t).ds with
    | .ldwo k, a :: _ | .stwo k, a :: _ => (a + w32 (4 * k.toNat)).toNat
    | _, a :: _ => a.toNat
    | _, [] => 0
  let d := dataAt (t / 16) a
  if ¬ s.detOf t then th.parkSlots
  else match mi with
    | .arcIn _ | .arcInm _ => if s.avenue t then max 11 th.parkSlots else th.parkSlots
    | .xchg => if s.avenue t then th.parkSlots else 10
    | _ =>
      if s.avenue t then if d.isCtl then 11 else th.parkSlots
      else if d.isMarket then 5 else th.parkSlots

/-- An instruction that reaches memory or an Arcade issues. -/
def State.memOp (s : State) (t : Nat) (r : Row) (mi : MemI) : State := s.issue t r fun s => s.tryMem t mi

/-- A thread of this Block may go on: parked, powered and in a mode that runs it. -/
def State.parkedOn (s : State) (t : Nat) : Option Park :=
  let th := s.thrOf t
  if s.thrUsed t && s.modeRuns t && s.blockOn t && th.st == .parked then th.park else none

/-! ### Completion (R224, R258, R265, R268, R269, R271) -/

/-- MEMORY_LOAD_COMPLETE (R265, R272): the transfer that thread t waits for completes, after m more CK_CORE cycles of parking; a
line of the XIP window must have come first (R390). -/
def execMemoryLoadComplete (t : Fin 64) (m : Nat) (s : State) : Host.Outcome State Fault Refusal :=
  .next (match s.parkedOn t with
    | some (.load mi) =>
      match s.attempt t mi true with
      | (s', .park (.load _)) => s'
      | _ =>
        let th := (s.thrOf t).parkedFor m
        match s.parkBill t th (s.loadSlots t mi th) with
        | (s, true) => s.retryMem t mi true
        | (s, false) => s
    | _ => s)

/-- IN_UNPARK (R224): an item has become readable for thread t, parked on an Arcade for m more cycles, or its Arcade no longer
names it and the instruction issues again. -/
def execInUnpark (t : Fin 64) (m : Nat) (s : State) : Host.Outcome State Fault Refusal :=
  .next (match s.parkedOn t with
    | some (.arc mi) =>
      let a := match mi with
        | .arcIn k | .arcInm k => k.toNat
        | _ => 0
      if ¬ s.mayIn t a ∨ 0 < (s.arcOf a).readable then
        match s.parkPass t m with
        | (s, true) => s.retryMem t mi false
        | (s, false) => s
      else s
    | _ => s)

/-- SYNCI takes its effect (R271): the lines that overlap n bytes from a leave the cache and the line buffer, all of them
for a count of 0, and the thread's buffers are discarded. -/
def State.syncInval (s : State) (t a n : Nat) : State :=
  let b := t / 16
  let u := s.blkOf b
  let hit (l : Nat) : Bool := n == 0 || (decide (32 * l < a + n) && decide (a < 32 * (l + 1)))
  let keep := u.icache.filterMap fun p => match p.2.filter fun l => !hit l.1 with
    | [] => none
    | l => some (p.1, l)
  let lb := match u.lineBuf with
    | some l => if hit l then none else some l
    | none => none
  let s := s.setBlk b { u with icache := keep, lineBuf := lb }
  s.setThr t { s.thrOf t with buf := none }

/-- What thread t is parked on its stores for has come (R268, R269, R271). -/
def State.storesDone (s : State) (t : Nat) : Bool :=
  match s.parkedOn t with
  | some (.storeBuf _) => s.sbRoom t
  | some (.overlap mi) => match s.attempt t mi false with
    | (_, .park (.overlap _)) => false
    | _ => true
  | some .fence | some .synci => (s.ownStores t).isEmpty
  | _ => false

/-- Thread t goes on after its stores. -/
def State.afterStores (s : State) (t : Nat) : State :=
  match s.parkedOn t with
  | some (.storeBuf (.arcInm k)) => s.retryMem t (.arcInm k) true
  | some (.storeBuf mi) | some (.overlap mi) => s.retryMem t mi false
  | some .fence => (s.unpark t).retire t 1
  | some .synci => match (s.thrOf t).ds with
    | n :: a :: l => ((s.unpark t).syncInval t a.toNat n.toNat).leave t 1 l
    | _ => s
  | _ => s

/-- Thread t, parked for its stores for m more cycles, looks again (R268, R269, R271): it goes on where what it waits for has
come. -/
def State.lookAgain (s : State) (t m : Nat) : State :=
  if ¬ s.storesDone t then s
  else match s.parkPass t m with
    | (s, true) => s.afterStores t
    | (s, false) => s

/-- STORE_DRAIN (R268, R322): entry i of the store buffer of Block b reaches its target, the oldest of its thread; the
threads of the Block that it lets go on do so in ascending order, thread j of the Block after ms[j] more cycles of parking. -/
def execStoreDrain (b : Fin 4) (i : Fin 4) (ms : List Nat) (s : State) : Host.Outcome State Fault Refusal :=
  let u := s.blkOf b
  .next (match u.sb[i.val]? with
    | none => s
    | some e =>
      if (u.sb.take i).any fun x => x.thr == e.thr then s
      else
        let s := s.setBlk b { u with sb := u.sb.eraseIdx i }
        let s := match e.arc with
          | some a => s.arcOut a e.thr (w32 e.data)
          | none => s.perform e.thr e.addr e.size e.data
        (List.range 16).foldl (fun s j => s.lookAgain (16 * b.val + j) (ms.getD j 0)) s)

/-- The groups of a Market line that are fetched poisoned (R254, R258). -/
def State.fillGroups (s : State) (line : Nat) : State × List Nat :=
  match s.codeAt (32 * line) with
  | .market o =>
    (List.range 4).foldl (fun p j =>
      match p.1.eccRead rgMarket (o / 8 + j) with
      | (s, .poison) => (s, p.2 ++ [4 * line + j])
      | (s, .ok _) => (s, p.2)) (s, [])
  | _ => (s, [])

/-- The bytes of a line that is being filled have come: a line of the XIP window stands in the prefetch buffer (R390). -/
def State.fillReady (s : State) (line : Nat) : State × Bool :=
  match s.codeAt (32 * line) with
  | .xip o =>
    match s.xipLine (o / 64) with
    | some _ => (s.xipUse (o / 64), true)
    | none => (s.xipAsk 2 (o / 64), false)
  | _ => (s, true)

/-- Thread t, parked on the fill of a line that has ended with poisoned groups `bad`, goes on after m more cycles of parking,
the group of its PC in its fetch buffer (R257, R258). -/
def State.fetchGoes (s : State) (line : Nat) (bad : List Nat) (t m : Nat) : State :=
  if s.parkedOn t ≠ some (.fetch line) then s
  else if ¬ (s.parkPass t m).2 then (s.parkPass t m).1
  else
    let s := (s.parkPass t m).1.unpark t
    let th := s.thrOf t
    let g := if th.pc.toNat / 32 = line then th.pc.toNat / 8 else 4 * line
    if bad.contains g then s else s.setThr t { th with buf := some g }

/-- The line that the lowest-numbered thread of Block b waits for, where one waits. -/
def State.fetchNext (s : State) (b : Nat) : Option Nat :=
  (List.range 16).findSome? fun j => match (s.thrOf (16 * b + j)).park with
    | some (.fetch l) => some l
    | _ => none

/-- ICACHE_FILL_COMPLETE (R258, R276): the fill of Block b completes; the threads that wait for its line go on, thread j of
the Block after ms[j] more cycles of parking, and the fill of the lowest-numbered thread that waits for another line begins
(notes/assumptions/22.md). -/
def execIcacheFillComplete (b : Fin 4) (ms : List Nat) (s : State) : Host.Outcome State Fault Refusal :=
  .next (match (s.blkOf b).fill with
    | none => s
    | some line =>
      match s.fillReady line with
      | (s, false) => s
      | (s, true) =>
        let (s, bad) := s.fillGroups line
        let u := s.blkOf b
        let s := s.setBlk b { u with
          fill := none, fillKeep := true, lineBuf := if u.fillKeep then some line else u.lineBuf,
          bad := u.bad.filter (fun g => g / 4 != line) ++ bad }
        let s := (List.range 16).foldl (fun s j => s.fetchGoes line bad (16 * b.val + j) (ms.getD j 0)) s
        match s.fetchNext b with
        | some l => s.fillStart b l
        | none => s)

end Sys2Proof.Machine
end

