-- ==== Sys2Proof/Machine/StackInstr.lean ====
section
/-! DEFINITION. The stack instructions and the literals (14_opcodes, R315, R319). Cells are written with TOS first. -/

namespace Sys2Proof.Machine

/-- NOP (R315): nothing. -/
def execINop (t : Fin 64) (s : State) : Host.Outcome State Fault Refusal :=
  .next (s.stackOp t { code := 0x01 } fun l => l)

/-- DUP (R315): ( a -- a a ). -/
def execIDup (t : Fin 64) (s : State) : Host.Outcome State Fault Refusal :=
  .next (s.stackOp t { code := 0x02, pr := .feeder, di := 1, dout := 2 } fun
    | a :: l => a :: a :: l
    | l => l)

/-- DROP (R315): ( a -- ). -/
def execIDrop (t : Fin 64) (s : State) : Host.Outcome State Fault Refusal :=
  .next (s.stackOp t { code := 0x03, pr := .feeder, di := 1 } fun
    | _ :: l => l
    | l => l)

/-- SWAP (R315): ( a b -- b a ). -/
def execISwap (t : Fin 64) (s : State) : Host.Outcome State Fault Refusal :=
  .next (s.stackOp t { code := 0x04, pr := .feeder, di := 2, dout := 2 } fun
    | b :: a :: l => a :: b :: l
    | l => l)

/-- OVER (R315): ( a b -- a b a ). -/
def execIOver (t : Fin 64) (s : State) : Host.Outcome State Fault Refusal :=
  .next (s.stackOp t { code := 0x05, pr := .feeder, di := 2, dout := 3 } fun
    | b :: a :: l => a :: b :: a :: l
    | l => l)

/-- NIP (R315): ( a b -- b ). -/
def execINip (t : Fin 64) (s : State) : Host.Outcome State Fault Refusal :=
  .next (s.stackOp t { code := 0x06, pr := .feeder, di := 2, dout := 1 } fun
    | b :: _ :: l => b :: l
    | l => l)

/-- TUCK (R315): ( a b -- b a b ). -/
def execITuck (t : Fin 64) (s : State) : Host.Outcome State Fault Refusal :=
  .next (s.stackOp t { code := 0x07, di := 2, dout := 3 } fun
    | b :: a :: l => b :: a :: b :: l
    | l => l)

/-- ROT (R315): ( a b c -- b c a ). -/
def execIRot (t : Fin 64) (s : State) : Host.Outcome State Fault Refusal :=
  .next (s.stackOp t { code := 0x08, di := 3, dout := 3 } fun
    | c :: b :: a :: l => a :: c :: b :: l
    | l => l)

/-- -ROT (R315): ( a b c -- c a b ). -/
def execIMinusRot (t : Fin 64) (s : State) : Host.Outcome State Fault Refusal :=
  .next (s.stackOp t { code := 0x09, di := 3, dout := 3 } fun
    | c :: b :: a :: l => b :: a :: c :: l
    | l => l)

/-- 2DUP (R315): ( a b -- a b a b ). -/
def execITwoDup (t : Fin 64) (s : State) : Host.Outcome State Fault Refusal :=
  .next (s.stackOp t { code := 0x0A, di := 2, dout := 4 } fun
    | b :: a :: l => b :: a :: b :: a :: l
    | l => l)

/-- 2DROP (R315): ( a b -- ). -/
def execITwoDrop (t : Fin 64) (s : State) : Host.Outcome State Fault Refusal :=
  .next (s.stackOp t { code := 0x0B, di := 2 } fun
    | _ :: _ :: l => l
    | l => l)

/-- 2SWAP (R315): ( a b c d -- c d a b ). -/
def execITwoSwap (t : Fin 64) (s : State) : Host.Outcome State Fault Refusal :=
  .next (s.stackOp t { code := 0x0C, di := 4, dout := 4 } fun
    | d :: c :: b :: a :: l => b :: a :: d :: c :: l
    | l => l)

/-- 2OVER (R315): ( a b c d -- a b c d a b ). -/
def execITwoOver (t : Fin 64) (s : State) : Host.Outcome State Fault Refusal :=
  .next (s.stackOp t { code := 0x0D, di := 4, dout := 6 } fun
    | d :: c :: b :: a :: l => b :: a :: d :: c :: b :: a :: l
    | l => l)

/-- PICK n (R279, R315): copies cell n below TOS; n = 0 to 14, a feeder where n is at most 3. -/
def execIPick (t : Fin 64) (n : Byte) (s : State) : Host.Outcome State Fault Refusal :=
  .next (s.stackOp t { code := 0x0E, imm := 1, good := n.toNat < 15, pr := if n.toNat ≤ 3 then .feeder else .alone,
                       di := n.toNat + 1, dout := n.toNat + 2 } fun l => l.getD n.toNat 0 :: l)

/-- ROLL n (R315): moves cell n to TOS; n = 0 to 15. -/
def execIRoll (t : Fin 64) (n : Byte) (s : State) : Host.Outcome State Fault Refusal :=
  .next (s.stackOp t { code := 0x0F, imm := 1, good := n.toNat < 16, di := n.toNat + 1, dout := n.toNat + 1 }
    fun l => l.getD n.toNat 0 :: l.eraseIdx n.toNat)

/-- DEPTH (R315): pushes the depth before the push. -/
def execIDepth (t : Fin 64) (s : State) : Host.Outcome State Fault Refusal :=
  .next (s.stackOp t { code := 0x10, dout := 1 } fun l => w32 l.length :: l)

/-- >R (R315): moves TOS to the return stack. -/
def execIToR (t : Fin 64) (s : State) : Host.Outcome State Fault Refusal :=
  .next (s.stackOp2 t { code := 0x11, di := 1, rout := 1 } fun
    | a :: l, rs => (l, a :: rs)
    | l, rs => (l, rs))

/-- R> (R315): moves the top return entry to the data stack. -/
def execIRFrom (t : Fin 64) (s : State) : Host.Outcome State Fault Refusal :=
  .next (s.stackOp2 t { code := 0x12, dout := 1, ri := 1 } fun
    | l, a :: rs => (a :: l, rs)
    | l, rs => (l, rs))

/-- R@ (R315): copies the top return entry. -/
def execIRFetch (t : Fin 64) (s : State) : Host.Outcome State Fault Refusal :=
  .next (s.stackOp2 t { code := 0x13, dout := 1, ri := 1, rout := 1 } fun
    | l, a :: rs => (a :: l, a :: rs)
    | l, rs => (l, rs))

/-- RDROP (R315): discards the top return entry. -/
def execIRdrop (t : Fin 64) (s : State) : Host.Outcome State Fault Refusal :=
  .next (s.stackOp2 t { code := 0x14, ri := 1 } fun
    | l, _ :: rs => (l, rs)
    | l, rs => (l, rs))

/-! ### Literals (R319) -/

/-- K0 to K16 (R319): pushes n. -/
def execIK (t : Fin 64) (n : Fin 17) (s : State) : Host.Outcome State Fault Refusal :=
  .next (s.stackOp t { code := 0x60 + n.val, pr := .feeder, dout := 1 } fun l => w32 n.val :: l)

/-- KM1 (R319): pushes 0xFFFF_FFFF. -/
def execIKm1 (t : Fin 64) (s : State) : Host.Outcome State Fault Refusal :=
  .next (s.stackOp t { code := 0x71, pr := .feeder, dout := 1 } fun l => 0xFFFFFFFF :: l)

/-- LIT (R319): pushes a sign-extended i8. -/
def execILit (t : Fin 64) (k : Byte) (s : State) : Host.Outcome State Fault Refusal :=
  .next (s.stackOp t { code := 0x72, imm := 1, pr := .feeder, dout := 1 } fun l => immS8 k :: l)

/-- LITU (R319): pushes a zero-extended u8. -/
def execILitu (t : Fin 64) (k : Byte) (s : State) : Host.Outcome State Fault Refusal :=
  .next (s.stackOp t { code := 0x73, imm := 1, pr := .feeder, dout := 1 } fun l => immU8 k :: l)

/-- LIT16 (R319): pushes a sign-extended i16. -/
def execILit16 (t : Fin 64) (k : BitVec 16) (s : State) : Host.Outcome State Fault Refusal :=
  .next (s.stackOp t { code := 0x74, imm := 2, dout := 1 } fun l => immS16 k :: l)

/-- LIT32 (R319): pushes an i32. -/
def execILit32 (t : Fin 64) (k : Word) (s : State) : Host.Outcome State Fault Refusal :=
  .next (s.stackOp t { code := 0x75, imm := 4, dout := 1 } fun l => k :: l)

/-- LITH (R319): pushes the upper half, with the lower half 0. -/
def execILith (t : Fin 64) (k : BitVec 16) (s : State) : Host.Outcome State Fault Refusal :=
  .next (s.stackOp t { code := 0x76, imm := 2, dout := 1 } fun l => immHigh k :: l)

end Sys2Proof.Machine
end

