-- ==== Sys2Proof/Machine/ArithInstr.lean ====
section
/-! DEFINITION. Arithmetic, logic, check and bit instructions, and the divider (14_opcodes, R316, R320; 12_blocks, R266, R267). -/

namespace Sys2Proof.Machine

/-- ADD (R316). -/
def execIAdd (t : Fin 64) (s : State) : Host.Outcome State Fault Refusal :=
  .next (s.aluOp t { code := 0x20, pr := .worker, di := 2, dout := 1 } (bin aluAdd))

/-- SUB (R316). -/
def execISub (t : Fin 64) (s : State) : Host.Outcome State Fault Refusal :=
  .next (s.aluOp t { code := 0x21, pr := .worker, di := 2, dout := 1 } (bin aluSub))

/-- NEG (R316). -/
def execINeg (t : Fin 64) (s : State) : Host.Outcome State Fault Refusal :=
  .next (s.aluOp t { code := 0x22, pr := .worker, di := 1, dout := 1 } (una fun a fl => aluSub 0 a fl))

/-- ADC (R316). -/
def execIAdc (t : Fin 64) (s : State) : Host.Outcome State Fault Refusal :=
  .next (s.aluOp t { code := 0x23, lane := true, pr := .worker, di := 2, dout := 1 } (bin aluAdc))

/-- SBC (R316). -/
def execISbc (t : Fin 64) (s : State) : Host.Outcome State Fault Refusal :=
  .next (s.aluOp t { code := 0x24, lane := true, pr := .worker, di := 2, dout := 1 } (bin aluSbc))

/-- CMP (R287, R316): the flags of a − b; both cells go. -/
def execICmp (t : Fin 64) (s : State) : Host.Outcome State Fault Refusal :=
  .next (s.aluOp t { code := 0x25, pr := .worker, di := 2 } fun
    | b :: a :: l, fl => (l, (aluSub a b fl).2)
    | l, fl => (l, fl))

/-- MUL (R316). -/
def execIMul (t : Fin 64) (s : State) : Host.Outcome State Fault Refusal :=
  .next (s.aluOp t { code := 0x26, di := 2, dout := 1 } (bin fun a b => withZN (mulLow a b)))

/-- MULH (R316). -/
def execIMulh (t : Fin 64) (s : State) : Host.Outcome State Fault Refusal :=
  .next (s.aluOp t { code := 0x27, di := 2, dout := 1 } (bin fun a b => withZN (mulHigh a b)))

/-- MULHU (R316). -/
def execIMulhu (t : Fin 64) (s : State) : Host.Outcome State Fault Refusal :=
  .next (s.aluOp t { code := 0x28, di := 2, dout := 1 } (bin' mulHighU))

/-- AND (R316). -/
def execIAnd (t : Fin 64) (s : State) : Host.Outcome State Fault Refusal :=
  .next (s.aluOp t { code := 0x2B, pr := .worker, di := 2, dout := 1 } (bin fun a b => withZN (a &&& b)))

/-- OR (R316). -/
def execIOr (t : Fin 64) (s : State) : Host.Outcome State Fault Refusal :=
  .next (s.aluOp t { code := 0x2C, pr := .worker, di := 2, dout := 1 } (bin fun a b => withZN (a ||| b)))

/-- XOR (R316). -/
def execIXor (t : Fin 64) (s : State) : Host.Outcome State Fault Refusal :=
  .next (s.aluOp t { code := 0x2D, pr := .worker, di := 2, dout := 1 } (bin fun a b => withZN (a ^^^ b)))

/-- NOT (R316). -/
def execINot (t : Fin 64) (s : State) : Host.Outcome State Fault Refusal :=
  .next (s.aluOp t { code := 0x2E, pr := .worker, di := 1, dout := 1 } (una fun a => withZN (~~~a)))

/-- SHL (R316). -/
def execIShl (t : Fin 64) (s : State) : Host.Outcome State Fault Refusal :=
  .next (s.aluOp t { code := 0x2F, pr := .worker, di := 2, dout := 1 } (bin aluShl))

/-- SHR (R316). -/
def execIShr (t : Fin 64) (s : State) : Host.Outcome State Fault Refusal :=
  .next (s.aluOp t { code := 0x30, pr := .worker, di := 2, dout := 1 } (bin aluShr))

/-- SAR (R316). -/
def execISar (t : Fin 64) (s : State) : Host.Outcome State Fault Refusal :=
  .next (s.aluOp t { code := 0x31, pr := .worker, di := 2, dout := 1 } (bin aluSar))

/-- ROL (R316). -/
def execIRol (t : Fin 64) (s : State) : Host.Outcome State Fault Refusal :=
  .next (s.aluOp t { code := 0x32, pr := .worker, di := 2, dout := 1 } (bin aluRol))

/-- ROR (R316). -/
def execIRor (t : Fin 64) (s : State) : Host.Outcome State Fault Refusal :=
  .next (s.aluOp t { code := 0x33, pr := .worker, di := 2, dout := 1 } (bin aluRor))

/-- ADDI (R316): adds the sign-extended immediate; the flags stay. -/
def execIAddi (t : Fin 64) (k : Byte) (s : State) : Host.Outcome State Fault Refusal :=
  .next (s.aluOp t { code := 0x34, imm := 1, pr := .worker, di := 1, dout := 1 } (una' fun a => a + immS8 k))

/-- MIN (R316). -/
def execIMin (t : Fin 64) (s : State) : Host.Outcome State Fault Refusal :=
  .next (s.aluOp t { code := 0x35, pr := .worker, di := 2, dout := 1 } (bin' fun a b => if a.slt b then a else b))

/-- MAX (R316). -/
def execIMax (t : Fin 64) (s : State) : Host.Outcome State Fault Refusal :=
  .next (s.aluOp t { code := 0x36, pr := .worker, di := 2, dout := 1 } (bin' fun a b => if a.slt b then b else a))

/-- MINU (R316). -/
def execIMinu (t : Fin 64) (s : State) : Host.Outcome State Fault Refusal :=
  .next (s.aluOp t { code := 0x37, pr := .worker, di := 2, dout := 1 } (bin' fun a b => if a.ult b then a else b))

/-- MAXU (R316). -/
def execIMaxu (t : Fin 64) (s : State) : Host.Outcome State Fault Refusal :=
  .next (s.aluOp t { code := 0x38, pr := .worker, di := 2, dout := 1 } (bin' fun a b => if a.ult b then b else a))

/-- ABS (R316). -/
def execIAbs (t : Fin 64) (s : State) : Host.Outcome State Fault Refusal :=
  .next (s.aluOp t { code := 0x39, pr := .worker, di := 1, dout := 1 } (una' absW))

/-- SEXTB (R316). -/
def execISextb (t : Fin 64) (s : State) : Host.Outcome State Fault Refusal :=
  .next (s.aluOp t { code := 0x3A, pr := .worker, di := 1, dout := 1 } (una' sextB))

/-- SEXTH (R316). -/
def execISexth (t : Fin 64) (s : State) : Host.Outcome State Fault Refusal :=
  .next (s.aluOp t { code := 0x3B, pr := .worker, di := 1, dout := 1 } (una' sextH))

/-- BSWAP (R316). -/
def execIBswap (t : Fin 64) (s : State) : Host.Outcome State Fault Refusal :=
  .next (s.aluOp t { code := 0x3C, pr := .worker, di := 1, dout := 1 } (una' swapBytes))

/-- FLG@ (R316): pushes the flags of a Lane thread. -/
def execIFlgFetch (t : Fin 64) (s : State) : Host.Outcome State Fault Refusal :=
  .next (s.aluOp t { code := 0x3D, lane := true, dout := 1 } fun l fl => (fl.word :: l, fl))

/-- FLG! (R316): sets the flags of a Lane thread. -/
def execIFlgStore (t : Fin 64) (s : State) : Host.Outcome State Fault Refusal :=
  .next (s.aluOp t { code := 0x3E, lane := true, di := 1 } fun
    | f :: l, _ => (l, Flags.ofWord f)
    | l, fl => (l, fl))

/-! ### The divider (R266, R267, R284, R287, R306) -/

/-- DIV or DIVU issues: a zero divisor faults; else the thread asks for the divider and parks with its operands. -/
def State.divide (s : State) (t : Nat) (code : Nat) (sgn : Bool) : State :=
  s.issue t { code := code, di := 2, dout := 2 } fun s =>
    if (s.thrOf t).ds.head? = some 0 then s.faultAt t fcDivZero
    else (s.setThr t { s.thrOf t with st := .parked, park := some (.div sgn), feed := none }).divAsk t

/-- DIV (R266, R316): the signed division on the divider. -/
def execIDiv (t : Fin 64) (s : State) : Host.Outcome State Fault Refusal := .next (s.divide t 0x29 true)
/-- DIVU (R266, R316): the unsigned division on the divider. -/
def execIDivu (t : Fin 64) (s : State) : Host.Outcome State Fault Refusal := .next (s.divide t 0x2A false)

/-- What a division leaves: ( a b -- r q ), with the flags of a Lane thread's DIV (R284, R287, R316). -/
def Thr.divided (th : Thr) (sgn lane : Bool) : Thr :=
  match th.ds with
  | b :: a :: l =>
    let (r, q) := if sgn then divS a b else divU a b
    { th with ds := q :: r :: l, flags := if sgn && lane then divFlags a b q th.flags else th.flags }
  | _ => th

/-- DIVISION_COMPLETE (R266): the division of the owner of Block b's divider completes after m more CK_CORE cycles of parking, of
which a division takes at least 34; its operands are popped and its results written, and the divider passes on. -/
def execDivisionComplete (b : Fin 4) (m : Nat) (s : State) : Host.Outcome State Fault Refusal :=
  let u := s.blkOf b
  .next (match u.divOwn with
    | none => s
    | some t =>
      match s.parkedOn t with
      | some (.div sgn) =>
        let th := (s.thrOf t).parkedFor m
        let th := { th with pkTen := max 340 th.pkTen }
        match s.parkBill t th th.parkSlots with
        | (s, false) => s
        | (s, true) =>
          let s := s.setThr t (((s.thrOf t).unparked.divided sgn (!s.avenue t)).retired 1)
          (s.setBlk b { s.blkOf b with divOwn := none }).divPass b
      | _ => s)

/-! ### Check and bit instructions (R289-R291, R320) -/

/-- CRC.B p (R289, R320): one byte step. -/
def execICrcB (t : Fin 64) (p : Fin 4) (s : State) : Host.Outcome State Fault Refusal :=
  .next (s.aluOp t { code := 0x80 + p.val, pr := .worker, di := 2, dout := 1 }
    (bin' fun c x => w32 (s.crcBy t p c.toNat (x.toNat % 256))))

/-- CRC.W p (R289, R320): four byte steps on bits 7:0, 15:8, 23:16 and 31:24. -/
def execICrcW (t : Fin 64) (p : Fin 4) (s : State) : Host.Outcome State Fault Refusal :=
  .next (s.aluOp t { code := 0x84 + p.val, di := 2, dout := 1 }
    (bin' fun c x => w32 ((List.range 4).foldl (fun c i => s.crcBy t p c (x.toNat / 256 ^ i % 256)) c.toNat)))

/-- PAR (R291, R320). -/
def execIPar (t : Fin 64) (s : State) : Host.Outcome State Fault Refusal :=
  .next (s.aluOp t { code := 0x8C, pr := .worker, di := 1, dout := 1 } (una fun a => withZN (bitPar a)))

/-- POPC (R291, R320). -/
def execIPopc (t : Fin 64) (s : State) : Host.Outcome State Fault Refusal :=
  .next (s.aluOp t { code := 0x8D, di := 1, dout := 1 } (una fun a => withZN (bitPopc a)))

/-- CLZ (R291, R320). -/
def execIClz (t : Fin 64) (s : State) : Host.Outcome State Fault Refusal :=
  .next (s.aluOp t { code := 0x8E, di := 1, dout := 1 } (una fun a => withZN (bitClz a)))

/-- BREV n (R291, R320): n = 1 to 32. -/
def execIBrev (t : Fin 64) (n : Byte) (s : State) : Host.Outcome State Fault Refusal :=
  .next (s.aluOp t { code := 0x8F, imm := 1, good := decide (1 ≤ n.toNat) && decide (n.toNat ≤ 32), pr := .worker, di := 1, dout := 1 }
    (una fun a => withZN (bitBrev n.toNat a)))

end Sys2Proof.Machine
end

