-- ==== Sys2Proof/Machine/MemoryInstr.lean ====
section
/-! DEFINITION. The memory, Plaza and I/O instructions (14_opcodes, R317-R324). -/

namespace Sys2Proof.Machine

/-- LDB (R317). -/
def execILdb (t : Fin 64) (s : State) : Host.Outcome State Fault Refusal :=
  .next (s.memOp t { code := 0x40, pr := .worker, di := 1, dout := 1 } (.ld 1 false))

/-- LDBS (R317). -/
def execILdbs (t : Fin 64) (s : State) : Host.Outcome State Fault Refusal :=
  .next (s.memOp t { code := 0x41, pr := .worker, di := 1, dout := 1 } (.ld 1 true))

/-- LDH (R317). -/
def execILdh (t : Fin 64) (s : State) : Host.Outcome State Fault Refusal :=
  .next (s.memOp t { code := 0x42, pr := .worker, di := 1, dout := 1 } (.ld 2 false))

/-- LDHS (R317). -/
def execILdhs (t : Fin 64) (s : State) : Host.Outcome State Fault Refusal :=
  .next (s.memOp t { code := 0x43, pr := .worker, di := 1, dout := 1 } (.ld 2 true))

/-- LDW (R317). -/
def execILdw (t : Fin 64) (s : State) : Host.Outcome State Fault Refusal :=
  .next (s.memOp t { code := 0x44, pr := .worker, di := 1, dout := 1 } (.ld 4 false))

/-- STB (R317). -/
def execIStb (t : Fin 64) (s : State) : Host.Outcome State Fault Refusal :=
  .next (s.memOp t { code := 0x45, pr := .worker, di := 2 } (.st 1))

/-- STH (R317). -/
def execISth (t : Fin 64) (s : State) : Host.Outcome State Fault Refusal :=
  .next (s.memOp t { code := 0x46, pr := .worker, di := 2 } (.st 2))

/-- STW (R317). -/
def execIStw (t : Fin 64) (s : State) : Host.Outcome State Fault Refusal :=
  .next (s.memOp t { code := 0x47, pr := .worker, di := 2 } (.st 4))

/-- LDWO n: the word at a + 4n (R317). -/
def execILdwo (t : Fin 64) (n : Byte) (s : State) : Host.Outcome State Fault Refusal :=
  .next (s.memOp t { code := 0x48, imm := 1, pr := .worker, di := 1, dout := 1 } (.ldwo n))

/-- STWO n: stores at a + 4n (R317). -/
def execIStwo (t : Fin 64) (n : Byte) (s : State) : Host.Outcome State Fault Refusal :=
  .next (s.memOp t { code := 0x49, imm := 1, pr := .worker, di := 2 } (.stwo n))

/-- ST+ (R317). -/
def execIStPlus (t : Fin 64) (s : State) : Host.Outcome State Fault Refusal :=
  .next (s.memOp t { code := 0x4A, pr := .worker, di := 2, dout := 2 } .stPlus)

/-- STB+ (R317). -/
def execIStbPlus (t : Fin 64) (s : State) : Host.Outcome State Fault Refusal :=
  .next (s.memOp t { code := 0x4B, pr := .worker, di := 2, dout := 2 } .stbPlus)

/-- LDW+ (R317). -/
def execILdwPlus (t : Fin 64) (s : State) : Host.Outcome State Fault Refusal :=
  .next (s.memOp t { code := 0x4C, pr := .worker, di := 1, dout := 2 } .ldwPlus)

/-- MOVW (R317, R318). -/
def execIMovw (t : Fin 64) (s : State) : Host.Outcome State Fault Refusal :=
  .next (s.memOp t { code := 0x4D, di := 2, dout := 2 } .movw)

/-- MOVB (R317, R318). -/
def execIMovb (t : Fin 64) (s : State) : Host.Outcome State Fault Refusal :=
  .next (s.memOp t { code := 0x4E, di := 2, dout := 2 } .movb)

/-- XCHG (R317, R318). -/
def execIXchg (t : Fin 64) (s : State) : Host.Outcome State Fault Refusal :=
  .next (s.memOp t { code := 0x4F, di := 2, dout := 1 } .xchg)

/-- CRCM p: one byte step on the byte at a (R320). -/
def execICrcm (t : Fin 64) (p : Fin 4) (s : State) : Host.Outcome State Fault Refusal :=
  .next (s.memOp t { code := 0x88 + p.val, di := 2, dout := 2 } (.crcm p))

/-- IN n: one item of ARCn (R224, R321, R322). -/
def execIIn (t : Fin 64) (n : Byte) (s : State) : Host.Outcome State Fault Refusal :=
  .next (s.memOp t { code := 0x90, imm := 1, good := n.toNat < 64, dout := 1 } (.arcIn n))

/-- OUT n: one item to ARCn (R221, R321, R322). -/
def execIOut (t : Fin 64) (n : Byte) (s : State) : Host.Outcome State Fault Refusal :=
  .next (s.memOp t { code := 0x91, imm := 1, good := n.toNat < 64, di := 1 } (.arcOut n))

/-- INM n: one item of ARCn, stored at a (R321, R322). -/
def execIInm (t : Fin 64) (n : Byte) (s : State) : Host.Outcome State Fault Refusal :=
  .next (s.memOp t { code := 0x92, imm := 1, good := n.toNat < 64, di := 1, dout := 1 } (.arcInm n))

/-- OUTM n: the word at a to ARCn (R321, R322). -/
def execIOutm (t : Fin 64) (n : Byte) (s : State) : Host.Outcome State Fault Refusal :=
  .next (s.memOp t { code := 0x93, imm := 1, good := n.toNat < 64, di := 1, dout := 1 } (.arcOutm n))

/-- GPS or GPC of pin n (R323): the output register of an owned pin changes. -/
def State.gpInstr (s : State) (t code : Nat) (n : Byte) (v : Bool) : State :=
  s.issue t { code := code, imm := 1, good := n.toNat < 96 } fun s =>
    if s.ownerOf .pin n.toNat ≠ s.ownerOf .thread t then s.faultFree t fcAccess
    else (s.setGpOut n.toNat v).retire t 2

/-- GPS n (R321, R323). -/
def execIGps (t : Fin 64) (n : Byte) (s : State) : Host.Outcome State Fault Refusal := .next (s.gpInstr t 0x94 n true)
/-- GPC n (R321, R323). -/
def execIGpc (t : Fin 64) (n : Byte) (s : State) : Host.Outcome State Fault Refusal := .next (s.gpInstr t 0x95 n false)

/-- MILE (R300): pushes the Short Milestone of the present CK_TIME cycle. -/
def execIMile (t : Fin 64) (s : State) : Host.Outcome State Fault Refusal :=
  .next (s.stackOp t { code := 0x96, dout := 1 } fun l => short s.ltMs :: l)

/-- ARM (R242, R246, R324): arms a Lamplighter of the thread's Quarter for a Short Milestone and pushes the status. -/
def execIArm (t : Fin 64) (s : State) : Host.Outcome State Fault Refusal :=
  .next (s.issue t { code := 0x97, di := 2, dout := 1 } fun s =>
    match (s.thrOf t).ds with
    | n :: sm :: l =>
      if 16 ≤ n.toNat ∨ s.ownerOf .lamplighter n.toNat ≠ s.ownerOf .thread t then s.faultFree t fcAccess
      else match s.llArm n.toNat (recover s.lt125 sm) (.thr t) with
        | (s, st) => s.leave t 1 (w32 st :: l)
    | _ => s)

end Sys2Proof.Machine
end

