-- ==== Sys2Proof/Machine/ControlInstr.lean ====
section
/-! DEFINITION. Thread control, events and entry, repeat prefixes, branches, traps (13_instruction_set; 14_opcodes, R325-R330). -/

namespace Sys2Proof.Machine

/-! ### Waiting (R46, R47, R297, R298) -/

/-- The activation of thread t ends with WAIT (R46, R47): a pending wake begins the next one at once. -/
def State.endWait (s : State) (t : Nat) : State :=
  let th := s.thrOf t
  if th.pend then (s.setThr t { th with pend := false }).beginActivation t
  else s.setThr t { th with st := .waiting, waitTick := false }

/-- WAIT (R46, R298, R325). -/
def execIWait (t : Fin 64) (s : State) : Host.Outcome State Fault Refusal :=
  .next (s.issue t { code := 0xA0 } fun s => (s.retire t 1).endWait t)

/-- WAITTICK (R46, R297, R298, R325). -/
def execIWaittick (t : Fin 64) (s : State) : Host.Outcome State Fault Refusal :=
  .next (s.issue t { code := 0xA1 } fun s =>
    let s := s.retire t 1
    s.setThr t { s.thrOf t with st := .waiting, waitTick := true })

/-- Thread t parks. -/
def State.parkOn (s : State) (t : Nat) (p : Park) : State :=
  s.setThr t { s.thrOf t with st := .parked, park := some p, feed := none }

/-- YIELD (R298, R325): the thread is not ready for 16 cycles. -/
def execIYield (t : Fin 64) (s : State) : Host.Outcome State Fault Refusal :=
  .next (s.issue t { code := 0xA2, lane := true } fun s => s.parkOn t .yield)

/-- YIELD_END (R298): the 16 cycles, charged as parking, are over. -/
def execYieldEnd (t : Fin 64) (s : State) : Host.Outcome State Fault Refusal :=
  .next (match s.parkedOn t with
    | some .yield =>
      match s.parkBill t (s.thrOf t) 4 with
      | (s, true) => (s.unpark t).retire t 1
      | (s, false) => s
    | _ => s)

/-- SYNCI (R271, R325): waits for the thread's stores, then invalidates. -/
def execISynci (t : Fin 64) (s : State) : Host.Outcome State Fault Refusal :=
  .next (s.issue t { code := 0xA3, di := 2 } fun s =>
    match s.ownStores t, (s.thrOf t).ds with
    | [], n :: a :: l => (s.syncInval t a.toNat n.toNat).leave t 1 l
    | _, _ => s.parkOn t .synci)

/-- FENCE (R29, R269, R325): waits for the thread's stores; a write takes effect as its transfer completes. -/
def execIFence (t : Fin 64) (s : State) : Host.Outcome State Fault Refusal :=
  .next (s.issue t { code := 0xA4 } fun s => if (s.ownStores t).isEmpty then s.retire t 1 else s.parkOn t .fence)

/-! ### Events and entry (R299-R304) -/

/-- EVT (R299): a wake or an entry signal to a thread of the Quarter. -/
def execIEvt (t : Fin 64) (s : State) : Host.Outcome State Fault Refusal :=
  .next (s.issue t { code := 0xA5, di := 1 } fun s =>
    match (s.thrOf t).ds with
    | x :: l =>
      if evtBad x.toNat ∨ s.evtDenied (s.ownerOf .thread t) x.toNat then s.faultAt t fcAccess x
      else (s.leave t 1 l).evtSend x.toNat
    | _ => s)

/-- ENTRY (R301): sets the entry vector and enables entry. -/
def execIEntry (t : Fin 64) (s : State) : Host.Outcome State Fault Refusal :=
  .next (s.issue t { code := 0xA6, lane := true, di := 1 } fun s =>
    match (s.thrOf t).ds with
    | a :: l => s.setThr t (({ s.thrOf t with ds := l, vec := a, entEn := true } : Thr).retired 1)
    | _ => s)

/-- ENTOFF (R301): disables entry. -/
def execIEntoff (t : Fin 64) (s : State) : Host.Outcome State Fault Refusal :=
  .next (s.issue t { code := 0xA7, lane := true } fun s =>
    s.setThr t (({ s.thrOf t with entEn := false } : Thr).retired 1))

/-- The PC, the repeat state and the flags come back from the save register; a repeat of which RPT holds 0 is over (R295,
R303). -/
def Thr.restored (th : Thr) (v : SaveReg) : Thr :=
  let th : Thr := { th with flags := v.flags, entEn := true, save := none, feed := none, buf := none }
  match v.rep with
  | some r => if th.rpt = 0 then { th with pc := v.pc + w32 r.len, rep := none } else { th with pc := v.pc, rep := v.rep }
  | none => { th with pc := v.pc, rep := none }

/-- RETE (R303): returns from an entry; without saved state it raises UNDEF. -/
def execIRete (t : Fin 64) (s : State) : Host.Outcome State Fault Refusal :=
  .next (s.issue t { code := 0xA8, lane := true } fun s =>
    match (s.thrOf t).save with
    | none => s.faultAt t fcUndef
    | some v => (s.charge t 2).setThr t ((s.thrOf t).restored v))

/-- An entry of thread t can be taken at its present boundary, or by abandoning what it is parked on (R264, R302). -/
def State.entryOpen (s : State) (t : Nat) : Bool :=
  let th := s.thrOf t
  s.thrUsed t && !s.avenue t && s.modeRuns t && s.blockOn t && s.entryDue t && s.inBudget t && match th.st, th.park with
    | .active, _ => true
    | .parked, some (.arc _) => true
    | .parked, some (.div _) => true
    | _, _ => false

/-- Thread t takes its entry (R302): the PC, the repeat state and the flags are saved, and two slots are charged. -/
def State.enterHandler (s : State) (t : Nat) : State :=
  let th := s.thrOf t
  (s.charge t 2).setThr t { th with
    save := some { pc := th.pc, rep := th.rep, flags := th.flags }, pc := th.vec, rep := none,
    entEn := false, entPend := false, feed := none, buf := none, first := false }

/-- ENTRY_TAKEN (R264, R302, R304): a pending entry of thread t is taken, and a wait of m more cycles on an empty Arcade or the
divider is charged and abandoned; where that brings the usage to the budget the thread is suspended, and the entry stays
pending. -/
def execEntryTaken (t : Fin 64) (m : Nat) (s : State) : Host.Outcome State Fault Refusal :=
  .next (if ¬ s.entryOpen t then s
    else if (s.thrOf t).st ≠ .parked then s.enterHandler t
    else match s.parkPass t m with
      | (s, false) => s
      | (s, true) => if s.inBudget t then ((s.divDrop t).unpark t).enterHandler t else s.overrun t)

/-! ### Repeat prefixes (R292-R296, R327, R328) -/

/-- The length of a repeatable instruction, by its opcode (R328); none for any other. -/
def repLen (op : Byte) : Option Nat :=
  let c := op.toNat
  if c = 0x01 ∨ c = 0x03 ∨ (0x4A ≤ c ∧ c ≤ 0x4E) ∨ (0x88 ≤ c ∧ c ≤ 0x8B) then some 1
  else if 0x90 ≤ c ∧ c ≤ 0x93 then some 2
  else none

/-- The checks of a prefix, in the order of R293. -/
def prefixFault (op : Byte) (x : Bool) (ds : List Word) : Option Nat :=
  match repLen op with
  | none => some fcPrefix
  | some _ =>
    match ds with
    | [] => some fcDUnder
    | n :: _ => if x && decide (255 < n.toNat) then some fcPrefix else none

/-- REP or REPX before the instruction with opcode op (R292, R293). The prefix fetches that opcode byte with its own. -/
def State.repeatOp (s : State) (t code : Nat) (x : Bool) (op : Byte) : State :=
  s.issueWith t { code := code, imm := 1, di := 1 } (fun s => prefixFault op x (s.thrOf t).ds) fun s =>
    let th := s.thrOf t
    match th.ds, repLen op with
    | n :: l, some k =>
      let d := if n = 0 then 1 + k else 1
      let next := th.pc + w32 d
      let th := { th with ds := l, pc := next, feed := none, buf := keepBuf th.buf th.pc next }
      s.setThr t { th with rpt := n, rep := if n = 0 then none else some { op := op, x := x, len := k } }
    | _, _ => s

/-- REP (R292, R293, R327). -/
def execIRep (t : Fin 64) (op : Byte) (s : State) : Host.Outcome State Fault Refusal := .next (s.repeatOp t 0xB0 false op)
/-- REPX (R292, R293, R327). -/
def execIRepx (t : Fin 64) (op : Byte) (s : State) : Host.Outcome State Fault Refusal := .next (s.repeatOp t 0xB1 true op)

/-- RPT@ (R296): pushes RPT. -/
def execIRptFetch (t : Fin 64) (s : State) : Host.Outcome State Fault Refusal :=
  .next (s.issue t { code := 0xB2, dout := 1 } fun s => s.leave t 1 ((s.thrOf t).rpt :: (s.thrOf t).ds))

/-- RPT! (R296): sets RPT. -/
def execIRptStore (t : Fin 64) (s : State) : Host.Outcome State Fault Refusal :=
  .next (s.issue t { code := 0xB3, di := 1 } fun s =>
    match (s.thrOf t).ds with
    | n :: l => s.setThr t (({ s.thrOf t with ds := l, rpt := n } : Thr).retired 1)
    | _ => s)

/-! ### Branches, calls and returns (R329) -/

/-- BRA (R329): always taken. -/
def execIBra (t : Fin 64) (d : Byte) (s : State) : Host.Outcome State Fault Refusal :=
  .next (s.branchOp t { code := 0xC0, imm := 1 } (immS8 d) fun l _ => (l, true))
/-- BRA.W (R329): always taken. -/
def execIBraW (t : Fin 64) (d : BitVec 16) (s : State) : Host.Outcome State Fault Refusal :=
  .next (s.branchOp t { code := 0xC1, imm := 2 } (immS16 d) fun l _ => (l, true))

/-- The test of BZ and BNZ on a popped cell. -/
def popZero (z : Bool) : List Word → Flags → List Word × Bool
  | x :: l, _ => (l, (x == 0) == z)
  | l, _ => (l, false)

/-- BZ (R329). -/
def execIBz (t : Fin 64) (d : Byte) (s : State) : Host.Outcome State Fault Refusal :=
  .next (s.branchOp t { code := 0xC2, imm := 1, pr := .worker, di := 1 } (immS8 d) (popZero true))
/-- BNZ (R329). -/
def execIBnz (t : Fin 64) (d : Byte) (s : State) : Host.Outcome State Fault Refusal :=
  .next (s.branchOp t { code := 0xC3, imm := 1, pr := .worker, di := 1 } (immS8 d) (popZero false))
/-- BZ.W (R329). -/
def execIBzW (t : Fin 64) (d : BitVec 16) (s : State) : Host.Outcome State Fault Refusal :=
  .next (s.branchOp t { code := 0xC4, imm := 2, pr := .worker, di := 1 } (immS16 d) (popZero true))
/-- BNZ.W (R329). -/
def execIBnzW (t : Fin 64) (d : BitVec 16) (s : State) : Host.Outcome State Fault Refusal :=
  .next (s.branchOp t { code := 0xC5, imm := 2, pr := .worker, di := 1 } (immS16 d) (popZero false))

/-- CALL (R280, R329): pushes the address of the byte after the immediate. -/
def execICall (t : Fin 64) (d : BitVec 16) (s : State) : Host.Outcome State Fault Refusal :=
  .next (s.issue t { code := 0xC6, imm := 2, rout := 1 } fun s =>
    let th := s.thrOf t
    (s.setThr t { th with rs := (th.pc + 3) :: th.rs }).jump t (th.pc + 3 + immS16 d))

/-- CALLI (R329): calls the address in TOS. -/
def execICalli (t : Fin 64) (s : State) : Host.Outcome State Fault Refusal :=
  .next (s.issue t { code := 0xC7, di := 1, rout := 1 } fun s =>
    let th := s.thrOf t
    match th.ds with
    | a :: l => (s.setThr t { th with ds := l, rs := (th.pc + 1) :: th.rs }).jump t a
    | _ => s)

/-- JMPI (R329): jumps to the address in TOS. -/
def execIJmpi (t : Fin 64) (s : State) : Host.Outcome State Fault Refusal :=
  .next (s.issue t { code := 0xC8, di := 1 } fun s =>
    let th := s.thrOf t
    match th.ds with
    | a :: l => (s.setThr t { th with ds := l }).jump t a
    | _ => s)

/-- RET (R280, R329): returns to the address popped from the return stack. -/
def execIRet (t : Fin 64) (s : State) : Host.Outcome State Fault Refusal :=
  .next (s.issue t { code := 0xC9, ri := 1 } fun s =>
    let th := s.thrOf t
    match th.rs with
    | a :: l => (s.setThr t { th with rs := l }).jump t a
    | _ => s)

/-- DJNZ (R329): decrements TOS, taken where it is not 0. -/
def execIDjnz (t : Fin 64) (d : Byte) (s : State) : Host.Outcome State Fault Refusal :=
  .next (s.branchOp t { code := 0xCA, imm := 1, di := 1, dout := 1 } (immS8 d) fun
    | n :: l, _ => ((n - 1) :: l, n - 1 != 0)
    | l, _ => (l, false))

/-! ### Class-dependent branches (R286, R288, R330) -/

/-- A compare-and-branch of an Avenue thread: both cells go; nothing where the thread is of the other class. -/
def State.cmpBranch (s : State) (t code imm : Nat) (d : Word) (c : Cmp) : State :=
  if ¬ s.avenue t then s
  else s.branchOp t { code := code, imm := imm, pr := .worker, di := 2 } d fun
    | b :: a :: l, _ => (l, c.holds a b)
    | l, _ => (l, false)

/-- A flag branch of a Lane thread; nothing where the thread is of the other class. -/
def State.flagBranch (s : State) (t code imm : Nat) (d : Word) (c : Cond) : State :=
  if s.avenue t then s
  else s.branchOp t { code := code, imm := imm, pr := .worker } d fun l f => (l, c.holds f)

/-- BEQ of an Avenue thread (R286). -/
def execIAvenueBeq (t : Fin 64) (d : Byte) (s : State) : Host.Outcome State Fault Refusal :=
  .next (s.cmpBranch t 0xE0 1 (immS8 d) .eq)
/-- BNE of an Avenue thread (R286). -/
def execIAvenueBne (t : Fin 64) (d : Byte) (s : State) : Host.Outcome State Fault Refusal :=
  .next (s.cmpBranch t 0xE1 1 (immS8 d) .ne)
/-- BLT of an Avenue thread (R286). -/
def execIAvenueBlt (t : Fin 64) (d : Byte) (s : State) : Host.Outcome State Fault Refusal :=
  .next (s.cmpBranch t 0xE2 1 (immS8 d) .lt)
/-- BGE of an Avenue thread (R286). -/
def execIAvenueBge (t : Fin 64) (d : Byte) (s : State) : Host.Outcome State Fault Refusal :=
  .next (s.cmpBranch t 0xE3 1 (immS8 d) .ge)
/-- BLTU of an Avenue thread (R286). -/
def execIAvenueBltu (t : Fin 64) (d : Byte) (s : State) : Host.Outcome State Fault Refusal :=
  .next (s.cmpBranch t 0xE4 1 (immS8 d) .ltu)
/-- BGEU of an Avenue thread (R286). -/
def execIAvenueBgeu (t : Fin 64) (d : Byte) (s : State) : Host.Outcome State Fault Refusal :=
  .next (s.cmpBranch t 0xE5 1 (immS8 d) .geu)
/-- BGT of an Avenue thread (R286). -/
def execIAvenueBgt (t : Fin 64) (d : Byte) (s : State) : Host.Outcome State Fault Refusal :=
  .next (s.cmpBranch t 0xE6 1 (immS8 d) .gt)
/-- BLE of an Avenue thread (R286). -/
def execIAvenueBle (t : Fin 64) (d : Byte) (s : State) : Host.Outcome State Fault Refusal :=
  .next (s.cmpBranch t 0xE7 1 (immS8 d) .le)
/-- BEQ.W of an Avenue thread (R286). -/
def execIAvenueBeqW (t : Fin 64) (d : BitVec 16) (s : State) : Host.Outcome State Fault Refusal :=
  .next (s.cmpBranch t 0xE8 2 (immS16 d) .eq)
/-- BNE.W of an Avenue thread (R286). -/
def execIAvenueBneW (t : Fin 64) (d : BitVec 16) (s : State) : Host.Outcome State Fault Refusal :=
  .next (s.cmpBranch t 0xE9 2 (immS16 d) .ne)
/-- BLT.W of an Avenue thread (R286). -/
def execIAvenueBltW (t : Fin 64) (d : BitVec 16) (s : State) : Host.Outcome State Fault Refusal :=
  .next (s.cmpBranch t 0xEA 2 (immS16 d) .lt)
/-- BGE.W of an Avenue thread (R286). -/
def execIAvenueBgeW (t : Fin 64) (d : BitVec 16) (s : State) : Host.Outcome State Fault Refusal :=
  .next (s.cmpBranch t 0xEB 2 (immS16 d) .ge)
/-- BLTU.W of an Avenue thread (R286). -/
def execIAvenueBltuW (t : Fin 64) (d : BitVec 16) (s : State) : Host.Outcome State Fault Refusal :=
  .next (s.cmpBranch t 0xEC 2 (immS16 d) .ltu)
/-- BGEU.W of an Avenue thread (R286). -/
def execIAvenueBgeuW (t : Fin 64) (d : BitVec 16) (s : State) : Host.Outcome State Fault Refusal :=
  .next (s.cmpBranch t 0xED 2 (immS16 d) .geu)
/-- BGT.W of an Avenue thread (R286). -/
def execIAvenueBgtW (t : Fin 64) (d : BitVec 16) (s : State) : Host.Outcome State Fault Refusal :=
  .next (s.cmpBranch t 0xEE 2 (immS16 d) .gt)
/-- BLE.W of an Avenue thread (R286). -/
def execIAvenueBleW (t : Fin 64) (d : BitVec 16) (s : State) : Host.Outcome State Fault Refusal :=
  .next (s.cmpBranch t 0xEF 2 (immS16 d) .le)
/-- BEQ of a Lane thread (R288). -/
def execILaneBeq (t : Fin 64) (d : Byte) (s : State) : Host.Outcome State Fault Refusal :=
  .next (s.flagBranch t 0xE0 1 (immS8 d) .eq)
/-- BNE of a Lane thread (R288). -/
def execILaneBne (t : Fin 64) (d : Byte) (s : State) : Host.Outcome State Fault Refusal :=
  .next (s.flagBranch t 0xE1 1 (immS8 d) .ne)
/-- BCS of a Lane thread (R288). -/
def execILaneBcs (t : Fin 64) (d : Byte) (s : State) : Host.Outcome State Fault Refusal :=
  .next (s.flagBranch t 0xE2 1 (immS8 d) .cs)
/-- BCC of a Lane thread (R288). -/
def execILaneBcc (t : Fin 64) (d : Byte) (s : State) : Host.Outcome State Fault Refusal :=
  .next (s.flagBranch t 0xE3 1 (immS8 d) .cc)
/-- BMI of a Lane thread (R288). -/
def execILaneBmi (t : Fin 64) (d : Byte) (s : State) : Host.Outcome State Fault Refusal :=
  .next (s.flagBranch t 0xE4 1 (immS8 d) .mi)
/-- BPL of a Lane thread (R288). -/
def execILaneBpl (t : Fin 64) (d : Byte) (s : State) : Host.Outcome State Fault Refusal :=
  .next (s.flagBranch t 0xE5 1 (immS8 d) .pl)
/-- BVS of a Lane thread (R288). -/
def execILaneBvs (t : Fin 64) (d : Byte) (s : State) : Host.Outcome State Fault Refusal :=
  .next (s.flagBranch t 0xE6 1 (immS8 d) .vs)
/-- BVC of a Lane thread (R288). -/
def execILaneBvc (t : Fin 64) (d : Byte) (s : State) : Host.Outcome State Fault Refusal :=
  .next (s.flagBranch t 0xE7 1 (immS8 d) .vc)
/-- BHI of a Lane thread (R288). -/
def execILaneBhi (t : Fin 64) (d : Byte) (s : State) : Host.Outcome State Fault Refusal :=
  .next (s.flagBranch t 0xE8 1 (immS8 d) .hi)
/-- BLS of a Lane thread (R288). -/
def execILaneBls (t : Fin 64) (d : Byte) (s : State) : Host.Outcome State Fault Refusal :=
  .next (s.flagBranch t 0xE9 1 (immS8 d) .ls)
/-- BGE of a Lane thread (R288). -/
def execILaneBge (t : Fin 64) (d : Byte) (s : State) : Host.Outcome State Fault Refusal :=
  .next (s.flagBranch t 0xEA 1 (immS8 d) .ge)
/-- BLT of a Lane thread (R288). -/
def execILaneBlt (t : Fin 64) (d : Byte) (s : State) : Host.Outcome State Fault Refusal :=
  .next (s.flagBranch t 0xEB 1 (immS8 d) .lt)
/-- BGT of a Lane thread (R288). -/
def execILaneBgt (t : Fin 64) (d : Byte) (s : State) : Host.Outcome State Fault Refusal :=
  .next (s.flagBranch t 0xEC 1 (immS8 d) .gt)
/-- BLE of a Lane thread (R288). -/
def execILaneBle (t : Fin 64) (d : Byte) (s : State) : Host.Outcome State Fault Refusal :=
  .next (s.flagBranch t 0xED 1 (immS8 d) .le)
/-- BEQ.W of a Lane thread (R288). -/
def execILaneBeqW (t : Fin 64) (d : BitVec 16) (s : State) : Host.Outcome State Fault Refusal :=
  .next (s.flagBranch t 0xEE 2 (immS16 d) .eq)
/-- BNE.W of a Lane thread (R288). -/
def execILaneBneW (t : Fin 64) (d : BitVec 16) (s : State) : Host.Outcome State Fault Refusal :=
  .next (s.flagBranch t 0xEF 2 (immS16 d) .ne)

/-! ### Traps, breaks and undefined codes (R283, R310, R311) -/

/-- TRAP n (R310). -/
def execITrap (t : Fin 64) (n : Byte) (s : State) : Host.Outcome State Fault Refusal :=
  .next (s.issue t { code := 0xF0, imm := 1 } fun s => s.faultAt t fcTrap (immU8 n))

/-- BREAK (R310, R464): enters HALT where debug access is open and breakpoints are enabled, else it faults. -/
def execIBreak (t : Fin 64) (s : State) : Host.Outcome State Fault Refusal :=
  .next (s.issue t { code := 0xF1 } fun s =>
    if s.debugOpen ∧ s.flag F.LC_DBGCTL_BKEN then (s.retire t 1).askHalt else s.faultAt t fcBreak)

/-- The undefined codes of R311. -/
def undefinedCode (op : Byte) : Bool :=
  let c := op.toNat
  c == 0 || (decide (0x15 ≤ c) && decide (c ≤ 0x1F)) || c == 0x3F || (decide (0x50 ≤ c) && decide (c ≤ 0x5F))
    || (decide (0x77 ≤ c) && decide (c ≤ 0x7F)) || (decide (0x98 ≤ c) && decide (c ≤ 0x9F))
    || (decide (0xA9 ≤ c) && decide (c ≤ 0xAF)) || (decide (0xB4 ≤ c) && decide (c ≤ 0xBF))
    || (decide (0xCB ≤ c) && decide (c ≤ 0xDF)) || decide (0xF2 ≤ c)

/-- UNDEFINED_OPCODE (R283, R311): thread t issues from an undefined code; nothing where the code is defined. -/
def execUndefinedOpcode (t : Fin 64) (op : Byte) (s : State) : Host.Outcome State Fault Refusal :=
  .next (if undefinedCode op then s.issue t { code := op.toNat, good := false } fun s => s else s)

end Sys2Proof.Machine
end

