-- ==== Sys2Proof/Machine/Debug.lean ====
section
/-! DEFINITION. The debug port's accesses by thread-view address (20_lifecycle, R463). -/

namespace Sys2Proof.Machine

/-- A word in a region of memory, read by DBGACC: bit 64 for poison. -/
def State.dbgMemRead (s : State) (rg off : Nat) : State :=
  match s.memRead rg off 4 with
  | (s, some v) => s.dbgAnswer false false (w32 v)
  | (s, none) => s.dbgAnswer true false 0

/-- DBGACC outside control space (R17, R463): the Market and the Arcade window; XIP, whose line is asked for while the
access is in progress; a Block's TCM belongs to no thread here and raises ACCESS (notes/assumptions/23.md). -/
def State.dbgMem (s : State) (write : Bool) (a : Nat) (w : Word) : State :=
  if ¬ s.debugOpen ∨ a % 4 ≠ 0 then s.dbgAnswer true false 0
  else match dataAt 0 a with
    | .market o =>
      if s.inPstore o then s.dbgAnswer true false 0
      else if write then (s.memWrite rgMarket o 4 w.toNat).dbgAnswer false false 0
      else s.dbgMemRead rgMarket o
    | .window o => if write then (s.memWrite rgArc o 4 w.toNat).dbgAnswer false false 0 else s.dbgMemRead rgArc o
    | .xip o =>
      if write ∨ s.xipSize ≤ o then s.dbgAnswer true false 0
      else match s.xipRead 1 o 4 with
        | (s, some v) => s.dbgAnswer false false (w32 v)
        | (s, none) => s.dbgAnswer false true 0
    | _ => s.dbgAnswer true false 0

/-- DBGACC (R462, R463): one operation (1 read, 2 write, else none) at a thread-view address, with the rights of a thread
of the supervisor Quarter; in SCRAP the code selects BYPASS. -/
def execDbgacc (op : Fin 4) (a : Word) (w : Word) (s : State) : Host.Outcome State Fault Refusal :=
  .next (if ¬ s.dbgOn then s.tapLoad 8
    else
      let s := s.tapLoad 8
      let ctl := decide (0x40000000 ≤ a.toNat ∧ a.toNat < 0x40110000)
      match op.val with
      | 1 => if ctl then s.dbgCtlRead (a.toNat - 0x40000000) else s.dbgMem false a.toNat w
      | 2 => if ctl then s.dbgCtlWrite (a.toNat - 0x40000000) w else s.dbgMem true a.toNat w
      | _ => s.dbgAnswer false false 0)

end Sys2Proof.Machine
end

