-- ==== Sys2Proof/Machine/Plaza.lean ====
section
/-! DEFINITION. The Plaza (08_plaza): routes and the bounds that it watches. -/

namespace Sys2Proof.Machine

/-- The Milestone of a packet as it reaches the Crossing engine (R188): that of a field-port frame whole, else the one that its Short
Milestone gives near LT. -/
def State.pktMs (s : State) (p : Packet) : Nat :=
  if p.typ = 1 then p.ms else (recover s.lt125 (short p.ms) * 32).toNat

/-- A packet reaches one destination (R186): an Arcade, a Crossing input or a head-link channel. -/
def State.deliver (s : State) (d : Nat) (p : Packet) : State :=
  if d < 64 then s.arcStore d p
  else if 0x80 ≤ d ∧ d < 0x100 then s.xSample (d - 0x80) (s.pktMs p) (.packet p.payload)
  else if 0x100 ≤ d ∧ d < 0x13F then s.hlQueue 0 (d - 0x100) p
  else if 0x140 ≤ d ∧ d < 0x17F then s.hlQueue 1 (d - 0x140) p
  else s

/-- The oldest presented packet of a stream, and the others. -/
def takePacket (typ idx : Nat) : List Packet → Option (Packet × List Packet)
  | [] => none
  | p :: ps =>
    if p.typ = typ ∧ p.idx = idx then some (p, ps)
    else match takePacket typ idx ps with
      | some (q, rest) => some (q, p :: rest)
      | none => none

/-- PACKET_ROUTE (R183, R184): the oldest presented packet of a stream goes whole to every destination that the routes
of its presentation give it, or is discarded and counted where its stream had no enabled entry. -/
def execPacketRoute (typ : Fin 16) (idx : Fin 256) (s : State) : Host.Outcome State Fault Refusal :=
  match takePacket typ idx s.presented with
  | none => .next s
  | some (p, rest) =>
    let s := { s with presented := rest }
    match p.dests with
    | none => .next ((s.bump F.PZ_UNROUTED_UNRN).raise F.PZ_STATUS_UNRT)
    | some l => .next (l.foldl (fun s d => s.deliver d p) s)

/-- The service classes (R178). -/
inductive PzClass where
  | a | l | b
deriving DecidableEq, Repr

/-- The class that a request carries (R178). -/
def State.pzClass (s : State) : PzReq → PzClass
  | .packet => .a
  | .thr t => if s.avenue t then .a else .l
  | .bar0 => .l
  | .dma | .archive | .fetch | .prefetch => .b

/-- R181 applies at a target: everywhere but at the Market while a Block is in deterministic mode (R182). -/
def State.pzBound (s : State) (g : PzTgt) : Bool := g != .market || (List.range 4).all fun b => !(s.blkOf b).det

/-- PLAZA_TRANSFER_COMPLETE (R178, R181, R182, R186): a transfer of a requester at a target completes the given CK_CORE cycles after
its request; of class A the longest is kept, and where R181 applies one of more than 40 cycles sets ABND, and a fourth waiting
class-A requester sets ACONT. -/
def execPlazaTransferComplete (r : PzReq) (g : PzTgt) (cycles : Nat) (fourth : Bool) (s : State) :
    Host.Outcome State Fault Refusal :=
  if s.pzClass r ≠ .a then .next s
  else
    let s := s.setFld F.PZ_AMAX_AMAX 0 (max (s.fld F.PZ_AMAX_AMAX) (min cycles 65535))
    let s := s.raiseIf (decide (cycles > 40) && s.pzBound g) F.PZ_STATUS_ABND
    .next (s.raiseIf (fourth && s.pzBound g) F.PZ_STATUS_ACONT)

end Sys2Proof.Machine
end

