-- ==== Sys2Proof/Machine/TickOp.lean ====
section
/-! DEFINITION. Stage close and the tick (03_tick, R36-R43; 02_address_space, R27; 18_map_boot, R428 steps 6 and 7). -/

namespace Sys2Proof.Machine

/-! ### Stage close (R27, R39, R428 step 6, R498) -/

/-- The entries of the Map being loaded that hold under a profile, in Map order (R425). -/
def Loader.under (l : Loader) (p : Nat) : List RegEnt := (l.sectionEnts ++ l.ents).filter fun e => bit e.pm p

/-- The profile with which T0 takes effect: WPROF where LOAD is to end in WATCH (R447), else 0. -/
def State.t0Watch (s : State) : Bool := s.wakesToWatch && !s.powered pdHost

/-- The profile of T0. -/
def State.t0Prof (s : State) : Nat := if s.t0Watch then s.fld F.PM_AON_CFG_WPROF else 0

/-- The Map's values of staged registers go into the staged copies, to be captured with them (R428 step 6). -/
def State.loadCapture (s : State) : State :=
  let st := (s.ld.under s.t0Prof).foldl (fun t e => if (keyReg e.key).desc.staged then t.set regDefault e.key e.val else t) s.staged
  { s with staged := st, ld := { s.ld with st := .captured } }

/-- The captured values of a field port that form a reserved combination do not take effect (R498). -/
def State.fpRefuse (s : State) (n : Nat) : State :=
  if ¬ fpReserved s.captured n then s
  else
    let s := (fpStaged n).foldl (fun s p => s.setCapw p.1 p.2 (s.actw p.1 p.2)) s
    (s.raise F.FP_STATUS_CFGREJ n).raise F.SYS_STATUS_RSVW

/-- Stage close (R27, R39): every staged copy is captured, with the values of a copied profile switch or of an accepted Map;
what waits for a tick takes the coming one. -/
def State.stageClose (s : State) : State :=
  let s := s.modeStageClose
  let s := if s.switchMay then s.switchCapture else s
  let s := if s.ld.st = .ready then s.loadCapture else s
  let s := s.each 4 fun s q =>
    let u := s.qOf q
    s.setQ q { u with cmd := u.cmd.map fun c => { c with due := true }, qrDue := u.qr <|> u.qrDue, qr := none }
  let s := { s with captured := s.staged, ct := { s.ct with sc := true } }
  s.each 32 State.fpRefuse

/-- STAGE_CLOSE (R39): LT has reached the coming tick's nominal instant less 160 ns; once for a tick, and nothing before. -/
def execStageClose (s : State) : Host.Outcome State Fault Refusal :=
  .next (if s.timeRuns ∧ ¬ s.ct.sc ∧ s.tickNext - 160 ≤ (s.ltNs : Int) then s.stageClose else s)

/-! ### The Map takes effect (R25, R297, R421-R428, R455) -/

/-- The kinds of instance in the order of the OWNER section, with their numbers (R421). -/
def ownerOrder : List (Kind × Nat) :=
  [(.thread, 64), (.arcade, 64), (.cell, 128), (.lamplighter, 16), (.pin, 96), (.fieldPort, 32), (.twoWire, 8), (.headLink, 2)]

/-- The ownership table that a list of owners gives (R421). -/
def ownerTable (l : List Nat) : Tab Nat :=
  (ownerOrder.foldl (fun (a : Tab Nat × List Nat) k =>
    ((List.range k.2).foldl (fun t i => t.set (fun _ => 0) (k.1.key i) (a.2.getD i 0)) a.1, a.2.drop k.2)) ([], l)).1

/-- A live word with the fields that the loader sets taken from v. -/
def Reg.merge (r : Reg) (old v : Word) : Word := r.desc.fields.foldl (fun w f => if f.loads then f.put w (f.get v) else w) old

/-- One of the Map entries of live registers takes effect (R425, R426), as a write of the register would (R35, R69). -/
def State.mapLive (ents : List RegEnt) (s : State) (e : RegEnt) : State :=
  let r := keyReg e.key
  let i := e.key % 16384
  let w := r.merge (s.reg r i) e.val
  match r with
  | .CT_CTRL => s.wrCtrl w
  | .CT_INCR_LO => s.wrIncrLo (i == 1) e.val
  | .CT_INCR_HI => s.wrIncrHi (i == 1) e.val
  | .CT_SRV_CFG => s.wrSrvCfg (i == 1) w
  | .CT_DT_W0 => s
  | .CT_DT_W1 =>
    s.wrDt (i == 1) e.val ((ents.findRev? fun x => x.key == Reg.key .CT_DT_W0 i).map (·.val))
  | .HP_DRCFG => s.drcfgWrite (i / 16) (i % 16) w
  | .PM_AON_SAFE => (s.setReg .PM_AON_SAFE i w).setFld F.PM_AON_SAFE_N 0 0
  | _ => s.setReg r i w

/-- What the accepted Map gives beyond registers (R419, R420, R425, R426). -/
def Loader.info (l : Loader) : MapInfo :=
  { profiles := l.profiles, ents := l.sectionEnts ++ l.ents, strict := l.strict, psBase := l.psBase, psSize := l.psSize,
    layout := l.layout, budget := l.budget, subsys := l.subsys }

/-- The domains of a profile of the Map being loaded. -/
def Loader.doms (l : Loader) (p : Nat) : Nat :=
  match l.profiles.find? fun x => x.idx == p with
  | some x => x.doms
  | none => 0xFFF

/-- T0 (R428 step 7): the Map takes effect, domains that its profile leaves out lose power, the mode becomes RUN, STRICT, or
WATCH after a CURFEW wake with CWTGT, and the threads start. -/
def State.mapTakes (s : State) : State :=
  let l := s.ld
  let watch := s.t0Watch
  let p := s.t0Prof
  let doms := l.doms p
  let s := { s with owner := ownerTable l.owners, map := l.info, mapv := mapValues (l.sectionEnts ++ l.ents) p,
                    ld := { st := .idle } }
  let ents := (l.under p).filter fun e => !(keyReg e.key).desc.staged
  let s := ents.foldl (State.mapLive ents) s
  let s := s.each 64 fun s a => (s.setReg .ARC_QCAP a (s.mapw .ARC_QCAP a)).arcQuota a
  let s := { s with pm := { s.pm with safe := ((List.range 96).map fun n => (n, l.safe.getD n padZ)).filter fun x => x.2 != padZ } }
  let s := (s.setReg .SYS_MAPID 0 l.mapId).setFld F.SYS_PROF_ACTIVE 0 p
  let s := s.raiseIf (s.fld F.SYS_BOOT_SRC == 1) F.SYS_PUSHSTAT_DONE
  let s := (if s.powered pdMem then s.tatWake else s).powerOff (0xFFF - (0xFFF &&& doms))
  let s := s.setMode (if watch then 6 else if l.strict then 4 else 3)
  let s := if watch then
      let s := (s.wakeArm.setFld F.PM_STATUS_LPREG 0 1).setFld F.SYS_MODE_RETM 0 (if l.strict then 4 else 3)
      { s with pm := { s.pm with isolated := true, back := 0, lost := 0xFFF - (0xFFF &&& doms) } }
    else s
  s.each 64 fun s t =>
    if s.thrUsed t ∧ s.blockOn t then
      let s := s.thrStart t
      s.setThr t { s.thrOf t with rel := true }
    else s

/-! ### The tick (R37-R42, R235, R273) -/

/-- The active DET of Block b (R273), which is 1 in STRICT and in HALT entered from it: a change invalidates the cache and the branch target buffer and discards the fetch
buffers of the Block's threads. -/
def State.detTick (s : State) (b : Nat) : State :=
  let det := s.actB F.BK_CTL_DET b || s.mode == 4 || (s.mode == 9 && s.lc.haltFrom == 4)
  let u := s.blkOf b
  if u.det = det then s
  else
    let s := s.setBlk b { u with det := det, icache := [], lineBuf := none, btb := [], fillKeep := u.fillKeep && u.fill.isNone }
    (List.range 16).foldl (fun s j =>
      let t := 16 * b + j
      s.setThr t { s.thrOf t with buf := none, feed := none }) s

/-- The regions of two Arcades share an item (R222). -/
def State.arcMeets (s : State) (a b : Nat) : Bool :=
  let r (x : Nat) := s.act F.ARC_REGION_BASE x
  let n (x : Nat) := s.act F.ARC_REGION_SIZE x
  decide (r a < r b + n b) && decide (r b < r a + n a)

/-- What a tick does to Arcade a, whose active registers were `old` (R222, R233, R235): a changed region or direction, or an
enable, empties it; one whose region overlaps that of a lower-numbered Arcade that is enabled is not enabled; cut-through is
evaluated under the new values. -/
def State.arcTick (s : State) (old : Tab Word) (a : Nat) : State :=
  let en := s.actB F.ARC_CFG_EN a
  let clash := en && (List.range a).any fun b => (s.arcOf b).act && s.arcMeets a b
  let wasOn := F.ARC_CFG_EN.of old a == 1
  let acted := (s.arcOf a).act
  let changed := regsDiffer old s.active [(.ARC_REGION, a)] || F.ARC_CFG_CONS.of old a != s.act F.ARC_CFG_CONS a
    || F.ARC_CFG_PROD.of old a != s.act F.ARC_CFG_PROD a
  let on := en && !clash
  let fresh := changed || (en && !wasOn) || (on && !acted)
  let s := if fresh then s.arcEmpty a else s
  let s := (s.setArc a { s.arcOf a with act := on }).arcSettle a
  s.raiseIf (clash && (changed || !wasOn || acted)) F.ARC_STAT_CFGERR a

/-- After a change of period or phase at a tick (R40): the index before the first nominal instant at least 10 000 ns after
the tick's. -/
def State.tickAgain (s : State) : Int :=
  let p : Int := s.tickPeriod
  ((s.ct.tickNom : Int) + 10000 - s.tickPhase + p - 1) / p - 1

/-- What is notified once in a tick starts anew (R364, R372). -/
def State.freshTick (s : State) : State :=
  s.each 4 fun s q => s.setQ q { s.qOf q with fltTick := false, faultTick := [], overTick := [] }

/-- The tick of index k (R37, R38, R40). The skipped indices are counted; captured values become active, the Map or a
profile switch takes effect, Quarters are reset, units take up their new configuration, commands that wait for the tick
act, and the threads' budgets start anew. -/
def State.tickAt (s : State) (k : Int) : State :=
  let skip := (k - s.ct.kMax - 1).toNat
  let s := (s.bump F.CT_TICK_SKIP_SKIPN 0 skip).raiseIf (decide (0 < skip)) F.CT_TICK_STATUS_SKIP
  let nom := (k * s.tickPeriod + s.tickPhase).toNat
  let was := (s.tickPeriod, s.tickPhase)
  let s := { s with ct := { s.ct with kMax := k, tickNom := nom, tickCnt := (s.ct.tickCnt + 1) % 2 ^ 64, sc := false, tickPrev := s.ct.prev40 } }
  let old := s.active
  let s := { s with active := s.captured }
  let t0 := s.ld.st == .captured
  let s := if t0 then s.mapTakes else s
  let sw := match s.map.sw with | some w => w.captured | none => false
  let gone := match s.map.sw with
    | some w => match s.profile w.prof with
      | some p => if s.pm.chg.any fun c => c.target == 6 then 0 else 0xFFF - (0xFFF &&& p.doms)
      | none => 0
    | none => 0
  let s := (s.switchEffect).modeTick sw
  let s := if sw then s.powerOff gone else s
  let s := s.stopUnits
  let s := if was = (s.tickPeriod, s.tickPhase) then s
    else ({ s with ct := { s.ct with kMax := s.tickAgain } }).raise F.CT_TICK_STATUS_PCHG
  let qs := (List.range 4).filter fun q => (s.qOf q).qrDue.isSome
  let s := (qs.foldl State.quarterReset s).modeForget qs
  let s := s.each 4 State.detTick
  let s := s.freshTick
  let s := s.each 64 fun s a => s.arcTick old a
  let s := s.each 32 fun s n => s.fpTick old n
  let s := s.each 16 fun s n => s.llTick old n
  let s := s.each 16 State.llConf
  let s := s.xcTick old
  let s := s.each 96 fun s n => s.pmTick old n
  let s := s.xSample 0x160 (256 * s.ct.tickNom) (.value (s.ct.tickCnt % 2 ^ 32 : Nat))
  let s := s.each 8 fun s n => s.twTick old n
  let s := qs.foldl State.quarterLines s
  let s := s.each 2 fun s n => s.hlTick old n
  let s := s.rgTick old k
  let s := s.each 4 fun s q => s.dmaTick old q
  let s := s.each 4 State.llCount
  let s := s.each 4 fun s q => s.tickCmd qs q
  let s := s.threadsTick t0
  let s := qs.foldl (fun s q => s.quarterHost q (((s.qOf q).qrDue).getD 0)) s
  s.haltSettle

/-- TICK (R37, R38, R39): the tick index exceeds the highest it has reached; a stage close that falls in the same cycle comes
first. Nothing where it does not. -/
def execTick (s : State) : Host.Outcome State Fault Refusal :=
  let k := ((s.ltNs : Int) - s.tickPhase) / s.tickPeriod
  .next (if ¬ s.timeRuns ∨ k ≤ s.ct.kMax then s
    else (if s.ct.sc then s else s.stageClose).tickAt k)

/-! ### Time without commands (R63, R206, R386) -/

/-- The tenths of CK_CORE cycles in one CK_TIME cycle: CK_CORE of the active profile in units of 25 MHz (R63, R420). -/
def State.coreTenths (s : State) : Nat := ((s.profile s.activeProf).map (·.core)).getD 0

/-- One CK_TIME cycle of the parking of every parked thread (R51, R52). -/
def State.parkIdle (s : State) : State :=
  s.each 64 fun s t => match s.parkedOn t with
    | none => s
    | some _ =>
      let th := s.thrOf t
      let th := { th with pkTen := th.pkTen + s.coreTenths }
      (s.parkBill t th th.parkSlots).1

/-- One CK_TIME cycle in which no command arrives: the input paths take the samples of the cycle that ends, the domain times,
LT and the slew advance, held edges of pin monitors settle, forwarded ring frames leave, the watchdogs' milliseconds count and
parked threads are charged. Nothing where CK_TIME does not run. -/
def State.idle (s : State) : State :=
  if s.timeRuns then (s.pinSample.ckTime.pmSettle.rgFlush.each 4 State.wdCycle).parkIdle else s

/-- SLEW_CONVERGED (R63, R77): the CK_TIME cycle in which D reaches 0, so that CT_STATUS.CONV reads 0 and the quality of LT is
again that of its domain; nothing where the next cycle does not bring D to 0. -/
def execSlewConverged (s : State) : Host.Outcome State Fault Refusal :=
  .next (if s.timeRuns ∧ s.ct.d ≠ 0 ∧ s.ckTime.ct.d = 0 then s.idle else s)

end Sys2Proof.Machine
end

