-- ==== Sys2Proof/Machine/Dispatch.lean ====
section
/-! DEFINITION. The dispatch: one arm per command, each one direct call of its meaning. -/

namespace Sys2Proof.Machine

/-- What a command does to everything but the queue. -/
def exec (i : Instr) (s : State) : Host.Outcome State Fault Refusal :=
  match i with
  | .tick => Sys2Proof.Machine.execTick s
  | .stageClose => Sys2Proof.Machine.execStageClose s
  | .tickRelease t => Sys2Proof.Machine.execTickRelease t s
  | .wakeRelease t => Sys2Proof.Machine.execWakeRelease t s
  | .bollardSuspend t m => Sys2Proof.Machine.execBollardSuspend t m s
  | .ctIncrLoWrite req x w => Sys2Proof.Machine.execCtIncrLoWrite req x w s
  | .ctIncrHiWrite req x w => Sys2Proof.Machine.execCtIncrHiWrite req x w s
  | .ctDtWrite req x high w => Sys2Proof.Machine.execCtDtWrite req x high w s
  | .ctSrvCfgWrite req x w => Sys2Proof.Machine.execCtSrvCfgWrite req x w s
  | .offsetMeasurement x => Sys2Proof.Machine.execOffsetMeasurement x s
  | .domainSilence x => Sys2Proof.Machine.execDomainSilence x s
  | .domainSwitch req w => Sys2Proof.Machine.execDomainSwitch req w s
  | .slewConverged => Sys2Proof.Machine.execSlewConverged s
  | .aonEdgeStamp => Sys2Proof.Machine.execAonEdgeStamp s
  | .aonCalWindow => Sys2Proof.Machine.execAonCalWindow s
  | .ltReconstruct => Sys2Proof.Machine.execLtReconstruct s
  | .fpLaunch n ix => Sys2Proof.Machine.execFpLaunch n ix s
  | .fpFrameEnd n rx => Sys2Proof.Machine.execFpFrameEnd n rx s
  | .fpGo req n => Sys2Proof.Machine.execFpGo req n s
  | .fpPendingLaunch n => Sys2Proof.Machine.execFpPendingLaunch n s
  | .fpSelectRelease n => Sys2Proof.Machine.execFpSelectRelease n s
  | .fpArm req n => Sys2Proof.Machine.execFpArm req n s
  | .fpDiscard req n => Sys2Proof.Machine.execFpDiscard req n s
  | .fpSelectStart n p => Sys2Proof.Machine.execFpSelectStart n p s
  | .fpSelectEnd n rx => Sys2Proof.Machine.execFpSelectEnd n rx s
  | .twGo req n => Sys2Proof.Machine.execTwGo req n s
  | .twTransactionStart n => Sys2Proof.Machine.execTwTransactionStart n s
  | .twTransactionEnd n nack rx => Sys2Proof.Machine.execTwTransactionEnd n nack rx s
  | .twArbitrationLoss n byte bt => Sys2Proof.Machine.execTwArbitrationLoss n byte bt s
  | .twArbitrationRetry n => Sys2Proof.Machine.execTwArbitrationRetry n s
  | .twBusFree n => Sys2Proof.Machine.execTwBusFree n s
  | .inBandRequest n d => Sys2Proof.Machine.execInBandRequest n d s
  | .twHang n => Sys2Proof.Machine.execTwHang n s
  | .rollCall n => Sys2Proof.Machine.execRollCall n s
  | .rollCallEnd n winner => Sys2Proof.Machine.execRollCallEnd n winner s
  | .twReq req n => Sys2Proof.Machine.execTwReq req n s
  | .twRequestRelease n => Sys2Proof.Machine.execTwRequestRelease n s
  | .twUnreq req n => Sys2Proof.Machine.execTwUnreq req n s
  | .sclLowTimeout n => Sys2Proof.Machine.execSclLowTimeout n s
  | .sdaLowTimeout n => Sys2Proof.Machine.execSdaLowTimeout n s
  | .twClear req n => Sys2Proof.Machine.execTwClear req n s
  | .busClearEnd n ok => Sys2Proof.Machine.execBusClearEnd n ok s
  | .powerPulseEnd n => Sys2Proof.Machine.execPowerPulseEnd n s
  | .powerWaitEnd n => Sys2Proof.Machine.execPowerWaitEnd n s
  | .twPrst req n => Sys2Proof.Machine.execTwPrst req n s
  | .twTargetWrite n data => Sys2Proof.Machine.execTwTargetWrite n data s
  | .twTargetRead n k => Sys2Proof.Machine.execTwTargetRead n k s
  | .hlSuperframe n ph sect => Sys2Proof.Machine.execHlSuperframe n ph sect s
  | .hlDownBurstRx n rx => Sys2Proof.Machine.execHlDownBurstRx n rx s
  | .hlUpBurstTx n => Sys2Proof.Machine.execHlUpBurstTx n s
  | .hlUpBurstRx n rx => Sys2Proof.Machine.execHlUpBurstRx n rx s
  | .hlLinkLoss n => Sys2Proof.Machine.execHlLinkLoss n s
  | .hlLrst req n => Sys2Proof.Machine.execHlLrst req n s
  | .hlBell req n => Sys2Proof.Machine.execHlBell req n s
  | .hlBellEnd n => Sys2Proof.Machine.execHlBellEnd n s
  | .hlPrbnow req n => Sys2Proof.Machine.execHlPrbnow req n s
  | .hlTblcmdGo req n up tab => Sys2Proof.Machine.execHlTblcmdGo req n up tab s
  | .hlTableLoadRetry n => Sys2Proof.Machine.execHlTableLoadRetry n s
  | .hlTableCommit n => Sys2Proof.Machine.execHlTableCommit n s
  | .packetRoute typ idx => Sys2Proof.Machine.execPacketRoute typ idx s
  | .plazaTransferComplete r g cycles fourth => Sys2Proof.Machine.execPlazaTransferComplete r g cycles fourth s
  | .crossingPass delay => Sys2Proof.Machine.execCrossingPass delay s
  | .crossingDeadline c => Sys2Proof.Machine.execCrossingDeadline c s
  | .xcReset req c => Sys2Proof.Machine.execXcReset req c s
  | .xcRearm req c => Sys2Proof.Machine.execXcRearm req c s
  | .pinEdge n lvl p => Sys2Proof.Machine.execPinEdge n lvl p s
  | .pinStuck n => Sys2Proof.Machine.execPinStuck n s
  | .arcadeIdleTimeout a => Sys2Proof.Machine.execArcadeIdleTimeout a s
  | .arcadeFlush req a => Sys2Proof.Machine.execArcadeFlush req a s
  | .inUnpark t m => Sys2Proof.Machine.execInUnpark t m s
  | .llCmdArm req n => Sys2Proof.Machine.execLlCmdArm req n s
  | .llCancel req n => Sys2Proof.Machine.execLlCancel req n s
  | .llCommit n => Sys2Proof.Machine.execLlCommit n s
  | .llPulseRise n => Sys2Proof.Machine.execLlPulseRise n s
  | .llPulseFall n => Sys2Proof.Machine.execLlPulseFall n s
  | .gpOutsetWrite req k w => Sys2Proof.Machine.execGpOutsetWrite req k w s
  | .gpOutclrWrite req k w => Sys2Proof.Machine.execGpOutclrWrite req k w s
  | .divisionComplete b m => Sys2Proof.Machine.execDivisionComplete b m s
  | .storeDrain b ix ms => Sys2Proof.Machine.execStoreDrain b ix ms s
  | .icacheFillComplete b ms => Sys2Proof.Machine.execIcacheFillComplete b ms s
  | .memoryLoadComplete t m => Sys2Proof.Machine.execMemoryLoadComplete t m s
  | .yieldEnd t => Sys2Proof.Machine.execYieldEnd t s
  | .entryTaken t m => Sys2Proof.Machine.execEntryTaken t m s
  | .bkBtbinv req b => Sys2Proof.Machine.execBkBtbinv req b s
  | .bkIcinv req b => Sys2Proof.Machine.execBkIcinv req b s
  | .undefinedOpcode t op => Sys2Proof.Machine.execUndefinedOpcode t op s
  | .iNop t => Sys2Proof.Machine.execINop t s
  | .iDup t => Sys2Proof.Machine.execIDup t s
  | .iDrop t => Sys2Proof.Machine.execIDrop t s
  | .iSwap t => Sys2Proof.Machine.execISwap t s
  | .iOver t => Sys2Proof.Machine.execIOver t s
  | .iNip t => Sys2Proof.Machine.execINip t s
  | .iTuck t => Sys2Proof.Machine.execITuck t s
  | .iRot t => Sys2Proof.Machine.execIRot t s
  | .iMinusRot t => Sys2Proof.Machine.execIMinusRot t s
  | .iTwoDup t => Sys2Proof.Machine.execITwoDup t s
  | .iTwoDrop t => Sys2Proof.Machine.execITwoDrop t s
  | .iTwoSwap t => Sys2Proof.Machine.execITwoSwap t s
  | .iTwoOver t => Sys2Proof.Machine.execITwoOver t s
  | .iPick t n => Sys2Proof.Machine.execIPick t n s
  | .iRoll t n => Sys2Proof.Machine.execIRoll t n s
  | .iDepth t => Sys2Proof.Machine.execIDepth t s
  | .iToR t => Sys2Proof.Machine.execIToR t s
  | .iRFrom t => Sys2Proof.Machine.execIRFrom t s
  | .iRFetch t => Sys2Proof.Machine.execIRFetch t s
  | .iRdrop t => Sys2Proof.Machine.execIRdrop t s
  | .iAdd t => Sys2Proof.Machine.execIAdd t s
  | .iSub t => Sys2Proof.Machine.execISub t s
  | .iNeg t => Sys2Proof.Machine.execINeg t s
  | .iAdc t => Sys2Proof.Machine.execIAdc t s
  | .iSbc t => Sys2Proof.Machine.execISbc t s
  | .iCmp t => Sys2Proof.Machine.execICmp t s
  | .iMul t => Sys2Proof.Machine.execIMul t s
  | .iMulh t => Sys2Proof.Machine.execIMulh t s
  | .iMulhu t => Sys2Proof.Machine.execIMulhu t s
  | .iDiv t => Sys2Proof.Machine.execIDiv t s
  | .iDivu t => Sys2Proof.Machine.execIDivu t s
  | .iAnd t => Sys2Proof.Machine.execIAnd t s
  | .iOr t => Sys2Proof.Machine.execIOr t s
  | .iXor t => Sys2Proof.Machine.execIXor t s
  | .iNot t => Sys2Proof.Machine.execINot t s
  | .iShl t => Sys2Proof.Machine.execIShl t s
  | .iShr t => Sys2Proof.Machine.execIShr t s
  | .iSar t => Sys2Proof.Machine.execISar t s
  | .iRol t => Sys2Proof.Machine.execIRol t s
  | .iRor t => Sys2Proof.Machine.execIRor t s
  | .iAddi t k => Sys2Proof.Machine.execIAddi t k s
  | .iMin t => Sys2Proof.Machine.execIMin t s
  | .iMax t => Sys2Proof.Machine.execIMax t s
  | .iMinu t => Sys2Proof.Machine.execIMinu t s
  | .iMaxu t => Sys2Proof.Machine.execIMaxu t s
  | .iAbs t => Sys2Proof.Machine.execIAbs t s
  | .iSextb t => Sys2Proof.Machine.execISextb t s
  | .iSexth t => Sys2Proof.Machine.execISexth t s
  | .iBswap t => Sys2Proof.Machine.execIBswap t s
  | .iFlgFetch t => Sys2Proof.Machine.execIFlgFetch t s
  | .iFlgStore t => Sys2Proof.Machine.execIFlgStore t s
  | .iLdb t => Sys2Proof.Machine.execILdb t s
  | .iLdbs t => Sys2Proof.Machine.execILdbs t s
  | .iLdh t => Sys2Proof.Machine.execILdh t s
  | .iLdhs t => Sys2Proof.Machine.execILdhs t s
  | .iLdw t => Sys2Proof.Machine.execILdw t s
  | .iStb t => Sys2Proof.Machine.execIStb t s
  | .iSth t => Sys2Proof.Machine.execISth t s
  | .iStw t => Sys2Proof.Machine.execIStw t s
  | .iLdwo t n => Sys2Proof.Machine.execILdwo t n s
  | .iStwo t n => Sys2Proof.Machine.execIStwo t n s
  | .iStPlus t => Sys2Proof.Machine.execIStPlus t s
  | .iStbPlus t => Sys2Proof.Machine.execIStbPlus t s
  | .iLdwPlus t => Sys2Proof.Machine.execILdwPlus t s
  | .iMovw t => Sys2Proof.Machine.execIMovw t s
  | .iMovb t => Sys2Proof.Machine.execIMovb t s
  | .iXchg t => Sys2Proof.Machine.execIXchg t s
  | .iK t n => Sys2Proof.Machine.execIK t n s
  | .iKm1 t => Sys2Proof.Machine.execIKm1 t s
  | .iLit t k => Sys2Proof.Machine.execILit t k s
  | .iLitu t k => Sys2Proof.Machine.execILitu t k s
  | .iLit16 t k => Sys2Proof.Machine.execILit16 t k s
  | .iLit32 t k => Sys2Proof.Machine.execILit32 t k s
  | .iLith t k => Sys2Proof.Machine.execILith t k s
  | .iCrcB t p => Sys2Proof.Machine.execICrcB t p s
  | .iCrcW t p => Sys2Proof.Machine.execICrcW t p s
  | .iCrcm t p => Sys2Proof.Machine.execICrcm t p s
  | .iPar t => Sys2Proof.Machine.execIPar t s
  | .iPopc t => Sys2Proof.Machine.execIPopc t s
  | .iClz t => Sys2Proof.Machine.execIClz t s
  | .iBrev t n => Sys2Proof.Machine.execIBrev t n s
  | .iIn t n => Sys2Proof.Machine.execIIn t n s
  | .iOut t n => Sys2Proof.Machine.execIOut t n s
  | .iInm t n => Sys2Proof.Machine.execIInm t n s
  | .iOutm t n => Sys2Proof.Machine.execIOutm t n s
  | .iGps t n => Sys2Proof.Machine.execIGps t n s
  | .iGpc t n => Sys2Proof.Machine.execIGpc t n s
  | .iMile t => Sys2Proof.Machine.execIMile t s
  | .iArm t => Sys2Proof.Machine.execIArm t s
  | .iWait t => Sys2Proof.Machine.execIWait t s
  | .iWaittick t => Sys2Proof.Machine.execIWaittick t s
  | .iYield t => Sys2Proof.Machine.execIYield t s
  | .iSynci t => Sys2Proof.Machine.execISynci t s
  | .iFence t => Sys2Proof.Machine.execIFence t s
  | .iEvt t => Sys2Proof.Machine.execIEvt t s
  | .iEntry t => Sys2Proof.Machine.execIEntry t s
  | .iEntoff t => Sys2Proof.Machine.execIEntoff t s
  | .iRete t => Sys2Proof.Machine.execIRete t s
  | .iRep t op => Sys2Proof.Machine.execIRep t op s
  | .iRepx t op => Sys2Proof.Machine.execIRepx t op s
  | .iRptFetch t => Sys2Proof.Machine.execIRptFetch t s
  | .iRptStore t => Sys2Proof.Machine.execIRptStore t s
  | .iBra t d => Sys2Proof.Machine.execIBra t d s
  | .iBraW t d => Sys2Proof.Machine.execIBraW t d s
  | .iBz t d => Sys2Proof.Machine.execIBz t d s
  | .iBnz t d => Sys2Proof.Machine.execIBnz t d s
  | .iBzW t d => Sys2Proof.Machine.execIBzW t d s
  | .iBnzW t d => Sys2Proof.Machine.execIBnzW t d s
  | .iCall t d => Sys2Proof.Machine.execICall t d s
  | .iCalli t => Sys2Proof.Machine.execICalli t s
  | .iJmpi t => Sys2Proof.Machine.execIJmpi t s
  | .iRet t => Sys2Proof.Machine.execIRet t s
  | .iDjnz t d => Sys2Proof.Machine.execIDjnz t d s
  | .iAvenueBeq t d => Sys2Proof.Machine.execIAvenueBeq t d s
  | .iAvenueBne t d => Sys2Proof.Machine.execIAvenueBne t d s
  | .iAvenueBlt t d => Sys2Proof.Machine.execIAvenueBlt t d s
  | .iAvenueBge t d => Sys2Proof.Machine.execIAvenueBge t d s
  | .iAvenueBltu t d => Sys2Proof.Machine.execIAvenueBltu t d s
  | .iAvenueBgeu t d => Sys2Proof.Machine.execIAvenueBgeu t d s
  | .iAvenueBgt t d => Sys2Proof.Machine.execIAvenueBgt t d s
  | .iAvenueBle t d => Sys2Proof.Machine.execIAvenueBle t d s
  | .iAvenueBeqW t d => Sys2Proof.Machine.execIAvenueBeqW t d s
  | .iAvenueBneW t d => Sys2Proof.Machine.execIAvenueBneW t d s
  | .iAvenueBltW t d => Sys2Proof.Machine.execIAvenueBltW t d s
  | .iAvenueBgeW t d => Sys2Proof.Machine.execIAvenueBgeW t d s
  | .iAvenueBltuW t d => Sys2Proof.Machine.execIAvenueBltuW t d s
  | .iAvenueBgeuW t d => Sys2Proof.Machine.execIAvenueBgeuW t d s
  | .iAvenueBgtW t d => Sys2Proof.Machine.execIAvenueBgtW t d s
  | .iAvenueBleW t d => Sys2Proof.Machine.execIAvenueBleW t d s
  | .iLaneBeq t d => Sys2Proof.Machine.execILaneBeq t d s
  | .iLaneBne t d => Sys2Proof.Machine.execILaneBne t d s
  | .iLaneBcs t d => Sys2Proof.Machine.execILaneBcs t d s
  | .iLaneBcc t d => Sys2Proof.Machine.execILaneBcc t d s
  | .iLaneBmi t d => Sys2Proof.Machine.execILaneBmi t d s
  | .iLaneBpl t d => Sys2Proof.Machine.execILaneBpl t d s
  | .iLaneBvs t d => Sys2Proof.Machine.execILaneBvs t d s
  | .iLaneBvc t d => Sys2Proof.Machine.execILaneBvc t d s
  | .iLaneBhi t d => Sys2Proof.Machine.execILaneBhi t d s
  | .iLaneBls t d => Sys2Proof.Machine.execILaneBls t d s
  | .iLaneBge t d => Sys2Proof.Machine.execILaneBge t d s
  | .iLaneBlt t d => Sys2Proof.Machine.execILaneBlt t d s
  | .iLaneBgt t d => Sys2Proof.Machine.execILaneBgt t d s
  | .iLaneBle t d => Sys2Proof.Machine.execILaneBle t d s
  | .iLaneBeqW t d => Sys2Proof.Machine.execILaneBeqW t d s
  | .iLaneBneW t d => Sys2Proof.Machine.execILaneBneW t d s
  | .iTrap t n => Sys2Proof.Machine.execITrap t n s
  | .iBreak t => Sys2Proof.Machine.execIBreak t s
  | .csmLaunch ph => Sys2Proof.Machine.execCsmLaunch ph s
  | .csmReceive ph lat turn bytes => Sys2Proof.Machine.execCsmReceive ph lat turn bytes s
  | .csmReturn ph turn bytes => Sys2Proof.Machine.execCsmReturn ph turn bytes s
  | .echoReceive ph bytes => Sys2Proof.Machine.execEchoReceive ph bytes s
  | .slotFrameSend ix => Sys2Proof.Machine.execSlotFrameSend ix s
  | .rgPost req m => Sys2Proof.Machine.execRgPost req m s
  | .ringFrameReceive ph lat syms => Sys2Proof.Machine.execRingFrameReceive ph lat syms s
  | .csmMiss => Sys2Proof.Machine.execCsmMiss s
  | .rgRxLock p groups => Sys2Proof.Machine.execRgRxLock p groups s
  | .rgRxLockLost p groups => Sys2Proof.Machine.execRgRxLockLost p groups s
  | .transmitPllLoss => Sys2Proof.Machine.execTransmitPllLoss s
  | .kerbOpen => Sys2Proof.Machine.execKerbOpen s
  | .kerbOpenComplete => Sys2Proof.Machine.execKerbOpenComplete s
  | .kerbClose => Sys2Proof.Machine.execKerbClose s
  | .kerbCloseComplete => Sys2Proof.Machine.execKerbCloseComplete s
  | .rgKclose req => Sys2Proof.Machine.execRgKclose req s
  | .rgBell req p => Sys2Proof.Machine.execRgBell req p s
  | .rgBellEnd p => Sys2Proof.Machine.execRgBellEnd p s
  | .ethernetFrameReceive p res bytes => Sys2Proof.Machine.execEthernetFrameReceive p res bytes s
  | .ptpSyncReceive p ph dom sq two origin corr => Sys2Proof.Machine.execPtpSyncReceive p ph dom sq two origin corr s
  | .ptpFollowUpReceive p dom sq origin corr => Sys2Proof.Machine.execPtpFollowUpReceive p dom sq origin corr s
  | .followUpTimeout x => Sys2Proof.Machine.execFollowUpTimeout x s
  | .ptpSyncSend x => Sys2Proof.Machine.execPtpSyncSend x s
  | .ptpAnnounceSend x => Sys2Proof.Machine.execPtpAnnounceSend x s
  | .pdelayReqSend p ph => Sys2Proof.Machine.execPdelayReqSend p ph s
  | .pdelayReqReceive p ph sq who turn => Sys2Proof.Machine.execPdelayReqReceive p ph sq who turn s
  | .pdelayRespReceive p ph sq t2 t3 => Sys2Proof.Machine.execPdelayRespReceive p ph sq t2 t3 s
  | .pdelayTimeout p => Sys2Proof.Machine.execPdelayTimeout p s
  | .bar0ReadTimeout q off at_ => Sys2Proof.Machine.execBar0ReadTimeout q off at_ s
  | .pcieConfigRequest q c => Sys2Proof.Machine.execPcieConfigRequest q c s
  | .functionLevelReset q => Sys2Proof.Machine.execFunctionLevelReset q s
  | .perstRelease p => Sys2Proof.Machine.execPerstRelease p s
  | .hostLinkL0 p => Sys2Proof.Machine.execHostLinkL0 p s
  | .hpCpiWrite req q w => Sys2Proof.Machine.execHpCpiWrite req q w s
  | .reservedCommand q => Sys2Proof.Machine.execReservedCommand q s
  | .nopCommand q => Sys2Proof.Machine.execNopCommand q s
  | .quota q => Sys2Proof.Machine.execQuota q s
  | .quarterReset q => Sys2Proof.Machine.execQuarterReset q s
  | .threadRestart q => Sys2Proof.Machine.execThreadRestart q s
  | .pinGet q => Sys2Proof.Machine.execPinGet q s
  | .pinSet q => Sys2Proof.Machine.execPinSet q s
  | .mode q => Sys2Proof.Machine.execMode q s
  | .deviceReset q => Sys2Proof.Machine.execDeviceReset q s
  | .wake q => Sys2Proof.Machine.execWake q s
  | .userCommand q => Sys2Proof.Machine.execUserCommand q s
  | .hpUdoneWrite req q w => Sys2Proof.Machine.execHpUdoneWrite req q w s
  | .userCommandTimeout q => Sys2Proof.Machine.execUserCommandTimeout q s
  | .hpDrcfgWrite req q r w => Sys2Proof.Machine.execHpDrcfgWrite req q r w s
  | .hpDrpiWrite req q r w => Sys2Proof.Machine.execHpDrpiWrite req q r w s
  | .dmaTransfer q r n => Sys2Proof.Machine.execDmaTransfer q r n s
  | .dmaTransferComplete q r => Sys2Proof.Machine.execDmaTransferComplete q r s
  | .msixPendingSend q vec => Sys2Proof.Machine.execMsixPendingSend q vec s
  | .hpWdkick req q => Sys2Proof.Machine.execHpWdkick req q s
  | .hpWdogWrite req q w => Sys2Proof.Machine.execHpWdogWrite req q w s
  | .watchdogExpiry q => Sys2Proof.Machine.execWatchdogExpiry q s
  | .xipMissFill => Sys2Proof.Machine.execXipMissFill s
  | .xipFillComplete bytes => Sys2Proof.Machine.execXipFillComplete bytes s
  | .mp0CtlHoldWrite req hold => Sys2Proof.Machine.execMp0CtlHoldWrite req hold s
  | .mp0Invpf req hold => Sys2Proof.Machine.execMp0Invpf req hold s
  | .mp0RawGo req w => Sys2Proof.Machine.execMp0RawGo req w s
  | .mp0RawComplete bytes => Sys2Proof.Machine.execMp0RawComplete bytes s
  | .scrubRead rg => Sys2Proof.Machine.execScrubRead rg s
  | .scrubWriteback => Sys2Proof.Machine.execScrubWriteback s
  | .mpPsnclrWrite req w => Sys2Proof.Machine.execMpPsnclrWrite req w s
  | .mpEccInjArm req rg m => Sys2Proof.Machine.execMpEccInjArm req rg m s
  | .mp1Read req b p => Sys2Proof.Machine.execMp1Read req b p s
  | .mp1Readraw req b p => Sys2Proof.Machine.execMp1Readraw req b p s
  | .mp1Program req b p => Sys2Proof.Machine.execMp1Program req b p s
  | .mp1Erase req b p => Sys2Proof.Machine.execMp1Erase req b p s
  | .mp1Bbtscan req b p => Sys2Proof.Machine.execMp1Bbtscan req b p s
  | .mp1StatusPoll st => Sys2Proof.Machine.execMp1StatusPoll st s
  | .mp1OpComplete pages => Sys2Proof.Machine.execMp1OpComplete pages s
  | .mp1Timeout => Sys2Proof.Machine.execMp1Timeout s
  | .patrolRead => Sys2Proof.Machine.execPatrolRead s
  | .mp1PatresRead req => Sys2Proof.Machine.execMp1PatresRead req s
  | .tatIntegrate => Sys2Proof.Machine.execTatIntegrate s
  | .resetEnd boot ns => Sys2Proof.Machine.execResetEnd boot ns s
  | .mapLoadComplete => Sys2Proof.Machine.execMapLoadComplete s
  | .pushGo req len last => Sys2Proof.Machine.execPushGo req len last s
  | .pushChunkTaken => Sys2Proof.Machine.execPushChunkTaken s
  | .pushAbort req => Sys2Proof.Machine.execPushAbort req s
  | .pushTimeout => Sys2Proof.Machine.execPushTimeout s
  | .sysProfcmd req p => Sys2Proof.Machine.execSysProfcmd req p s
  | .profileCopyComplete => Sys2Proof.Machine.execProfileCopyComplete s
  | .hostLinkWaitEnd l20 l21 => Sys2Proof.Machine.execHostLinkWaitEnd l20 l21 s
  | .modeEntryAccept => Sys2Proof.Machine.execModeEntryAccept s
  | .isolationComplete levels writing => Sys2Proof.Machine.execIsolationComplete levels writing s
  | .pmModereqWrite req w => Sys2Proof.Machine.execPmModereqWrite req w s
  | .wakeDetect sig => Sys2Proof.Machine.execWakeDetect sig s
  | .watchRestoreComplete => Sys2Proof.Machine.execWatchRestoreComplete s
  | .pmMonitorSample tj vin vcore ildo ovc ovin aonBad => Sys2Proof.Machine.execPmMonitorSample tj vin vcore ildo ovc ovin aonBad s
  | .pllLockLoss time => Sys2Proof.Machine.execPllLockLoss time s
  | .autoRestart => Sys2Proof.Machine.execAutoRestart s
  | .powerOn => Sys2Proof.Machine.execPowerOn s
  | .referenceDetect => Sys2Proof.Machine.execReferenceDetect s
  | .resetPin ns => Sys2Proof.Machine.execResetPin ns s
  | .brownOut mv ns => Sys2Proof.Machine.execBrownOut mv ns s
  | .powerOff => Sys2Proof.Machine.execPowerOff s
  | .haltreq bken => Sys2Proof.Machine.execHaltreq bken s
  | .resume bken => Sys2Proof.Machine.execResume bken s
  | .dbgacc op a w => Sys2Proof.Machine.execDbgacc op a w s
  | .idcode => Sys2Proof.Machine.execIdcode s
  | .extest => Sys2Proof.Machine.execExtest s
  | .samplePreload => Sys2Proof.Machine.execSamplePreload s
  | .bypass code => Sys2Proof.Machine.execBypass code s
  | .blankToMaker req => Sys2Proof.Machine.execBlankToMaker req s
  | .makerToOpen req => Sys2Proof.Machine.execMakerToOpen req s
  | .keyfuse req => Sys2Proof.Machine.execKeyfuse req s
  | .openToSealed req => Sys2Proof.Machine.execOpenToSealed req s
  | .sealedToReturn req => Sys2Proof.Machine.execSealedToReturn req s
  | .topen req => Sys2Proof.Machine.execTopen req s
  | .scrap req => Sys2Proof.Machine.execScrap req s
  | .scrapConfirmExpiry => Sys2Proof.Machine.execScrapConfirmExpiry s
  | .lcProgramComplete ok0 ok1 ok2 => Sys2Proof.Machine.execLcProgramComplete ok0 ok1 ok2 s
  | .registerWrite req a w be => Sys2Proof.Machine.execRegisterWrite req a w be s
  | .registerRead req a => Sys2Proof.Machine.execRegisterRead req a s
  | .messageOfAnotherController n m => Sys2Proof.Machine.execMessageOfAnotherController n m s
  | .aonCrystalFailure => Sys2Proof.Machine.execAonCrystalFailure s
  | .aonCrystalStable => Sys2Proof.Machine.execAonCrystalStable s
  | .transmitPllLock => Sys2Proof.Machine.execTransmitPllLock s
  | .hostLinkTrained p fast => Sys2Proof.Machine.execHostLinkTrained p fast s
  | .hostLinkDown p => Sys2Proof.Machine.execHostLinkDown p s
  | .hostLinkL1Entry p => Sys2Proof.Machine.execHostLinkL1Entry p s
  | .mapSectionRead rd => Sys2Proof.Machine.execMapSectionRead rd s
  | .patrolReadComplete page => Sys2Proof.Machine.execPatrolReadComplete page s
  | .lcCommandComplete => Sys2Proof.Machine.execLcCommandComplete s

end Sys2Proof.Machine
end

