-- ==== Sys2Proof/WellFormed.lean ====
section
/-! DEFINITION. Well-formed commands: what an operand must hold beyond its type to be an arrival that the spec describes. The
meanings are total: an ill-formed command has a meaning too, but stands for nothing outside. -/

namespace Sys2Proof

/-- A list of at most n. -/
def atMost {α : Type} (l : List α) (n : Nat) : Bool := decide (l.length ≤ n)

/-- A list of at least n. -/
def atLeast {α : Type} (l : List α) (n : Nat) : Bool := decide (n ≤ l.length)

/-- A register access names a word (R18, R21, R366). -/
def wordAligned (a : Machine.RegTarget) : Bool :=
  match a with
  | .ctl off => off.val % 4 == 0
  | .bar2 off => off.val % 4 == 0

/-- The bytes of a header or a section: whole words (R415, R417). -/
def sectionBytes (rd : Option (List Byte)) : Bool :=
  match rd with
  | some b => b.length % 4 == 0
  | none => true

/-- A command is well-formed. -/
def Instr.wf (i : Instr) : Bool :=
  match i with
  | .tick => true
  | .stageClose => true
  | .tickRelease _ => true
  | .wakeRelease _ => true
  | .bollardSuspend _ _ => true
  | .ctIncrLoWrite _ _ _ => true
  | .ctIncrHiWrite _ _ _ => true
  | .ctDtWrite _ _ _ _ => true
  | .ctSrvCfgWrite _ _ _ => true
  | .offsetMeasurement _ => true
  | .domainSilence _ => true
  | .domainSwitch _ _ => true
  | .slewConverged => true
  | .aonEdgeStamp => true
  | .aonCalWindow => true
  | .ltReconstruct => true
  | .fpLaunch _ _ => true
  | .fpFrameEnd _ _ => true
  | .fpGo _ _ => true
  | .fpPendingLaunch _ => true
  | .fpSelectRelease _ => true
  | .fpArm _ _ => true
  | .fpDiscard _ _ => true
  | .fpSelectStart _ _ => true
  | .fpSelectEnd _ _ => true
  | .twGo _ _ => true
  | .twTransactionStart _ => true
  | .twTransactionEnd _ _ rx => atMost rx 64
  | .twArbitrationLoss _ _ _ => true
  | .twArbitrationRetry _ => true
  | .twBusFree _ => true
  | .inBandRequest _ _ => true
  | .twHang _ => true
  | .rollCall _ => true
  | .rollCallEnd _ _ => true
  | .twReq _ _ => true
  | .twRequestRelease _ => true
  | .twUnreq _ _ => true
  | .sclLowTimeout _ => true
  | .sdaLowTimeout _ => true
  | .twClear _ _ => true
  | .busClearEnd _ _ => true
  | .powerPulseEnd _ => true
  | .powerWaitEnd _ => true
  | .twPrst _ _ => true
  | .twTargetWrite _ data => atMost data 256
  | .twTargetRead _ _ => true
  | .hlSuperframe _ _ _ => true
  | .hlDownBurstRx _ _ => true
  | .hlUpBurstTx _ => true
  | .hlUpBurstRx _ _ => true
  | .hlLinkLoss _ => true
  | .hlLrst _ _ => true
  | .hlBell _ _ => true
  | .hlBellEnd _ => true
  | .hlPrbnow _ _ => true
  | .hlTblcmdGo _ _ _ _ => true
  | .hlTableLoadRetry _ => true
  | .hlTableCommit _ => true
  | .packetRoute _ _ => true
  | .plazaTransferComplete _ _ cycles _ => decide (0 < cycles)
  | .crossingPass _ => true
  | .crossingDeadline _ => true
  | .xcReset _ _ => true
  | .xcRearm _ _ => true
  | .pinEdge _ _ _ => true
  | .pinStuck _ => true
  | .arcadeIdleTimeout _ => true
  | .arcadeFlush _ _ => true
  | .inUnpark _ _ => true
  | .llCmdArm _ _ => true
  | .llCancel _ _ => true
  | .llCommit _ => true
  | .llPulseRise _ => true
  | .llPulseFall _ => true
  | .gpOutsetWrite _ _ _ => true
  | .gpOutclrWrite _ _ _ => true
  | .divisionComplete _ _ => true
  | .storeDrain _ _ ms => atMost ms 16
  | .icacheFillComplete _ ms => atMost ms 16
  | .memoryLoadComplete _ _ => true
  | .yieldEnd _ => true
  | .entryTaken _ _ => true
  | .bkBtbinv _ _ => true
  | .bkIcinv _ _ => true
  | .undefinedOpcode _ op => Machine.undefinedCode op
  | .iNop _ => true
  | .iDup _ => true
  | .iDrop _ => true
  | .iSwap _ => true
  | .iOver _ => true
  | .iNip _ => true
  | .iTuck _ => true
  | .iRot _ => true
  | .iMinusRot _ => true
  | .iTwoDup _ => true
  | .iTwoDrop _ => true
  | .iTwoSwap _ => true
  | .iTwoOver _ => true
  | .iPick _ _ => true
  | .iRoll _ _ => true
  | .iDepth _ => true
  | .iToR _ => true
  | .iRFrom _ => true
  | .iRFetch _ => true
  | .iRdrop _ => true
  | .iAdd _ => true
  | .iSub _ => true
  | .iNeg _ => true
  | .iAdc _ => true
  | .iSbc _ => true
  | .iCmp _ => true
  | .iMul _ => true
  | .iMulh _ => true
  | .iMulhu _ => true
  | .iDiv _ => true
  | .iDivu _ => true
  | .iAnd _ => true
  | .iOr _ => true
  | .iXor _ => true
  | .iNot _ => true
  | .iShl _ => true
  | .iShr _ => true
  | .iSar _ => true
  | .iRol _ => true
  | .iRor _ => true
  | .iAddi _ _ => true
  | .iMin _ => true
  | .iMax _ => true
  | .iMinu _ => true
  | .iMaxu _ => true
  | .iAbs _ => true
  | .iSextb _ => true
  | .iSexth _ => true
  | .iBswap _ => true
  | .iFlgFetch _ => true
  | .iFlgStore _ => true
  | .iLdb _ => true
  | .iLdbs _ => true
  | .iLdh _ => true
  | .iLdhs _ => true
  | .iLdw _ => true
  | .iStb _ => true
  | .iSth _ => true
  | .iStw _ => true
  | .iLdwo _ _ => true
  | .iStwo _ _ => true
  | .iStPlus _ => true
  | .iStbPlus _ => true
  | .iLdwPlus _ => true
  | .iMovw _ => true
  | .iMovb _ => true
  | .iXchg _ => true
  | .iK _ _ => true
  | .iKm1 _ => true
  | .iLit _ _ => true
  | .iLitu _ _ => true
  | .iLit16 _ _ => true
  | .iLit32 _ _ => true
  | .iLith _ _ => true
  | .iCrcB _ _ => true
  | .iCrcW _ _ => true
  | .iCrcm _ _ => true
  | .iPar _ => true
  | .iPopc _ => true
  | .iClz _ => true
  | .iBrev _ _ => true
  | .iIn _ _ => true
  | .iOut _ _ => true
  | .iInm _ _ => true
  | .iOutm _ _ => true
  | .iGps _ _ => true
  | .iGpc _ _ => true
  | .iMile _ => true
  | .iArm _ => true
  | .iWait _ => true
  | .iWaittick _ => true
  | .iYield _ => true
  | .iSynci _ => true
  | .iFence _ => true
  | .iEvt _ => true
  | .iEntry _ => true
  | .iEntoff _ => true
  | .iRete _ => true
  | .iRep _ _ => true
  | .iRepx _ _ => true
  | .iRptFetch _ => true
  | .iRptStore _ => true
  | .iBra _ _ => true
  | .iBraW _ _ => true
  | .iBz _ _ => true
  | .iBnz _ _ => true
  | .iBzW _ _ => true
  | .iBnzW _ _ => true
  | .iCall _ _ => true
  | .iCalli _ => true
  | .iJmpi _ => true
  | .iRet _ => true
  | .iDjnz _ _ => true
  | .iAvenueBeq _ _ => true
  | .iAvenueBne _ _ => true
  | .iAvenueBlt _ _ => true
  | .iAvenueBge _ _ => true
  | .iAvenueBltu _ _ => true
  | .iAvenueBgeu _ _ => true
  | .iAvenueBgt _ _ => true
  | .iAvenueBle _ _ => true
  | .iAvenueBeqW _ _ => true
  | .iAvenueBneW _ _ => true
  | .iAvenueBltW _ _ => true
  | .iAvenueBgeW _ _ => true
  | .iAvenueBltuW _ _ => true
  | .iAvenueBgeuW _ _ => true
  | .iAvenueBgtW _ _ => true
  | .iAvenueBleW _ _ => true
  | .iLaneBeq _ _ => true
  | .iLaneBne _ _ => true
  | .iLaneBcs _ _ => true
  | .iLaneBcc _ _ => true
  | .iLaneBmi _ _ => true
  | .iLaneBpl _ _ => true
  | .iLaneBvs _ _ => true
  | .iLaneBvc _ _ => true
  | .iLaneBhi _ _ => true
  | .iLaneBls _ _ => true
  | .iLaneBge _ _ => true
  | .iLaneBlt _ _ => true
  | .iLaneBgt _ _ => true
  | .iLaneBle _ _ => true
  | .iLaneBeqW _ _ => true
  | .iLaneBneW _ _ => true
  | .iTrap _ _ => true
  | .iBreak _ => true
  | .csmLaunch _ => true
  | .csmReceive _ _ _ bytes => atLeast bytes 1
  | .csmReturn _ _ bytes => atLeast bytes 1
  | .echoReceive _ bytes => atLeast bytes 1
  | .slotFrameSend _ => true
  | .rgPost _ _ => true
  | .ringFrameReceive _ _ _ => true
  | .csmMiss => true
  | .rgRxLock _ groups => atLeast groups 1
  | .rgRxLockLost _ groups => atLeast groups 1
  | .transmitPllLoss => true
  | .kerbOpen => true
  | .kerbOpenComplete => true
  | .kerbClose => true
  | .kerbCloseComplete => true
  | .rgKclose _ => true
  | .rgBell _ _ => true
  | .rgBellEnd _ => true
  | .ethernetFrameReceive _ _ _ => true
  | .ptpSyncReceive _ _ _ _ _ _ _ => true
  | .ptpFollowUpReceive _ _ _ _ _ => true
  | .followUpTimeout _ => true
  | .ptpSyncSend _ => true
  | .ptpAnnounceSend _ => true
  | .pdelayReqSend _ _ => true
  | .pdelayReqReceive _ _ _ _ _ => true
  | .pdelayRespReceive _ _ _ _ _ => true
  | .pdelayTimeout _ => true
  | .bar0ReadTimeout _ off _ => off.val % 4 == 0
  | .pcieConfigRequest _ _ => true
  | .functionLevelReset _ => true
  | .perstRelease _ => true
  | .hostLinkL0 _ => true
  | .hpCpiWrite _ _ _ => true
  | .reservedCommand _ => true
  | .nopCommand _ => true
  | .quota _ => true
  | .quarterReset _ => true
  | .threadRestart _ => true
  | .pinGet _ => true
  | .pinSet _ => true
  | .mode _ => true
  | .deviceReset _ => true
  | .wake _ => true
  | .userCommand _ => true
  | .hpUdoneWrite _ _ _ => true
  | .userCommandTimeout _ => true
  | .hpDrcfgWrite _ _ _ _ => true
  | .hpDrpiWrite _ _ _ _ => true
  | .dmaTransfer _ _ n => decide (0 < n)
  | .dmaTransferComplete _ _ => true
  | .msixPendingSend _ _ => true
  | .hpWdkick _ _ => true
  | .hpWdogWrite _ _ _ => true
  | .watchdogExpiry _ => true
  | .xipMissFill => true
  | .xipFillComplete bytes => bytes.length == 64
  | .mp0CtlHoldWrite _ _ => true
  | .mp0Invpf _ _ => true
  | .mp0RawGo _ _ => true
  | .mp0RawComplete bytes => atMost bytes 256
  | .scrubRead _ => true
  | .scrubWriteback => true
  | .mpPsnclrWrite _ _ => true
  | .mpEccInjArm _ _ _ => true
  | .mp1Read _ _ _ => true
  | .mp1Readraw _ _ _ => true
  | .mp1Program _ _ _ => true
  | .mp1Erase _ _ _ => true
  | .mp1Bbtscan _ _ _ => true
  | .mp1StatusPoll _ => true
  | .mp1OpComplete _ => true
  | .mp1Timeout => true
  | .patrolRead => true
  | .mp1PatresRead _ => true
  | .tatIntegrate => true
  | .resetEnd _ _ => true
  | .mapLoadComplete => true
  | .pushGo _ _ _ => true
  | .pushChunkTaken => true
  | .pushAbort _ => true
  | .pushTimeout => true
  | .sysProfcmd _ _ => true
  | .profileCopyComplete => true
  | .hostLinkWaitEnd _ _ => true
  | .modeEntryAccept => true
  | .isolationComplete _ _ => true
  | .pmModereqWrite _ _ => true
  | .wakeDetect _ => true
  | .watchRestoreComplete => true
  | .pmMonitorSample _ _ _ _ _ _ _ => true
  | .pllLockLoss _ => true
  | .autoRestart => true
  | .powerOn => true
  | .referenceDetect => true
  | .resetPin _ => true
  | .brownOut _ _ => true
  | .powerOff => true
  | .haltreq _ => true
  | .resume _ => true
  | .dbgacc _ _ _ => true
  | .idcode => true
  | .extest => true
  | .samplePreload => true
  | .bypass _ => true
  | .blankToMaker _ => true
  | .makerToOpen _ => true
  | .keyfuse _ => true
  | .openToSealed _ => true
  | .sealedToReturn _ => true
  | .topen _ => true
  | .scrap _ => true
  | .scrapConfirmExpiry => true
  | .lcProgramComplete _ _ _ => true
  | .registerWrite _ a _ _ => wordAligned a
  | .registerRead _ a => wordAligned a
  | .messageOfAnotherController _ _ => true
  | .aonCrystalFailure => true
  | .aonCrystalStable => true
  | .transmitPllLock => true
  | .hostLinkTrained _ _ => true
  | .hostLinkDown _ => true
  | .hostLinkL1Entry _ => true
  | .mapSectionRead rd => sectionBytes rd
  | .patrolReadComplete _ => true
  | .lcCommandComplete => true

end Sys2Proof
end

