-- ==== Sys2Proof/Safety.lean ====
section
/-! DEFINITION. What counts as a sound state: the canonical form of memory and of the other tables, and the
well-formedness of what waits, and the words in which statements are made. -/

namespace Sys2Proof.Machine

/-- Memory is in its canonical form: addresses strictly rise, and no entry holds the 0 that an unlisted byte reads as
(R398). -/
def Memory.wf (m : Tab Byte) : Bool := Tab.wf (fun _ => 0) m

/-- Every waiting command is well-formed. -/
def State.queueWf (s : State) : Bool := s.pending.all Instr.wf

/-- Every table of the state is in its canonical form, so that equal register files, memories and arrays of units are
equal data (notes/assumptions/1.md). -/
structure State.Wf (s : State) : Prop where
  mem : Memory.wf s.mem = true
  live : Tab.wf regDefault s.live = true
  staged : Tab.wf regDefault s.staged = true
  captured : Tab.wf regDefault s.captured = true
  active : Tab.wf regDefault s.active = true
  mapv : Tab.wf regDefault s.mapv = true
  holdReg : Tab.wf (fun _ => 0) s.holdReg = true
  holdMark : Tab.wf (fun _ => false) s.holdMark = true
  snap : Tab.wf (fun _ => 0) s.snap = true
  owner : Tab.wf (fun _ => 0) s.owner = true
  ecc : Tab.wf (fun _ => {}) s.ecc = true
  blk : Tab.wf (fun _ => {}) s.blk = true
  thr : Tab.wf (fun _ => {}) s.thr = true
  fp : Tab.wf (fun _ => {}) s.fp = true
  arc : Tab.wf (fun _ => {}) s.arc = true
  ll : Tab.wf (fun _ => {}) s.ll = true
  pin : Tab.wf (fun _ => {}) s.pin = true
  xc : Tab.wf (fun _ => {}) s.xc = true
  hl : Tab.wf (fun _ => {}) s.hl = true
  tw : Tab.wf (fun _ => {}) s.tw = true
  qtr : Tab.wf (fun _ => {}) s.qtr = true
  bar2 : Tab.wf bar2Default s.bar2 = true

/-! ### What statements about instructions of a thread speak of -/

/-- Nothing stands in the way of instruction r of thread t: the thread issues it now, its bytes are there, its immediate and
its class are right, and its stacks stay in bounds (R256, R279, R283, R285, R306); the state is canonical. -/
structure State.Ready (s : State) (t : Nat) (r : Row) : Prop where
  wf : s.Wf
  issues : s.canIssue t r = true
  bytes : (s.fetch t r.len).2 = .ok
  good : r.good = true
  cls : r.lane = true → s.avenue t = false
  fits : stackFault (s.thrOf t).ds (s.thrOf t).rs r = none

/-- Thread t has fetched and issued instruction r, and has not yet done what it does. -/
def State.begun (s : State) (t : Nat) (r : Row) : State := (s.fetch t r.len).1.issued t r

/-- Instruction r of thread t has done its work on the thread's own context, given by f, and retires; a feeder then waits
for its worker (R262). -/
def State.ended (s : State) (t : Nat) (r : Row) (f : Thr → Thr) : State :=
  let v := s.setThr t ((f (s.thrOf t)).retired r.len)
  if r.pr = .feeder then v.fed t (s.thrOf t).pc (s.thrOf t).rep.isSome else v

/-- Where it is ready, command c makes thread t run instruction r, whose whole effect beyond issue is f on the thread's
context. -/
def Does (c : Instr) (t : Fin 64) (r : Row) (f : Thr → Thr) : Prop :=
  ∀ s : State, s.Ready t r → exec c s = .next ((s.begun t r).ended t r f)

/-- Instruction r replaces the cells `pre` at the top of the data stack (TOS first); the cells it leaves and its flags are a
function of the flags, which only a Lane thread's instruction changes (R255, R287). -/
def Gives (c : Instr) (t : Fin 64) (r : Row) (pre : List Word) (res : Flags → List Word × Flags) : Prop :=
  ∀ (s : State) (l : List Word), s.Ready t r → (s.thrOf t).ds = pre ++ l →
    exec c s = .next ((s.begun t r).ended t r fun th =>
      { th with ds := (res th.flags).1 ++ l, flags := if s.avenue t then th.flags else (res th.flags).2 })

/-- Instruction r replaces the cells `pre` at the top of the data stack by `post` and leaves the flags. -/
def Leaves (c : Instr) (t : Fin 64) (r : Row) (pre post : List Word) : Prop := Gives c t r pre fun f => (post, f)

/-- The region and the offset of a TCM address of Block b (R17). -/
def tcmAt (b a : Nat) : Nat × Nat := if a < 0x10000 then (rgCode b, a) else (rgData b, a - 0x10000)

/-- n bytes at a lie in one TCM of thread t's Block, in words that are clean, and no buffered store of t overlaps them. -/
def State.TcmClean (s : State) (t a n : Nat) : Prop :=
  a + n ≤ 0x30000 ∧ (a + n ≤ 0x10000 ∨ 0x10000 ≤ a) ∧ s.overlapped t a n = false ∧
    ∀ i < n, s.eccOf (tcmAt (t / 16) (a + i)).1 ((tcmAt (t / 16) (a + i)).2 / 8) = {}

/-- The n bytes at TCM address a, least significant first. -/
def State.tcmValue (s : State) (t a n : Nat) : Nat := s.peek (tcmAt (t / 16) a).1 (tcmAt (t / 16) a).2 n

/-- Thread t may put a store of n bytes at a, in one aligned part, into its store buffer (R268, R272). -/
structure State.Buffers (s : State) (t a n : Nat) : Prop where
  aligned : a % n = 0
  ctl : ctlBad (t / 16) a n = false
  allowed : s.denied t true (a, n) = false
  det : s.detOf t = false
  room : s.sbRoom t = true

/-- Z and N of a result with the given carry and overflow (R287). -/
def flagsOf (r : Word) (c v : Bool) : Flags := { z := decide (r.toNat = 0), n := decide (r.toInt < 0), c := c, v := v }

/-- An exact signed result lies outside 32 bits. -/
def overflows (x : Int) : Bool := decide (x < -2 ^ 31 ∨ 2 ^ 31 ≤ x)

/-! ### What statements about register accesses speak of -/

/-- A write of element i of a register by a requester arrives: the requester reaches it (R20-R23, R361, R463), may write it
(R22), and its domain is powered (R457). -/
def State.reaches (s : State) (req : Req) (r : Reg) (i : Nat) (w : Word) : Bool :=
  decide (i < dimCount r.desc.dims) && s.regOn r i && !s.writeDenied req r i && (match req with
    | .thr t => decide (2 ≤ s.mode) && s.blockOn t
    | .fn q => s.hostOn && decide (r.offset i < 1048576) && s.bar0Sees q (r.offset i) true
    | .dbg => s.dbgOn && s.dbgReaches true (r.offset i) w)

/-- Element i of a register takes a write of w by a requester: the write arrives, and w holds no reserved encoding (R26). -/
def State.writes (s : State) (req : Req) (r : Reg) (i : Nat) (w : Word) : Bool := s.reaches req r i w && !s.regBad r i w

/-- A write of the register does more than store it: a command, a shared register, a buffer, or one guarded by its unit. -/
def Reg.acts (r : Reg) : Bool :=
  match r with
  | .SYS_PROFCMD | .SYS_PUSHCTL | .CT_CTRL | .CT_INCR_LO | .CT_INCR_HI | .CT_SRV_CFG | .LL_CMD | .XC_CMD | .ARC_IDLEN0
  | .ARC_IDLEN1 | .ARC_OVWN0 | .ARC_OVWN1 | .ARC_CMD | .BK_CMD | .FP_CMD | .FP_TXBUF | .TW_TXBUF | .TW_TGTBUF | .RG_SLOTBUF
  | .TW_CMD | .RG_CMD | .RG_SLOTCMD | .HL_CMD | .HL_TBLCMD | .HP_CPI | .HP_WDOG | .HP_WDKICK | .HP_DRCFG | .HP_DRPI | .HP_UDONE
  | .HP_URSP | .MP0_CTL | .MP0_RAWCMD | .MP1_CFG | .MP1_GEOM | .MP1_PGBUF | .MP1_BBT | .MP1_CMD | .MP_PSNCLR | .MP_ECC_STAT
  | .PM_MODEREQ | .PM_AON_SAFE | .LC_CMD | .LC_DBGCTL | .GP_IN | .GP_OUT | .GP_OUTSET | .GP_OUTCLR | .GP_OE => true
  | _ => false

/-- What a requester is told of a performed write: the debug port's next capture shows no refusal (R463). -/
def State.answered (s : State) (req : Req) : State :=
  match req with
  | .dbg => s.dbgAnswer false false 0
  | _ => s

/-- The next mailbox command of Quarter q has been taken: the state in which it is in progress, and its words (R367). -/
def State.took (s : State) (q : Nat) : State × List Word :=
  let idx := s.fld F.HP_CCI_IDX q
  let p := s.mbEntry q idx
  let v := p.1.setFld F.HP_CCI_IDX q ((idx + 1) % 65536)
  (v.setQ q { v.qOf q with cmd := some { idx := idx, words := p.2 } }, p.2)

/-- The budget of thread t bears the parking that it has come to, of n slots in all, of which those not charged yet remain
to be charged (R51, R52). -/
def State.bears (s : State) (t n : Nat) : Prop :=
  s.budget t = 0 ∨ s.fld F.BK_USED_USED t + (n - (s.thrOf t).pkSlots) ≤ s.budget t

/-- Thread t has been charged for n slots of parking in all, and is no longer parked (R51). -/
def State.paid (s : State) (t n : Nat) : State :=
  (s.charge t (n - (s.thrOf t).pkSlots)).setThr t (s.thrOf t).unparked

/-- The slots of the parking of thread t after m more CK_CORE cycles (R51). -/
def State.slotsAfter (s : State) (t m : Nat) : Nat := ((s.thrOf t).parkedFor m).parkSlots

/-- PD_AON is powered, or the device is without supply, and nothing is about to take its power (R15, R451, R456). -/
structure State.AonOn (s : State) : Prop where
  on : s.powered pdAon = true ∨ (s.mode = 0 ∧ s.pm.vin = false)
  lost : bit s.pm.lost pdAon = false
  loads : ∀ p ∈ s.ld.profiles, bit p.doms pdAon = true
  map : ∀ p ∈ s.map.profiles, bit p.doms pdAon = true

end Sys2Proof.Machine
end

