-- ==== Sys2Proof/Certificates/Slice0/Obligations.lean ====
section
/-! DEFINITION. The statements for the provers, by the chapters of the spec. -/

open Sys2Proof Sys2Proof.Machine

/-- A step runs the command at the front of the queue on the state with the queue's rest. The queue is the model's own
(notes/assumptions/50.md) (00_scope.md). -/
def Obligations.StepRunsFront : Prop :=
  ∀ (s : State) (c : Instr) (rest : List Instr), s.pending = c :: rest → step s = exec c { s with pending := rest }

/-- With no command waiting, one CK_TIME cycle passes where CK_TIME runs, and nothing happens where it does not. That an
idle step is a cycle is the model's choice of notes/assumptions/50.md (R63, R386). -/
def Obligations.StepIdle : Prop :=
  ∀ s : State, s.pending = [] →
    (s.timeRuns = true → step s = .next (s.pinSample.ckTime.pmSettle.rgFlush.each 4 State.wdCycle).parkIdle) ∧
    (s.timeRuns = false → step s = .next s)

/-- The reset state is canonical, with PD_AON powered and no command waiting. At reset every field of every register but
LC_STATE, which shows the fuses (notes/assumptions/172.md), has the value of its Reset column (0 for a Map value,
notes/assumptions/3.md), every byte of memory reads 0, no word is poisoned, and nothing is under way (R15, R25, R398,
R454). -/
def Obligations.ResetState : Prop :=
  (State.reset.Wf ∧ State.reset.queueWf = true ∧ State.reset.AonOn ∧ State.reset.pending = []) ∧
  (let s := State.reset;
   (∀ (r : Reg) (i : Nat) (f : Field), r ≠ .LC_STATE → f ∈ r.desc.fields →
     f.get (s.reg r i) = f.reset ∧ f.get (s.stg r i) = f.reset ∧
     f.get (s.actw r i) = f.reset) ∧
   (∀ rg off, s.byte rg off = 0 ∧ s.eccOf rg off = {}) ∧
   (∀ t, s.thrOf t = {}) ∧ (∀ a, s.arcOf a = {}) ∧ (∀ n, s.fpOf n = {}) ∧ (∀ q, s.qOf q = {}) ∧ s.scrubQ = [] ∧
   s.presented = [] ∧ s.map.sw = none ∧ s.pm.chg = none ∧ s.lc.cmd = none ∧ s.mp.op = none)

/-- Every command is answered with a next state, since the spec lets the device report errors and go on
(notes/assumptions/4.md), and exec leaves the queue of waiting commands (00_scope.md, R305). -/
def Obligations.ExecAnswers : Prop :=
  ∀ (c : Instr) (s : State), ∃ t : State, exec c s = .next t ∧ t.pending = s.pending

/-- Every step keeps the canonical form of memory, of the register files and of the other tables, and a queue of well-
formed commands. The form is the model's own invariant (notes/assumptions/1.md) (R25, R255, R392, R398). -/
def Obligations.StepKeepsCanonicalForm : Prop :=
  ∀ s t : State, s.Wf → s.queueWf = true → step s = .next t → t.Wf ∧ t.queueWf = true

/-- No step takes the power of PD_AON while the device is supplied, by a profile, a mode, SAFE or isolation (R15, R451,
R456, R479, R480). -/
def Obligations.StepKeepsAonPowered : Prop :=
  ∀ s t : State, s.AonOn → step s = .next t → t.AonOn

/-- Each element of each register stands at one offset of control space or GP, a multiple of 4, and no other register
stands there (R19, R20). -/
def Obligations.RegisterMap : Prop :=
  (∀ (r : Reg) (i : Nat), i < dimCount r.desc.dims → regAt (r.offset i) = some (r, i) ∧ r.offset i % 4 = 0 ∧
    r.offset i < 0x110000) ∧
  (∀ (off i : Nat) (r : Reg), regAt off = some (r, i) → i < dimCount r.desc.dims ∧ r.offset i = off)

/-- Reserved bits read 0 and ignore writes, and a write that places a reserved encoding into a field that software
writes, of whatever access type, is discarded whole with SYS_STATUS.RSVW set, beside the INCRW of R68 where a servo owns the
increment (R26). -/
def Obligations.ReservedEncodings : Prop :=
  (∀ (r : Reg) (old w : Word) (k : Nat), k < 32 → (∀ f ∈ r.desc.fields, ¬ (f.lo ≤ k ∧ k ≤ f.hi)) →
    (r.readMask w).getLsbD k = false ∧ (r.written old w).getLsbD k = old.getLsbD k) ∧
  (∀ (s t : State) (r : Reg) (i k : Nat) (a : Fin 1114112) (q : Fin 4) (v : Word) (p : Bool), k < 32 →
    (∀ f ∈ r.desc.fields, ¬ (f.lo ≤ k ∧ k ≤ f.hi)) → regAt a = some (r, i) → a.val % 4 = 0 → r.isHigh = false →
    exec (.registerRead (.fn q) (.ctl a)) s = .next t → t.out.head? = some (.bar q a v p) → s.out = [] → v.getLsbD k = false) ∧
  (∀ (s : State) (req : Req) (r : Reg) (i : Nat) (f : Field) (a : Fin 1114112) (w : Word), regAt a = some (r, i) →
    a.val % 4 = 0 → s.reaches req r i w = true → f ∈ r.desc.fields → f.acc.writable = true → inRanges f.bad (f.get w) = true →
    exec (.registerWrite req (.ctl a) w 15) s = .next (((s.raise F.SYS_STATUS_RSVW).raiseIf
      (r == .CT_INCR_HI && s.servo (i == 1)) F.CT_SRV_STAT_INCRW i).answered req))

/-- A host read of an unused block gives 0 and is not flagged; a host write of one, and a write that does not cover its
word, is discarded and flagged; a read of a poisoned word of a buffer completes as all ones with EP (R23). -/
def Obligations.HostAccessRules : Prop :=
  ∀ (s : State) (q : Fin 4) (a : Fin 1114112) (r : Reg) (i : Nat) (w : Word) (be : Fin 16), s.Wf → s.hostOn = true →
    a.val % 4 = 0 → a.val < 1048576 →
    (s.bar0Sees q a false = true → blkAt a = none →
      exec (.registerRead (.fn q) (.ctl a)) s = .next (s.emit (.bar q a 0 false))) ∧
    (s.bar0Sees q a true = true → blkAt a = none → a.val / 65536 = 7 →
      exec (.registerWrite (.fn q) (.ctl a) w 15) s = .next (s.refuse (.fn q) true a)) ∧
    (s.bar0Sees q a true = true → be ≠ 15 →
      exec (.registerWrite (.fn q) (.ctl a) w be) s = .next (s.refuse (.fn q) true a)) ∧
    (s.refuse (.fn q) true a).flag F.HP_QSTAT_FLT q = true ∧
    (s.bar0Sees q a false = true → regAt a = some (r, i) → r.isBuf = true → s.regOn r i = true → s.readDenied q r i = false →
      (s.eccOf (bufRegion r) (portEcc r i)).psn = true →
      exec (.registerRead (.fn q) (.ctl a)) s =
        .next ((s.bump F.MP_ECC_CNT_PSNRD (bufRegion r)).emit (.bar q a 0xFFFFFFFF true)))

/-- A performed register write changes the staged copy of a staged register and the register itself of another, by the
access types of its fields; one to nothing or without power is lost, one that is refused is flagged, and so is a host's to
an unused block or, by the model's choice of notes/assumptions/184.md, to the unused range within FP; a write of BAR 2
changes one word. A register read gives what the register shows, latches the higher words of a wide register for its
reader, clears RC fields, and gives 0 from nothing, without power and where it is refused (R20, R22, R24, R27, R33, R34,
R366, R394, R395, R457). -/
def Obligations.RegisterAccessResults : Prop :=
  (∀ (s : State) (req : Req) (r : Reg) (i : Nat) (a : Fin 1114112) (o : Fin 65536) (w : Word) (q : Fin 4), s.Wf →
     let reaches := s.hostOn = true ∧ a.val % 4 = 0 ∧ a.val < 1048576 ∧ s.bar0Sees q a true = true;
     (regAt a = some (r, i) → a.val % 4 = 0 → r.held = false → r.acts = false → s.writes req r i w = true →
       (r.desc.staged = true → exec (.registerWrite req (.ctl a) w 15) s =
         .next ((s.setStg r i (r.written (s.stg r i) w)).answered req)) ∧
       (r.desc.staged = false → exec (.registerWrite req (.ctl a) w 15) s =
         .next ((s.setReg r i (r.written (s.reg r i) w)).answered req))) ∧
     (reaches → blkAt a ≠ none → regAt a = none → exec (.registerWrite (.fn q) (.ctl a) w 15) s = .next s) ∧
     (reaches → blkAt a = none → exec (.registerWrite (.fn q) (.ctl a) w 15) s = .next (s.refuse (.fn q) true a)) ∧
     (reaches → regAt a = some (r, i) →
       (s.regOn r i = false → exec (.registerWrite (.fn q) (.ctl a) w 15) s = .next s) ∧
       (s.regOn r i = true → s.writeDenied (.fn q) r i = true → exec (.registerWrite (.fn q) (.ctl a) w 15) s =
         .next (s.refuse (.fn q) true (r.offset i)))) ∧
     (s.hostOn = true → o.val % 4 = 0 → s.bar2Sees q o = true → s.flag F.MP_ECC_INJ_ARM = false →
       s.eccOf rgBar2 (bar2Ecc q o) = {} → ∃ t : State, exec (.registerWrite (.fn q) (.bar2 o) w 15) s = .next t ∧
         t.bar2Word q o = w ∧ t.live = s.live ∧ t.mem = s.mem ∧
         ∀ (p : Fin 4) (x : Fin 65536), (p, x.val / 4) ≠ (q, o.val / 4) → t.bar2Word p x = s.bar2Word p x)) ∧
  (∀ (s : State) (r x : Reg) (i : Nat) (f : Field) (a : Fin 1114112) (q : Fin 4) (o : Fin 65536), s.Wf →
     let reaches := s.hostOn = true ∧ a.val % 4 = 0 ∧ a.val < 1048576 ∧ s.bar0Sees q a false = true;
     let reads (t : State) (v : Word) : Prop := exec (.registerRead (.fn q) (.ctl a)) s = .next (t.emit (.bar q a v false));
     let w := r.readMask (s.regView r i);
     let own := if r.shared then w &&& BitVec.ofNat 32 (s.ownBits q r i) else w;
     (reaches → regAt a = none → reads s 0) ∧
     (reaches → regAt a = some (r, i) →
       (s.regOn r i = false → reads s 0) ∧
       (s.regOn r i = true → s.readDenied q r i = true → reads (s.refuse (.fn q) false (r.offset i)) 0) ∧
       (s.regOn r i = true → s.readDenied q r i = false → r.isBuf = false → r ≠ .MP1_PATRES →
         (r.isHigh = true → reads s (s.snap.get (fun _ => 0) (snapKey (.fn q) r i))) ∧
         (r.isHigh = false → ∃ t : State, reads t own ∧
           (r.wide = [] → (∀ f ∈ r.desc.fields, f.acc ≠ .rc) → t = s) ∧
           (x ∈ r.wide.tail → t.snap.get (fun _ => 0) (snapKey (.fn q) x i) = x.readMask (s.regView x i)) ∧
           (f ∈ r.desc.fields → f.acc = .rc → t.fld f i = 0) ∧
           (f ∈ r.desc.fields → f.acc ≠ .rc → t.fld f i = s.fld f i) ∧
           (∀ y j, y ≠ r → t.reg y j = s.reg y j) ∧ t.staged = s.staged ∧ t.mem = s.mem))) ∧
     (s.hostOn = true → o.val % 4 = 0 → o.val ≠ 0xF800 → s.bar2Sees q o = true → s.eccOf rgBar2 (bar2Ecc q o) = {} →
       exec (.registerRead (.fn q) (.bar2 o)) s = .next (s.emit (.bar q o (s.bar2Word q o) false))))

/-- An instruction whose effect is on the context of its thread alone (Does) leaves memory, the other threads, the
staged and active copies, the units, the hosts and every register but those of fetch and issue (R255, R276, R395). -/
def Obligations.InstructionFrame : Prop :=
  ∀ (c : Instr) (t : Fin 64) (r : Row) (f : Thr → Thr) (s : State), Does c t r f → s.Ready t r →
    ∃ (u : State) (b : Option Nat), exec c s = .next u ∧
      (u.thrOf t).ds = (f { s.thrOf t with buf := b }).ds ∧ (u.thrOf t).rs = (f { s.thrOf t with buf := b }).rs ∧
      (u.thrOf t).flags = (f { s.thrOf t with buf := b }).flags ∧
      (∀ k, k ≠ t.val → u.thrOf k = s.thrOf k) ∧
      (∀ x i, x ∉ [.BK_TPC, .BK_USED, .BK_PAIRN, .BK_TSTAT, .MP_ECC_CNT, .MP_ECC_STAT, .MP_ECC_LASTADDR] →
        u.reg x i = s.reg x i) ∧
      { u with live := s.live, ecc := s.ecc, scrubQ := s.scrubQ, blk := s.blk, thr := s.thr } = s

/-- The stack instructions leave the cells that the table of R315 gives, PICK, ROLL, DEPTH and the moves between the
stacks among them, and no flag changes (R279, R280, R315). -/
def Obligations.StackResults : Prop :=
  (∀ (t : Fin 64) (a b c d : Word),
     Leaves (.iNop t) t { code := 0x01 } [] [] ∧
     Leaves (.iDup t) t { code := 0x02, pr := .feeder, di := 1, dout := 2 } [a] [a, a] ∧
     Leaves (.iDrop t) t { code := 0x03, pr := .feeder, di := 1 } [a] [] ∧
     Leaves (.iSwap t) t { code := 0x04, pr := .feeder, di := 2, dout := 2 } [b, a] [a, b] ∧
     Leaves (.iOver t) t { code := 0x05, pr := .feeder, di := 2, dout := 3 } [b, a] [a, b, a] ∧
     Leaves (.iNip t) t { code := 0x06, pr := .feeder, di := 2, dout := 1 } [b, a] [b] ∧
     Leaves (.iTuck t) t { code := 0x07, di := 2, dout := 3 } [b, a] [b, a, b] ∧
     Leaves (.iRot t) t { code := 0x08, di := 3, dout := 3 } [c, b, a] [a, c, b] ∧
     Leaves (.iMinusRot t) t { code := 0x09, di := 3, dout := 3 } [c, b, a] [b, a, c] ∧
     Leaves (.iTwoDup t) t { code := 0x0A, di := 2, dout := 4 } [b, a] [b, a, b, a] ∧
     Leaves (.iTwoDrop t) t { code := 0x0B, di := 2 } [b, a] [] ∧
     Leaves (.iTwoSwap t) t { code := 0x0C, di := 4, dout := 4 } [d, c, b, a] [b, a, d, c] ∧
     Leaves (.iTwoOver t) t { code := 0x0D, di := 4, dout := 6 } [d, c, b, a] [b, a, d, c, b, a]) ∧
  (∀ (t : Fin 64) (n : Byte) (a : Word) (l rs : List Word),
     (∀ pre : List Word, pre.length = n.toNat → n.toNat < 15 →
       Leaves (.iPick t n) t { code := 0x0E, imm := 1, pr := if n.toNat ≤ 3 then .feeder else .alone,
                               di := n.toNat + 1, dout := n.toNat + 2 } (pre ++ [a]) (a :: pre ++ [a])) ∧
     (∀ pre : List Word, pre.length = n.toNat → n.toNat < 16 →
       Leaves (.iRoll t n) t { code := 0x0F, imm := 1, di := n.toNat + 1, dout := n.toNat + 1 } (pre ++ [a]) (a :: pre)) ∧
     Does (.iDepth t) t { code := 0x10, dout := 1 } (fun th => { th with ds := BitVec.ofNat 32 th.ds.length :: th.ds }) ∧
     (∀ s : State, s.Ready t { code := 0x11, di := 1, rout := 1 } → (s.thrOf t).ds = a :: l →
       exec (.iToR t) s = .next ((s.begun t { code := 0x11, di := 1, rout := 1 }).ended t { code := 0x11, di := 1, rout := 1 }
         fun th => { th with ds := l, rs := a :: th.rs })) ∧
     (∀ s : State, s.Ready t { code := 0x12, dout := 1, ri := 1 } → (s.thrOf t).rs = a :: rs →
       exec (.iRFrom t) s = .next ((s.begun t { code := 0x12, dout := 1, ri := 1 }).ended t { code := 0x12, dout := 1, ri := 1 }
         fun th => { th with ds := a :: th.ds, rs := rs })) ∧
     (∀ s : State, s.Ready t { code := 0x13, dout := 1, ri := 1, rout := 1 } → (s.thrOf t).rs = a :: rs →
       exec (.iRFetch t) s = .next ((s.begun t { code := 0x13, dout := 1, ri := 1, rout := 1 }).ended t
         { code := 0x13, dout := 1, ri := 1, rout := 1 } fun th => { th with ds := a :: th.ds })) ∧
     (∀ s : State, s.Ready t { code := 0x14, ri := 1 } → (s.thrOf t).rs = a :: rs →
       exec (.iRdrop t) s = .next ((s.begun t { code := 0x14, ri := 1 }).ended t { code := 0x14, ri := 1 }
         fun th => { th with rs := rs })))

/-- The literals push their immediates; the arithmetic instructions leave their results and flags; DIV and DIVU fault on
a zero divisor and else park for the divider, whose completion leaves remainder and quotient, truncated towards zero
(R266, R284, R287, R305, R316, R319). -/
def Obligations.ArithmeticResults : Prop :=
  (∀ (t : Fin 64),
     (∀ n : Fin 17, Leaves (.iK t n) t { code := 0x60 + n.val, pr := .feeder, dout := 1 } [] [BitVec.ofNat 32 n.val]) ∧
     Leaves (.iKm1 t) t { code := 0x71, pr := .feeder, dout := 1 } [] [BitVec.ofInt 32 (-1)] ∧
     (∀ k : Byte, Leaves (.iLit t k) t { code := 0x72, imm := 1, pr := .feeder, dout := 1 } [] [BitVec.ofInt 32 k.toInt]) ∧
     (∀ k : Byte, Leaves (.iLitu t k) t { code := 0x73, imm := 1, pr := .feeder, dout := 1 } [] [BitVec.ofNat 32 k.toNat]) ∧
     (∀ k : BitVec 16, Leaves (.iLit16 t k) t { code := 0x74, imm := 2, dout := 1 } [] [BitVec.ofInt 32 k.toInt]) ∧
     (∀ k : Word, Leaves (.iLit32 t k) t { code := 0x75, imm := 4, dout := 1 } [] [k]) ∧
     (∀ k : BitVec 16, Leaves (.iLith t k) t { code := 0x76, imm := 2, dout := 1 } [] [BitVec.ofNat 32 (k.toNat * 65536)])) ∧
  (∀ (t : Fin 64) (a b : Word) (k : Byte),
     let two : Row := { code := 0x20, pr := .worker, di := 2, dout := 1 }
     let one : Row := { code := 0x22, pr := .worker, di := 1, dout := 1 }
     Gives (.iAdd t) t two [b, a] (fun _ =>
       ([a + b], flagsOf (a + b) (decide (2 ^ 32 ≤ a.toNat + b.toNat)) (overflows (a.toInt + b.toInt)))) ∧
     Gives (.iSub t) t { two with code := 0x21 } [b, a] (fun _ =>
       ([a - b], flagsOf (a - b) (decide (b.toNat ≤ a.toNat)) (overflows (a.toInt - b.toInt)))) ∧
     Gives (.iNeg t) t one [a] (fun _ => ([-a], flagsOf (-a) (decide (a.toNat = 0)) (overflows (-a.toInt)))) ∧
     Gives (.iAdc t) t { two with code := 0x23, lane := true } [b, a] (fun f =>
       let r := BitVec.ofNat 32 (a.toNat + b.toNat + f.c.toNat)
       ([r], flagsOf r (decide (2 ^ 32 ≤ a.toNat + b.toNat + f.c.toNat)) (overflows (a.toInt + b.toInt + f.c.toNat)))) ∧
     Gives (.iSbc t) t { two with code := 0x24, lane := true } [b, a] (fun f =>
       let r := BitVec.ofInt 32 (a.toInt - b.toInt - (1 - f.c.toNat))
       ([r], flagsOf r (decide (b.toNat + (1 - f.c.toNat) ≤ a.toNat)) (overflows (a.toInt - b.toInt - (1 - f.c.toNat))))) ∧
     Gives (.iCmp t) t { code := 0x25, pr := .worker, di := 2 } [b, a] (fun _ =>
       ([], flagsOf (a - b) (decide (b.toNat ≤ a.toNat)) (overflows (a.toInt - b.toInt)))) ∧
     Gives (.iMul t) t { code := 0x26, di := 2, dout := 1 } [b, a] (fun f => ([a * b], flagsOf (a * b) f.c f.v)) ∧
     Gives (.iMulh t) t { code := 0x27, di := 2, dout := 1 } [b, a] (fun f =>
       let r := BitVec.ofInt 32 (a.toInt * b.toInt / 2 ^ 32)
       ([r], flagsOf r f.c f.v)) ∧
     Leaves (.iMulhu t) t { code := 0x28, di := 2, dout := 1 } [b, a] [BitVec.ofNat 32 (a.toNat * b.toNat / 2 ^ 32)] ∧
     Leaves (.iAddi t k) t { code := 0x34, imm := 1, pr := .worker, di := 1, dout := 1 } [a] [a + BitVec.ofInt 32 k.toInt] ∧
     Leaves (.iMin t) t { two with code := 0x35 } [b, a] [if a.toInt < b.toInt then a else b] ∧
     Leaves (.iMax t) t { two with code := 0x36 } [b, a] [if a.toInt < b.toInt then b else a] ∧
     Leaves (.iMinu t) t { two with code := 0x37 } [b, a] [if a.toNat < b.toNat then a else b] ∧
     Leaves (.iMaxu t) t { two with code := 0x38 } [b, a] [if a.toNat < b.toNat then b else a] ∧
     Leaves (.iAbs t) t { one with code := 0x39 } [a] [BitVec.ofNat 32 a.toInt.natAbs]) ∧
  (∀ (s : State) (t : Fin 64) (a b : Word) (l : List Word) (sgn : Bool),
     let r : Row := { code := if sgn then 0x29 else 0x2A, di := 2, dout := 2 }
     let c : Instr := if sgn then .iDiv t else .iDivu t
     let u := s.begun t r
     s.Ready t r → (s.thrOf t).ds = b :: a :: l →
       (b = 0 → exec c s = .next (u.faultAt t 0x0A)) ∧
       (b ≠ 0 → exec c s =
         .next ((u.setThr t { u.thrOf t with st := .parked, park := some (.div sgn), feed := none }).divAsk t))) ∧
  (∀ (s : State) (b : Fin 4) (t : Fin 64) (sgn : Bool) (m : Nat) (a d : Word) (l : List Word),
     s.Wf → (s.blkOf b).divOwn = some t.val → s.parkedOn t = some (.div sgn) → (s.thrOf t).ds = d :: a :: l → d ≠ 0 →
     let q := if sgn then BitVec.ofInt 32 (a.toInt.tdiv d.toInt) else BitVec.ofNat 32 (a.toNat / d.toNat)
     let r := if sgn then BitVec.ofInt 32 (a.toInt.tmod d.toInt) else BitVec.ofNat 32 (a.toNat % d.toNat)
     let k := max 9 (s.slotsAfter t m)
     let v := s.paid t k
     let fl := (s.thrOf t).flags
     let th : Thr := { v.thrOf t with
       ds := q :: r :: l
       flags := if sgn && !s.avenue t then flagsOf q fl.c (decide (a.toInt = -2 ^ 31 ∧ d.toInt = -1)) else fl }
     (s.bears t k → exec (.divisionComplete b m) s =
       .next (((v.setThr t (th.retired 1)).setBlk b { s.blkOf b with divOwn := none }).divPass b)) ∧
     (¬ s.bears t k → exec (.divisionComplete b m) s = .next (s.overrun t)))

/-- The logic, shift, byte and flag instructions leave the results and flags of R284, R287 and R316 (R284, R287, R316).
-/
def Obligations.LogicShiftResults : Prop :=
  ∀ (t : Fin 64) (a b : Word),
    let two : Row := { code := 0x2B, pr := .worker, di := 2, dout := 1 }
    let one : Row := { code := 0x2E, pr := .worker, di := 1, dout := 1 }
    let k := b.toNat % 32
    Gives (.iAnd t) t two [b, a] (fun f => ([a &&& b], flagsOf (a &&& b) f.c f.v)) ∧
    Gives (.iOr t) t { two with code := 0x2C } [b, a] (fun f => ([a ||| b], flagsOf (a ||| b) f.c f.v)) ∧
    Gives (.iXor t) t { two with code := 0x2D } [b, a] (fun f => ([a ^^^ b], flagsOf (a ^^^ b) f.c f.v)) ∧
    Gives (.iNot t) t one [a] (fun f => ([~~~a], flagsOf (~~~a) f.c f.v)) ∧
    Gives (.iShl t) t { two with code := 0x2F } [b, a] (fun f =>
      let r := BitVec.ofNat 32 (a.toNat * 2 ^ b.toNat)
      ([r], flagsOf r (if b.toNat = 0 then f.c else (a.toNat * 2 ^ b.toNat).testBit 32) f.v)) ∧
    Gives (.iShr t) t { two with code := 0x30 } [b, a] (fun f =>
      let r := BitVec.ofNat 32 (a.toNat / 2 ^ b.toNat)
      ([r], flagsOf r (if b.toNat = 0 then f.c else a.toNat.testBit (b.toNat - 1)) f.v)) ∧
    Gives (.iSar t) t { two with code := 0x31 } [b, a] (fun f =>
      let r := BitVec.ofInt 32 (a.toInt / 2 ^ b.toNat)
      ([r], flagsOf r (if b.toNat = 0 then f.c else decide (a.toInt / 2 ^ (b.toNat - 1) % 2 = 1)) f.v)) ∧
    Gives (.iRol t) t { two with code := 0x32 } [b, a] (fun f =>
      let r := BitVec.ofNat 32 (a.toNat * 2 ^ k + a.toNat * 2 ^ k / 2 ^ 32)
      ([r], flagsOf r (if k = 0 then f.c else decide (r.toNat % 2 = 1)) f.v)) ∧
    Gives (.iRor t) t { two with code := 0x33 } [b, a] (fun f =>
      let r := BitVec.ofNat 32 (a.toNat / 2 ^ k + a.toNat % 2 ^ k * 2 ^ (32 - k))
      ([r], flagsOf r (if k = 0 then f.c else decide (2 ^ 31 ≤ r.toNat)) f.v)) ∧
    Leaves (.iSextb t) t { one with code := 0x3A } [a] [BitVec.ofInt 32 (BitVec.ofNat 8 a.toNat).toInt] ∧
    Leaves (.iSexth t) t { one with code := 0x3B } [a] [BitVec.ofInt 32 (BitVec.ofNat 16 a.toNat).toInt] ∧
    Leaves (.iBswap t) t { one with code := 0x3C } [a] [BitVec.ofNat 32
      (a.toNat % 256 * 2 ^ 24 + a.toNat / 256 % 256 * 65536 + a.toNat / 65536 % 256 * 256 + a.toNat / 2 ^ 24)] ∧
    Gives (.iFlgFetch t) t { code := 0x3D, lane := true, dout := 1 } [] (fun f =>
      ([BitVec.ofNat 32 (f.z.toNat + 2 * f.n.toNat + 4 * f.c.toNat + 8 * f.v.toNat)], f)) ∧
    Gives (.iFlgStore t) t { code := 0x3E, lane := true, di := 1 } [a] (fun _ =>
      ([], { z := a.toNat.testBit 0, n := a.toNat.testBit 1, c := a.toNat.testBit 2, v := a.toNat.testBit 3 }))

/-- CRC.B and CRC.W step the polynomial register of the thread's class; PAR, POPC, CLZ and BREV leave their result with
its Z and N (R289, R290, R291, R320). -/
def Obligations.CheckAndBitResults : Prop :=
  ∀ (t : Fin 64) (a b : Word) (p : Fin 4),
    let ones := ((List.range 32).filter fun i => a.toNat.testBit i).length
    (∀ (s : State) (l : List Word), s.Ready t { code := 0x80 + p.val, pr := .worker, di := 2, dout := 1 } →
      (s.thrOf t).ds = b :: a :: l →
      exec (.iCrcB t p) s = .next ((s.begun t { code := 0x80 + p.val, pr := .worker, di := 2, dout := 1 }).ended t
        { code := 0x80 + p.val, pr := .worker, di := 2, dout := 1 }
        fun th => { th with ds := BitVec.ofNat 32 (s.crcBy t p a.toNat (b.toNat % 256)) :: l })) ∧
    (∀ (s : State) (l : List Word), s.Ready t { code := 0x84 + p.val, di := 2, dout := 1 } →
      (s.thrOf t).ds = b :: a :: l →
      exec (.iCrcW t p) s = .next ((s.begun t { code := 0x84 + p.val, di := 2, dout := 1 }).ended t
        { code := 0x84 + p.val, di := 2, dout := 1 }
        fun th => { th with ds := BitVec.ofNat 32 (s.crcBy t p (s.crcBy t p (s.crcBy t p (s.crcBy t p a.toNat
          (b.toNat % 256)) (b.toNat / 256 % 256)) (b.toNat / 65536 % 256)) (b.toNat / 2 ^ 24)) :: l })) ∧
    Gives (.iPar t) t { code := 0x8C, pr := .worker, di := 1, dout := 1 } [a] (fun f =>
      ([BitVec.ofNat 32 (ones % 2)], flagsOf (BitVec.ofNat 32 (ones % 2)) f.c f.v)) ∧
    Gives (.iPopc t) t { code := 0x8D, di := 1, dout := 1 } [a] (fun f =>
      ([BitVec.ofNat 32 ones], flagsOf (BitVec.ofNat 32 ones) f.c f.v)) ∧
    Gives (.iClz t) t { code := 0x8E, di := 1, dout := 1 } [a] (fun f =>
      let r := BitVec.ofNat 32 (if a = 0 then 32 else 31 - Nat.log2 a.toNat)
      ([r], flagsOf r f.c f.v)) ∧
    (∀ n : Byte, 1 ≤ n.toNat → n.toNat ≤ 32 →
      Gives (.iBrev t n) t { code := 0x8F, imm := 1, pr := .worker, di := 1, dout := 1 } [a] (fun f =>
        let r := BitVec.ofNat 32 (((List.range n.toNat).map fun i => if a.toNat.testBit (n.toNat - 1 - i) then 2 ^ i else 0).sum)
        ([r], flagsOf r f.c f.v)))

/-- Loads from a TCM push the bytes read, least significant first, extended as R317 says, a split access costing one
slot more. A Market load parks, MEMORY_LOAD_COMPLETE gives the word, and the wait is charged one slot for every four
cycles, rounded up (R51, R265, R268, R277, R317). -/
def Obligations.LoadResults : Prop :=
  (∀ (s : State) (t : Fin 64) (a : Word) (l : List Word) (k : Byte),
     let row (code imm dout : Nat) : Row := { code := code, imm := imm, pr := .worker, di := 1, dout := dout }
     let run (c : Instr) (r : Row) (at_ n : Nat) (res : Nat → List Word) : Prop :=
       s.Ready t r → (s.thrOf t).ds = a :: l → (s.begun t r).TcmClean t at_ n →
         exec c s = .next (((s.begun t r).charge t ((parts at_ n).length - 1)).ended t r fun th =>
           { th with ds := res ((s.begun t r).tcmValue t at_ n) })
     run (.iLdb t) (row 0x40 0 1) a.toNat 1 (fun v => BitVec.ofNat 32 v :: l) ∧
     run (.iLdbs t) (row 0x41 0 1) a.toNat 1 (fun v => BitVec.ofInt 32 (BitVec.ofNat 8 v).toInt :: l) ∧
     run (.iLdh t) (row 0x42 0 1) a.toNat 2 (fun v => BitVec.ofNat 32 v :: l) ∧
     run (.iLdhs t) (row 0x43 0 1) a.toNat 2 (fun v => BitVec.ofInt 32 (BitVec.ofNat 16 v).toInt :: l) ∧
     run (.iLdw t) (row 0x44 0 1) a.toNat 4 (fun v => BitVec.ofNat 32 v :: l) ∧
     run (.iLdwo t k) (row 0x48 1 1) ((a.toNat + 4 * k.toNat) % 2 ^ 32) 4 (fun v => BitVec.ofNat 32 v :: l) ∧
     run (.iLdwPlus t) (row 0x4C 0 2) a.toNat 4 (fun v => (a + 4) :: BitVec.ofNat 32 v :: l)) ∧
  (∀ (s : State) (t : Fin 64) (a : Word) (l : List Word) (m : Nat),
     0x10000000 ≤ a.toNat → a.toNat < 0x10200000 → a.toNat % 4 = 0 → (s.thrOf t).ds = a :: l →
     (let r : Row := { code := 0x44, pr := .worker, di := 1, dout := 1 };
       let u := (s.begun t r).noteExit t a.toNat;
       s.Ready t r → (s.begun t r).denied t false (a.toNat, 4) = false → (s.begun t r).overlapped t a.toNat 4 = false →
       exec (.iLdw t) s =
         .next (u.setThr t { u.thrOf t with st := .parked, park := some (.load (.ld 4 false)), feed := none })) ∧
     (s.Wf → s.parkedOn t = some (.load (.ld 4 false)) → s.denied t false (a.toNat, 4) = false →
       s.eccOf rgMarket ((a.toNat - 0x10000000) / 8) = {} →
       let k := s.loadSlots t (.ld 4 false) ((s.thrOf t).parkedFor m);
       (s.bears t k → exec (.memoryLoadComplete t m) s =
         .next (((s.paid t k).noteExit t a.toNat).leave t 1
           (BitVec.ofNat 32 (s.peek rgMarket (a.toNat - 0x10000000) 4) :: l))) ∧
       (¬ s.bears t k → exec (.memoryLoadComplete t m) s = .next (s.overrun t)))) ∧
  (∀ (s : State) (t : Fin 64) (mi : MemI) (th : Thr), s.detOf t = false → s.loadSlots t mi th = (th.pkTen + 39) / 40)

/-- A store of one aligned part enters the store buffer; in deterministic mode a TCM store writes at once; a split store
enters its two parts in ascending order and costs one slot more. MOVW and MOVB copy within the data TCM, XCHG exchanges
a word of a TCM, CRCM steps over a byte of the data TCM (R268, R270, R272, R277, R317, R318, R320). -/
def Obligations.StoreResults : Prop :=
  (∀ (s : State) (t : Fin 64) (a x : Word) (l : List Word) (k : Byte),
     let row (code imm dout : Nat) : Row := { code := code, imm := imm, pr := .worker, di := 2, dout := dout }
     let run (c : Instr) (r : Row) (at_ n : Nat) (res : List Word) : Prop :=
       s.Ready t r → (s.thrOf t).ds = a :: x :: l → (s.begun t r).Buffers t at_ n →
         exec c s = .next ((((s.begun t r).noteExit t at_).sbPush t
           { thr := t, addr := at_, size := n, data := x.toNat % 256 ^ n }).ended t r fun th => { th with ds := res })
     run (.iStb t) (row 0x45 0 0) a.toNat 1 l ∧
     run (.iSth t) (row 0x46 0 0) a.toNat 2 l ∧
     run (.iStw t) (row 0x47 0 0) a.toNat 4 l ∧
     run (.iStwo t k) (row 0x49 1 0) ((a.toNat + 4 * k.toNat) % 2 ^ 32) 4 l ∧
     run (.iStPlus t) (row 0x4A 0 2) a.toNat 4 ((a + 4) :: x :: l) ∧
     run (.iStbPlus t) (row 0x4B 0 2) a.toNat 1 ((a + 1) :: x :: l)) ∧
  (∀ (s : State) (t : Fin 64) (a x : Word) (l : List Word),
     let r : Row := { code := 0x47, pr := .worker, di := 2 }
     let u := s.begun t r
     s.Ready t r → (s.thrOf t).ds = a :: x :: l →
     (u.detOf t = true → a.toNat % 4 = 0 → a.toNat < 0x30000 →
       exec (.iStw t) s = .next ((u.perform t a.toNat 4 x.toNat).ended t r fun th => { th with ds := l })) ∧
     (a.toNat % 4 ≠ 0 → a.toNat < 0x2FFFC → u.detOf t = false → (u.thrOf t).first = false →
       let k := 4 - a.toNat % 4
       let w := u.sbPush t { thr := t, addr := a.toNat, size := k, data := x.toNat % 256 ^ k }
       u.sbRoom t = true → w.sbRoom t = true →
       exec (.iStw t) s = .next ((((w.setThr t { u.thrOf t with first := true }).sbPush t
         { thr := t, addr := a.toNat + k, size := 4 - k, data := x.toNat / 256 ^ k }).charge t 1).ended t r
           fun th => { th with ds := l }))) ∧
  (∀ (s : State) (t : Fin 64) (a b : Word) (l : List Word) (p : Fin 4),
     (∀ (c : Instr) (code n : Nat), (c, code, n) ∈ [((.iMovw t : Instr), 0x4D, 4), (.iMovb t, 0x4E, 1)] →
       let r : Row := { code := code, di := 2, dout := 2 }
       let u := s.begun t r
       s.Ready t r → (s.thrOf t).ds = b :: a :: l → inDataTcm a = true → a.toNat % n = 0 → inDataTcm b = true →
       u.TcmClean t a.toNat n → u.Buffers t b.toNat n →
       exec c s = .next ((u.sbPush t { thr := t, addr := b.toNat, size := n, data := u.tcmValue t a.toNat n }).ended t r
         fun th => { th with ds := (b + BitVec.ofNat 32 n) :: (a + BitVec.ofNat 32 n) :: l })) ∧
     (let r : Row := { code := 0x4F, di := 2, dout := 1 }
       let u := s.begun t r
       s.Ready t r → (s.thrOf t).ds = b :: a :: l → b.toNat % 4 = 0 → u.TcmClean t b.toNat 4 →
       exec (.iXchg t) s = .next (((u.perform t b.toNat 4 a.toNat).charge t 1).ended t r
         fun th => { th with ds := BitVec.ofNat 32 (u.tcmValue t b.toNat 4) :: l })) ∧
     (let r : Row := { code := 0x88 + p.val, di := 2, dout := 2 }
       let u := s.begun t r
       s.Ready t r → (s.thrOf t).ds = b :: a :: l → inDataTcm b = true → u.TcmClean t b.toNat 1 →
       exec (.iCrcm t p) s = .next (u.ended t r
         fun th => { th with ds := (b + 1) :: BitVec.ofNat 32 (u.crcBy t p a.toNat (u.tcmValue t b.toNat 1)) :: l })))

/-- STORE_DRAIN takes the oldest entry of its thread out of the buffer and performs it; a store performed at a TCM
writes its bytes, least significant first, and no other byte of memory; BTBINV and ICINV empty the branch target buffer
and the cache, and a completed fill leaves its line and lets the threads that waited for it go on (R17, R258, R268,
R276, R322, R394). -/
def Obligations.BlockMemoryResults : Prop :=
  (∀ (s : State) (b i : Fin 4) (ms : List Nat) (e : SbEnt),
     (s.blkOf b).sb[i.val]? = some e →
     (((s.blkOf b).sb.take i).all (fun x => x.thr != e.thr) = true →
       let u := s.setBlk b { s.blkOf b with sb := (s.blkOf b).sb.eraseIdx i }
       let v := match e.arc with
         | some a => u.arcOut a e.thr (BitVec.ofNat 32 e.data)
         | none => u.perform e.thr e.addr e.size e.data
       exec (.storeDrain b i ms) s = .next ((List.range 16).foldl (fun s j => s.lookAgain (16 * b.val + j) (ms.getD j 0)) v)) ∧
     (((s.blkOf b).sb.take i).all (fun x => x.thr != e.thr) = false → exec (.storeDrain b i ms) s = .next s)) ∧
  (∀ (s : State) (t : Fin 64) (a n v : Nat), s.Wf → n ≤ 8 → a % 8 + n ≤ 8 → a < 0x30000 →
     let p := tcmAt (t / 16) a;
     s.eccOf p.1 (p.2 / 8) = {} →
     (∀ i, i < n → (s.perform t a n v).byte p.1 (p.2 + i) = BitVec.ofNat 8 (v / 256 ^ i)) ∧
     (∀ rg o, memKey rg o < memKey p.1 p.2 ∨ memKey p.1 (p.2 + n) ≤ memKey rg o →
       (s.perform t a n v).byte rg o = s.byte rg o)) ∧
  (∀ (s : State) (req : Req) (b : Fin 4) (line : Nat) (ms : List Nat), s.Wf →
     let u := s.blkOf b;
     (s.writes req .BK_CMD b 2 = true → exec (.bkBtbinv req b) s = .next ((s.setBlk b { u with btb := [] }).answered req)) ∧
     (s.writes req .BK_CMD b 1 = true → exec (.bkIcinv req b) s = .next ((s.setBlk b { u with
       icache := [], lineBuf := none, fillKeep := u.fillKeep && u.fill.isNone }).answered req)) ∧
     (u.fill = some line → 0x10000000 ≤ 32 * line → 32 * line < 0x10200000 →
       (∀ j < 4, s.eccOf rgMarket ((32 * line - 0x10000000) / 8 + j) = {}) →
       (∀ j < 16, ∀ l, (s.thrOf (16 * b.val + j)).park = some (.fetch l) →
         s.parkedOn (16 * b.val + j) = some (.fetch line) ∧
         s.bears (16 * b.val + j) (s.slotsAfter (16 * b.val + j) (ms.getD j 0))) →
       ∃ t, exec (.icacheFillComplete b ms) s = .next t ∧ (t.blkOf b).fill = none ∧
         (t.blkOf b).lineBuf = (if u.fillKeep then some line else u.lineBuf) ∧
         (∀ j < 16, s.parkedOn (16 * b.val + j) = some (.fetch line) →
           (t.thrOf (16 * b.val + j)).st = .active ∧ (t.thrOf (16 * b.val + j)).park = none ∧
           (t.thrOf (16 * b.val + j)).ds = (s.thrOf (16 * b.val + j)).ds) ∧ t.mem = s.mem))

/-- IN takes the next item of its Arcade into the thread, which parks until the data has come; OUT, INM and OUTM; the
item that IN waited for is pushed when its transfer completes, and a thread parked on an empty Arcade asks again once an
item is readable (R221, R224, R265, R268, R321, R322). -/
def Obligations.ArcadeAccessResults : Prop :=
  (∀ (s w : State) (t : Fin 64) (n : Byte) (a v : Word) (l : List Word), n.toNat < 64 →
     (∀ (c : Instr) (r : Row) (mi : MemI),
       (c, r, mi) ∈ [((.iIn t n : Instr), ({ code := 0x90, imm := 1, dout := 1 } : Row), MemI.arcIn n),
                     (.iInm t n, { code := 0x92, imm := 1, di := 1, dout := 1 }, .arcInm n)] →
       let u := s.begun t r;
       s.Ready t r → (mi = .arcInm n → (s.thrOf t).ds = a :: l ∧ inDataTcm a = true ∧ a.toNat % 4 = 0) →
       u.mayIn t n.toNat = true → (u.thrOf t).heldFor n.toNat = none → u.arcGet n.toNat = (w, .item v) →
       let x := w.setThr t ((w.thrOf t).holding n.toNat v);
       exec c s = .next (x.setThr t { x.thrOf t with st := .parked, park := some (.load mi), feed := none })) ∧
     (let r : Row := { code := 0x91, imm := 1, di := 1 };
       let u := s.begun t r;
       s.Ready t r → (s.thrOf t).ds = v :: l → u.mayOut t n.toNat = true → u.sbRoom t = true →
       exec (.iOut t n) s = .next ((u.sbPush t { thr := t, addr := 0, size := 0, data := v.toNat, arc := some n.toNat }).ended t r
         fun th => { th with ds := l })) ∧
     (let r : Row := { code := 0x93, imm := 1, di := 1, dout := 1 };
       let u := s.begun t r;
       s.Ready t r → (s.thrOf t).ds = a :: l → inDataTcm a = true → a.toNat % 4 = 0 → u.mayOut t n.toNat = true →
       u.TcmClean t a.toNat 4 → u.sbRoom t = true →
       let e : SbEnt := { thr := t, addr := 0, size := 0, data := u.tcmValue t a.toNat 4, arc := some n.toNat };
       exec (.iOutm t n) s = .next ((u.sbPush t e).ended t r fun th => { th with ds := (a + 4) :: l }))) ∧
  (∀ (s w : State) (t : Fin 64) (n : Byte) (m : Nat) (v : Word), s.Wf →
     (s.parkedOn t = some (.load (.arcIn n)) → (s.thrOf t).heldFor n.toNat = some v →
       let k := s.loadSlots t (.arcIn n) ((s.thrOf t).parkedFor m);
       let u := s.paid t k;
       (s.bears t k → exec (.memoryLoadComplete t m) s =
         .next ((u.setThr t ((u.thrOf t).delivered n.toNat)).leave t 2 (v :: (s.thrOf t).ds))) ∧
       (¬ s.bears t k → exec (.memoryLoadComplete t m) s = .next (s.overrun t))) ∧
     (s.parkedOn t = some (.arc (.arcIn n)) → 0 < (s.arcOf n.toNat).readable →
       (s.bears t (s.slotsAfter t m) → s.mayIn t n.toNat = true → (s.thrOf t).heldFor n.toNat = none →
         (s.parkPass t m).1.arcGet n.toNat = (w, .item v) →
         let x := w.setThr t ((w.thrOf t).holding n.toNat v);
         exec (.inUnpark t m) s = .next (x.setThr t { x.thrOf t with park := some (.load (.arcIn n)) })) ∧
       (¬ s.bears t (s.slotsAfter t m) → exec (.inUnpark t m) s = .next (s.overrun t))) ∧
     (s.parkedOn t = some (.arc (.arcIn n)) → (s.arcOf n.toNat).readable = 0 → s.mayIn t n.toNat = true →
       exec (.inUnpark t m) s = .next s))

/-- GPS and GPC drive an owned pin, MILE pushes the present Short Milestone, ARM arms a Lamplighter and pushes its
answer (R300, R321, R323, R324). -/
def Obligations.PinMileArmResults : Prop :=
  ∀ (s w : State) (t : Fin 64) (n : Byte) (x sm : Word) (l : List Word) (st : Nat),
    (∀ (c : Instr) (code : Nat) (v : Bool), (c, code, v) ∈ [((.iGps t n : Instr), 0x94, true), (.iGpc t n, 0x95, false)] →
      let r : Row := { code := code, imm := 1 }
      let u := s.begun t r;
      s.Ready t r → n.toNat < 96 → u.ownerOf .pin n.toNat = u.ownerOf .thread t →
      exec c s = .next ((u.setGpOut n.toNat v).ended t r id)) ∧
    (let r : Row := { code := 0x96, dout := 1 };
      s.Ready t r → exec (.iMile t) s = .next ((s.begun t r).ended t r
        fun th => { th with ds := BitVec.ofNat 32 (s.lt40 / 2 ^ 37) :: th.ds })) ∧
    (let r : Row := { code := 0x97, di := 2, dout := 1 };
      let u := s.begun t r;
      s.Ready t r → (s.thrOf t).ds = x :: sm :: l → x.toNat < 16 → u.ownerOf .lamplighter x.toNat = u.ownerOf .thread t →
      u.llArm x.toNat (recover u.lt125 sm) (.thr t) = (w, st) →
      exec (.iArm t) s = .next (w.ended t r fun th => { th with ds := BitVec.ofNat 32 st :: l }))

/-- WAIT, WAITTICK and YIELD: what a thread waits for, and YIELD_END. FENCE retires once none of the thread's stores is
buffered and parks before; SYNCI then drops the lines of its range from the cache, the line buffer and the thread's
fetch buffer (R29, R46, R47, R51, R269, R271, R297, R298, R325). -/
def Obligations.WaitingResults : Prop :=
  (∀ (s : State) (t : Fin 64),
     (let r : Row := { code := 0xA0 };
       let u := (s.begun t r).ended t r id;
       s.Ready t r →
       ((s.thrOf t).pend = false →
         exec (.iWait t) s = .next (u.setThr t { u.thrOf t with st := .waiting, waitTick := false })) ∧
       ((s.thrOf t).pend = true →
         exec (.iWait t) s = .next ((u.setThr t { u.thrOf t with pend := false }).beginActivation t))) ∧
     (let r : Row := { code := 0xA1 };
       let u := (s.begun t r).ended t r id;
       s.Ready t r → exec (.iWaittick t) s = .next (u.setThr t { u.thrOf t with st := .waiting, waitTick := true })) ∧
     (let r : Row := { code := 0xA2, lane := true };
       let u := s.begun t r;
       s.Ready t r → exec (.iYield t) s = .next (u.setThr t { u.thrOf t with st := .parked, park := some .yield, feed := none })) ∧
     (s.Wf → s.parkedOn t = some .yield →
       (s.bears t 4 → exec (.yieldEnd t) s = .next ((s.paid t 4).retire t 1)) ∧
       (¬ s.bears t 4 → exec (.yieldEnd t) s = .next (s.overrun t)))) ∧
  (∀ (s : State) (t : Fin 64) (a n : Word) (l : List Word),
     (let r : Row := { code := 0xA4 };
       let u := s.begun t r;
       s.Ready t r →
       (u.ownStores t = [] → exec (.iFence t) s = .next (u.ended t r id)) ∧
       (u.ownStores t ≠ [] →
         exec (.iFence t) s = .next (u.setThr t { u.thrOf t with st := .parked, park := some .fence, feed := none }))) ∧
     (let r : Row := { code := 0xA3, di := 2 };
       let u := s.begun t r;
       s.Ready t r → (s.thrOf t).ds = n :: a :: l →
       (u.ownStores t = [] →
         exec (.iSynci t) s = .next ((u.syncInval t a.toNat n.toNat).ended t r fun th => { th with ds := l })) ∧
       (u.ownStores t ≠ [] →
         exec (.iSynci t) s = .next (u.setThr t { u.thrOf t with st := .parked, park := some .synci, feed := none }))) ∧
     (s.Wf → ∀ line, (32 * line < a.toNat + n.toNat ∧ a.toNat < 32 * (line + 1)) →
       ((s.syncInval t a.toNat n.toNat).blkOf (t / 16)).lineBuf ≠ some line ∧
       ((s.syncInval t a.toNat n.toNat).thrOf t).buf = none))

/-- EVT sends its event or raises ACCESS; ENTRY and ENTOFF set and clear the entry vector's enable; RETE returns;
ENTRY_TAKEN saves the PC, the repeat state and the flags and goes to the vector (R299, R301, R302, R303, R304). -/
def Obligations.EventEntryResults : Prop :=
  ∀ (s : State) (t : Fin 64) (a : Word) (l : List Word) (v : SaveReg) (m : Nat),
    (let r : Row := { code := 0xA5, di := 1 };
      let u := s.begun t r;
      s.Ready t r → (s.thrOf t).ds = a :: l →
      ((evtBad a.toNat || u.evtDenied (u.ownerOf .thread t) a.toNat) = false →
        exec (.iEvt t) s = .next ((u.ended t r fun th => { th with ds := l }).evtSend a.toNat)) ∧
      ((evtBad a.toNat || u.evtDenied (u.ownerOf .thread t) a.toNat) = true →
        exec (.iEvt t) s = .next (u.faultAt t 0x08 a))) ∧
    (let r : Row := { code := 0xA6, lane := true, di := 1 };
      s.Ready t r → (s.thrOf t).ds = a :: l →
        exec (.iEntry t) s = .next ((s.begun t r).setThr t
          (({ (s.begun t r).thrOf t with ds := l, vec := a, entEn := true } : Thr).retired 1))) ∧
    (let r : Row := { code := 0xA7, lane := true };
      s.Ready t r → exec (.iEntoff t) s = .next ((s.begun t r).setThr t
        (({ (s.begun t r).thrOf t with entEn := false } : Thr).retired 1))) ∧
    (let r : Row := { code := 0xA8, lane := true };
      let u := s.begun t r;
      s.Ready t r →
      ((s.thrOf t).save = none → exec (.iRete t) s = .next (u.faultAt t 0x01)) ∧
      ((s.thrOf t).save = some v → v.rep = none →
        exec (.iRete t) s = .next ((u.charge t 2).setThr t { u.thrOf t with
          pc := v.pc, rep := none, flags := v.flags, entEn := true, save := none, feed := none, buf := none })) ∧
      (∀ p, (s.thrOf t).save = some v → v.rep = some p → (s.thrOf t).rpt ≠ 0 →
        exec (.iRete t) s = .next ((u.charge t 2).setThr t { u.thrOf t with
          pc := v.pc, rep := some p, flags := v.flags, entEn := true, save := none, feed := none, buf := none })) ∧
      (∀ p, (s.thrOf t).save = some v → v.rep = some p → (s.thrOf t).rpt = 0 →
        exec (.iRete t) s = .next ((u.charge t 2).setThr t { u.thrOf t with
          pc := v.pc + BitVec.ofNat 32 p.len, rep := none, flags := v.flags, entEn := true, save := none, feed := none,
          buf := none }))) ∧
    (s.entryOpen t = true → (s.thrOf t).st = .active →
      exec (.entryTaken t m) s = .next ((s.charge t 2).setThr t { s.thrOf t with
        save := some { pc := (s.thrOf t).pc, rep := (s.thrOf t).rep, flags := (s.thrOf t).flags }
        pc := (s.thrOf t).vec, rep := none, entEn := false, entPend := false, feed := none, buf := none, first := false })) ∧
    (s.entryOpen t = false → exec (.entryTaken t m) s = .next s)

/-- REP and REPX begin a repeat, or for a count of 0 skip the instruction; RPT@ pushes the repeat counter and RPT! sets
it (R292, R293, R296). -/
def Obligations.RepeatResults : Prop :=
  ∀ (s : State) (t : Fin 64) (op : Byte) (n : Word) (l : List Word) (k : Nat) (x : Bool),
    (let r : Row := { code := if x then 0xB1 else 0xB0, imm := 1, di := 1 };
      let c : Instr := if x then .iRepx t op else .iRep t op
      let u := s.begun t r
      let th := u.thrOf t;
      s.Ready t r → (s.thrOf t).ds = n :: l → repLen op = some k → (x = true → n.toNat ≤ 255) →
      (n ≠ 0 → exec c s = .next (u.setThr t { th with
        ds := l, pc := th.pc + 1, rpt := n, rep := some { op := op, x := x, len := k }, feed := none
        buf := if th.pc.toNat / 8 = (th.pc + 1).toNat / 8 then th.buf else none })) ∧
      (n = 0 → exec c s = .next (u.setThr t { th with
        ds := l, pc := th.pc + BitVec.ofNat 32 (1 + k), rpt := 0, rep := none, feed := none
        buf := if th.pc.toNat / 8 = (th.pc + BitVec.ofNat 32 (1 + k)).toNat / 8 then th.buf else none }))) ∧
    (let r : Row := { code := 0xB2, dout := 1 };
      s.Ready t r → exec (.iRptFetch t) s = .next ((s.begun t r).ended t r fun th => { th with ds := th.rpt :: th.ds })) ∧
    (let r : Row := { code := 0xB3, di := 1 };
      s.Ready t r → (s.thrOf t).ds = n :: l → exec (.iRptStore t) s = .next ((s.begun t r).setThr t
        (({ (s.begun t r).thrOf t with ds := l, rpt := n } : Thr).retired 1)))

/-- Branches, calls and returns go where R280, R282 and R329 say, and a branch not taken passes on. A taken branch kills
one slot where the branch target buffer held its target and two where not, enters the buffer, and the thread goes on at
the target; deterministic mode kills two and leaves the buffer (R259, R260, R272, R280, R282, R329). -/
def Obligations.BranchResults : Prop :=
  (∀ (s : State) (t : Fin 64) (d : Byte) (w : BitVec 16) (x : Word) (l : List Word),
     let go (u : State) (taken : Bool) (n : Nat) (e : Int) : State :=
       if taken then u.jump t ((u.thrOf t).pc + BitVec.ofNat 32 n + BitVec.ofInt 32 e) else u.pass t n
     (∀ (c : Instr) (r : Row) (n : Nat) (e : Int),
       (c, r, n, e) ∈ [((.iBra t d : Instr), ({ code := 0xC0, imm := 1 } : Row), 2, d.toInt), (.iBraW t w, { code := 0xC1, imm := 2 }, 3, w.toInt)] →
       s.Ready t r → exec c s = .next (go ((s.begun t r).setThr t ((s.begun t r).thrOf t)) true n e)) ∧
     (∀ (c : Instr) (code n : Nat) (e : Int) (taken : Bool),
       (c, code, n, e, taken) ∈ [((.iBz t d : Instr), 0xC2, 2, d.toInt, decide (x = 0)), (.iBnz t d, 0xC3, 2, d.toInt, decide (x ≠ 0)),
         (.iBzW t w, 0xC4, 3, w.toInt, decide (x = 0)), (.iBnzW t w, 0xC5, 3, w.toInt, decide (x ≠ 0))] →
       let r : Row := { code := code, imm := n - 1, pr := .worker, di := 1 };
       s.Ready t r → (s.thrOf t).ds = x :: l →
       exec c s = .next (go ((s.begun t r).setThr t { (s.begun t r).thrOf t with ds := l }) taken n e)) ∧
     (let r : Row := { code := 0xCA, imm := 1, di := 1, dout := 1 };
       s.Ready t r → (s.thrOf t).ds = x :: l →
       exec (.iDjnz t d) s = .next (go ((s.begun t r).setThr t { (s.begun t r).thrOf t with ds := (x - 1) :: l })
         (decide (x ≠ 1)) 2 d.toInt)) ∧
     (let r : Row := { code := 0xC6, imm := 2, rout := 1 };
       let th := (s.begun t r).thrOf t;
       s.Ready t r → exec (.iCall t w) s =
         .next (go ((s.begun t r).setThr t { th with rs := (th.pc + 3) :: th.rs }) true 3 w.toInt)) ∧
     (let r : Row := { code := 0xC7, di := 1, rout := 1 };
       let th := (s.begun t r).thrOf t;
       s.Ready t r → (s.thrOf t).ds = x :: l →
       exec (.iCalli t) s = .next (((s.begun t r).setThr t { th with ds := l, rs := (th.pc + 1) :: th.rs }).jump t x)) ∧
     (let r : Row := { code := 0xC8, di := 1 };
       s.Ready t r → (s.thrOf t).ds = x :: l →
       exec (.iJmpi t) s = .next (((s.begun t r).setThr t { (s.begun t r).thrOf t with ds := l }).jump t x)) ∧
     (let r : Row := { code := 0xC9, ri := 1 };
       s.Ready t r → (s.thrOf t).rs = x :: l →
       exec (.iRet t) s = .next (((s.begun t r).setThr t { (s.begun t r).thrOf t with rs := l }).jump t x))) ∧
  (∀ (s : State) (t : Fin 64) (target : Word), s.Wf →
     let u := s.blkOf (t / 16)
     let pc := (s.thrOf t).pc
     let hit := u.btb.contains (pc, target) && !u.det;
     ((s.jump t target).thrOf t).pc = target ∧
     (s.jump t target).fld F.BK_USED_USED t =
       min (s.fld F.BK_USED_USED t + if hit then 1 else 2) (maxOf F.BK_USED_USED.width) ∧
     ((s.jump t target).blkOf (t / 16)).btb =
       (if u.det then u.btb else ((pc, target) :: u.btb.filter fun e => e.1 != pc).take 64) ∧
     (s.jump t target).mem = s.mem ∧ ∀ k, k ≠ t.val → (s.jump t target).thrOf k = s.thrOf k)

/-- A compare-and-branch of an Avenue thread pops both cells and branches where its condition holds between NOS and TOS;
a flag branch of a Lane thread pops nothing and branches where its condition on the flags holds (R286, R288). -/
def Obligations.BranchConditions : Prop :=
  (∀ (s : State) (t : Fin 64) (d : Byte) (w : BitVec 16) (a b : Word) (l : List Word) (c : Instr) (code : Nat) (holds : Bool),
     s.avenue t = true → (s.thrOf t).ds = b :: a :: l →
     let run (n : Nat) (e : Int) : Prop :=
       let r : Row := { code := code, imm := n - 1, pr := .worker, di := 2 };
       let u := (s.begun t r).setThr t { (s.begun t r).thrOf t with ds := l };
       s.Ready t r → exec c s = .next (if holds then
         u.jump t ((u.thrOf t).pc + BitVec.ofNat 32 n + BitVec.ofInt 32 e) else u.pass t n)
     ((c, code, holds) ∈ [((.iAvenueBeq t d : Instr), 0xE0, decide (a = b)), (.iAvenueBne t d, 0xE1, decide (a ≠ b)),
         (.iAvenueBlt t d, 0xE2, decide (a.toInt < b.toInt)), (.iAvenueBge t d, 0xE3, decide (b.toInt ≤ a.toInt)),
         (.iAvenueBltu t d, 0xE4, decide (a.toNat < b.toNat)), (.iAvenueBgeu t d, 0xE5, decide (b.toNat ≤ a.toNat)),
         (.iAvenueBgt t d, 0xE6, decide (b.toInt < a.toInt)), (.iAvenueBle t d, 0xE7, decide (a.toInt ≤ b.toInt))] →
       run 2 d.toInt) ∧
     ((c, code, holds) ∈ [((.iAvenueBeqW t w : Instr), 0xE8, decide (a = b)), (.iAvenueBneW t w, 0xE9, decide (a ≠ b)),
         (.iAvenueBltW t w, 0xEA, decide (a.toInt < b.toInt)), (.iAvenueBgeW t w, 0xEB, decide (b.toInt ≤ a.toInt)),
         (.iAvenueBltuW t w, 0xEC, decide (a.toNat < b.toNat)), (.iAvenueBgeuW t w, 0xED, decide (b.toNat ≤ a.toNat)),
         (.iAvenueBgtW t w, 0xEE, decide (b.toInt < a.toInt)), (.iAvenueBleW t w, 0xEF, decide (a.toInt ≤ b.toInt))] →
       run 3 w.toInt)) ∧
  (∀ (s : State) (t : Fin 64) (d : Byte) (w : BitVec 16) (c : Instr) (code : Nat) (holds : Bool),
     s.avenue t = false →
     let f := (s.thrOf t).flags
     let run (n : Nat) (e : Int) : Prop :=
       let r : Row := { code := code, imm := n - 1, pr := .worker };
       let u := (s.begun t r).setThr t ((s.begun t r).thrOf t);
       s.Ready t r → exec c s = .next (if holds then
         u.jump t ((u.thrOf t).pc + BitVec.ofNat 32 n + BitVec.ofInt 32 e) else u.pass t n)
     ((c, code, holds) ∈ [((.iLaneBeq t d : Instr), 0xE0, f.z), (.iLaneBne t d, 0xE1, !f.z), (.iLaneBcs t d, 0xE2, f.c),
         (.iLaneBcc t d, 0xE3, !f.c), (.iLaneBmi t d, 0xE4, f.n), (.iLaneBpl t d, 0xE5, !f.n), (.iLaneBvs t d, 0xE6, f.v),
         (.iLaneBvc t d, 0xE7, !f.v), (.iLaneBhi t d, 0xE8, f.c && !f.z), (.iLaneBls t d, 0xE9, !f.c || f.z),
         (.iLaneBge t d, 0xEA, f.n == f.v), (.iLaneBlt t d, 0xEB, f.n != f.v), (.iLaneBgt t d, 0xEC, !f.z && f.n == f.v),
         (.iLaneBle t d, 0xED, f.z || f.n != f.v)] → run 2 d.toInt) ∧
     ((c, code, holds) ∈ [((.iLaneBeqW t w : Instr), 0xEE, f.z), (.iLaneBneW t w, 0xEF, !f.z)] → run 3 w.toInt))

/-- TRAP raises TRAP with its number in BK_FADDR0; BREAK enters HALT where debug access is open and breakpoints are
enabled and else raises BREAK; an undefined code raises UNDEF. A fault records its code, PC and data addresses and stops
the thread, whose other context stays (R310). -/
def Obligations.TrapAndFaultResults : Prop :=
  (∀ (s : State) (t : Fin 64) (n op : Byte),
     (let r : Row := { code := 0xF0, imm := 1 };
       s.Ready t r → exec (.iTrap t n) s = .next ((s.begun t r).faultAt t 0x0C (BitVec.ofNat 32 n.toNat))) ∧
     (let r : Row := { code := 0xF1 };
       let u := s.begun t r;
       s.Ready t r →
       ((u.debugOpen && u.flag F.LC_DBGCTL_BKEN) = true → exec (.iBreak t) s = .next ((u.ended t r id).askHalt)) ∧
       ((u.debugOpen && u.flag F.LC_DBGCTL_BKEN) = false → exec (.iBreak t) s = .next (u.faultAt t 0x0B))) ∧
     (let r : Row := { code := op.toNat, good := false };
       let within (lo hi : Nat) : Prop := lo ≤ op.toNat ∧ op.toNat ≤ hi;
       (op = 0 ∨ within 0x15 0x1F ∨ op = 0x3F ∨ within 0x50 0x5F ∨ within 0x77 0x7F ∨ within 0x98 0x9F ∨ within 0xA9 0xAF ∨
         within 0xB4 0xBF ∨ within 0xCB 0xDF ∨ within 0xF2 0xFF) →
       s.canIssue t r = true → (s.fetch t 1).2 = .ok →
       exec (.undefinedOpcode t op) s = .next ((s.begun t r).faultAt t 0x01))) ∧
  (∀ (s : State) (t : Fin 64) (f : FaultRec), s.Wf → f.code < 256 →
     let u := s.raiseFault t f;
     (u.thrOf t).st = .stopped ∧ (u.thrOf t).ds = (s.thrOf t).ds ∧ (u.thrOf t).rs = (s.thrOf t).rs ∧
     (u.thrOf t).pc = (s.thrOf t).pc ∧ u.fld F.BK_FCODE_CODE t = f.code ∧
     u.fld F.BK_FCODE_SPLIT t = f.split.toNat ∧ u.fld F.BK_FCODE_FIRSTW t = f.firstw.toNat ∧
     u.reg .BK_FPC t = f.pc ∧ u.reg .BK_FADDR0 t = f.addr0 ∧ u.reg .BK_FADDR1 t = f.addr1 ∧
     ∀ (k : Nat) (a : Word), s.faultAt t k a = s.raiseFault t { code := k, pc := (s.thrOf t).pc, addr0 := a })

/-- Writes of the increment, time, servo and selection registers of the Clocktower: what each commits, that a servo that is
on turns an increment write away, and that a time step and a change of SEL are made by the next CK_TIME cycle, in which D
absorbs them and is slewed (R35, R63, R64, R67, R68, R69, R72, R74, R75). -/
def Obligations.ClockWriteResults : Prop :=
  (∀ (s : State) (req : Req) (x : Bool) (w : Word), s.Wf →
    let i := domIx x;
    let d := s.dom x;
    let k := snapKey req .CT_DT_W0 i;
    let u : State := { s with holdMark := s.holdMark.set (fun _ => false) k false };
    let cfg := Reg.written .CT_SRV_CFG (s.reg .CT_SRV_CFG i) w;
    (s.writes req .CT_INCR_LO i w = true →
      exec (.ctIncrLoWrite req x w) s = .next ((if s.servo x then s.raise F.CT_SRV_STAT_INCRW i
        else s.setDom x { d with incrLo := w }).answered req)) ∧
    (s.writes req .CT_INCR_HI i w = true →
      exec (.ctIncrHiWrite req x w) s = .next ((if s.servo x then s.raise F.CT_SRV_STAT_INCRW i
        else s.setDom x { d with incr := w.toNat % 65536 * 2 ^ 32 + d.incrLo.toNat }).answered req)) ∧
    (s.writes req .CT_DT_W0 i w = true →
      exec (.ctDtWrite req x false w) s = .next (State.answered
        { s with holdReg := s.holdReg.set (fun _ => 0) k w, holdMark := s.holdMark.set (fun _ => false) k true } req)) ∧
    (s.writes req .CT_DT_W1 i w = true →
      let lo := if s.holdMark.get (fun _ => false) k then some (s.holdReg.get (fun _ => 0) k) else none;
      exec (.ctDtWrite req x true w) s = .next (State.answered
        { u with ct := { u.ct with steps := u.ct.steps ++ [(x, .to w lo)] } } req)) ∧
    (s.writes req .CT_SRV_CFG i w = true →
      (bit w.toNat 0 = false → exec (.ctSrvCfgWrite req x w) s =
        .next (((s.setReg .CT_SRV_CFG i cfg).enterSt x (F.CT_SRV_CFG_SWQ.get w)).answered req)) ∧
      (bit w.toNat 0 = true → s.servo x = true → exec (.ctSrvCfgWrite req x w) s =
        .next ((s.setReg .CT_SRV_CFG i cfg).answered req)) ∧
      (bit w.toNat 0 = true → s.servo x = false → exec (.ctSrvCfgWrite req x w) s =
        .next (((s.setReg .CT_SRV_CFG i cfg).setDom x
          { d with integ := devOf d.incr, lockCnt := 0, silence := 0, lostDone := false }).answered req))) ∧
    (s.writes req .CT_CTRL 0 w = true →
      let v := s.setReg .CT_CTRL 0 (F.CT_CTRL_SEL.put (Reg.written .CT_CTRL (s.reg .CT_CTRL) w) (s.fld F.CT_CTRL_SEL));
      exec (.domainSwitch req w) s =
        .next (State.answered { v with ct := { v.ct with selNext := some (bit w.toNat 0) } } req))) ∧
  (∀ (s : State) (x : Bool), s.Wf → s.ct.autoDue = false →
    let a := s.dom x;
    let b := s.dom (!x);
    let tx : Nat := (a.t + a.incr) % 2 ^ 104;
    let ty : Nat := (b.t + b.incr) % 2 ^ 104;
    (∀ hi lo : Word, s.ct.steps = [(x, .to hi (some lo))] → s.ct.selNext = none → s.servo x = false →
      let v : Nat := (lo.toNat + 2 ^ 32 * hi.toNat) * 2 ^ 40;
      ∃ t, s.ckStep = t ∧ t.dom x = { a with t := v % 2 ^ 104 } ∧ (t.dom (!x)).t = ty ∧
        t.flag F.CT_SRV_STAT_STEPD (domIx x) = true ∧ t.ct.steps = [] ∧
        (s.flag F.CT_CTRL_SEL ≠ x → t.ct.d = slewed s.ct.d s.slew) ∧
        (s.flag F.CT_CTRL_SEL = x → s.fld F.CT_CTRL_STEPLT = 0 →
          t.ct.d = slewed (s.ct.d - ((v : Int) - tx)) s.slew)) ∧
    (s.ct.steps = [] → s.ct.selNext = some x →
      ∃ t, s.ckStep = t ∧ (t.dom x).t = tx ∧ (t.dom (!x)).t = ty ∧ t.fld F.CT_CTRL_SEL = domIx x ∧ t.ct.selNext = none ∧
        (s.flag F.CT_CTRL_SEL = x → t.ct.d = slewed s.ct.d s.slew) ∧
        (s.flag F.CT_CTRL_SEL ≠ x → t.ct.d = slewed ((ty : Int) + s.ct.d - tx) s.slew ∧
          t.flag F.CT_STATUS_SWM = true)))

/-- A measurement for a servo now off is dropped, one within STEP and beyond LOCKTH moves the integral term and the
increment; the silence of a domain, the end of a slew, and the always-on counter; LT is rebuilt at the first AON edge
after a wake from CURFEW (R63, R71, R73, R77, R81, R82, R83, R84, R479). -/
def Obligations.ClockEventResults : Prop :=
  (∀ (s : State) (x : Bool) (theta : Int) (rest : List (Bool × Int)), s.Wf → takeMeas x s.ct.meas = some (theta, rest) →
     let i := domIx x;
     let d := s.dom x;
     let u : State := { s with ct := { s.ct with meas := rest } };
     let lim : Int := s.fld F.CT_SRV_LIM_LIM i * 2 ^ 42;
     let g := clampTo (d.integ + s.fld F.CT_SRV_KI_GAIN i * theta * 2 ^ 18) lim;
     (s.servo x = false → exec (.offsetMeasurement x) s = .next u) ∧
     (s.servo x = true → theta.natAbs < 2 ^ 31 → s.fld F.CT_SRV_STEP_STEP i = 0 →
       256 * s.fld F.CT_SRV_LOCK_LOCKTH i ≤ theta.natAbs →
       exec (.offsetMeasurement x) s =
         .next (((u.bump F.CT_SRV_STAT_MEASN i).setFld F.CT_SRV_OFS_OFS i (theta % 2 ^ 32).toNat).setDom x
           { d with silence := 0, lostDone := false, integ := g, lockCnt := 0,
                    incr := incrFor (clampTo (s.fld F.CT_SRV_KP_GAIN i * theta * 2 ^ 18 + g) lim) }))) ∧
  (∀ (s : State) (x : Bool), s.Wf →
     let i := domIx x;
     let d := s.dom x;
     let quiet := (s.setDom x { d with lostDone := true }).raise F.CT_SRV_STAT_LOST i;
     let cnt := (s.aon.cnt + 1) % 2 ^ 48;
     let cal := ((s.ct.winLast : Int) - s.ct.winStart) % 2 ^ 104 / 2 ^ 8 / 2 ^ s.ct.winW;
     (s.servo x = true → d.lostDone = false → s.lossAt x ≤ d.silence →
       (s.domSt x ≠ 0 → exec (.domainSilence x) s = .next quiet) ∧
       (s.domSt x = 0 → s.flag F.CT_CTRL_SEL ≠ x → exec (.domainSilence x) s =
         .next ((quiet.setDom x { d with lostDone := true, incr := incrFor d.integ }).setDomSt x 2))) ∧
     (s.timeRuns = true → s.ct.d ≠ 0 → s.ct.d.natAbs ≤ s.slew → s.ct.steps = [] → s.ct.selNext = none →
       s.ct.autoDue = false → exec .slewConverged s = .next s.idle ∧ s.ckTime.ct.d = 0) ∧
     (s.timeRuns = false → exec .aonEdgeStamp s = .next { s with aon := { s.aon with cnt := cnt } }) ∧
     (s.timeRuns = true → s.ct.winOpen = true → s.ct.winCnt < 2 ^ s.ct.winW →
       exec .aonEdgeStamp s = .next { s with
         ct := { s.ct with winCnt := s.ct.winCnt + 1, winLast := s.stamp40 0 }
         aon := { s.aon with cnt := cnt, latchPrev := s.aon.latch, latch := s.aonCount.entryRec (s.stamp40 0) } }) ∧
     (s.timeRuns = true → s.ct.winOpen = true → s.ct.winCnt = 2 ^ s.ct.winW →
       let ct : CT := { s.ct with winW := s.fld F.CT_AON_CFG_CALW, winCnt := 0, winStart := s.ct.winLast, winBad := false };
       (s.ct.winBad = true → exec .aonCalWindow s = .next { s with ct := ct }) ∧
       (s.ct.winBad = false → exec .aonCalWindow s = .next
         { (((s.setReg .CT_AON_CAL_LO 0 (w32 cal.toNat)).setReg .CT_AON_CAL_HI 0 (w32 (cal.toNat / 2 ^ 32))).raise
             F.CT_AON_CFG_CALV) with ct := ct })) ∧
     exec .aonCrystalFailure s = .next { s with aon := { s.aon with rc := true, rcSeen := true } } ∧
     exec .aonCrystalStable s = .next { s with aon := { s.aon with rc := false } }) ∧
  (∀ s : State, s.Wf → s.timePowered = true → s.aon.reconDue = true → s.aon.prev = false → s.aon.latch.calv = true →
     s.aon.rcSeen = false → s.aon.supplyBad = false → s.aon.latch.stA < 4 → s.aon.latch.stB < 4 →
     let e := s.aon.latch;
     let dAon : Nat := (((s.aon.cnt : Int) + 1 - e.aon) % 2 ^ 48).toNat;
     ∃ t, exec .ltReconstruct s = .next t ∧
       t.ct.a.t = (e.lt / 2 ^ 8 + dAon * e.cal) * 2 ^ 8 % 2 ^ 104 ∧ t.ct.b.t = t.ct.a.t ∧ t.ct.d = 0 ∧
       t.ct.a.incr = e.incrA ∧ t.ct.b.incr = e.incrB ∧
       t.domSt false = (if e.stA = 0 then 2 else e.stA) ∧ t.domSt true = (if e.stB = 0 then 2 else e.stB) ∧
       t.flag F.CT_WAKE_STAT_RECON = true ∧ t.flag F.CT_WAKE_STAT_AONBAD = false ∧ t.flag F.CT_STATUS_WAKE = true ∧
       t.aon.cnt = (s.aon.cnt + 1) % 2 ^ 48 ∧ t.aon.reconDue = false ∧ t.aon.latchPrev = e ∧
       t.aon.latch = t.entryRec t.ct.a.t ∧ t.thr = s.thr ∧ t.mem = s.mem)

/-- When LT reaches it a tick runs, once for its index, with its stage close first where that has not come; stage close
runs once, 160 ns before (R37, R39). -/
def Obligations.TickOccurs : Prop :=
  ∀ s : State, s.timeRuns = true →
    let k := ((s.ltNs : Int) - s.tickPhase) / s.tickPeriod;
    (s.ct.kMax < k → exec .tick s = .next ((if s.ct.sc then s else s.stageClose).tickAt k)) ∧
    (k ≤ s.ct.kMax → exec .tick s = .next s) ∧
    (s.ct.sc = false → (s.ct.kMax + 1) * s.tickPeriod + s.tickPhase - 160 ≤ (s.ltNs : Int) →
      ∃ t, exec .stageClose s = .next t ∧ t.ct.sc = true) ∧
    (s.ct.sc = true → exec .stageClose s = .next s)

/-- A tick release and a wake release by what the thread is doing, and a Bollard's suspension (R45, R46, R47, R48, R50,
R51, R52, R53, R56). -/
def Obligations.ReleaseResults : Prop :=
  ∀ (s : State) (t : Fin 64) (m : Nat), s.Wf → s.thrUsed t = true → s.modeRuns t = true → s.blockOn t = true →
    let th := s.thrOf t;
    let u := s.setThr t { th with rel := true };
    (s.flag F.BK_TCFG_RELEN t = true → th.rel = false → s.ct.tickNom + 4 * s.fld F.BK_TCFG_RELOFS t ≤ s.ltNs →
      (th.st = .waiting → exec (.tickRelease t) s = .next (u.beginActivation t)) ∧
      (th.st = .active ∨ th.st = .parked → exec (.tickRelease t) s = .next (u.bump F.BK_TSTAT_LOST t)) ∧
      (th.st = .suspended → s.avenue t = true → th.ripe = true →
        exec (.tickRelease t) s = .next (s.setThr t { th with rel := true, st := .active }))) ∧
    (th.st = .waiting → th.waitTick = false → exec (.wakeRelease t) s = .next (s.beginActivation t)) ∧
    (th.st.inAct = true → exec (.wakeRelease t) s =
      .next (if th.pend then s.bump F.BK_TSTAT_LOST t else s.setThr t { th with pend := true })) ∧
    (0 < s.budget t →
      (th.st = .active ∧ s.budget t ≤ s.fld F.BK_USED_USED t) ∨ (th.st = .parked ∧ ¬ s.bears t (s.slotsAfter t m)) →
      ∃ v, exec (.bollardSuspend t m) s = .next v ∧ (v.thrOf t).st = .suspended ∧ (v.thrOf t).park = none ∧
        (v.thrOf t).ds = th.ds ∧ (v.thrOf t).pc = th.pc ∧
        v.fld F.BK_USED_USED t = max (s.fld F.BK_USED_USED t) (s.budget t) ∧
        v.fld F.BK_OVERRUN_OVN t = min (s.fld F.BK_OVERRUN_OVN t + 1) (maxOf F.BK_OVERRUN_OVN.width)) ∧
    (0 < s.budget t → th.st = .active → s.fld F.BK_USED_USED t < s.budget t → exec (.bollardSuspend t m) s = .next s)

/-- The launches of a field port, at the CK_FIELD edge of a scheduled entry, or of a command or a pending command where no
entry is due; nothing before its instant. A frame ends at E = L + F × W × T, its bits go out with CMODE and T, what was received
becomes a packet with the Milestone of launched frame n - r, and a select release that is due acts TRAIL × 5 ns later. Where the
CK_FIELD edges stand is the model's choice of notes/assumptions/192.md (R89, R90, R92, R93, R94, R96, R97, R99, R100, R103, R104,
R106). -/
def Obligations.FieldPortControllerResults : Prop :=
  (∀ (s : State) (req : Req) (n : Fin 32) (i : Fin 8), s.Wf →
     let u := s.fpOf n;
     let quiet := ∀ j < 8, s.fpDue n s.fieldEdge j = false;
     let late := s.fpNominal n i ≤ s.ct.tickPrev;
     let starts (v : FpUnit) (l : Nat) (e : Option Nat) : State :=
       let p := (s.setFp n v).fpTxWords n [0];
       p.1.setFp n { v with frame := some { at_ := l, entry := e, sent := p.2 }, hist := (l / 2 ^ 32 :: v.hist).take 4,
                            launched := v.launched + 1 };
     (s.timeRuns = true → s.fpCtl n = true → s.fpDue n s.fieldEdge i = true →
       (∀ j < 8, j ≠ i.val → s.fpDue n (s.fpNominal n i) j = false) →
       let v : FpUnit := { u with done := i.val :: u.done };
       (s.fpBusyAt n (s.fpEdge n i) = true ∨ late →
         exec (.fpLaunch n i) s = .next (((s.setFp n v).bump F.FP_ERR_SKIPN n).raise F.FP_STATUS_SKIP n)) ∧
       (u.frame = none → ¬ late → s.actB F.FP_SEL_SELCHK n = false →
         exec (.fpLaunch n i) s = .next (starts v (s.fpEdge n i) (some i))) ∧
       (u.frame = none → ¬ late → s.actB F.FP_SEL_SELCHK n = true → s.fpSelected n = false →
         exec (.fpLaunch n i) s = .next ((s.setFp n v).bump F.FP_ERR_NOSEL n))) ∧
     (s.fpDue n s.fieldEdge i = false → exec (.fpLaunch n i) s = .next s) ∧
     (s.timeRuns = true → s.fpCtl n = true → u.pend = true → quiet →
       (u.frame.isSome = true → exec (.fpPendingLaunch n) s = .next (s.setFp n { u with pend := true })) ∧
       (u.frame = none → s.actB F.FP_SEL_SELCHK n = false →
         exec (.fpPendingLaunch n) s = .next (starts { u with pend := false } s.fieldEdge none))) ∧
     (s.writes req .FP_CMD n 1 = true →
       (s.fpCtl n = false → exec (.fpGo req n) s = .next ((s.raise F.FP_STATUS_CMDREF n).answered req)) ∧
       (s.fpCtl n = true → u.pend = true → exec (.fpGo req n) s = .next ((s.bump F.FP_ERR_CMDLOST n).answered req)) ∧
       (s.fpCtl n = true → u.pend = false → quiet →
         (u.frame.isSome = true → exec (.fpGo req n) s = .next ((s.setFp n { u with pend := true }).answered req)) ∧
         (u.frame = none → s.actB F.FP_SEL_SELCHK n = false →
           exec (.fpGo req n) s = .next ((starts { u with pend := false } s.fieldEdge none).answered req))))) ∧
  (∀ (s : State) (n : Fin 32) (rx : List Bool) (fr : FpFrame) (t : Nat) (rest : List Nat), s.Wf → s.timeRuns = true →
     let u := s.fpOf n;
     let r := s.act F.FP_RPL_RPLOFS n;
     let e := fr.at_ + s.fpF n * s.fpW n * (s.fpT n * 2 ^ 40);
     (u.frame = some fr → s.lt40 < e → exec (.fpFrameEnd n rx) s = .next s) ∧
     (u.frame = some fr → e ≤ s.lt40 →
       let p := s.fpTxWords n ((List.range (s.fpF n)).drop fr.sent.length);
       let due := s.act F.FP_SEL_SELREL n == 1 || (s.act F.FP_SEL_SELREL n == 2 && s.fpLastEntry n fr.entry);
       let v := (p.1.emit (.fpFrame n fr.at_ (s.fpT n) (s.act F.FP_CFG_CMODE n) (s.fpBits n (fr.sent ++ p.2)))).setFp n
         { u with frame := none, rel := if due then u.rel ++ [e + 5 * s.act F.FP_SEL_TRAIL n * 2 ^ 40] else u.rel };
       (u.launched ≤ r → exec (.fpFrameEnd n rx) s = .next (v.bump F.FP_ERR_PRIME n)) ∧
       (r < u.launched → (s.presented.filter fun (k : Packet) => k.typ == 1 && k.idx == n.val).length < 2 →
         exec (.fpFrameEnd n rx) s = .next (v.present
           { typ := 1, idx := n, ms := u.hist.getD r (fr.at_ / 2 ^ 32), payload := s.fpItems n (s.fpF n) rx })) ∧
       (r < u.launched → 2 ≤ (s.presented.filter fun (k : Packet) => k.typ == 1 && k.idx == n.val).length →
         exec (.fpFrameEnd n rx) s = .next (v.bump F.FP_DROP_DROPN n))) ∧
     (u.frame = none → exec (.fpFrameEnd n rx) s = .next s) ∧
     (u.rel = t :: rest →
       let v := s.setFp n { u with rel := rest };
       (s.lt40 < t → exec (.fpSelectRelease n) s = .next s) ∧
       (t ≤ s.lt40 → (∀ g, s.fpPin n = some g → exec (.fpSelectRelease n) s = .next (v.setGpOut g (!s.fpPol n))) ∧
         (s.fpPin n = none → exec (.fpSelectRelease n) s = .next v))))

/-- The target role of a field port: ARM and DISCARD, the start of a select period where the select pin is at its active level,
and its end where it is not, with the bits that have gone out (R107, R108, R110, R111). -/
def Obligations.FieldPortTargetResults : Prop :=
  ∀ (s : State) (req : Req) (n p : Fin 32) (rx : List Bool) (sel : FpSel), s.Wf →
    let u := s.fpOf n;
    let w := s.fpW n;
    (s.writes req .FP_CMD n 2 = true →
      (s.fpTarget n = true → exec (.fpArm req n) s =
        .next ((s.setFp n { u with armed := some (s.fld F.FP_TSTAT_TSEQ n) }).answered req)) ∧
      (s.fpTarget n = false → exec (.fpArm req n) s = .next ((s.raise F.FP_STATUS_CMDREF n).answered req))) ∧
    (s.writes req .FP_CMD n 4 = true → exec (.fpDiscard req n) s =
      .next ((s.setFp n { u with armed := none, sel := u.sel.map fun x => { x with tag := none } }).answered req)) ∧
    (s.fpBall n = false → exec (.fpSelectStart n p) s = .next s) ∧
    (s.timeRuns = true → s.fpEn n = true → s.fpTarget n = true → s.fpBall n = true → u.sel = none → u.first = true →
      let ph := match s.fpPin n with
        | some g => if g < 16 then p.val else 0
        | none => 0;
      exec (.fpSelectStart n p) s = .next (s.setFp n { u with
        armed := none
        sel := some { ms := s.stamp ph, reply := .idle, tag := u.armed, ignore := false
                      sent := List.replicate (s.fpF n) (BitVec.ofNat 32 ((s.reg .FP_IDLEPAT n).toNat % 2 ^ w)) } })) ∧
    (u.sel = some sel → s.fpBall n = true → exec (.fpSelectEnd n rx) s = .next s) ∧
    (u.sel = some sel → s.fpBall n = false → sel.ignore = true →
      exec (.fpSelectEnd n rx) s = .next (s.setFp n { u with sel := none })) ∧
    (u.sel = some sel → s.fpBall n = false → sel.ignore = false → rx = [] → exec (.fpSelectEnd n rx) s =
      .next ((s.setFp n { u with sel := none, armed := if u.armed.isSome then u.armed else sel.tag }).bump
        F.FP_TCNT_EMPTY n)) ∧
    (u.sel = some sel → s.fpBall n = false → sel.ignore = false → rx ≠ [] →
      let q := s.fpReplyBits n sel rx.length;
      let v := ((q.1.emit (.fpReply n sel.ms q.2)).setFld F.FP_TSTAT_TSEQ n ((s.fld F.FP_TSTAT_TSEQ n + 1) % 65536));
      q.2.length = rx.length ∧
      (256 * w < rx.length → exec (.fpSelectEnd n rx) s = .next ((((v.setFp n { u with
        sel := none, first := false, lastRej := true }).setFld F.FP_TSTAT_RJCAUSE n 2).raise F.FP_STATUS_REJ n).bump
        F.FP_RJCNT_RJLONG n)) ∧
      (rx.length ≤ 256 * w → rx.length % w ≠ 0 → exec (.fpSelectEnd n rx) s = .next ((((v.setFp n { u with
        sel := none, first := false, lastRej := true }).setFld F.FP_TSTAT_RJCAUSE n 1).raise F.FP_STATUS_REJ n).bump
        F.FP_RJCNT_RJPART n)) ∧
      (rx.length ≤ 256 * w → rx.length % w = 0 → exec (.fpSelectEnd n rx) s =
        .next ((v.setFp n { u with sel := none, first := false, lastRej := false }).fpDeliver n sel.ms
          (s.fpItems n (rx.length / w) rx))))

/-- A controller transaction of a two-wire port: GO, its start, its end with the bytes read or a NACK, a lost
arbitration and the retry; the bus becomes free, another controller takes it, low-line timeouts, in-band requests and
hangs. A GO whose TW_XCFG names no target is refused by the model's choice (notes/assumptions/193.md) (R120, R122, R123,
R124, R125, R126, R128, R129, R130, R131, R133, R136). -/
def Obligations.TwoWireBusResults : Prop :=
  (∀ (s : State) (req : Req) (n : Fin 8) (rx : List Byte) (k : Fin 67) (b : Fin 9) (x : TwXact), s.Wf →
     let u := s.twOf n;
     let p := s.twBytes .TW_TXBUF n (s.fld F.TW_XCFG_WLEN n);
     let go := p.1.setTw n { p.1.twOf n with
       pend := false, busy := true, free := false, start := p.1.twMs n, follows := false, lostAt := none,
       xact := some { addr := p.1.fld F.TW_XCFG_ADDR n, a10 := p.1.flag F.TW_XCFG_A10 n, wlen := s.fld F.TW_XCFG_WLEN n,
                      rlen := p.1.fld F.TW_XCFG_RLEN n, retry := p.1.fld F.TW_XCFG_RETRY n, bytes := p.2,
                      start := p.1.twMs n } };
     (s.writes req .TW_CMD n 1 = true →
       (s.twEn n = false ∨ s.twCtl n = false ∨ s.twNames n = false →
         exec (.twGo req n) s = .next ((s.raise F.TW_STATUS_CMDREF n).answered req)) ∧
       (s.twEn n = true → s.twCtl n = true → s.twNames n = true →
         (s.twStuck n = true → exec (.twGo req n) s = .next ((s.twStuckGo n).answered req)) ∧
         (s.twStuck n = false →
           (u.pend = true → exec (.twGo req n) s = .next ((s.bump F.TW_CNT_CMDLOST n).answered req)) ∧
           (u.pend = false → u.mayStart = true → exec (.twGo req n) s = .next (go.answered req)) ∧
           (u.pend = false → u.mayStart = false →
             exec (.twGo req n) s = .next ((s.setTw n { u with pend := true }).answered req))))) ∧
     (s.twEn n = true → s.twStuck n = false → u.pend = true → u.mayStart = true →
       exec (.twTransactionStart n) s = .next go) ∧
     (u.xact = some x → x.wait = false → s.twStuck n = false →
       (let data := (rx ++ List.replicate x.rlen 0).take x.rlen;
         exec (.twTransactionEnd n none rx) s = .next (((s.emit (.twMsg n (twToks (x.parts data) ++ [.stop]))).setTw n
           (u.stopped s.lt40)).twEnd n x 0 data)) ∧
       (x.byteKind k ≠ 0 → ∃ t, exec (.twTransactionEnd n (some k) rx) s = .next t ∧ (t.twOf n).xact = none ∧
         (t.twOf n).busy = false ∧ (t.twOf n).free = false ∧ t.out = .twMsg n (x.nacked k) :: s.out ∧
         t.fld F.TW_XSTAT_CODE n = x.byteKind k ∧ t.fld F.TW_XSTAT_BYTEI n = k.val ∧ t.fld F.TW_XSTAT_BITI n = 8 ∧
         t.fld F.TW_CNT_NACKN n = min (s.fld F.TW_CNT_NACKN n + 1) (maxOf F.TW_CNT_NACKN.width)) ∧
       (x.sends k b = some true → exec (.twArbitrationLoss n k b) s = .next (((((s.emit
         (.twMsg n (twToks ((x.parts []).take k)))).setTw n { u with
           follows := s.twTgt n && k.val == 0,
           lostAt := if k.val = 0 then some ((x.head ++ x.again).headD 0, b.val) else none,
           xact := some { x with wait := true, losses := x.losses + 1 } }).setFld F.TW_XSTAT_BYTEI n k).setFld
         F.TW_XSTAT_BITI n b).bump F.TW_CNT_ARBL n))) ∧
     (u.xact = some x → x.wait = true → s.twStuck n = false →
       (x.retry < x.losses → exec (.twArbitrationRetry n) s = .next (s.twEnd n x 3 [])) ∧
       (x.losses ≤ x.retry → u.open_ = true → u.clear = false → exec (.twArbitrationRetry n) s = .next (s.setTw n { u with
         busy := true, free := false, start := s.twMs n, follows := false, lostAt := none,
         xact := some { x with wait := false, start := s.twMs n } })))) ∧
  (∀ (s : State) (n : Fin 8) (d : Nat) (other : Option (Fin 128)) (a : Nat), s.Wf → s.twEn n = true →
     let u := s.twOf n;
     (u.busy = false → u.talks = false → u.quiet + s.twBuf n ≤ s.lt40 → exec (.twBusFree n) s = .next (s.setTw n { u with
       free := true, sdaLow := false, sclLow := false,
       req := if u.req = .waiting ∧ s.twStuck n = false then .holding else u.req })) ∧
     (u.talks = false → u.req ≠ .holding → exec (.messageOfAnotherController n .start) s =
       .next (s.setTw n { u with busy := true, free := false, start := s.twMs n, follows := true, lostAt := none })) ∧
     (u.talks = false → u.req = .holding → exec (.messageOfAnotherController n .start) s =
       .next (s.setTw n { u with busy := true, free := false, start := s.twMs n, follows := true, lostAt := none,
                                 req := .waiting })) ∧
     (u.talks = false → u.busy = true → u.follows = true → s.twAnswer n = some a →
       exec (.messageOfAnotherController n (.roll other)) s =
         .next ((s.setTw n { u with req := if other.all (a ≤ ·.val) then .none else .waiting }).emit
           (.twMsg n [.byte 0x07 true, .byte (BitVec.ofNat 8 (a * 2)) false]))) ∧
     (u.talks = false → u.busy = true → exec (.messageOfAnotherController n .stop) s =
       .next (s.setTw n { u with busy := false, free := false, quiet := s.lt40, follows := false, lostAt := none })) ∧
     (u.free = true →
       (d < 100 → exec (.inBandRequest n d) s = .next (s.bump F.TW_IBR_SPUR n)) ∧
       (100 ≤ d → d ≤ 1000 → s.act F.TW_CFG_IBREN n = 1 → s.twCtl n = true → s.twStuck n = false →
         exec (.inBandRequest n d) s =
           .next ((s.bump F.TW_IBR_REQN n).setTw n { u.stopped s.lt40 with
             rollDue := some ((s.twStamp n - d * (20 * 2 ^ 40)) / 2 ^ 32) })) ∧
       exec (.twHang n) s = .next ((((s.setTw n { u with sdaLow := true }).raise F.TW_STATUS_HANG n).bump
         F.TW_IBR_HANGN n).twBusEvent n 0)) ∧
     (u.busy = false → u.talks = false →
       (s.actB F.TW_TO_AUTOCLR n = false → exec (.sdaLowTimeout n) s =
         .next (((s.setTw n { u with sdaLow := true }).raise F.TW_STATUS_SDALTO n).twBusEvent n 2)) ∧
       (s.actB F.TW_TO_AUTOCLR n = true → s.twCtl n = true → s.twStuck n = false → exec (.sdaLowTimeout n) s =
         .next ((((s.setTw n { u with sdaLow := true }).raise F.TW_STATUS_SDALTO n).twBusEvent n 2).setTw n
           { u with sdaLow := true, clear := true, clearWait := false, free := false }))) ∧
     (u.xact = none → exec (.sclLowTimeout n) s =
       .next (((s.setTw n { u with sclLow := true, free := false, roll := none }).raise F.TW_STATUS_SCLLTO n).twBusEvent n 1)))

/-- Roll-calls, the port's own requests, bus clears with the power pulse, and PRST; a write to a two-wire target is
delivered with its first 32 bytes, and a read takes the armed reply and then 0xFF. What the lines are when a port is
enabled is a free value (notes/assumptions/70.md) (R130, R132, R133, R135, R136, R137, R138, R139, R140). -/
def Obligations.TwoWireRecoveryResults : Prop :=
  (∀ (s : State) (req : Req) (n : Fin 8) (w : Option (Fin 128)) (a : Nat) (ms : Nat), s.Wf →
     let u := s.twOf n;
     (s.twEn n = true → u.rollDue = some ms → u.open_ = true → u.talks = false → s.twStuck n = false →
       exec (.rollCall n) s = .next (s.setTw n { u with
         rollDue := none, roll := some ms, busy := true, free := false, start := s.twMs n,
         follows := false, lostAt := none })) ∧
     (u.roll = some ms →
       let other := w.map Fin.val;
       let v := s.setTw n { u.stopped s.lt40 with roll := none, req := s.twAnswered n other };
       (lowestAns (s.twAnswer n) other = some a → exec (.rollCallEnd n w) s =
         .next ((v.emit (.twMsg n [.start, .byte 0x07 true, .byte (BitVec.ofNat 8 (a * 2)) false, .stop])).twRecord
           n 3 0 ms false a [])) ∧
       (lowestAns (s.twAnswer n) other = none → exec (.rollCallEnd n w) s =
         .next (((v.emit (.twMsg n [.start, .byte 0x07 false, .stop])).bump F.TW_IBR_NOANS n).twRecord
           n 4 0 ms false 0 []))) ∧
     (s.writes req .TW_CMD n 8 = true →
       (s.twTgt n = false → exec (.twReq req n) s = .next ((s.raise F.TW_STATUS_CMDREF n).answered req)) ∧
       (s.twTgt n = true → s.twEn n = true → exec (.twReq req n) s =
         .next ((s.setTw n { u with
           req := if u.free = true ∧ u.sdaLow = false ∧ s.twStuck n = false then .holding else .waiting }).answered req))) ∧
     (u.req = .holding → exec (.twRequestRelease n) s = .next (s.setTw n { u with req := .released })) ∧
     (s.writes req .TW_CMD n 16 = true →
       exec (.twUnreq req n) s = .next ((s.setTw n { u with req := .none }).answered req)) ∧
     (s.writes req .TW_CMD n 2 = true →
       (s.twCtl n = false → exec (.twClear req n) s = .next ((s.raise F.TW_STATUS_CMDREF n).answered req)) ∧
       (s.twCtl n = true → s.twEn n = true → s.twStuck n = false →
         (u.xact.isSome = true → exec (.twClear req n) s = .next ((s.setTw n { u with clearWait := true }).answered req)) ∧
         (u.xact = none → exec (.twClear req n) s =
           .next ((s.setTw n { u with clear := true, clearWait := false, free := false }).answered req)))) ∧
     (u.clear = true →
       exec (.busClearEnd n true) s = .next ((((s.setTw n { u.stopped s.lt40 with
         clear := false, sdaLow := false }).emit (.twMsg n [.stop])).raise F.TW_STATUS_CLRD n).twBusEvent n 3) ∧
       (u.pend = false → u.clearWait = false →
         ∃ t, exec (.busClearEnd n false) s = .next t ∧ t.flag F.TW_STATUS_STUCK n = true ∧
         (t.twOf n).clear = false ∧ (t.twOf n).sdaLow = true ∧
         ((t.twOf n).pwr = .pulse ↔
           s.actB F.TW_CLR_AUTOPWR n = true ∧ (s.twPwrPin n).isSome = true ∧ u.further = false))) ∧
     (u.pwr = .pulse → exec (.powerPulseEnd n) s = .next (s.setTw n { u with pwr := .wait })) ∧
     (u.pwr = .wait → exec (.powerWaitEnd n) s =
       .next (s.setTw n { u with pwr := .off, further := true, clear := true })) ∧
     (s.writes req .TW_CMD n 4 = true → s.twEn n = true → u.xact = none →
       let v := (s.setTw n {}).setFld F.TW_STATUS_STUCK n 0;
       let p := v.fresh;
       let low := p.2.getLsbD 0 && !p.2.getLsbD 1 && s.twCtl n;
       exec (.twPrst req n) s = .next ((p.1.setTw n
         { sdaLow := p.2.getLsbD 0, sclLow := p.2.getLsbD 1, quiet := s.lt40, clear := low,
           free := ({} : TwUnit).free && !low }).answered req))) ∧
  (∀ (s : State) (n : Fin 8) (data : List Byte) (k : Fin 256), s.Wf →
     let u := s.twOf n;
     let ms := if u.busy then u.start else s.twMs n;
     let a10 := s.actB F.TW_CFG_OWN10 n;
     let addr := s.act F.TW_CFG_OWNADDR n;
     (s.twServes n false = true → exec (.twTargetWrite n data) s =
       .next (((s.setTw n (u.stopped s.lt40)).emit (.twMsg n (.start :: (twAddr a10 addr false).map (.byte · true) ++
         (data.take 33).zipIdx.map (fun e => .byte e.1 (decide (e.2 < 32))) ++ [.stop]))).twRecord n 1
         (if 32 < data.length then 2 else 0) ms a10 addr (data.take 32))) ∧
     (s.twServes n true = true →
       let p := s.twBytes .TW_TGTBUF n (if s.flag F.TW_TGT_ARM n then min k.val (s.fld F.TW_TGT_TLEN n) else 0);
       let sent := (p.2 ++ List.replicate k 0xFF).take k;
       ∃ m : List TwTok,
         (s.flag F.TW_TGT_ARM n = true → exec (.twTargetRead n k) s =
           .next ((((p.1.setTw n ((p.1.twOf n).stopped p.1.lt40)).emit (.twMsg n m)).setFld F.TW_TGT_ARM n 0).twRecord
             n 2 0 ms a10 addr sent)) ∧
         (s.flag F.TW_TGT_ARM n = false → exec (.twTargetRead n k) s =
           .next (((((p.1.setTw n ((p.1.twOf n).stopped p.1.lt40)).emit (.twMsg n m)).setFld F.TW_TGT_ARM n 0).bump
             F.TW_CNT_NOREPLY n).twRecord n 2 0 ms a10 addr sent)) ∧
         ∃ h : List TwTok, m = h ++ sent.zipIdx.map (fun e => .byte e.1 (e.2 + 1 != sent.length)) ++ [.stop]))

/-- A hub's superframe starts at its instant with the next number, counts a missing up header, and sends one burst, or is
not sent and counted where a Bell overlaps it; the table load retries and the commit of a table; an up burst within the
search window is delivered where its pilots match, and with a header brings the link up, keeps TURN and puts a ranging
value first (R150, R154, R162, R163, R164, R165, R171, R173, R174). -/
def Obligations.HeadLinkHubResults : Prop :=
  (∀ (s : State) (n : Fin 2) (ph : Fin 4) (sect : Option (List Word)) (d : HlLay) (rest : List HlLay) (l : HlLoad) (a : Nat),
     s.Wf → s.hlHub n = true →
     let u := s.hlOf n;
     let at_ := s.hlEdge d.sfs ph;
     (s.timeRuns = true → u.due = d :: rest → d.sfs ≤ s.stamp (8 * ph) →
       (s.hlBellMeets n d = false →
         ∃ t bytes syms, exec (.hlSuperframe n ph sect) s = .next t ∧ t.out = .hlBurst n false at_ bytes syms :: s.out ∧
           (t.hlOf n).sfn = (u.sfn + 1) % 65536 ∧ (t.hlOf n).due = rest ∧ (t.hlOf n).lay = d ∧ (t.hlOf n).wait = true ∧
           (t.hlOf n).t1 = at_ + 16 * s.fld F.HL_CAL_TXLAT n ∧ (t.hlOf n).miss = (if u.wait then u.miss + 1 else u.miss) ∧
           t.fld F.HL_ERR_HDRLOST n = (if u.wait then min (s.fld F.HL_ERR_HDRLOST n + 1) (maxOf F.HL_ERR_HDRLOST.width)
             else s.fld F.HL_ERR_HDRLOST n)) ∧
       (s.hlBellMeets n d = true → exec (.hlSuperframe n ph sect) s =
         .next ((s.setHl n { u with due := rest }).bump F.HL_ERR_SFSKIP n))) ∧
     (u.due = [] → exec (.hlSuperframe n ph sect) s = .next s) ∧
     (u.due = d :: rest → s.stamp (8 * ph) < d.sfs → exec (.hlSuperframe n ph sect) s = .next s) ∧
     (u.load = some l → l.send = false → l.ack = none → 4 ≤ (((u.sfn : Int) - l.sentSfn) % 65536).toNat →
       u.sfEnd ≤ s.ltMs →
       (l.sends < 4 → exec (.hlTableLoadRetry n) s = .next (s.setHl n { u with load := some { l with send := true } })) ∧
       (4 ≤ l.sends → ∃ t, exec (.hlTableLoadRetry n) s = .next t ∧ (t.hlOf n).load = none ∧
         t.fld F.HL_TBLSTAT_ST n = 3)) ∧
     (u.load = some l → l.ack = some a → l.tab < 8 → l.codes.length = 36 →
       (u.due = d :: rest → d.sfs ≤ s.ltMs → 9 ≤ (((u.sfn : Int) - a) % 65536).toNat →
         ∃ t, exec (.hlTableCommit n) s = .next t ∧ (t.hlOf n).load = none ∧ t.hlTable n l.up l.tab = l.codes ∧
           (t.hlOf n).genOf l.up l.tab = 1 - u.genOf l.up l.tab ∧ t.fld F.HL_TBLSTAT_ST n = 0 ∧
           t.fld F.HL_TBLSTAT_SFNEFF n = (a + 9) % 65536) ∧
       (u.due = d :: rest → s.ltMs < d.sfs → exec (.hlTableCommit n) s = .next s) ∧
       ((((u.sfn : Int) - a) % 65536).toNat < 9 → exec (.hlTableCommit n) s = .next s))) ∧
  (∀ (s : State) (n : Fin 2) (rx : HlRx) (h : List Nat), s.Wf → s.timeRuns = true → s.hlHub n = true →
     let u := s.hlOf n;
     let t4 : Int := (s.stamp 0 : Int) - 16 * s.fld F.HL_CAL_RXLAT n;
     let ur : Int := (u.t1 : Int) + 1024 * (u.lay.nd * 1152 + u.lay.ugap);
     let utab := s.fld F.HL_STATUS_UTAB n;
     let want := if s.flag F.HL_STATUS_BASEU n then 0x7FF else tableSeed utab (u.genOf true utab);
     (u.wait = true → 1024 * (4 * s.act F.HL_LINK_SRCH n) < (t4 - ur).natAbs → exec (.hlUpBurstRx n rx) s = .next s) ∧
     (u.wait = true → (t4 - ur).natAbs ≤ 1024 * (4 * s.act F.HL_LINK_SRCH n) →
       (headerOf rx.decoded = none → rx.seed = want → exec (.hlUpBurstRx n rx) s =
         .next (let v := s.hlDeliver n (((u.sfn : Int) - 1) % 65536).toNat rx.decoded;
           if cwFails rx.decoded = 0 then v else v.hlEvent n 2 (cwFails rx.decoded))) ∧
       (headerOf rx.decoded = some h →
         let turn := fromLe ((h.drop 4).take 4);
         let dm : Int := (t4 - u.t1) - 16 * turn + 32 * sext (s.act F.HL_ASYM_ASYM n) 16;
         ∃ t, exec (.hlUpBurstRx n rx) s = .next t ∧ (t.hlOf n).wait = false ∧ (t.hlOf n).miss = 0 ∧
           t.hlState n ≠ 0 ∧ t.reg .HL_TURN n = BitVec.ofNat 32 turn ∧ t.flag F.HL_DELAY_DVAL n = true ∧
           (t.hlOf n).deltas = (dm :: (if s.hlState n = 0 then [] else u.deltas)).take 8)))

/-- A node receives a down burst and answers: with no decoded header the superframe is lost, and its other codewords are
delivered where the node holds the table of its pilots; with one the header is kept, its tables and delay are shown and
the up burst leaves at its launch instant, or is not sent and counted where the node's Bell overlaps it (R153, R162, R163,
R164, R166, R169, R173, R174). -/
def Obligations.HeadLinkNodeResults : Prop :=
  ∀ (s : State) (n : Fin 2) (rx : HlRx) (h : List Nat) (hd : HlHdr), s.Wf → s.timeRuns = true → s.hlNode n = true →
    let u := s.hlOf n;
    (headerOf rx.decoded = none →
      let v := if s.hlState n = 0 then s else (s.bump F.HL_ERR_HDRLOST n).setHl n { u with miss := u.miss + 1, hdr := none };
      exec (.hlDownBurstRx n rx) s = .next (if u.holds false rx.seed then v.hlDeliver n 0 rx.decoded
        else (v.raise F.HL_STATUS_TBLMIS n).bump F.HL_ERR_TBLMISN n)) ∧
    (headerOf rx.decoded = some h →
      ∃ t k, exec (.hlDownBurstRx n rx) s = .next t ∧ (t.hlOf n).hdr = some k ∧ (t.hlOf n).miss = 0 ∧
        t.hlState n ≠ 0 ∧ k.sfn = fromLe (h.take 2) ∧ k.t1 = 256 * fromLe ((h.drop 4).take 8) + h.getD 12 0 ∧
        k.t2 = (s.stamp 0 : Int) - 16 * s.fld F.HL_CAL_RXLAT n ∧
        t.fld F.HL_DELAY_DELAY n = fromLe ((h.drop 14).take 2) % 65536 ∧ t.fld F.HL_STATUS_DTAB n = h.getD 2 0 % 8 ∧
        t.fld F.HL_STATUS_UTAB n = h.getD 2 0 / 8 % 8) ∧
    (u.hdr = some hd → s.hlState n ≠ 0 →
      (hd.launch ≤ (s.ltMs : Int) → s.hlNodeBell n hd = false →
        ∃ t bytes syms, exec (.hlUpBurstTx n) s = .next t ∧ t.out = .hlBurst n true hd.launch bytes syms :: s.out ∧
          (t.hlOf n).hdr = none ∧ (t.hlOf n).acks = [] ∧ (t.hlOf n).stale = none ∧
          t.reg .HL_TURN n = BitVec.ofNat 32 (((hd.launch - hd.t2) / 16) % 2 ^ 32).toNat) ∧
      (hd.launch ≤ (s.ltMs : Int) → s.hlNodeBell n hd = true → exec (.hlUpBurstTx n) s =
        .next ((s.setHl n { u with hdr := none }).bump F.HL_ERR_SFSKIP n)) ∧
      ((s.ltMs : Int) < hd.launch → exec (.hlUpBurstTx n) s = .next s))

/-- The loss of a head link, and the commands of HL_CMD and HL_TBLCMD (R170, R171, R173, R174). -/
def Obligations.HeadLinkCommands : Prop :=
  ∀ (s : State) (req : Req) (n : Fin 2) (up : Bool) (tab : Fin 8) (e : Nat), s.Wf →
    let u := s.hlOf n;
    let st := s.fld F.HL_TBLSTAT_ST n;
    let w := BitVec.ofNat 32 (16 + 8 * up.toNat + tab);
    let ws := (List.range 36).map fun j => s.reg .HL_TBLSHD (36 * n + j);
    (s.hlEn n = true → s.hlState n ≠ 0 → s.act F.HL_LINK_NLOSS n ≤ u.miss →
      exec (.hlLinkLoss n) s = .next (s.hlDown n) ∧ (s.hlDown n).hlState n = 0 ∧
        (s.hlDown n).flag F.HL_STATUS_LINKCHG n = true ∧ (s.hlDown n).flag F.HL_DELAY_DVAL n = false) ∧
    (s.writes req .HL_CMD n 2 = true →
      exec (.hlLrst req n) s = .next ((if s.hlEn n then s.hlDown n else s).answered req)) ∧
    (s.writes req .HL_CMD n 1 = true →
      exec (.hlBell req n) s = .next ((s.setHl n { u with bellReq := true }).answered req)) ∧
    (s.writes req .HL_CMD n 4 = true →
      (s.act F.HL_CFG_ROLE n = 1 → exec (.hlPrbnow req n) s = .next ((s.raise F.HL_STATUS_CMDREF n).answered req)) ∧
      (s.act F.HL_CFG_ROLE n ≠ 1 → exec (.hlPrbnow req n) s =
        .next ((s.setHl n { u with prbNow := true }).answered req))) ∧
    (u.bellEnd = some e → e ≤ s.ltMs + us256 → exec (.hlBellEnd n) s =
      .next ((s.setHl n { u with bellEnd := none }).hlEvent n 5 0)) ∧
    (u.bellEnd = some e → s.ltMs + us256 < e → exec (.hlBellEnd n) s = .next s) ∧
    (s.writes req .HL_TBLCMD n w = true →
      (s.act F.HL_CFG_ROLE n = 1 ∨ st = 1 ∨ st = 2 →
        exec (.hlTblcmdGo req n up tab) s = .next ((s.raise F.HL_STATUS_CMDREF n).answered req)) ∧
      (s.act F.HL_CFG_ROLE n ≠ 1 → st ≠ 1 → st ≠ 2 →
        (symbolBits (unpackCodes ws) < 64 →
          exec (.hlTblcmdGo req n up tab) s = .next ((s.setFld F.HL_TBLSTAT_ST n 3).answered req)) ∧
        (64 ≤ symbolBits (unpackCodes ws) → exec (.hlTblcmdGo req n up tab) s = .next (((s.setHl n { u with
          load := some { up := up, tab := tab, num := u.loadNum, codes := ws }
          loadNum := (u.loadNum + 1) % 65536 }).setFld F.HL_TBLSTAT_ST n 1).answered req))))

/-- A presented packet goes to each destination that its routes gave it, or is counted unrouted; the longest class-A
transfer is kept and one beyond 40 cycles flagged where that bound applies; the idle timeout releases the closed tail of an Arcade, and FLUSH
discards the complete packets that its consumer has not begun (R178, R181, R182, R183, R184, R186, R231, R232). -/
def Obligations.PlazaArcadeResults : Prop :=
  (∀ (s : State) (typ : Fin 16) (idx : Fin 256) (p : Packet) (rest : List Packet) (r : PzReq) (g : PzTgt) (d cycles : Nat)
      (fourth : Bool),
     let v : State := { s with presented := rest };
     let amax := s.setFld F.PZ_AMAX_AMAX 0 (max (s.fld F.PZ_AMAX_AMAX) (min cycles 65535));
     (takePacket typ idx s.presented = some (p, rest) →
       (p.dests = none →
         exec (.packetRoute typ idx) s = .next ((v.bump F.PZ_UNROUTED_UNRN).raise F.PZ_STATUS_UNRT)) ∧
       (p.dests = some [d] → d < 64 → exec (.packetRoute typ idx) s = .next (v.arcStore d p)) ∧
       (p.dests = some [d] → 0x80 ≤ d → d < 0x100 →
         exec (.packetRoute typ idx) s = .next (v.xSample (d - 0x80) (v.pktMs p) (.packet p.payload))) ∧
       (p.dests = some [d] → 0x100 ≤ d → d < 0x13F → exec (.packetRoute typ idx) s = .next (v.hlQueue 0 (d - 0x100) p)) ∧
       (p.dests = some [d] → 0x140 ≤ d → d < 0x17F → exec (.packetRoute typ idx) s = .next (v.hlQueue 1 (d - 0x140) p))) ∧
     (takePacket typ idx s.presented = none → exec (.packetRoute typ idx) s = .next s) ∧
     (s.pzClass r ≠ .a → exec (.plazaTransferComplete r g cycles fourth) s = .next s) ∧
     (s.pzClass r = .a →
       (s.pzBound g = true → exec (.plazaTransferComplete r g cycles fourth) s =
         .next ((amax.raiseIf (decide (40 < cycles)) F.PZ_STATUS_ABND).raiseIf fourth F.PZ_STATUS_ACONT)) ∧
       (s.pzBound g = false → exec (.plazaTransferComplete r g cycles fourth) s = .next amax))) ∧
  (∀ (s : State) (req : Req) (a : Fin 64), s.Wf →
     let c := s.arcOf a;
     (s.arcIdleDue a = true → ∃ t, exec (.arcadeIdleTimeout a) s = .next t ∧ (t.arcOf a).rel = c.pc ∧
       (t.arcOf a).idle = none ∧ (t.arcOf a).pkts = c.pkts ∧
       bit (t.fld (if a.val < 32 then F.ARC_IDLEN0_IDLE else F.ARC_IDLEN1_IDLE)) (a.val % 32) = true) ∧
     (s.arcIdleDue a = false → exec (.arcadeIdleTimeout a) s = .next s) ∧
     (s.writes req .ARC_CMD a 1 = true →
       (c.flp = true → exec (.arcadeFlush req a) s = .next (s.answered req)) ∧
       (c.flp = false → (∀ e, c.cur = some e → c.rd < e) →
         let keep := c.pkts.filter fun p => c.cur = some p.2;
         ∃ t : State, exec (.arcadeFlush req a) s = .next (t.answered req) ∧ (t.arcOf a).flp = true ∧
           (t.arcOf a).pkts = keep ∧ (t.arcOf a).idle = c.idle ∧ (t.arcOf a).w = c.w ∧ (t.arcOf a).opn = c.opn ∧
           t.fld F.ARC_CNT_FLUSHN a = min (s.fld F.ARC_CNT_FLUSHN a + (c.pkts.length - keep.length))
             (maxOf F.ARC_CNT_FLUSHN.width))))

/-- The engine serves its oldest entry and keeps the longest delay; a due deadline of a WINDOW cell joins the queue;
RESET and REARM of a cell (R191, R192, R195, R196, R200, R212). -/
def Obligations.CrossingEngineResults : Prop :=
  ∀ (s : State) (req : Req) (c : Fin 128) (e : XEnt) (rest : List XEnt) (delay tr : Nat), s.Wf →
    let u := s.cellOf c;
    let end_ := tr + 256 * s.act F.XC_P1_P c;
    let v := ({ s with xq := rest } : State).xPass e;
    let clean := s.setCell c { act := u.act, inert := u.inert };
    (s.xq = e :: rest → exec (.crossingPass delay) s =
      .next ((v.setFld F.XC_EVMAX_N 0 (max (v.fld F.XC_EVMAX_N) (min delay 65535))).raiseIf (decide (1000 < delay))
        F.XC_STATUS_EVLATE)) ∧
    (s.xq = [] → exec (.crossingPass delay) s = .next s) ∧
    (u.act = true → u.inert = false → s.xPrim c = 3 → u.win = some tr →
      end_ + s.act F.XC_CFG_GRACE c * us256 ≤ s.ltMs → (∀ x ∈ s.xq, x.what ≠ .deadline c 1 end_) →
      exec (.crossingDeadline c) s = .next (s.xJoin { src := 0x1FF, ms := end_, what := .deadline c 1 end_ })) ∧
    (s.writes req .XC_CMD c 1 = true →
      exec (.xcReset req c) s = .next ((if u.q then clean.xDrive c else clean).answered req)) ∧
    (s.writes req .XC_CMD c 2 = true →
      exec (.xcRearm req c) s = .next ((s.setCell c { u with stopped := false, lastArm := none }).answered req))

/-- A change of a pin's ball is accepted when FILT + 1 samples in a row have shown it, with its capture record; a return to
the accepted level leaves nothing; a stuck level; GP_OUTSET and GP_OUTCLR act on the requester's own pins and flag a 1 for
another's; arming, cancelling and committing a single pulse of a Lamplighter, the commit that is due before a request, its rise
and its fall with the edges they drive (R21, R205, R208, R238, R242, R243, R244, R246, R247, R251, R252). -/
def Obligations.PinLamplighterResults : Prop :=
  (∀ (s : State) (n : Fin 96) (lvl : Bool) (p : Fin 32) (ts : Nat), s.Wf → s.timeRuns = true →
     let u := s.pinOf n;
     let ph := if n.val < 16 then p.val else 0;
     let ms := s.stamp ph;
     let new (k : Nat) : PinNew := { ms := ms, ta := s.domStamp false ph, tb := s.domStamp true ph, n := k };
     let w : Pin := { u with ball := lvl, balls := u.ballsWith s.lt40 lvl };
     let x : Pin := { w with lvl := lvl, last := some ms, cand := none, smp := some s.lt40 };
     let v := s.setPin n x;
     let sq := (s.fld F.LL_CAPSTAT_SEQ n + 1) % 65536;
     let due := ts + s.act F.XC_PMCFG_STUCKT n * 1000 * us256;
     (u.ball = lvl → exec (.pinEdge n lvl p) s = .next s) ∧
     (u.ball ≠ lvl → u.lvl = lvl → exec (.pinEdge n lvl p) s = .next (s.setPin n { w with cand := none })) ∧
     (u.ball ≠ lvl → u.lvl ≠ lvl → u.smp ≠ some s.lt40 →
       (0 < s.act F.XC_PMCFG_FILT n → exec (.pinEdge n lvl p) s =
         .next (s.setPin n { w with cand := some (new 1), smp := some s.lt40 })) ∧
       (s.act F.XC_PMCFG_FILT n = 0 → lvl = false → s.pmOn n = false →
         (s.capWants n lvl = false → exec (.pinEdge n lvl p) s = .next v) ∧
         (s.capWants n lvl = true → s.actB F.LL_CAPCFG_EN n = true → s.act F.LL_CAPCFG_CLIM n = 0 →
           exec (.pinEdge n lvl p) s = .next (((v.setFld F.LL_CAPSTAT_SEQ n sq).setPin n { x with capN := u.capN + 1 }).present
             { typ := 6, idx := n, ms := ms, payload := [BitVec.ofNat 32 sq] })))) ∧
     (u.last = some ts → s.pmOn n = true → 0 < s.act F.XC_PMCFG_STUCKT n → s.pmActive n u.lvl = true →
       s.flag F.XC_PMSTAT_STUCKA n = false → due ≤ s.ltMs →
       exec (.pinStuck n) s = .next ((s.raise F.XC_PMSTAT_STUCKA n).xSample (0x100 + n) due .stuck)) ∧
     (u.last = none → exec (.pinStuck n) s = .next s)) ∧
  (∀ (s : State) (req : Req) (q : Fin 4) (k : Fin 3) (w : Word),
     let m := BitVec.ofNat 32 (s.pinMask (s.quarterOf req) k);
     let v := s.refuse req true (Reg.offset .GP_OUTSET k);
     let y := s.refuse req true (Reg.offset .GP_OUTCLR k);
     (s.writes req .GP_OUTSET k w = true →
       (w &&& m = w → exec (.gpOutsetWrite req k w) s =
         .next ((s.setReg .GP_OUT k (s.reg .GP_OUT k ||| w)).answered req)) ∧
       (w &&& m ≠ w → exec (.gpOutsetWrite req k w) s =
         .next ((v.setReg .GP_OUT k (v.reg .GP_OUT k ||| (w &&& m))).answered req))) ∧
     (s.writes req .GP_OUTCLR k w = true →
       (w &&& m = w → exec (.gpOutclrWrite req k w) s =
         .next ((s.setReg .GP_OUT k (s.reg .GP_OUT k &&& ~~~w)).answered req)) ∧
       (w &&& m ≠ w → exec (.gpOutclrWrite req k w) s =
         .next ((y.setReg .GP_OUT k (y.reg .GP_OUT k &&& ~~~(w &&& m))).answered req))) ∧
     exec (.gpOutsetWrite (.fn q) k w) s = .next s ∧ exec (.gpOutclrWrite (.fn q) k w) s = .next s) ∧
  (∀ (s : State) (req : Req) (n : Fin 16) (m : LlArm) (p : LlPulse) (ps : List LlPulse), s.Wf →
     let u := s.llOf n;
     let a : Int := (s.reg .LL_ARMT_HI n).toNat * 2 ^ 32 + (s.reg .LL_ARMT_LO n).toNat;
     let e := u.eMin m.at_;
     let at_ := m.a * ps125;
     let wid := s.act F.LL_WIDTH_WID n * ps125;
     let y := s.llCommitDue n;
     (s.writes req .LL_CMD n 1 = true →
       (u.act = false → exec (.llCmdArm req n) s = .next (s.answered req)) ∧
       (u.act = true → s.llPermit (s.ownerOf .lamplighter n) = false →
         exec (.llCmdArm req n) s = .next ((s.raise F.LL_STAT_QREF n).answered req)) ∧
       (u.act = true → s.llPermit (s.ownerOf .lamplighter n) = true → y.llOutranked n 0 = false →
         exec (.llCmdArm req n) s = .next ((y.setLl n { y.llOf n with
           arm := some { a := a, at_ := y.lt40, src := .reg, i := 0 }
           train := if y.actB F.LL_CFG_MODE n then some (a, .reg) else none }).answered req)) ∧
       (u.act = true → s.llPermit (s.ownerOf .lamplighter n) = true → y.llOutranked n 0 = true →
         exec (.llCmdArm req n) s = .next (y.answered req))) ∧
     (s.writes req .LL_CMD n 2 = true →
       exec (.llCancel req n) s = .next ((if y.llOutranked n 0 then y
         else y.setLl n { y.llOf n with arm := none, train := none }).answered req)) ∧
     (s.timeRuns = true → u.arm = some m → s.actB F.LL_CFG_MODE n = false →
       ((e : Int) ≤ at_ → at_ - llLead ≤ (s.lt40 : Int) → exec (.llCommit n) s = .next (s.setLl n { u with
         arm := none
         com := u.com ++ [{ rise := at_.toNat, fall := at_.toNat + wid, late := false, a := m.a, src := m.src, i := m.i,
                            passed := 0 }] })) ∧
       (at_ < (e : Int) → (e : Int) - llLead ≤ (s.lt40 : Int) →
         (s.actB F.LL_CFG_LATEP n = false → exec (.llCommit n) s = .next ((s.raise F.LL_STAT_LATE n).setLl n { u with
           arm := none
           com := u.com ++ [{ rise := e, fall := e + wid, late := true, a := m.a, src := m.src, i := m.i, passed := 0 }] })) ∧
         (s.actB F.LL_CFG_LATEP n = true → exec (.llCommit n) s =
           .next ((((s.setLl n { u with arm := none }).raise F.LL_STAT_LATE n).bump F.LL_CNTS_DROPN n).llRecord n 2
             (e / 2 ^ 32) m.a m.src m.i 0))) ∧
       ((s.lt40 : Int) < max at_ e - llLead → exec (.llCommit n) s = .next s ∧ y = s)) ∧
     (s.timeRuns = true → u.com = p :: ps → u.run = none →
       let ms := s.llPlaced n p.rise;
       (p.rise ≤ s.lt40 → p.late = false → exec (.llPulseRise n) s =
         .next (((((((s.setLl n { u with com := ps, run := some p }).llConf n).llEdge n true ms).bump
           F.LL_CNTS_FIRED n).llRecord n 0 ms p.a p.src p.i p.passed)).xSample (0x170 + n) ms (.value 1))) ∧
       (s.lt40 < p.rise → exec (.llPulseRise n) s = .next s)) ∧
     (u.run = some p → exec (.llPulseFall n) s =
       .next (if s.timeRuns = true ∧ p.fall ≤ s.lt40 then (s.setLl n { u with run := none }).llEdge n false (s.llPlaced n p.fall)
         else s)))

/-- The master launches the CSM that is due and takes its return as the round trip, and a node without a CSM within CLEN
+ 1 us counts a miss; a received CSM with a wrong CRC starts no slots, a correct one is shown and answered with an ECHO,
whose receiver takes a link delay value from it (R335, R336, R337, R338, R345). -/
def Obligations.CycleStartResults : Prop :=
  (∀ (s : State) (ph : Fin 32) (turn : Fin 16001) (bytes : List Byte) (nom cyc : Nat) (rest : List Nat) (dep : Int)
     (out : List (Nat × Int)), s.Wf →
     let r := s.ring;
     let l := fromBytes bytes;
     let rx := s.rgArrive ph;
     (s.timeRuns = true → s.rgMaster = true → s.kerbOpen = true → r.csmDue = nom :: rest → 256 * nom ≤ s.stamp ph →
       s.rgBusy (s.rgDepart ph) = false → within r.own (s.rgDepart ph) = false → r.bells = [] →
       let csm := csmSyms (withCrc (csmBytes (s.rgDepart ph).toNat s.ltq (s.fld F.CT_CTRL_SEL) (!s.rgDval) r.cyc s.rgDelta
         r.rtt s.rgClen) true) ++ idleSet;
       ∃ t, exec (.csmLaunch ph) s = .next t ∧
         t.out = .ringTx s.rgD (s.rgDepart ph) csm (s.rgLine s.rgD csm).1 :: s.out ∧
         t.ring.csmDue = rest ∧ t.ring.cyc = (r.cyc + 1) % 65536 ∧ t.ring.ret = r.ret ++ [(r.cyc, s.rgDepart ph)] ∧
         t.ring.lastCyc = some r.cyc ∧ t.ring.slotsDue = s.rgSlots ∧ t.reg .RG_CYCN = BitVec.ofNat 32 r.cyc) ∧
     (r.csmDue = [] → exec (.csmLaunch ph) s = .next s) ∧
     (r.csmDue = nom :: rest → s.rgBusy (s.rgDepart ph) = true → exec (.csmLaunch ph) s = .next s) ∧
     (s.timeRuns = true → s.rgMaster = true → s.rxLocked s.rgU = true → bytes.length = 28 →
       cyc = fromLe ((l.drop 10).take 2) →
       let rtt := (((rx - dep) / 16) % 2 ^ 32).toNat;
       let v := State.setReg { s with ring := { r with ret := out, rtt := rtt } } .RG_RTT 0 (BitVec.ofNat 32 rtt);
       (crc32 (l.take 24) = fromLe (l.drop 24) → r.ret = (cyc, dep) :: out →
         exec (.csmReturn ph turn bytes) s = .next (v.rgEcho rx turn cyc)) ∧
       (crc32 (l.take 24) ≠ fromLe (l.drop 24) → r.ret = (nom, dep) :: out →
         exec (.csmReturn ph turn bytes) s = .next v)) ∧
     (s.rgNode = true → r.expect = true → r.lastAt + 256 * r.clen + us256 ≤ (s.ltMs : Int) →
       exec .csmMiss s = .next (((State.bump { s with ring := { r with
         expect := false, good := false, slotsDue := s.rgSlots } } F.RG_ERR0_CSMISS).raise F.RG_STATUS_CSLOST).rgEvent 4
         s.rgU 0 (r.lastAt + 256 * r.clen + us256).toNat))) ∧
  (∀ (s : State) (ph : Fin 32) (lat : Fin 129) (turn : Fin 16001) (bytes echo : List Byte) (cyc : Nat), s.Wf →
     s.timeRuns = true →
     let l := fromBytes bytes;
     let e := fromBytes echo;
     let tx := s.rgArrive ph + 16 * (5056 + (lat.val : Int));
     (s.rgNode = true → s.rxLocked s.rgU = true → bytes.length = 28 → s.kerbOpen = true → s.ring.bells = [] →
       ∃ t, exec (.csmReceive ph lat turn bytes) s = .next t ∧ t.ring.t1 = tx ∧
         t.ring.lastCyc = some (fromLe ((l.drop 10).take 2)) ∧ t.ring.lastAt = s.rgArrive ph ∧ t.ring.expect = true ∧
         t.ring.good = (crc32 (l.take 24) == fromLe (l.drop 24)) ∧ t.ring.slotsDue = s.rgSlots ∧
         (crc32 (l.take 24) = fromLe (l.drop 24) →
           t.reg .RG_CYCN = BitVec.ofNat 32 (fromLe ((l.drop 10).take 2)) ∧
           t.reg .RG_RTT = BitVec.ofNat 32 (fromLe ((l.drop 16).take 4)) ∧
           ∃ fw up down, t.out = .ringTx s.rgU (s.rgArrive ph + 16 * (turn.val : Int)) (echoSyms (withCrc
             (leBytes 2 (fromLe ((l.drop 10).take 2)) ++ leBytes 4 turn) true) ++ idleSet) up ::
               .ringTx s.rgD tx fw down :: s.out)) ∧
     (s.rgPers = 1 → e.length = 10 → crc32 (e.take 6) = fromLe (e.drop 6) → cyc = fromLe (e.take 2) →
       (s.ring.lastCyc = some cyc → s.ring.deltas = [] →
         let dm : Int := (s.rgArrive ph - s.ring.t1) - 16 * fromLe ((e.drop 2).take 4);
         ∃ t, exec (.echoReceive ph echo) s = .next t ∧ t.ring.deltas = [dm] ∧
           bit (t.reg .RG_DELAY).toNat 16 = true) ∧
       (s.ring.lastCyc ≠ some cyc → exec (.echoReceive ph echo) s = .next s)))

/-- A post takes the buffers as they stand, a due slot is sent, skipped or refused, and a received frame is removed by
its sender, counted as an orphan or as one that another takes the place of, or forwarded and delivered, one with a code
violation counted (R339, R340, R341, R342, R343, R344). -/
def Obligations.RingSlotsAndFrames : Prop :=
  (∀ (s : State) (req : Req) (i : Fin 8), s.Wf →
    let r := s.ring;
    let ofs := 8 * s.act F.RG_SLOT_OFS8 i;
    let sof : Int := r.t1 + 256 * ofs;
    let v : State := { s with ring := { r with slotsDue := r.slotsDue.filter (· ≠ i.val) } };
    let p := s.portWords .RG_SLOTBUF ((List.range 64).map (64 * i.val + ·));
    let ready := r.posts.filter fun p => p.1 == i.val && decide ((p.2.1 : Int) + 64 * 256 ≤ sof);
    let words := ((ready.getLast?.map fun p => p.2.2).getD []).take (s.act F.RG_SLOT_LEN i);
    let dur := frameNs words.length;
    (s.writes req .RG_SLOTCMD 0 (BitVec.ofNat 32 (2 ^ i.val)) = true →
      exec (.rgPost req (Fin.ofNat 256 (2 ^ i.val))) s =
        .next (State.answered { p.1 with ring := { r with posts := r.posts ++ [(i.val, s.ltMs, p.2)] } } req)) ∧
    (s.timeRuns = true → s.rgPers = 1 → s.kerbOpen = true → r.slotsDue.contains i.val = true →
      (r.good = false → exec (.slotFrameSend i) s = .next (v.bump F.RG_ERR1_NOCSM)) ∧
      (r.good = true → (s.ltMs : Int) < sof → exec (.slotFrameSend i) s = .next s) ∧
      (r.good = true → sof ≤ (s.ltMs : Int) →
        (16 * r.clen < 16 * (ofs + dur + 64) + r.cycRtt → exec (.slotFrameSend i) s = .next (v.bump F.RG_ERR1_SLOTSKIP)) ∧
        (16 * (ofs + dur + 64) + r.cycRtt ≤ 16 * r.clen →
          (s.rgBusy sof = true → exec (.slotFrameSend i) s = .next (v.bump F.RG_ERR1_SLOTCOL)) ∧
          (s.rgBusy sof = false → r.bells = [] → ∃ t line, exec (.slotFrameSend i) s = .next t ∧
            t.out = .ringTx s.rgD sof (frameSyms (dataSyms (withCrc ([s.act F.RG_CFG_ADDR, i.val, 0, words.length] ++
              leBytes 2 (r.lastCyc.getD 0) ++ [0, 0] ++ words.flatMap fun w => leBytes 4 w.toNat) true)) ++ idleSet) line :: s.out ∧
            t.ring.own = (sof, sof + 256 * dur) ∧ t.ring.slotsDue = r.slotsDue.filter (· ≠ i.val)))))) ∧
  (∀ (s : State) (ph : Fin 32) (lat : Fin 129) (bytes : List Byte) (syms : List RgSym), s.Wf →
    s.timeRuns = true → s.rgPers = 1 → s.rxLocked s.rgU = true →
    let r := s.ring;
    let l := fromBytes bytes;
    let good := bytes.map RgSym.d;
    let tx := s.rgArrive ph + 16 * (5056 + (lat.val : Int));
    let free := within r.own tx = false ∧ within r.csm tx = false;
    let src := l.getD 0 0;
    let slot := l.getD 1 0 % 8;
    let m := bit (l.getD 2 0) 0;
    (12 ≤ l.length → l.getD 3 0 ≤ 64 → l.length = 12 + 4 * l.getD 3 0 →
      crc32 (l.take (l.length - 4)) = fromLe (l.drop (l.length - 4)) →
      (bytes.head? = some (BitVec.ofNat 8 (s.act F.RG_CFG_ADDR)) → exec (.ringFrameReceive ph lat good) s = .next s) ∧
      (bytes.head? ≠ some (BitVec.ofNat 8 (s.act F.RG_CFG_ADDR)) →
        (s.rgMaster = true → m = true → exec (.ringFrameReceive ph lat good) s = .next (s.bump F.RG_ERR0_ORPHAN)) ∧
        (s.rgMaster = false → ¬ free → exec (.ringFrameReceive ph lat good) s = .next (s.bump F.RG_ERR1_FWDDROP)) ∧
        (s.rgMaster = false → free → exec (.ringFrameReceive ph lat good) s = .next
          { s with ring := { r with fwd := r.fwd ++ [{
            at_ := tx, stop := tx + 256 * (8 * (2 + l.length) : Nat), syms := good,
            pkt := (s.rgFilter src slot).map fun k => {
              typ := 8, idx := k, ms := (s.rgArrive ph).toNat,
              payload := BitVec.ofNat 32 (fromLe ((l.drop 4).take 2) * 65536 + src * 256 + (if m then 128 else 0) + slot) ::
                (List.range (l.getD 3 0)).map fun j => BitVec.ofNat 32 (fromLe ((l.drop (8 + 4 * j)).take 4)) } }] } }))) ∧
    (RgSym.bad ∈ syms → syms.head? ≠ some (.d (BitVec.ofNat 8 (s.act F.RG_CFG_ADDR))) → s.rgMaster = false → free →
      ∃ t f, exec (.ringFrameReceive ph lat syms) s = .next t ∧ t.ring.fwd = r.fwd ++ [f] ∧ f.at_ = tx ∧ f.pkt = none ∧
        RgSym.k 0xFE ∈ f.syms ∧ f.syms.length = syms.length ∧
        t.fld F.RG_ERR0_CODEERR = min (s.fld F.RG_ERR0_CODEERR + 1) (maxOf F.RG_ERR0_CODEERR.width)))

/-- An opening and a closing of the Kerb each begin at the transition instant, take effect when they complete, and
report it; KCLOSE and a loss of the transmit PLL close it at once; a receiver that gains or loses lock by the code groups
that it receives reports it and leaves the Kerb; a Bell waits for the tick and ends after its time (R331, R352, R353,
R355). -/
def Obligations.KerbResults : Prop :=
  (∀ (s : State) (req : Req), s.Wf →
     let shut (t : State) : State := { t with ring := { t.ring with
       since := none, openAt := none, fwd := [], kerbN := false } }.emit (.kerbN false s.ltMs);
     let kst := s.fld F.RG_KSTAT_KST;
     (kst = 0 → s.kerbReady = true → s.ring.hold = false → s.kerbInstant s.kerbRelay = true →
       ∃ t l0 l1, exec .kerbOpen s = .next t ∧ t.fld F.RG_KSTAT_KST = 1 ∧ t.flag F.RG_STATUS_KCHG = true ∧
         t.ring.since = none ∧ t.ring.openAt = some s.kerbTime ∧ t.ring.kerbN = true ∧
         t.out = .ringTx 1 s.kerbTime idleSet l1 :: .ringTx 0 s.kerbTime idleSet l0 ::
           .kerbN true (s.kerbTime - s.kerbRelay) :: s.out) ∧
     (kst = 0 → s.kerbInstant s.kerbRelay = false → exec .kerbOpen s = .next s) ∧
     (kst = 2 → s.kerbBar = some 1 → s.kerbInstant 0 = true → exec .kerbClose s =
       .next (shut (((s.setFld F.RG_KSTAT_KST 0 3).raise F.RG_STATUS_KCHG).setFld F.RG_KSTAT_CAUSE 0 1))) ∧
     (kst = 2 → s.kerbBar = some 2 → exec .kerbClose s =
       .next (shut (((s.setFld F.RG_KSTAT_KST 0 3).raise F.RG_STATUS_KCHG).setFld F.RG_KSTAT_CAUSE 0 2))) ∧
     (kst = 1 → ∃ t, exec .kerbOpenComplete s = .next t ∧ t.kerbOpen = true ∧ t.fld F.RG_KSTAT_CAUSE = 0 ∧
       t.flag F.RG_STATUS_KCHG = true ∧ t.ring.csmDue = s.ring.csmDue.filter (fun n => decide (s.ltMs ≤ 256 * n)) ∧
       t.presented = s.presented ++ [{ typ := 8, idx := 64, ms := s.ltMs, payload := [0],
                                       dests := if s.routed 8 64 then some (s.routesOf 8 64) else none }]) ∧
     (kst = 3 → ∃ t, exec .kerbCloseComplete s = .next t ∧ t.fld F.RG_KSTAT_KST = 0 ∧ t.flag F.RG_STATUS_KCHG = true ∧
       t.fld F.RG_KSTAT_KTRN = min (s.fld F.RG_KSTAT_KTRN + 1) (maxOf F.RG_KSTAT_KTRN.width) ∧
       t.presented.length = s.presented.length + 1) ∧
     (kst = 2 → (s.writes req .RG_CMD 0 4 = true → ∃ t : State, exec (.rgKclose req) s = .next (t.answered req) ∧
         t.fld F.RG_KSTAT_KST = 3 ∧ t.fld F.RG_KSTAT_CAUSE = 5 ∧ t.ring.kclose = true) ∧
       (∃ t, exec .transmitPllLoss s = .next t ∧ t.fld F.RG_KSTAT_KST = 3 ∧ t.fld F.RG_KSTAT_CAUSE = 6 ∧
         t.ring.pll = false)) ∧
     (s.powered pdRing = true → ∃ t, exec .transmitPllLock s = .next t ∧ t.ring.pll = true ∧
       t.fld F.RG_KSTAT_KST = kst)) ∧
  (∀ (s : State) (req : Req) (p : Fin 2) (groups : List (Fin 1024)) (e : Nat), s.Wf →
     let lock := if p.val = 0 then F.RG_STATUS_RXL0 else F.RG_STATUS_RXL1;
     (s.powered pdRing = true → s.rxLocked p = false → lockSeen s.rgK (groups.map (·.val)) = true →
       ∃ t, exec (.rgRxLock p groups) s = .next t ∧ t.rxLocked p = true ∧
       t.flag F.RG_STATUS_LCHG = true ∧ t.fld F.RG_KSTAT_KST = s.fld F.RG_KSTAT_KST ∧
       t.presented.length = s.presented.length + 1) ∧
     (lockSeen s.rgK (groups.map (·.val)) = false → exec (.rgRxLock p groups) s = .next s) ∧
     (s.rxLocked p = true → lockGone s.rgK (groups.map (·.val)) = true →
       ∃ t, exec (.rgRxLockLost p groups) s = .next t ∧ t.flag lock = false ∧
       t.flag F.RG_STATUS_LCHG = true ∧ t.fld F.RG_KSTAT_KST = s.fld F.RG_KSTAT_KST ∧
       t.presented.length = s.presented.length + 1) ∧
     (lockGone s.rgK (groups.map (·.val)) = false → exec (.rgRxLockLost p groups) s = .next s) ∧
     (s.writes req .RG_CMD 0 (BitVec.ofNat 32 (2 ^ p.val)) = true →
       (s.kerbOpen = true → exec (.rgBell req p) s =
         .next (State.answered { s with ring := { s.ring with bellReq := p.val :: s.ring.bellReq } } req)) ∧
       (s.kerbOpen = false → exec (.rgBell req p) s = .next ((s.raise F.RG_STATUS_CMDREF).answered req))) ∧
     (assoc s.ring.bells p = some e →
       (s.ltMs < e → exec (.rgBellEnd p) s = .next s) ∧
       (e ≤ s.ltMs → let b := s.ring.bells.filter fun q => q.1 != p.val;
         exec (.rgBellEnd p) s = .next ((State.setFld { s with ring := { s.ring with bells := b } }
           F.RG_STATUS_BELLACT 0 (if b.isEmpty then 0 else 1)).rgEvent 5 p 0 e))))

/-- A frame for the own address is not forwarded, another is forwarded as it came, and one with a wrong FCS with a wrong
FCS; Sync and Follow_Up give a measurement or lapse, a master sends Sync and Announce with rising numbers; the peer
delay exchange gives a value, and the third timeout in a row makes it invalid. The layout of the messages sent is the
model's (notes/assumptions/196.md) (R346, R347, R348, R349). -/
def Obligations.RingEthernetResults : Prop :=
  (∀ (s : State) (p : Fin 2) (res : Nat) (bytes : List Byte), s.Wf → s.ethOn = true → 64 ≤ bytes.length → s.ring.bells = [] →
     let l := fromBytes bytes;
     let body := l.take (l.length - 4);
     let good := crc32 body = fromLe (l.drop (l.length - 4));
     let dep := max ((s.ltMs : Int) + 256 * 320 + 16 * res) (s.ethFree (1 - p.val));
     (¬ good → ∃ t line, exec (.ethernetFrameReceive p res bytes) s = .next t ∧
       t.out = .eth (1 - p.val) dep (toBytes (withCrc body false)) line :: s.out ∧
       t.fld F.RG_ETHERR_FCSERR = min (s.fld F.RG_ETHERR_FCSERR + 1) (maxOf F.RG_ETHERR_FCSERR.width)) ∧
     (good → l.length ≤ 1522 → fromBe (l.take 6) = s.ownMac → fromBe (l.take 6) ≠ 0x0180C200000E →
       fromBe ((l.drop 12).take 2) ≠ 0x88F7 →
       exec (.ethernetFrameReceive p res bytes) s = .next (s.bump F.RG_ETHERR_DROPOWN)) ∧
     (good → fromBe (l.take 6) ≠ s.ownMac → fromBe (l.take 6) ≠ 0x0180C200000E → fromBe ((l.drop 12).take 2) ≠ 0x88F7 →
       ∃ t line, exec (.ethernetFrameReceive p res bytes) s = .next t ∧ t.out = .eth (1 - p.val) dep bytes line :: s.out ∧
         t.ethFree (1 - p.val) = dep + 256 * ethNs l.length)) ∧
  (∀ (s : State) (p : Fin 2) (ph : Fin 32) (dom : Fin 256) (sq : Fin 65536) (origin : Nat) (corr : Int) (w : PtpWait) (x : Fin 2),
     s.Wf →
     let q := s.act F.RG_PTPCFG_PORT x;
     let d := s.act F.RG_PTPCFG_DOM x;
     (s.timeRuns = true → s.ethOn = true → s.ptpSlave 0 p dom = true → s.ptpSlave 1 p dom = false →
       let v := (s.bump F.RG_PTPSTAT_SYNCN 0).setFld F.RG_PTPSTAT_SEQ 0 sq;
       let tx := s.rgArriveIn false ph;
       let gone : State := { s with ring := { s.ring with ptpWait := assocDel s.ring.ptpWait 0 } };
       exec (.ptpSyncReceive p ph dom sq true origin corr) s = .next { v with ring := { v.ring with
         ptpWait := assocSet v.ring.ptpWait 0 { seq := sq, m := s.rgArrive ph, tx := tx, corr := corr } } } ∧
       exec (.ptpSyncReceive p ph dom sq false origin corr) s = .next (State.ptpMeasure
         { v with ring := { v.ring with ptpWait := assocDel v.ring.ptpWait 0 } } 0 tx origin corr) ∧
       (assoc s.ring.ptpWait 0 = some w → w.seq = sq.val →
         ((s.ltMs : Int) < w.m + logSec (s.act F.RG_PTPCFG_SYNCLOG 0) →
           exec (.ptpFollowUpReceive p dom sq origin corr) s = .next (gone.ptpMeasure 0 w.tx origin (w.corr + corr))) ∧
         (w.m + logSec (s.act F.RG_PTPCFG_SYNCLOG 0) ≤ (s.ltMs : Int) →
           exec (.ptpFollowUpReceive p dom sq origin corr) s = .next gone))) ∧
     (assoc s.ring.ptpWait x = some w →
       exec (.followUpTimeout x) s = .next (if w.m + logSec (s.act F.RG_PTPCFG_SYNCLOG x) ≤ (s.ltMs : Int)
         then { s with ring := { s.ring with ptpWait := assocDel s.ring.ptpWait x } } else s)) ∧
     (s.timeRuns = true → s.ptpMaster x = true → s.ring.bells = [] → s.ethIdle q = true →
       (s.lapsed (assoc s.ring.ptpAt x) (logSec (s.act F.RG_PTPCFG_SYNCLOG x)) = true →
         let k := (assoc s.ring.ptpSeq x).getD 0;
         let tx := s.rgDepartIn (x.val == 1) 0;
         let m : PtpMsg := { msg := 0, dom := d, seq := k, ctl := 0, every := logByte (s.act F.RG_PTPCFG_SYNCLOG x) };
         ∃ t sync, exec (.ptpSyncSend x) s = .next t ∧ t.ring.ptpSeq = assocSet s.ring.ptpSeq x ((k + 1) % 65536) ∧
           t.ring.ptpAt = assocSet s.ring.ptpAt x s.ltMs ∧
           (s.actB F.RG_PTPCFG_STEP x = false → t.out = .eth q (s.rgDepart 0)
             (toBytes (s.ptpFrame q { m with corr := tx % 256 * 256 } (ptpTime tx))) sync :: s.out) ∧
           (s.actB F.RG_PTPCFG_STEP x = true → ∃ at_ follow, t.out =
             .eth q at_ (toBytes (s.ptpFrame q { m with msg := 8, corr := tx % 256 * 256, ctl := 2 } (ptpTime tx))) follow ::
             .eth q (s.rgDepart 0) (toBytes (s.ptpFrame q { m with flags := 0x200 } (ptpTime tx))) sync :: s.out)) ∧
       (s.lapsed (assoc s.ring.annAt x) (logSec (s.act F.RG_PTPCFG_ANNLOG x)) = true →
         let k := (assoc s.ring.annSeq x).getD 0;
         ∃ t body line, exec (.ptpAnnounceSend x) s = .next t ∧ t.ring.annSeq = assocSet s.ring.annSeq x ((k + 1) % 65536) ∧
           body.length = 30 ∧ (body.drop 10).take 2 = beBytes 2 ((s.actw .RG_PTPUTC x).toNat % 65536) ∧
           t.out = .eth q (s.rgDepart 0) (toBytes (s.ptpFrame q {
             msg := 11, dom := d, seq := k, flags := s.utcFlags x,
             every := logByte (s.act F.RG_PTPCFG_ANNLOG x) } body)) line :: s.out))) ∧
  (∀ (s : State) (p : Fin 2) (ph : Fin 32) (sq : Fin 65536) (who : BitVec 80) (turn q : Nat) (t1 t2 t3 : Int), s.Wf →
     (s.timeRuns = true → s.ethOn = true → s.ring.bells = [] →
       (s.actB F.RG_PDCFG_EN p = true → s.lapsed (assoc s.ring.pdAt p) (logSec (s.act F.RG_PDCFG_PDLOG p)) = true →
         s.ethIdle p = true → assoc s.ring.pd p = none →
         let k := (assoc s.ring.pdSeq p).getD 0;
         ∃ t line, exec (.pdelayReqSend p ph) s = .next t ∧ t.ring.pdSeq = assocSet s.ring.pdSeq p ((k + 1) % 65536) ∧
           t.ring.pd = assocSet s.ring.pd p (k, s.rgDepart ph) ∧ t.out = .eth p (s.rgDepart ph) (toBytes (s.ptpFrame p
             { msg := 2, seq := k, every := logByte (s.act F.RG_PDCFG_PDLOG p) } (List.replicate 20 0))) line :: s.out) ∧
       (let at2 := s.rgArrive ph;
        let at3 := max (at2 + 16 * turn) (s.ethFree p);
        let whom := beBytes 10 who.toNat;
        ∃ t at_ a b, exec (.pdelayReqReceive p ph sq who turn) s = .next t ∧ t.out =
          .eth p at_ (toBytes (s.ptpFrame p { msg := 10, seq := sq, corr := ptpFrac at3 } (ptpTime at3 ++ whom))) b ::
          .eth p at3 (toBytes (s.ptpFrame p { msg := 3, seq := sq, flags := 0x200, corr := -ptpFrac at2 }
            (ptpTime at2 ++ whom))) a :: s.out)) ∧
     (assoc s.ring.pd p = some (q, t1) →
       (s.timeRuns = true → s.ethOn = true → q = sq.val → (s.ltMs : Int) < t1 + logSec (s.act F.RG_PDCFG_PDLOG p) →
         let v : Int := (s.rgArrive ph - t1) - shown (t3 - t2) 256;
         let ds := (v :: (assoc s.ring.pdDelta p).getD []).take 8;
         exec (.pdelayRespReceive p ph sq t2 t3) s = .next (State.setReg { s with ring := { s.ring with
           pd := assocDel s.ring.pd p, pdMiss := assocDel s.ring.pdMiss p, pdDelta := assocSet s.ring.pdDelta p ds } }
           .RG_PDLY p (BitVec.ofNat 32 (2 ^ 31 + (meanDelay ds % 2 ^ 24).toNat)))) ∧
       (t1 + logSec (s.act F.RG_PDCFG_PDLOG p) ≤ (s.ltMs : Int) →
         let k := (assoc s.ring.pdMiss p).getD 0 + 1;
         let v := State.bump { s with ring := { s.ring with
           pd := assocDel s.ring.pd p, pdMiss := assocSet s.ring.pdMiss p k } } F.RG_ETHERR_PDTO;
         exec (.pdelayTimeout p) s = .next (if 3 ≤ k then v.setFld F.RG_PDLY_VAL p 0 else v)) ∧
       ((s.ltMs : Int) < t1 + logSec (s.act F.RG_PDCFG_PDLOG p) → exec (.pdelayTimeout p) s = .next s)))

/-- A configuration request is answered, answered with retry status during LOAD, or not at all in reset; a host link
trains, leaves and enters L1 and goes down; the release of HPn_PERST_N, a function level reset, and the sending of a
pending MSI-X message (R357, R358, R361, R362, R377, R430, R441, R442, R482). -/
def Obligations.HostLinkResults : Prop :=
  (∀ (s : State) (q : Fin 4) (c : CfgReq) (w : Fin 1024) (b m : Bool), s.Wf →
     let u := s.qOf q;
     let up := s.powered pdHost = true ∧ bit s.pm.perst (q / 2) = true;
     (¬ up → exec (.pcieConfigRequest q c) s = .next s) ∧
     (up → s.cfgRetry q = true → exec (.pcieConfigRequest q c) s = .next (s.emit (.cfg q none))) ∧
     (up → s.cfgRetry q = false →
       exec (.pcieConfigRequest q (.read w)) s = .next (s.emit (.cfg q (some (s.cfgWord q w)))) ∧
       exec (.pcieConfigRequest q (.msix b m)) s =
         .next ((s.setQ q { u with msixEn := b, fmask := m }).emit (.cfg q (some 0))) ∧
       exec (.pcieConfigRequest q (.payload b)) s =
         .next ((s.setQ q { u with mps := if b then 256 else 128 }).emit (.cfg q (some 0))) ∧
       ∃ t, exec (.pcieConfigRequest q (.busMaster b)) s = .next t ∧ (t.qOf q).busMaster = b ∧
         t.flag F.HP_QSTAT_ACT q = (s.linkUp (q / 2) && b) ∧ t.out = .cfg q (some 0) :: s.out)) ∧
  (∀ (s : State) (p : Fin 2) (q : Fin 4) (fast : Bool) (off : Fin 1048576) (vec : Fin 16) (at_ : Nat), s.Wf →
     let u := s.qOf q;
     (s.powered pdHost = true → bit s.pm.perst p = true →
       ∃ t, exec (.hostLinkTrained p fast) s = .next t ∧ t.linkUp p = true ∧ t.fld F.HP_LSTAT_LST p = 1 ∧
         t.fld F.HP_LSTAT_SPD p = (if fast then 2 else 1) ∧ bit t.pm.wakeN p = false) ∧
     (∃ t, exec (.hostLinkDown p) s = .next t ∧ t.linkUp p = false ∧ t.reg .HP_LSTAT p = 0 ∧
       t.flag F.HP_QSTAT_ACT (2 * p) = false ∧ t.flag F.HP_QSTAT_ACT (2 * p + 1) = false) ∧
     (s.linkUp p = true → s.fld F.HP_LSTAT_LST p ≠ 1 → s.mode ≠ 5 →
       exec (.hostLinkL0 p) s = .next ((s.setFld F.HP_LSTAT_LST p 1).wakeRelease p)) ∧
     (s.linkUp p = true → s.fld F.HP_LSTAT_LST p ≠ 1 → s.mode = 5 → s.flag F.PM_CFG_DOZAX = true → s.pm.dozeExit = none →
       ∃ t, exec (.hostLinkL0 p) s = .next t ∧ t.pm.dozeExit = some false ∧ t.fld F.HP_LSTAT_LST p = 1 ∧ t.mode = 5) ∧
     (s.mode = 5 → s.linkUp p = true → s.fld F.HP_LSTAT_LST p = 1 → bit s.pm.aspm p = true →
       exec (.hostLinkL1Entry p) s = .next (s.setFld F.HP_LSTAT_LST p 3)) ∧
     (∃ t, exec (.perstRelease p) s = .next t ∧ bit t.pm.perst p = true ∧ t.reg .HP_LSTAT p = 0 ∧
       (t.qOf (2 * p)).qr.isSome = true ∧ (t.qOf (2 * p + 1)).qr.isSome = true ∧
       (t.qOf (2 * p)).busMaster = false ∧ (t.qOf (2 * p + 1)).busMaster = false) ∧
     (∃ t, exec (.functionLevelReset q) s = .next t ∧ (t.qOf q).busMaster = false ∧ (t.qOf q).msixEn = false ∧
       (t.qOf q).qr = some (min 0 (u.qr.getD 0)) ∧ t.flag F.HP_QSTAT_QRP q = true) ∧
     (at_ + 256 * 50000 ≤ s.ltMs → exec (.bar0ReadTimeout q off at_) s =
       .next ((s.raise F.HP_QSTAT_RDTO q).emit (.bar q off 0xFFFFFFFF false))) ∧
     (s.ltMs < at_ + 256 * 50000 → exec (.bar0ReadTimeout q off at_) s = .next s) ∧
     (u.msixPend.contains vec.val = true → s.mayMsg q vec = true → exec (.msixPendingSend q vec) s =
       .next ((s.setQ q { u with msixPend := u.msixPend.filter (· != vec.val) }).emit (.msix q vec
         ((s.bar2Word q (0xF000 + 16 * vec)).toNat + 2 ^ 32 * (s.bar2Word q (0xF000 + 16 * vec + 4)).toNat)
         (s.bar2Word q (0xF000 + 16 * vec + 8))))))

/-- HP_CPI takes a write that runs at most 64 ahead of HP_RPI; a response writes its entry, advances HP_RPI and ends the
command; the commands that answer at once give their answer on well-formed arguments and the statuses 1 to 4 (R299,
R367, R368, R369, R370, R371). -/
def Obligations.MailboxResults : Prop :=
  (∀ (s : State) (req : Req) (q : Fin 4) (w : Word) (c : MbCmd) (st : Nat) (res : List Word), s.Wf →
     let ahead := (((w.toNat % 65536 : Nat) : Int) - s.fld F.HP_RPI_IDX q) % 65536;
     (s.writes req .HP_CPI q w = true →
       (ahead ≤ 64 → exec (.hpCpiWrite req q w) s =
         .next ((s.setFld F.HP_CPI_IDX q (w.toNat % 65536)).answered req)) ∧
       (64 < ahead → exec (.hpCpiWrite req q w) s = .next ((s.raise F.HP_QSTAT_CMDERR q).answered req))) ∧
     ((s.qOf q).cmd = some c → c.idx < 65536 →
       let t := s.respond q st res;
       (t.qOf q).cmd = none ∧ t.fld F.HP_RPI_IDX q = (c.idx + 1) % 65536 ∧
         t.bar2Word q (0x1000 + 64 * (c.idx % 64)) =
           BitVec.ofNat 32 (st * 2 ^ 24 + mbOp c.words * 2 ^ 16 + arg c.words 0 % 65536) ∧
         t.bar2Word q (0x1000 + 64 * (c.idx % 64) + 4) = res.getD 0 0 ∧ t.live.get regDefault (Reg.key .HP_CPI q) =
           s.live.get regDefault (Reg.key .HP_CPI q)) ∧
     (s.mbReady q = false → exec (.nopCommand q) s = .next s)) ∧
  (∀ (s : State) (q : Fin 4), s.Wf → s.mbReady q = true →
     let v := (s.took q).1;
     let ws := (s.took q).2;
     let fine := bits (arg ws 0) 23 16 = 0 ∧ v.mode ≠ 8;
     let st (k : Nat) := arg ws (1 + k);
     let cl (k : Nat) := arg ws (4 + k);
     (mbOp ws = 0 ∨ (0x0A ≤ mbOp ws ∧ mbOp ws ≤ 0x7F) → exec (.reservedCommand q) s = .next (v.respond q 1 [])) ∧
     (mbOp ws = 1 → exec (.nopCommand q) s =
       .next (v.respond q (if bits (arg ws 0) 23 16 = 0 then 0 else 3) [])) ∧
     (mbOp ws ≠ 1 → exec (.nopCommand q) s = .next s) ∧
     (mbOp ws = 5 →
       (fine → exec (.pinGet q) s = .next (v.respond q 0 ([0] ++
         (List.range 3).map (fun k => BitVec.ofNat 32 (v.gpIn k &&& v.pinMask q k)) ++
         (List.range 3).map (fun k => BitVec.ofNat 32 ((v.reg .GP_OUT k).toNat &&& v.pinMask q k))))) ∧
       (bits (arg ws 0) 23 16 = 0 → v.mode = 8 → exec (.pinGet q) s = .next (v.respond q 2 []))) ∧
     (mbOp ws = 6 →
       (fine → (∀ k < 3, st k &&& cl k = 0 ∧ (st k ||| cl k) &&& v.pinMask q k = st k ||| cl k) →
         ∃ t : State, exec (.pinSet q) s = .next (t.respond q 0 []) ∧ (∀ k < 3, t.reg .GP_OUT k =
           (v.reg .GP_OUT k &&& ~~~(BitVec.ofNat 32 (cl k))) ||| BitVec.ofNat 32 (st k))) ∧
       (bits (arg ws 0) 23 16 = 0 → (∃ k < 3, st k &&& cl k ≠ 0) → exec (.pinSet q) s = .next (v.respond q 3 []))) ∧
     (mbOp ws = 9 → fine → evtBad (arg ws 1) = false → v.evtDenied q (arg ws 1) = false →
       exec (.wake q) s = .next ((v.evtSend (arg ws 1)).respond q 0 [])) ∧
     (mbOp ws = 9 → fine → evtBad (arg ws 1) = false → v.evtDenied q (arg ws 1) = true →
       exec (.wake q) s = .next (v.respond q 2 [])) ∧
     (0x80 ≤ mbOp ws →
       (fine → v.flag F.HP_UCFG_EN q = false → exec (.userCommand q) s = .next (v.respond q 1 [])) ∧
       (bits (arg ws 0) 23 16 ≠ 0 → exec (.userCommand q) s = .next (v.respond q 3 [])) ∧
       (bits (arg ws 0) 23 16 = 0 → v.mode = 8 → exec (.userCommand q) s = .next (v.respond q 2 []))))

/-- A QUOTA and a THREAD_RESTART wait for their tick, a QUARTER_RESET is requested, a MODE is refused, done already or
waits, a DEVICE_RESET resets, and a user command waits for its thread (R369, R371, R379, R382, R384, R439, R440, R441,
R453). -/
def Obligations.MailboxDeferred : Prop :=
  ∀ (s : State) (req : Req) (q : Fin 4) (w : Word), s.Wf →
    let v := (s.took q).1;
    let ws := (s.took q).2;
    let fine := bits (arg ws 0) 23 16 = 0 ∧ v.mode ≠ 8;
    let a := arg ws 1;
    (s.mbReady q = true → fine →
      (mbOp ws = 2 → quotaBad ws = false →
        (v.sup = q.val → v.quotaRefused ws = false → exec (.quota q) s = .next v) ∧
        (v.sup = q.val → v.quotaRefused ws = true → exec (.quota q) s = .next (v.respond q 4 [])) ∧
        (v.sup ≠ q.val → exec (.quota q) s = .next (v.respond q 2 []))) ∧
      (mbOp ws = 3 → a < 4 → (a = q.val ∨ v.sup = q.val) → exec (.quarterReset q) s = .next (v.askReset a 0)) ∧
      (mbOp ws = 4 → a < 64 →
        (v.ownerOf .thread a = q.val → exec (.threadRestart q) s = .next v) ∧
        (v.ownerOf .thread a ≠ q.val → exec (.threadRestart q) s = .next (v.respond q 2 []))) ∧
      (mbOp ws = 7 → v.modeBad ws = false → v.modeDenied q = false →
        (v.modeRefused (a % 16) = true → exec (.mode q) s = .next (v.respond q 4 [])) ∧
        (v.modeRefused (a % 16) = false → a % 16 = v.mode → exec (.mode q) s =
          .next (v.respond q 0 [BitVec.ofNat 32 v.ct.tickCnt, BitVec.ofNat 32 v.mode])) ∧
        (v.modeRefused 5 = false → a % 16 = 5 → v.mode = 3 → exec (.mode q) s =
          .next (v.modePend { target := 5, q := some q, at_ := .tick false }))) ∧
      (mbOp ws = 8 → a = 0x48640001 → v.sup = q.val → ∃ t, exec (.deviceReset q) s = .next t ∧ t.mode = 1 ∧
        t.flag F.PM_AON_RSTCAUSE_CMD = true ∧ t.pm.inReset = true ∧ t.mem = []) ∧
      (0x80 ≤ mbOp ws → v.flag F.HP_UCFG_EN q = true → ∃ t, exec (.userCommand q) s = .next t ∧
        t.flag F.HP_QSTAT_UPEND q = true ∧ (∀ j < 16, t.reg .HP_UCMD (16 * q.val + j) = ws.getD j 0))) ∧
    (s.writes req .HP_UDONE q w = true →
      let res := (List.range 15).map fun j => s.reg .HP_URSP (16 * q.val + j + 1);
      (s.flag F.HP_QSTAT_UPEND q = true → exec (.hpUdoneWrite req q w) s =
        .next (((s.setFld F.HP_QSTAT_UPEND q 0).respond q (w.toNat % 256) res).answered req)) ∧
      (s.flag F.HP_QSTAT_UPEND q = false → (s.qOf q).late = true → exec (.hpUdoneWrite req q w) s =
        .next ((s.raise F.HP_QSTAT_LATEDONE q).answered req)) ∧
      (s.flag F.HP_QSTAT_UPEND q = false → (s.qOf q).late = false → exec (.hpUdoneWrite req q w) s =
        .next (s.answered req))) ∧
    (s.flag F.HP_QSTAT_UPEND q = true → (s.qOf q).uAt + 256 * (1000000 * s.fld F.HP_UCFG_UCTO q) ≤ s.ltMs →
      exec (.userCommandTimeout q) s =
        .next (((s.setFld F.HP_QSTAT_UPEND q 0).setQ q { s.qOf q with late := true }).respond q 5 [])) ∧
    (s.flag F.HP_QSTAT_UPEND q = false → exec (.userCommandTimeout q) s = .next s) ∧
    ((s.qOf q).uAt ≤ s.ltMs → s.ltMs < (s.qOf q).uAt + 256 * (1000000 * s.fld F.HP_UCFG_UCTO q) →
      exec (.userCommandTimeout q) s = .next s)

/-- Enabling a ring starts its indices at 0 and an enabled one keeps its binding; a transfer moves its items to host
memory in order, one TLP at a time, is written back and passed. A kick starts the watchdog's count anew, a write of HP_WDOG disarms it, and
its expiry is flagged, disarms it and does what ACTION says (R373, R374, R376, R386). -/
def Obligations.DmaWatchdogResults : Prop :=
  (∀ (s : State) (req : Req) (q : Fin 4) (r : Fin 16) (w v : Word) (x : Xfer) (y : State), s.Wf →
     let i := ringIx q r;
     let old := s.reg .HP_DRCFG i;
     let cfg := Reg.written .HP_DRCFG old w;
     let ahead := (((w.toNat % 65536 : Nat) : Int) - s.fld F.HP_DRCI_IDX i) % 65536;
     (s.writes req .HP_DRCFG i w = true →
       (bit old.toNat 31 = false → bit cfg.toNat 31 = true → exec (.hpDrcfgWrite req q r w) s =
         .next ((((s.setReg .HP_DRCFG i cfg).setReg .HP_DRPI i 0).setReg .HP_DRCI i 0).answered req)) ∧
       (bit cfg.toNat 31 = false → exec (.hpDrcfgWrite req q r w) s = .next ((s.setReg .HP_DRCFG i cfg).answered req)) ∧
       (bit old.toNat 31 = true → bit cfg.toNat 31 = true → bits cfg.toNat 5 0 ≠ s.fld F.HP_DRCFG_ARC i →
         exec (.hpDrcfgWrite req q r w) s = .next ((s.raise F.HP_DRST_OVR i).answered req))) ∧
     (s.writes req .HP_DRPI i w = true →
       (64 < ahead → exec (.hpDrpiWrite req q r w) s = .next ((s.raise F.HP_DRST_OVR i).answered req)) ∧
       (ahead ≤ 64 → exec (.hpDrpiWrite req q r w) s =
         .next (((s.setFld F.HP_DRPI_IDX i (w.toNat % 65536)).dmaReach q r).answered req))) ∧
     ((s.qOf q).xfer r = some x → (s.qOf q).busMaster = true →
       (0 < x.left → s.dmaRead (s.fld F.HP_DRCFG_ARC i) x = (y, .item v) →
         let z : Xfer := { x with left := x.left - 1, moved := x.moved + 1, addr := x.addr + 4,
                                  last := s.dmaItem (s.fld F.HP_DRCFG_ARC i), tlp := x.tlp ++ [v] };
         (z.full (y.qOf q).mps = false → exec (.dmaTransfer q r 1) s = .next (y.setXfer q z)) ∧
         (z.full (y.qOf q).mps = true → exec (.dmaTransfer q r 1) s =
           .next ((y.emit (.hostWrite q (z.addr - 4 * z.tlp.length) z.tlp)).setXfer q { z with tlp := [] }))) ∧
       (x.left = 0 → x.ring = r.val → x.idx < 65536 →
         let d := s.dmaDesc q r;
         let b := d.1.dmaBack q x false;
         exec (.dmaTransferComplete q r) s =
           .next ((if d.2.2.2 then b.message q (b.fld F.HP_DRCFG_VEC i) else b).dmaReach q r) ∧
         b.fld F.HP_DRCI_IDX i = (x.idx + 1) % 65536)) ∧
     ((s.qOf q).xfer r = none → s.dmaReach q r = s → s.dmaBusy (q / 2) = false →
       s.dmaTurn (q / 2) = some (16 * (q.val % 2) + r) →
       let d := s.dmaDesc q r;
       ∃ t, exec (.dmaTransfer q r 0) s = .next t ∧ (t.qOf q).xfer r = some
         { ring := r, idx := s.fld F.HP_DRCI_IDX i, left := min (s.arcOf (s.fld F.HP_DRCFG_ARC i)).readable d.2.2.1,
           moved := 0, addr := d.2.1, psn := false, cap := d.2.2.1 }) ∧
     ((s.qOf q).xfer r = none → exec (.dmaTransferComplete q r) s = .next s)) ∧
  (∀ (s : State) (req : Req) (q : Fin 4) (w : Word), s.Wf →
     let u := s.qOf q;
     (s.writes req .HP_WDKICK q 0xA5 = true → s.fld F.HP_WDOG_PERIOD q ≠ 0 → exec (.hpWdkick req q) s =
       .next (((s.setQ q { u with wdArmed := true, wdCyc := 0 }).setFld F.HP_WDCNT_CNT q
         (s.fld F.HP_WDOG_PERIOD q)).answered req)) ∧
     (s.writes req .HP_WDOG q w = true → exec (.hpWdogWrite req q w) s =
       .next ((((s.setReg .HP_WDOG q (Reg.written .HP_WDOG (s.reg .HP_WDOG q) w)).setQ q
         { u with wdArmed := false, wdCyc := 0 }).setFld F.HP_WDCNT_CNT q 0).answered req)) ∧
     (u.wdArmed = true → s.wdCounts = true → s.wdDue q = true →
       (s.fld F.HP_WDOG_ACTION q = 0 → ∃ t, exec (.watchdogExpiry q) s = .next t ∧ t.flag F.HP_QSTAT_WDEXP q = true ∧
         (t.qOf q).wdArmed = false ∧ t.fld F.HP_WDCNT_CNT q = 0 ∧ t.mode = s.mode) ∧
       (s.fld F.HP_WDOG_ACTION q = 1 → ∃ t, exec (.watchdogExpiry q) s = .next t ∧ t.flag F.HP_QSTAT_WDEXP q = true ∧
         (t.qOf q).qr.isSome = true ∧ t.flag F.HP_QSTAT_QRP q = true) ∧
       (s.fld F.HP_WDOG_ACTION q = 2 → ∃ t, exec (.watchdogExpiry q) s = .next t ∧ t.mode = 1 ∧
         t.flag F.PM_AON_RSTCAUSE_WDOG = true ∧ t.fld F.PM_AON_RSTCAUSE_WDQ = q.val)) ∧
     (u.wdArmed = false ∨ s.wdDue q = false → exec (.watchdogExpiry q) s = .next s))

/-- The miss of the first class is filled first and in arrival order within it by a read access of its line, a filled line
stands in the prefetch buffer and its requests are served, PREF fills the next line; HOLD released or INVPF invalidates the
buffer; a raw command runs under HOLD once no access is in progress and puts what it read into MP0_RAWBUF (R388, R389, R390,
R391). -/
def Obligations.XipResults : Prop :=
  (∀ (s : State) (req : Req) (hold : Bool) (bytes : List Byte) (w : Word) (c l : Nat) (a b : List (Nat × Nat)) (f : XipFill),
     s.Wf →
     let others := s.mp.xipQ.filter fun p => p.2 != f.line;
     let again : State := { s with mp := { s.mp with xip := none, xipQ := f.asks.map (fun c => (c, f.line)) ++ s.mp.xipQ } };
     let octal (c : Nat) : FlPhase := .out [BitVec.ofNat 8 c, ~~~BitVec.ofNat 8 c];
     (s.xipFree = true → s.mp.xipQ = a ++ (c, l) :: b → c ≤ 2 → (∀ p ∈ a, c < p.1 ∧ p.1 ≤ 2) → (∀ p ∈ b, c ≤ p.1 ∧ p.1 ≤ 2) →
       ∃ t : State, exec .xipMissFill s = .next t ∧
         t.mp.xip = some { line := l, asks := (s.mp.xipQ.filter fun p => p.2 == l).map (·.1) } ∧
         t.mp.xipQ = (s.mp.xipQ.filter fun p => p.2 != l) ∧ t.fld F.MP0_STAT_CONTA = s.fld F.MP0_CFG_CONT ∧
         (s.flag F.MP0_CFG_CONT = false → s.flag F.MP0_STAT_CONTA = false → t.out = .mp0 (s.fld F.MP0_CFG_SDIV) false
           [octal (s.fld F.MP0_CFG_RDCMD), .out (addressBytes 4 (64 * l)), .hiz (s.fld F.MP0_CFG_DUMMY), .read 64] :: s.out)) ∧
     (s.xipFree = false ∨ s.mp.xipQ = [] → exec .xipMissFill s = .next s) ∧
     (s.mp.xip = none → exec (.xipFillComplete bytes) s = .next s) ∧
     (s.mp.xip = some f → f.keep = true →
       ∃ t : State, exec (.xipFillComplete bytes) s = .next t ∧ (t.xipLine f.line).map (·.2) = some bytes ∧ t.mp.xipQ = others ∧
         (s.flag F.MP0_CFG_PREF = false → t.mp.xip = none) ∧
         (s.flag F.MP0_CFG_PREF = true → others = [] → s.powered pdMem = true → s.xipHeld = false →
           s.flag F.MP0_STAT_RAWBUSY = false → 64 * (f.line + 1) < s.xipSize → s.xipLine (f.line + 1) = none →
           t.mp.xip = some { line := f.line + 1, asks := [] })) ∧
     (s.mp.xip = some f → f.keep = false → s.mp.raw = none → f.asks ≠ [] ∨ s.flag F.MP0_CFG_PREF = false →
       exec (.xipFillComplete bytes) s = .next again) ∧
     (s.mp.xip = some f → f.keep = false → s.mp.raw = some w → s.flag F.MP0_CFG_PREF = false →
       exec (.xipFillComplete bytes) s = .next (again.rawSend w)) ∧
     (s.writes req .MP0_CTL 0 (if hold then 1 else 0) = true →
       (hold = true → exec (.mp0CtlHoldWrite req hold) s = .next ((s.setFld F.MP0_CTL_HOLD 0 1).answered req)) ∧
       (hold = false → ∃ t : State, exec (.mp0CtlHoldWrite req hold) s = .next (t.answered req) ∧ t.xipHeld = false ∧
         t.mp.pf = [] ∧ t.mp.xip = s.mp.xip.map fun x => { x with keep := false })) ∧
     (s.writes req .MP0_CTL 0 (if hold then 3 else 2) = true →
       ∃ t : State, exec (.mp0Invpf req hold) s = .next (t.answered req) ∧ t.xipHeld = hold ∧
         t.mp.pf = [] ∧ t.mp.xip = s.mp.xip.map fun x => { x with keep := false })) ∧
  (∀ (s : State) (req : Req) (w c : Word) (bytes : List Byte) (n : Nat), s.Wf →
     let v := w ||| 0x80000000;
     let cmd := v &&& 0x7FFFFFFF;
     let opc := BitVec.ofNat 8 (F.MP0_RAWCMD_OPC.get cmd);
     (s.writes req .MP0_RAWCMD 0 v = true →
       (s.xipHeld = false ∨ s.flag F.MP0_STAT_RAWBUSY = true →
         exec (.mp0RawGo req w) s = .next ((s.raise F.MP0_STAT_CMDREF).answered req)) ∧
       (s.xipHeld = true → s.flag F.MP0_STAT_RAWBUSY = false → ∃ t : State,
         exec (.mp0RawGo req w) s = .next (t.answered req) ∧ t.reg .MP0_RAWCMD = cmd ∧
         t.flag F.MP0_STAT_RAWBUSY = true ∧ t.mp.raw = some cmd ∧
         (s.mp.xip.isSome = true → t.out = s.out) ∧
         (s.mp.xip = none → t.fld F.MP0_STAT_CONTA = 0 ∧
           (s.flag F.MP0_STAT_CONTA = false → F.MP0_RAWCMD_LEN.get cmd ≠ 0 → F.MP0_RAWCMD_DUMMY.get cmd ≠ 0 →
             F.MP0_RAWCMD_ALEN.get cmd ≠ 0 →
             t.out = .mp0 (s.fld F.MP0_CFG_SDIV) (F.MP0_RAWCMD_LINE1.get cmd == 1)
               [.out (if F.MP0_RAWCMD_LINE1.get cmd = 1 then [opc] else [opc, ~~~opc]),
                .out (addressBytes (2 + F.MP0_RAWCMD_ALEN.get cmd) (s.reg .MP0_RAWADDR).toNat),
                .hiz (F.MP0_RAWCMD_DUMMY.get cmd),
                if F.MP0_RAWCMD_DIR.get cmd = 1 then .out (s.arrBytes .MP0_RAWBUF (F.MP0_RAWCMD_LEN.get cmd))
                else .read (F.MP0_RAWCMD_LEN.get cmd)] :: s.out)))) ∧
     (s.mp.raw = none ∨ s.mp.xip.isSome = true → exec (.mp0RawComplete bytes) s = .next s) ∧
     (s.mp.raw = some c → s.mp.xip = none →
       let idle : State := { s.setFld F.MP0_STAT_RAWBUSY 0 0 with mp := { s.mp with raw := none } };
       (F.MP0_RAWCMD_DIR.get c = 1 → exec (.mp0RawComplete bytes) s = .next idle) ∧
       (F.MP0_RAWCMD_DIR.get c ≠ 1 → n ≤ F.MP0_RAWCMD_LEN.get c → n ≤ bytes.length → n ≤ 256 →
         ∃ t : State, exec (.mp0RawComplete bytes) s = .next t ∧ t.flag F.MP0_STAT_RAWBUSY = false ∧ t.mp.raw = none ∧
           t.arrBytes .MP0_RAWBUF n = bytes.take n)))

/-- The scrubber reads the next word of a region, counts and queues a correction, and poisons what it cannot correct; a
corrected word is written back clean; PSNCLR writes zero; an injection is armed (R393, R394, R395, R396, R397, R400). -/
def Obligations.ScrubResults : Prop :=
  ∀ (s : State) (req : Req) (rg : Fin 15) (w : Nat) (rest : List Nat) (x : Word) (m : BitVec 24), s.Wf →
    let p := s.mp.scrub.get (fun _ => 0) rg;
    let e := s.eccOf rg p;
    let on := s.flag F.MP_ECC_CFG_SEN;
    (on = false → exec (.scrubRead rg) s = .next s) ∧
    (on = true → e = {} → ∃ t : State, exec (.scrubRead rg) s = .next t ∧ t.mem = s.mem ∧ t.ecc = s.ecc ∧
      t.scrubQ = s.scrubQ ∧ (Tab.wf (fun _ => 0) s.mp.scrub = true →
        t.mp.scrub.get (fun _ => 0) rg = if p + 1 < regionWords rg then p + 1 else 0)) ∧
    (on = true → e.psn = false → e.flips ≠ 0 → ∃ t : State, exec (.scrubRead rg) s = .next t ∧
      if (decodeFlips e.flips).isSome then
        t.ecc = s.ecc ∧ eccKey rg p ∈ t.scrubQ ∧ t.flag F.MP_ECC_STAT_CORR = true ∧
        t.fld F.MP_ECC_CNT_CORR rg = min (s.fld F.MP_ECC_CNT_CORR rg + 1) (maxOf F.MP_ECC_CNT_CORR.width)
      else
        t.flag F.MP_ECC_STAT_UNC = true ∧ t.fld F.MP_ECC_STAT_LASTREG = rg.val ∧
        (rg.val ≠ 10 → rg.val ≠ 14 → p < 2 ^ 18 → (t.eccOf rg p).psn = true ∧ t.fld F.MP_ECC_LASTADDR_WIDX = p)) ∧
    (s.scrubQ = [] → exec .scrubWriteback s = .next s) ∧
    (s.scrubQ = eccKey rg w :: rest → w < regionWords rg → flippedBytes (s.eccOf rg w).flips ≤ 2 →
      s.flag F.MP_ECC_INJ_ARM = false → exec .scrubWriteback s =
        .next (State.setEcc { s with scrubQ := rest.filter (· ≠ eccKey rg w) } rg w {})) ∧
    (s.writes req .MP_PSNCLR 0 x = true → s.flag F.MP_ECC_INJ_ARM = false →
      let g := F.MP_PSNCLR_REGION.get x;
      let i := F.MP_PSNCLR_WIDX.get x;
      ∃ t : State, exec (.mpPsnclrWrite req x) s = .next (t.answered req) ∧ t.eccOf g i = {} ∧ eccKey g i ∉ t.scrubQ ∧
        (g ≤ rgArc → t.peek g (8 * i) 8 = 0)) ∧
    (s.writes req .MP_ECC_INJ 0 (BitVec.ofNat 32 (2 ^ 31 + rg * 2 ^ 24 + m.toNat)) = true →
      ∃ t : State, exec (.mpEccInjArm req ⟨rg, by omega⟩ m) s = .next (t.answered req) ∧ t.flag F.MP_ECC_INJ_ARM = true ∧
        t.fld F.MP_ECC_INJ_REGION = rg.val ∧ t.fld F.MP_ECC_INJ_NIBMASK = m.toNat)

/-- A write of MP1_CMD with GO starts the operation it names, after a patrol read in progress, ends at once with status
7 or 3, or is discarded while BUSY; a poll is due every POLL us, an operation has TOUT ms, and the end of each operation
leaves its registers and its status and sends its page to the flash. The order and the address bytes of the commands to
the flash are the model's (notes/assumptions/200.md) (R401, R402, R404, R405, R406, R407). -/
def Obligations.ArchiveResults : Prop :=
  (∀ (s : State) (req : Req) (b : Fin 65536) (p : Fin 256), s.Wf →
     ∀ x ∈ [(Instr.mp1Read req b p, 0), (.mp1Readraw req b p, 1), (.mp1Program req b p, 2), (.mp1Erase req b p, 3),
         (.mp1Bbtscan req b p, 4)],
       let w : Word := BitVec.ofNat 32 (2 ^ 31 + x.2 * 2 ^ 28 + b * 256 + p);
       let u := s.setReg .MP1_CMD 0 (w &&& 0x7FFFFFFF);
       let ends (st : Nat) : State :=
         { (u.setFld F.MP1_STAT_ST 0 st).setFld F.MP1_STAT_BUSY 0 0 with mp := { s.mp with op := none } };
       let begins : State := { u.raise F.MP1_STAT_BUSY with mp := { s.mp with op := some { op := x.2, blk := b, page := p } } };
       let there := b.val < s.fld F.MP1_GEOM_NBLK ∧ p.val < s.mpPages;
       let bad := (x.2 = 2 ∨ x.2 = 3) ∧ s.mpBad b = true;
       let first : Nat × Nat := if x.2 = 3 then (b, 0) else if x.2 = 4 then (0, 0) else (b, p);
       s.writes req .MP1_CMD 0 w = true →
         (s.flag F.MP1_STAT_BUSY = true → exec x.1 s = .next ((s.raise F.MP1_STAT_CMDREF).answered req)) ∧
         (s.flag F.MP1_STAT_BUSY = false → ¬ there → exec x.1 s = .next ((ends 7).answered req)) ∧
         (s.flag F.MP1_STAT_BUSY = false → there → bad → exec x.1 s = .next ((ends 3).answered req)) ∧
         (s.flag F.MP1_STAT_BUSY = false → there → ¬ bad →
           (s.mp.pat.isSome = true → exec x.1 s = .next (begins.answered req)) ∧
           (s.mp.pat = none → exec x.1 s = .next (begins.mpBegin.answered req) ∧
             (x.2 ≠ 2 → begins.mpBegin.out = .mp1 (s.fld F.MP1_CFG_D1) (s.flag F.MP1_CFG_WID8)
               (.row (s.fld F.MP1_OPS0_PGRD) first.1 first.2) :: s.out)))) ∧
  (∀ (s : State) (o : MpOp) (st : Byte) (pages : List (List Byte)) (c : Nat), s.Wf →
     let hd := pages.headD [];
     let cws := s.mpDecode hd;
     let tout := 256 * (1000000 * s.fld F.MP1_POLL_TOUT);
     let poll := 256 * (1000 * s.fld F.MP1_POLL_POLL);
     let sent (x : NandCmd) : Out := .mp1 (s.fld F.MP1_CFG_D1) (s.flag F.MP1_CFG_WID8) x;
     let late : State := { (s.setFld F.MP1_STAT_ST 0 5).setFld F.MP1_STAT_BUSY 0 0 with mp := { s.mp with op := none } };
     let done (t : State) (k : Nat) : Prop := exec (.mp1OpComplete pages) s = .next t ∧ t.mp.op = none ∧
       t.flag F.MP1_STAT_BUSY = false ∧ t.fld F.MP1_STAT_ST = k;
     (s.mp.op = some o → s.mp.pat = none → o.pollAt + poll ≤ s.ltMs → exec (.mp1StatusPoll st) s = .next
       ({ s with mp := { s.mp with op := some { o with
           pollAt := s.ltMs, polled := if st.getLsbD 0 then none else some st } } }.emit
         (sent (.getf (s.fld F.MP1_OPS1_GETF) (s.fld F.MP1_OPS1_SADDR))))) ∧
     (s.mp.op = some o → o.pollAt ≤ s.ltMs → s.ltMs < o.pollAt + poll → exec (.mp1StatusPoll st) s = .next s) ∧
     (s.mp.op = none ∨ s.mp.pat.isSome = true → exec (.mp1StatusPoll st) s = .next s ∧ exec .mp1Timeout s = .next s ∧
       exec (.mp1OpComplete pages) s = .next s) ∧
     (s.mp.op = some o → s.mp.pat = none → o.start + tout ≤ s.ltMs → exec .mp1Timeout s = .next late) ∧
     (s.mp.op = some o → s.mp.pat = none → o.start ≤ s.ltMs → s.ltMs < o.start + tout → exec .mp1Timeout s = .next s) ∧
     (s.mp.op = some o → o.polled = none → exec (.mp1OpComplete pages) s = .next s) ∧
     (s.mp.op = some o → s.mp.pat = none → o.polled = some st → o.start + tout < s.ltMs →
       exec (.mp1OpComplete pages) s = .next late) ∧
     (s.mp.op = some o → s.mp.pat = none → o.polled = some st → o.start ≤ s.ltMs → s.ltMs ≤ o.start + tout →
       (o.op = 0 → ∃ t, done t (if 0 < cwFails cws then 2 else if 0 < maxCorr cws then 1 else 0) ∧
         t.fld F.MP1_STAT_MAXC = maxCorr cws ∧
         let user := (s.mpUser o.blk o.page (s.mpSplit hd) cws).map (BitVec.ofNat 8);
         user.length % 8 = 0 → user.length ≤ 8704 → t.arrBytes .MP1_PGBUF user.length = user) ∧
       (o.op = 1 → ∃ t, done t 0 ∧ (s.mpPB ≤ 8704 → t.arrBytes .MP1_PGBUF s.mpPB =
         (List.range s.mpPB).map fun k => hd.getD k 0xFF#8)) ∧
       (o.op = 2 → s.pendOf o.blk = some c → ∃ t, done t (if st.getLsbD 3 then 4 else 0) ∧ t.out = s.out) ∧
       (o.op = 2 → s.pendOf o.blk = none → s.headCount hd = some c →
         ∃ t, done t (if st.getLsbD 3 then 4 else 0) ∧ t.mp.pend.head? = some (o.blk, c) ∧
           t.out = sent (.row (s.fld F.MP1_OPS0_PEXEC) o.blk o.page) ::
             sent (.load (s.fld F.MP1_OPS0_PLOAD) ((s.nandCache.pendUse o.blk c).mpPage o c).2) ::
             sent (.wren (s.fld F.MP1_OPS1_WREN)) :: sent (.cache (s.fld F.MP1_OPS0_RDCACHE)) :: s.out) ∧
       (o.op = 2 → s.pendOf o.blk = none → s.headCount hd = none → ∃ t, done t 9 ∧
         t.out = sent (.cache (s.fld F.MP1_OPS0_RDCACHE)) :: s.out) ∧
       (o.op = 3 → let n := (if s.mpErased hd then none else s.headCount hd).getD (s.reg .MP1_ECNTDEF).toNat;
         ∃ t, done t (if st.getLsbD 2 then 4 else 0) ∧ t.reg .MP1_ECNT = BitVec.ofNat 32 n ∧
           t.mp.pend.head? = some (o.blk, n + 1) ∧ t.out = sent (.row (s.fld F.MP1_OPS1_ERASE) o.blk 0) ::
             sent (.wren (s.fld F.MP1_OPS1_WREN)) :: sent (.cache (s.fld F.MP1_OPS0_RDCACHE)) :: s.out) ∧
       (o.op = 4 → s.findTable (s.fld F.MP1_GEOM_BBTMAX) 0 pages = none →
         ∃ t, done t 8 ∧ t.flag F.MP1_BBTBLK_BBTV = false) ∧
       (∀ b h tbl, o.op = 4 → s.findTable (s.fld F.MP1_GEOM_BBTMAX) 0 pages = some (b, h, tbl) →
         ∃ t k, done t k ∧ k ≤ 2 ∧ t.flag F.MP1_BBTBLK_BBTV = true ∧ t.fld F.MP1_BBTBLK_BLK = b)))

/-- The patrol reader takes page after page, one every PINT ms, keeps weak and uncorrectable pages in its FIFO, and a read of
MP1_PATRES removes the oldest; the integrator adds the weight of the temperature's bin once a second (R408, R409, R411). -/
def Obligations.PatrolResults : Prop :=
  ∀ (s : State) (q : Fin 4) (page : List Byte) (pg : Nat × Nat) (e : PatEnt) (rest : List PatEnt) (n : Nat), s.Wf →
    let b := s.fld F.MP1_PATPOS_BLOCK;
    let p := s.fld F.MP1_PATPOS_PAGE;
    let pint := 256 * (1000000 * s.fld F.MP1_PAT_PINT);
    let reads (u : State) (b' p' : Nat) : State := { (u.setFld F.MP1_PATPOS_BLOCK 0 b').setFld F.MP1_PATPOS_PAGE 0 p' with
      mp := { s.mp with pat := some (b, p), patAt := some s.ltMs } }.nandPage b p;
    let free := s.flag F.MP1_PAT_EN = true ∧ s.flag F.MP1_STAT_BUSY = false ∧ s.mp.pat = none ∧ s.mpBad b = false ∧
      ∀ a, s.mp.patAt = some a → a + pint ≤ s.ltMs;
    let idle : State := ({ s with mp := { s.mp with pat := none } }.nandCache).mpBegin;
    let seen := s.mpDecode page;
    let weak := 0 < cwFails seen ∨ s.fld F.MP1_PAT_PTHR ≤ maxCorr seen;
    let erased := ∀ k < s.mpPB, page.getD k 0xFF#8 = 0xFF#8;
    let old := (s.reg .MP1_TAT_HI).toNat * 2 ^ 32 + (s.reg .MP1_TAT_LO).toNat;
    let word := BitVec.ofNat 32 (2 ^ 31 + (if e.unc then 2 ^ 30 else 0) + e.maxc * 2 ^ 24 + e.blk * 256 + e.page);
    (s.flag F.MP1_PAT_EN = false → exec .patrolRead s = .next s) ∧
    (s.mp.patAt = some n → n ≤ s.ltMs → s.ltMs < n + pint → exec .patrolRead s = .next s) ∧
    (free → p + 1 < s.mpPages → exec .patrolRead s = .next (reads s b (p + 1))) ∧
    (free → s.mpPages ≤ p + 1 → b + 1 < s.fld F.MP1_GEOM_NBLK → exec .patrolRead s = .next (reads s (b + 1) 0)) ∧
    (free → s.mpPages ≤ p + 1 → s.fld F.MP1_GEOM_NBLK ≤ b + 1 →
      ∃ t : State, exec .patrolRead s = .next t ∧ t.mp.pat = some (b, p) ∧ t.fld F.MP1_PATPOS_BLOCK = 0 ∧
        t.fld F.MP1_PATPOS_PAGE = 0 ∧
        t.fld F.MP1_PATSTAT_PASSN = min (s.fld F.MP1_PATSTAT_PASSN + 1) (maxOf F.MP1_PATSTAT_PASSN.width)) ∧
    (s.mp.pat = some pg →
      (s.mp.op = none → idle = { s with mp := { s.mp with pat := none } }.nandCache) ∧
      (erased ∨ ¬ weak → exec (.patrolReadComplete page) s = .next idle) ∧
      (¬ erased → weak → s.mp.fifo.length < 16 → ∃ t : State, exec (.patrolReadComplete page) s = .next t ∧
        t.mp.fifo = s.mp.fifo ++ [{ unc := decide (0 < cwFails seen), maxc := maxCorr seen, blk := pg.1, page := pg.2 }] ∧
        t.fld F.MP1_PATSTAT_LVL = s.mp.fifo.length + 1 ∧ t.mp.pat = none) ∧
      (¬ erased → weak → 16 ≤ s.mp.fifo.length → exec (.patrolReadComplete page) s = .next (idle.bump F.MP1_PATSTAT_LOSTN))) ∧
    (s.hostOn = true → s.bar0Sees q (Reg.offset .MP1_PATRES 0) false = true → s.powered pdMem = true → s.sup = q.val →
      (s.mp.fifo = [] → exec (.mp1PatresRead (.fn q)) s = .next (s.emit (.bar q (Reg.offset .MP1_PATRES 0) 0 false))) ∧
      (s.mp.fifo = e :: rest → exec (.mp1PatresRead (.fn q)) s = .next
        ({ s.setFld F.MP1_PATSTAT_LVL 0 rest.length with mp := { s.mp with fifo := rest } }.emit
          (.bar q (Reg.offset .MP1_PATRES 0) word false)))) ∧
    (s.flag F.MP1_TATCFG_EN = false ∨ s.ltSec = s.mp.tatSec → exec .tatIntegrate s = .next s) ∧
    (s.flag F.MP1_TATCFG_EN = true → s.powered pdMem = true → s.ltSec ≠ s.mp.tatSec →
      ∃ t : State, exec .tatIntegrate s = .next t ∧ t.mp.tatSec = s.ltSec ∧
        (t.reg .MP1_TAT_HI).toNat * 2 ^ 32 + (t.reg .MP1_TAT_LO).toNat =
          min (2 ^ 48 - 1) (old + s.fld F.MP1_TATW_W (tatBin (sext (s.fld F.PM_MON_TJ) 16))))

/-- What power-on, power-off, the reference, RESET_N and a brown-out leave: a reset keeps the PM_AON registers and
starts every other register, memory and unit anew; what a pulse or a dip between the bounds does is a free value
(notes/assumptions/204.md). The end of the reset sequence enters SAFE after a brown-out, TEST by
the strap, else LOAD, which reads its source, offers a push, or records a load error (R412, R427, R428, R429, R453,
R454, R468, R479, R480). -/
def Obligations.ResetResults : Prop :=
  (∀ (s : State) (boot : Fin 4) (ns : Nat), s.Wf →
     let idle := s.pm.inReset = false ∨ s.pm.vin = false ∨ s.pm.ref = false ∨ ns < 20000;
     let go := ¬ idle ∧ s.pm.toSafe = false;
     (idle → exec (.resetEnd boot ns) s = .next s) ∧
     (¬ idle → s.pm.toSafe = true → ∃ t : State, exec (.resetEnd boot ns) s = .next t ∧ t.mode = 8 ∧
       t.fld F.PM_AON_SAFE_CAUSE = 7 ∧ t.fld F.SYS_BOOT_STRAP = boot.val ∧ t.pm.inReset = false ∧ t.pm.toSafe = false) ∧
     (go → boot = 3 → s.lcState ≤ 1 → ∃ t : State, exec (.resetEnd boot ns) s = .next t ∧ t.mode = 11 ∧
       t.fld F.SYS_BOOT_STRAP = 3) ∧
     (go → boot = 3 → 2 ≤ s.lcState → ∃ t : State, exec (.resetEnd boot ns) s = .next t ∧ t.mode = 2 ∧ t.ld.st = .failed ∧
       t.reg .SYS_LOADERR = 0x00FF0013) ∧
     (go → boot ≠ 3 → s.lcState = 0 ∨ s.lcState = 5 → ∃ t : State, exec (.resetEnd boot ns) s = .next t ∧ t.mode = 2 ∧
       t.ld.st = .failed ∧ t.reg .SYS_LOADERR = 0x00FF0010 ∧ t.ld.offer = s.ld.offer) ∧
     (go → boot ≠ 3 → 1 ≤ s.lcState → s.lcState ≤ 4 → ∃ t : State, exec (.resetEnd boot ns) s = .next t ∧ t.mode = 2 ∧
       t.ld.st = .header ∧ t.fld F.SYS_BOOT_SRC = boot.val ∧ t.fld F.SYS_BOOT_STRAP = boot.val ∧ t.lcState = s.lcState ∧
       (s.lcState = 4 → t.lcSlot = { erased := true }) ∧
       (boot = 1 → t.ld.offer = true ∧ t.flag F.SYS_PUSHSTAT_READY = true ∧ t.flag F.SYS_BOOT_FALLBK = true))) ∧
  (∀ (s : State) (ns mv : Nat), s.Wf →
     let aonKept (t : State) : Prop := ∀ r i, isAon (r.key i) = true → r ≠ .PM_AON_RSTCAUSE →
       t.reg r i = s.reg r i;
     let anew (t : State) : Prop := t.mode = 1 ∧ t.pm.inReset = true ∧ t.mem = [] ∧ t.ecc = [] ∧ t.thr = [] ∧ t.qtr = [] ∧
       t.pending = s.pending ∧ ∀ r i, isAon (r.key i) = false → r ∉ [.SYS_MODE, .LC_STATE, .LC_NONCE] →
         t.reg r i = r.resetWord;
     (s.mode ≠ 0 → exec .powerOn s = .next s) ∧
     (s.mode = 0 → ∃ t : State, exec .powerOn s = .next t ∧ anew t ∧ t.pm.vin = true ∧ t.pm.ref = false ∧ t.aon = {} ∧
       ∀ r i, isAon (r.key i) = true → t.reg r i = r.resetWord) ∧
     (s.pm.vin = true → exec .referenceDetect s = .next { s with pm := { s.pm with ref := true } }) ∧
     (s.pm.vin = false → exec .referenceDetect s = .next s) ∧
     (s.mode = 0 ∨ ns < 100 → exec (.resetPin ns) s = .next s) ∧
     (s.mode ≠ 0 → 100 ≤ ns → ns < 1000 → ∃ t : State, exec (.resetPin ns) s = .next t ∧
       (t = s.fresh.1 ∨ (anew t ∧ aonKept t ∧ t.flag F.PM_AON_RSTCAUSE_PIN = true))) ∧
     (s.mode ≠ 0 → 1000 ≤ ns → ∃ t : State, exec (.resetPin ns) s = .next t ∧ anew t ∧ aonKept t ∧
       t.flag F.PM_AON_RSTCAUSE_PIN = true ∧ t.pm.toSafe = false ∧
       (s.lc.cmd = none → t.lc.slot = s.lc.slot ∧ t.lc.slot0 = s.lc.slot0 ∧ t.lc.slot1 = s.lc.slot1)) ∧
     let ignored := s.mode ≤ 1 ∨ (s.mode = 7 ∧ s.pm.isolated = true) ∨ ns < 1000 ∨ 720 ≤ mv;
     let browned (t : State) : Prop := anew t ∧ aonKept t ∧ t.flag F.PM_AON_RSTCAUSE_BOR = true ∧ t.pm.toSafe = true;
     (ignored → exec (.brownOut mv ns) s = .next s) ∧
     (¬ ignored → mv < 680 → ∃ t : State, exec (.brownOut mv ns) s = .next t ∧ browned t) ∧
     (¬ ignored → 680 ≤ mv → ∃ t : State, exec (.brownOut mv ns) s = .next t ∧ (t = s.fresh.1 ∨ browned t)) ∧
     (∃ t : State, exec .powerOff s = .next t ∧ t.mode = 0 ∧ t.fld F.PM_STATUS_DOM = 0 ∧ t.pm.vin = false ∧
       t.pm.inReset = false ∧ t.pm.safeOn = false))

/-- The loader searches MP1 for a Map (that a search without one ends with load error 0x01 is the model's choice,
notes/assumptions/206.md), takes the header and section after section, checks each, and records a load error with its section; a Map
read whole is taken where it passes the checks and the life-cycle state does not demand a signature it lacks (R412,
R415, R416, R417, R426, R427, R429, R498). -/
def Obligations.MapLoadResults : Prop :=
  ∀ (s : State) (b rest : List Byte) (rd : Option (List Byte)) (c o p k r th : Nat), s.Wf → s.mode = 2 → s.ld.restore = false →
    let v := fromBytes b;
    let len := le v 4 4;
    let last := s.ld.done + 1 = s.ld.count;
    let fails (i : Instr) (w : Nat) : Prop := ∃ t : State, exec i s = .next t ∧ t.ld.st = .failed ∧
      t.reg .SYS_LOADERR = BitVec.ofNat 32 w;
    let header (l : Loader) : Loader :=
      { l with bytes := b, st := .sections, total := le v 12 4, count := v.getD 9 0, mapId := BitVec.ofNat 32 (le v 16 4) };
    let accepts (u : Nat) : Prop := exec .mapLoadComplete s =
      .next { s.setFld F.SYS_BOOT_UNVER 0 u with ld := { s.ld with st := .ready } };
    let whole := s.fld F.SYS_BOOT_SRC = 1 → s.ld.pushed = [];
    let sound := whole ∧ s.ld.comboBad = none ∧ s.admitErr = none;
    let cws := State.mpDecode .reset b;
    (s.fld F.SYS_BOOT_SRC = 2 → s.ld.st = .header → s.ld.pushed = [] → s.ld.bytes = [] →
      fails (.mapSectionRead none) 0x00FF0012 ∧
      (s.ld.nandAt = (k, 0) → mapMarked cws = false → s.ld.nandOn = false →
        (k < 15 → ∃ t : State, exec (.mapSectionRead (some b)) s = .next t ∧ t.ld = { s.ld with nandAt := (k + 1, 0) }) ∧
        (15 ≤ k → fails (.mapSectionRead (some b)) 0x00FF0001)) ∧
      (s.ld.nandAt = (k, p) → (p = 0 → mapMarked cws = true) → (∀ c ∈ cws, c.isSome = true) →
        ∃ t : State, exec (.mapSectionRead (some b)) s = .next t ∧ t.ld = { s.ld with
          nandOn := true, nandAt := if p + 1 < State.reset.mpPages then (k, p + 1) else (k + 1, 0),
          pushed := ((cws.map fun c => (c.map (·.1)).getD []).flatten.drop 8).map (BitVec.ofNat 8) })) ∧
    (s.fld F.SYS_BOOT_SRC = 2 → s.ld.st = .sections → s.ld.pushed = [] →
      fails (.mapSectionRead none) (s.ld.done % 256 * 65536 + 0x12)) ∧
    (s.fld F.SYS_BOOT_SRC = 0 → exec (.mapSectionRead none) s = .next s) ∧
    (s.fld F.SYS_BOOT_SRC = 0 → s.ld.st = .header → b.length = 32 →
      (headerErr 0 v = none → exec (.mapSectionRead (some b)) s =
        .next (State.bootConfig { s.emit (.mp0 3 true [.out [0x03#8], .out (addressBytes 3 0), .read 32]) with
          ld := header s.ld })) ∧
      (headerErr 0 v = some (c, o) → fails (.mapSectionRead (some b)) (0x00FF0000 + c))) ∧
    (s.fld F.SYS_BOOT_SRC = 1 → s.ld.st = .header → b.length = 32 → s.ld.pushed = b ++ rest → headerErr 1 v = none →
      exec (.mapSectionRead rd) s = .next { s with ld := header { s.ld with pushed := rest } }) ∧
    (s.fld F.SYS_BOOT_SRC = 0 → s.ld.st = .sections → 8 ≤ b.length → b.length = 12 + len → len % 4 = 0 →
      s.ld.bytes.length + 12 + len ≤ s.ld.total →
      (crc32 (v.take (8 + len)) ≠ le v (8 + len) 4 → fails (.mapSectionRead (some b)) (s.ld.done % 256 * 65536 + 5)) ∧
      (crc32 (v.take (8 + len)) = le v (8 + len) 4 → sectRank (le v 0 2) ≠ none → v.getD 2 0 = 1 → v.getD 3 0 = 0 →
        orderBad s.ld.seen (le v 0 2) (decide last) = false → (last → s.ld.bytes.length + 12 + len = s.ld.total) →
        (s.ldBody (le v 0 2) ((b.drop 8).take len)).1 = none →
        ∃ t : State, exec (.mapSectionRead (some b)) s = .next t ∧ t.ld.done = s.ld.done + 1 ∧
          t.ld.seen = le v 0 2 :: s.ld.seen ∧ t.ld.bytes = s.ld.bytes ++ b ∧
          (last → t.ld.st = .all) ∧ (¬ last → t.ld.st = .sections))) ∧
    (s.ld.st ≠ .all → exec .mapLoadComplete s = .next s) ∧
    (s.ld.st = .all → (s.fld F.SYS_BOOT_SRC = 1 → s.ld.last = true) →
      (sound → s.ld.pstoreUse ≤ s.ld.psSize → s.lcState = 1 ∨ s.lcState = 4 ∨ (s.lcState = 2 ∧ s.ld.kind = 0) → accepts 0) ∧
      (sound → s.ld.pstoreUse ≤ s.ld.psSize → s.lcState = 2 → s.ld.kind ≠ 0 → s.lcSlot.key = none → accepts 1) ∧
      (sound → s.lcState = 3 → s.ld.kind = 0 → fails .mapLoadComplete ((s.ld.done - 1) % 256 * 65536 + 0x0E)) ∧
      (whole → s.ld.comboBad = some p → fails .mapLoadComplete ((s.ld.done - 1) % 256 * 65536 + 7)) ∧
      (whole → s.ld.comboBad = none → s.admitErr = some (p, k, r, th) →
        fails .mapLoadComplete ((s.ld.done - 1) % 256 * 65536 + (k * 64 + r * 16 + th) * 256 + 0x0C)))

/-- GO hands a chunk over and clears READY, a chunk taken lengthens what has been pushed, ABORT ends the push, and a
push that stays silent ends with load error 0x11; a switch to a class-0 profile begins where none is pending and the
mode is RUN, STRICT or DOZE, and is refused with REF otherwise (R429, R431, R432, R433). -/
def Obligations.PushProfileResults : Prop :=
  (∀ (s : State) (req : Req) (len : Fin 16384) (last : Bool) (n : Nat), s.Wf →
     let w : Word := BitVec.ofNat 32 (2 ^ 31 + (if last then 2 ^ 30 else 0) + len.val);
     let ready := s.flag F.SYS_PUSHSTAT_READY;
     let fresh := s.ld.st = .idle ∨ s.ld.st = .failed ∨ s.fld F.SYS_BOOT_SRC ≠ 1;
     let silent := s.lapsed (some s.ld.chunkAt) (256 * 10000000000 + 1) = true ∧ s.ld.offer = true ∧ s.fld F.SYS_BOOT_SRC = 1 ∧ s.fld F.SYS_PUSHSTAT_RECV ≠ 0 ∧ s.ld.chunk = none ∧
       s.ld.last = false ∧ (s.ld.st = .header ∨ s.ld.st = .sections);
     (s.writes req .SYS_PUSHCTL 0 w = true →
       (s.ld.offer = false → exec (.pushGo req len last) s = .next (s.answered req)) ∧
       (s.ld.offer = true → ready = false → exec (.pushGo req len last) s =
         .next ((s.raise F.SYS_PUSHSTAT_CMDREF).answered req)) ∧
       (s.ld.offer = true → ready = true → ¬ fresh → exec (.pushGo req len last) s = .next (State.answered
         { s.setFld F.SYS_PUSHSTAT_READY 0 0 with ld := { s.ld with chunk := some (len.val, last) } } req)) ∧
       (s.ld.offer = true → ready = true → fresh → ∃ t : State, exec (.pushGo req len last) s = .next (t.answered req) ∧
         t.ld = { st := .header, since := s.ld.since, restore := s.ld.restore, offer := true, chunk := some (len.val, last) } ∧
         t.fld F.SYS_BOOT_SRC = 1 ∧ t.flag F.SYS_PUSHSTAT_READY = false ∧ t.flag F.SYS_PUSHSTAT_DONE = false ∧
         t.flag F.SYS_PUSHSTAT_ERR = false ∧ t.fld F.SYS_PUSHSTAT_RECV = 0)) ∧
     (s.writes req .SYS_PUSHCTL 0 0x20000000 = true →
       (s.ld.offer = false ∨ s.ld.st = .ready ∨ s.ld.st = .captured →
         exec (.pushAbort req) s = .next (s.answered req)) ∧
       (s.ld.offer = true → s.ld.st ≠ .ready → s.ld.st ≠ .captured → exec (.pushAbort req) s = .next (State.answered
         { s.raise F.SYS_PUSHSTAT_READY with ld := { st := .idle, since := s.ld.since, offer := true,
                                                     restore := s.ld.restore } } req))) ∧
     (s.ld.chunk = none → exec .pushChunkTaken s = .next s) ∧
     (s.ld.chunk = some (n, last) → n ≤ 8192 → s.fld F.SYS_PUSHSTAT_RECV + 4 * n < 2 ^ 24 →
       ∃ t : State, exec .pushChunkTaken s = .next t ∧ t.ld.chunk = none ∧ t.ld.last = last ∧
         t.ld.pushed.length = s.ld.pushed.length + 4 * n ∧
         t.fld F.SYS_PUSHSTAT_RECV = s.fld F.SYS_PUSHSTAT_RECV + 4 * n ∧ t.flag F.SYS_PUSHSTAT_READY = (!last || ready) ∧
         ((∀ i < n, s.eccOf rgBar2 (bar2Ecc 0 (4 * i)) = {}) → t.ld.pushed = s.ld.pushed ++
           (List.range n).flatMap fun i => toBytes (leBytes 4 (s.bar2Word 0 (4 * i)).toNat))) ∧
     (¬ silent → exec .pushTimeout s = .next s) ∧
     (silent → s.ld.restore = false → ∃ t : State, exec .pushTimeout s = .next t ∧ t.ld.st = .failed ∧
       t.flag F.SYS_PUSHSTAT_ERR = true ∧
       t.reg .SYS_LOADERR = BitVec.ofNat 32 ((if s.ld.st = .header then 255 else s.ld.done % 256) * 65536 + 0x11))) ∧
  (∀ (s : State) (req : Req) (p : Fin 4) (x : Switch), s.Wf →
     let may := (∃ f, s.profile p = some f ∧ f.cls = 0) ∧ s.map.sw = none ∧ (s.mode = 3 ∨ s.mode = 4 ∨ s.mode = 5);
     (s.writes req .SYS_PROFCMD 0 (BitVec.ofNat 32 (2 ^ 31 + p.val)) = true →
       (may → exec (.sysProfcmd req p) s = .next (State.answered
         { ((s.raise F.SYS_PROF_BUSY).raise F.SYS_PROF_PEND).setFld F.SYS_PROF_REQP 0 p with
           map := { s.map with sw := some { prof := p } } } req)) ∧
       (¬ may → exec (.sysProfcmd req p) s = .next ((s.raise F.SYS_PROF_REF).answered req))) ∧
     (s.map.sw = some x → exec .profileCopyComplete s =
       .next { s with map := { s.map with sw := some { x with copied := true } } }) ∧
     (s.map.sw = none → exec .profileCopyComplete s = .next s))

/-- The steps of an entry to WATCH or CURFEW; a detected source is recorded, the first with its pin and count, and acts
where isolation is complete; PM_MODEREQ in WATCH is a wake or asks for CURFEW; the end of the restore after WATCH (R362,
R439, R443, R444, R445, R446, R447, R448, R449, R459). -/
def Obligations.LowPowerResults : Prop :=
  (∀ (s : State) (c : ModeChg) (l20 l21 : Bool) (w : Bool), s.Wf → s.pm.chg = some c →
     let at_ (u : State) (x : ChgAt) : State := { u with pm := { s.pm with chg := some { c with at_ := x } } };
     let ready (u : State) (p : Nat) (l : Bool) : State := if l = true ∧ u.linkUp p = true then u.setFld F.HP_LSTAT_LST p 4 else u;
     (c.at_ ≠ .links → exec (.hostLinkWaitEnd l20 l21) s = .next s) ∧
     (c.at_ = .links →
       let v := ready (ready s 0 l20) 1 l21;
       let ends := (∀ p < 2, v.fld F.HP_LSTAT_LST p = 4 ∨ v.linkUp p = false) ∨
         v.lapsed (some c.since) (256 * (1000000 * v.fld F.PM_CFG_HLTO)) = true;
       (ends → exec (.hostLinkWaitEnd l20 l21) s = .next (at_ v (.tick false))) ∧
       (¬ ends → exec (.hostLinkWaitEnd l20 l21) s = .next v)) ∧
     (c.at_ ≠ .stopping ∨ s.entryQuiet = false → exec .modeEntryAccept s = .next s) ∧
     (c.at_ = .stopping → s.entryQuiet = true → exec .modeEntryAccept s = .next (at_
       (((s.setReg .PM_AON_CWIN_W0 0 (BitVec.ofNat 32 s.ltNs)).setReg .PM_AON_CWIN_W1 0
         (BitVec.ofNat 32 (s.ltNs / 2 ^ 32))).setReg .PM_AON_CWIN_W2 0 s.msW2) .accepted)) ∧
     (c.at_ ≠ .accepted → exec (.isolationComplete [] w) s = .next s) ∧
     (c.at_ = .accepted → s.fld F.PM_AON_WKSTAT_SRC = 0 → s.wakeOn 9 0 = false → s.wakeOn 10 0 = false →
       s.mode = 6 ∨ s.mode = 7 → bit s.pm.lost pdAon = false → ∃ t : State, exec (.isolationComplete [] w) s = .next t ∧
         t.pm.isolated = true ∧ t.pm.chg = none ∧ t.flag F.SYS_MODE_PEND = false ∧ t.mode = s.mode ∧
         t.flag F.PM_STATUS_LPREG = decide (s.mode = 6) ∧
         (∀ d < 12, t.powered d = (s.powered d && !bit s.pm.lost d)) ∧
         (s.mode = 7 → t.aon.prev = w ∧ t.aon.rcSeen = s.aon.rc))) ∧
  (∀ (s : State) (req : Req) (sig : WakeSig) (w : Word), s.Wf → s.powered pdAon = true →
     let on := s.wakeOn sig.code sig.pinOf = true ∧ s.wakeSees (s.wakeLevel sig.code sig.pinOf) = true;
     let sees := on ∧ s.wakeMeets sig = some true;
     let first := s.fld F.PM_AON_WKSTAT_SRC = 0;
     let boot := s.fld F.SYS_BOOT_STRAP;
     (¬ on ∨ s.wakeMeets sig = some false → exec (.wakeDetect sig) s = .next s) ∧
     (on → s.wakeMeets sig = none → ∃ t : State, exec (.wakeDetect sig) s = .next t ∧ (t = s.fresh.1 ∨
       (first ∧ t.fld F.PM_AON_WKSTAT_SRC = sig.code) ∨ (¬ first ∧ t = s.fresh.1.setFld F.PM_AON_WKSTAT_PEND 0
         (s.fld F.PM_AON_WKSTAT_PEND ||| 2 ^ (sig.code - 1))))) ∧
     (sees → ¬ first → exec (.wakeDetect sig) s = .next (s.setFld F.PM_AON_WKSTAT_PEND 0
       (s.fld F.PM_AON_WKSTAT_PEND ||| 2 ^ (sig.code - 1)))) ∧
     (sees → first → s.pm.isolated = false → ∃ t : State, exec (.wakeDetect sig) s = .next t ∧ t.mode = s.mode ∧
       t.fld F.PM_AON_WKSTAT_SRC = sig.code ∧ bit (t.fld F.PM_AON_WKSTAT_PEND) (sig.code - 1) = true ∧
       (sig.code = 1 → t.fld F.PM_AON_WKSTAT_PIN = sig.pinOf) ∧ t.reg .PM_AON_WKCNT_LO = BitVec.ofNat 32 s.aon.cnt ∧
       t.reg .PM_AON_WKCNT_HI = BitVec.ofNat 32 (s.aon.cnt / 2 ^ 32)) ∧
     (sees → first → s.pm.isolated = true → s.mode = 7 → s.flag F.PM_AON_CFG_CWTGT = false → boot = 0 ∨ boot = 2 →
       1 ≤ s.lcState → s.lcState ≤ 4 → ∃ t : State, exec (.wakeDetect sig) s = .next t ∧ t.mode = 2 ∧
         t.fld F.PM_AON_WKSTAT_SRC = sig.code ∧ t.ld.st = .header ∧ t.ld.restore = false ∧ t.fld F.SYS_BOOT_SRC = boot ∧
         t.fld F.PM_STATUS_DOM = 0xFFF ∧ t.pm.wakeN = 3 ∧ t.aon.reconDue = true ∧ t.pm.armed = false) ∧
     (sees → first → s.pm.isolated = true → s.mode = 6 → boot = 0 ∨ boot = 2 →
       1 ≤ s.lcState → s.lcState ≤ 4 → ∃ t : State, exec (.wakeDetect sig) s = .next t ∧ t.mode = 6 ∧
         t.fld F.PM_AON_WKSTAT_SRC = sig.code ∧ t.ld.st = .header ∧ t.ld.restore = true ∧
         t.flag F.SYS_MODE_PEND = true ∧ t.fld F.SYS_MODE_TGT = s.fld F.SYS_MODE_RETM ∧ t.flag F.PM_STATUS_LPREG = false ∧
         t.pm.wakeN = 3) ∧
     (s.writes req .PM_MODEREQ 0 w = true →
       (s.mode ≠ 6 ∨ s.modeBusy = true → exec (.pmModereqWrite req w) s = .next ((s.raise F.PM_STATUS_REQREF).answered req)) ∧
       (s.mode = 6 → s.modeBusy = false → F.PM_MODEREQ_TGT.get w = 7 → exec (.pmModereqWrite req w) s = .next
         ((s.modePend { target := 7, q := none, at_ := .tick false }).answered req)) ∧
       (s.mode = 6 → s.modeBusy = false → F.PM_MODEREQ_TGT.get w ≠ 7 → boot = 0 ∨ boot = 2 →
         1 ≤ s.lcState → s.lcState ≤ 4 →
         ∃ t : State, exec (.pmModereqWrite req w) s = .next (t.answered req) ∧ t.ld.restore = true ∧ t.ld.st = .header ∧
           bit (t.fld F.PM_AON_WKSTAT_PEND) 10 = true ∧ t.flag F.SYS_MODE_PEND = true))) ∧
  (∀ (s u : State), s.Wf → bit s.pm.lost pdAon = false →
     let due := s.ld.restore = true ∧ s.ld.st = .all ∧ (s.fld F.SYS_BOOT_SRC = 1 → s.ld.last = true);
     (¬ due → exec .watchRestoreComplete s = .next s) ∧
     (due → s.loadCheck = (u, false) → exec .watchRestoreComplete s = .next u) ∧
     (due → s.loadCheck = (u, true) → ∃ t : State, exec .watchRestoreComplete s = .next t ∧ t.ld = { st := .idle } ∧
       (∃ n, t.pm.chg = some { target := s.fld F.SYS_MODE_RETM, q := none, at_ := .prof, since := n }) ∧
       t.map.sw = some { prof := s.pm.back, byMode := true } ∧ t.flag F.SYS_MODE_PEND = true))

/-- A supervision sample shows its values and flags what is out of range; 160 degrees twice, an overvoltage and the loss
of a PLL are device faults, which enter SAFE with their cause; SAFE restarts where ARST lets it (R437, R452, R455, R478,
R484). -/
def Obligations.SupervisionResults : Prop :=
  ∀ (s : State) (tj vin vcore ildo : BitVec 16) (ovc ovin aonBad time : Bool), s.Wf →
    let t16 := sext tj.toNat 16;
    let sample := Instr.pmMonitorSample tj vin vcore ildo ovc ovin aonBad;
    let safe (i : Instr) (cause : Nat) : Prop := ∃ t : State, exec i s = .next t ∧ t.mode = 8 ∧
      t.fld F.PM_AON_SAFE_CAUSE = cause ∧ t.pm.safeOn = true ∧ t.fld F.PM_STATUS_DOM = 0x401;
    let up := 2 ≤ s.mode ∧ s.mode ≠ 8 ∧ s.powered pdAon = true;
    let n := s.fld F.PM_AON_SAFE_N;
    let restarts := s.mode = 8 ∧ s.fld F.PM_AON_SAFE_ARST ≠ 0 ∧ s.restartDue = true ∧ n < s.fld F.PM_AON_SAFE_ARSTN;
    (s.mode ≤ 1 → exec sample s = .next s) ∧
    (2 ≤ s.mode → t16 < 2560 → vcore.toNat ≤ 920 → vin.toNat ≤ 3700 → ∃ t : State, exec sample s = .next t ∧
      t.mode = s.mode ∧ t.pm.hot = false ∧ t.aon.supplyBad = aonBad ∧ t.reg .PM_MON = BitVec.ofNat 32 (vcore.toNat * 65536 + tj.toNat) ∧
      t.reg .PM_MON2 = BitVec.ofNat 32 ((if s.flag F.PM_STATUS_LPREG then ildo.toNat else 0) * 65536 + vin.toNat) ∧
      (s.mode ≠ 7 → t.flag F.PM_STATUS_OOR = (s.flag F.PM_STATUS_OOR || decide (t16 < -880 ∨ 2400 < t16 ∨ vin.toNat < 3135 ∨
        3465 < vin.toNat ∨ vcore.toNat < 776 ∨ 824 < vcore.toNat))) ∧
      t.flag F.PM_STATUS_TWARN = (s.flag F.PM_STATUS_TWARN || decide (sext (s.fld F.PM_TWARN_TW) 16 < t16))) ∧
    (2 ≤ s.mode → 2560 ≤ t16 → s.pm.hot = false → vcore.toNat ≤ 920 → vin.toNat ≤ 3700 →
      ∃ t : State, exec sample s = .next t ∧ t.mode = s.mode ∧ t.pm.hot = true) ∧
    (up → 2560 ≤ t16 → s.pm.hot = true → safe sample 1) ∧
    (up → t16 < 2560 → 980 < vcore.toNat → safe sample 2) ∧
    (up → t16 < 2560 → vcore.toNat ≤ 920 → 3900 < vin.toNat → safe sample 3) ∧
    (s.mode = 7 → exec (.pllLockLoss time) s = .next s) ∧
    (up → s.mode ≠ 7 → safe (.pllLockLoss time) (if time then 5 else 4)) ∧
    (¬ restarts → exec .autoRestart s = .next s) ∧
    (restarts → ∃ t : State, exec .autoRestart s = .next t ∧ t.mode = 1 ∧ t.pm.inReset = true ∧
      t.flag F.PM_AON_RSTCAUSE_ARST = true ∧ t.fld F.PM_AON_SAFE_N = n + 1)

/-- HALTREQ enters HALT or waits for a mode change, RESUME leaves it for the mode before, DBGACC reads and writes
registers and the Market where the debug port is open; IDCODE returns its code, test instructions are selected where
they are open, and every other code selects BYPASS (R17, R460, R462, R463, R464, R471). -/
def Obligations.DebugPortResults : Prop :=
  (∀ (s : State) (bken : Bool) (a : Fin 1114112) (r : Reg) (i : Nat) (o : Fin 2097152) (w : Word), s.Wf →
     let b : Nat := if bken then 1 else 0;
     let u := s.setFld F.LC_DBGCTL_BKEN 0 b;
     let runs := s.mode = 3 ∨ s.mode = 4 ∨ s.mode = 5 ∨ s.mode = 10;
     let shows (acc : Bool) (v : Word) (t : State) : State := { t with lc := { t.lc with ir := 8, acc := acc, busy := false, data := v } };
     let ctl : Word := BitVec.ofNat 32 (0x40000000 + a);
     let market : Word := BitVec.ofNat 32 (0x10000000 + o);
     (s.writes .dbg .LC_DBGCTL 0 (BitVec.ofNat 32 (4 * b + 1)) = true →
       (runs → s.flag F.SYS_MODE_PEND = false → ∃ t : State, exec (.haltreq bken) s = .next (t.answered .dbg) ∧
         t.mode = 9 ∧ t.lc.haltFrom = s.mode ∧ t.flag F.LC_DBGCTL_BKEN = bken) ∧
       (runs → s.flag F.SYS_MODE_PEND = true → exec (.haltreq bken) s =
         .next (State.answered { u with lc := { s.lc with haltWait := true } } .dbg)) ∧
       (¬ runs → exec (.haltreq bken) s = .next ((u.raise F.LC_DBGSTAT_REF).answered .dbg))) ∧
     (s.writes .dbg .LC_DBGCTL 0 (BitVec.ofNat 32 (4 * b + 2)) = true →
       (s.mode = 9 → s.lc.haltFrom < 16 → ∃ t : State, exec (.resume bken) s = .next (t.answered .dbg) ∧
         t.mode = s.lc.haltFrom ∧ t.flag F.LC_DBGCTL_BKEN = bken) ∧
       (s.mode ≠ 9 → exec (.resume bken) s = .next (u.answered .dbg))) ∧
     (s.mode = 0 → exec (.dbgacc 1 ctl w) s = .next s) ∧
     (s.dbgOn = true → exec (.dbgacc 0 ctl w) s = .next (shows false 0 s)) ∧
     (s.dbgOn = true → s.debugOpen = false → exec (.dbgacc 1 market w) s = .next (shows true 0 s)) ∧
     (s.dbgOn = true → s.debugOpen = true → regAt a = some (r, i) → a.val % 4 = 0 → s.regOn r i = true →
       s.readDenied s.sup r i = false → r.isBuf = false → r ≠ .MP1_PATRES → r.wide = [] → r.shared = false →
       (∀ f ∈ r.desc.fields, f.acc ≠ .rc) →
       exec (.dbgacc 1 ctl w) s = .next (shows false (r.readMask (s.regView r i)) s)) ∧
     (regAt a = some (r, i) → a.val % 4 = 0 → r.held = false → r.acts = false → r.desc.staged = true →
       s.writes .dbg r i w = true →
       exec (.dbgacc 2 ctl w) s = .next (shows false 0 (s.setStg r i (r.written (s.stg r i) w)))) ∧
     (s.dbgOn = true → s.debugOpen = true → o.val % 4 = 0 → s.inPstore o = false → s.eccOf rgMarket (o / 8) = {} →
       exec (.dbgacc 1 market w) s = .next (shows false (BitVec.ofNat 32 (s.peek rgMarket o 4)) s) ∧
       exec (.dbgacc 2 market w) s = .next (shows false 0 (s.memWrite rgMarket o 4 w.toNat)))) ∧
  (∀ (s : State) (code : Fin 32), s.Wf → s.mode ≠ 0 →
     let selects (n : Nat) : State := { s with lc := { s.lc with ir := n } };
     let open_ := s.lcState = 0 ∨ s.lcState = 1 ∨ (s.lcState = 4 ∧ s.flag F.LC_STATE_TOPEN = true);
     exec .idcode s = .next ((selects 2).emit (.tdo 0xB48643A5)) ∧
     (open_ → exec .extest s = .next (selects 0) ∧ exec .samplePreload s = .next (selects 1)) ∧
     (¬ open_ → exec .extest s = .next (selects 0x1F) ∧ exec .samplePreload s = .next (selects 0x1F)) ∧
     (code.val ≠ 2 → code.val ≠ 8 → ¬ open_ → exec (.bypass code) s = .next (selects 0x1F)) ∧
     (2 ≤ code.val → code.val ≠ 2 → code.val ≠ 8 → ¬ (0x10 ≤ code.val ∧ code.val ≤ 0x17) →
       exec (.bypass code) s = .next (selects 0x1F)))

/-- A write of LC_CMD does nothing while a command runs, ends with a result where it is refused, or begins the OP, the
first SCRAP waiting for its confirmation; the end of a command fuses a key, opens TOPEN, or changes the state by two of
three copies with its slot and keys, and resets the device (R460, R461, R465, R466, R467, R468). -/
def Obligations.LifeCycleResults : Prop :=
  (∀ (s : State) (req : Req), s.Wf →
     let word (op : Nat) : Word := BitVec.ofNat 32 (0x4C43 * 65536 + op);
     let cmds : List (Instr × Nat) := [(.makerToOpen req, 1), (.keyfuse req, 2), (.openToSealed req, 3), (.sealedToReturn req, 4),
       (.topen req, 5), (.scrap req, 6), (.blankToMaker req, 7)];
     let idle := s.flag F.LC_STATUS_BUSY = false;
     let modeOk := s.mode = 2 ∨ s.mode = 3 ∨ s.mode = 4 ∨ s.mode = 11;
     let fine := idle ∧ modeOk ∧ s.flag F.PM_STATUS_OOR = false;
     let st := s.lcState;
     let ends (c : Instr) (res : Nat) : Prop :=
       exec c s = .next (((s.setFld F.LC_STATUS_SCRP 0 0).setFld F.LC_STATUS_RES 0 res).answered req);
     let begins (c : Instr) (k : LcCmd) : Prop := ∃ t : State, exec c s = .next (t.answered req) ∧ t.lc.cmd = some k ∧
       t.flag F.LC_STATUS_BUSY = true ∧ t.fld F.LC_STATUS_RES = 0 ∧ t.flag F.LC_STATUS_SCRP = false ∧ t.lcState = st;
     (∀ c ∈ cmds, s.writes req .LC_CMD 0 (word c.2) = true →
       (¬ idle → exec c.1 s = .next (s.answered req)) ∧ (idle → ¬ modeOk → ends c.1 2)) ∧
     (s.writes req .LC_CMD 0 (word 1) = true → idle → modeOk → st ≠ 1 → ends (.makerToOpen req) 2) ∧
     (s.writes req .LC_CMD 0 (word 1) = true → idle → modeOk → st = 1 → s.flag F.PM_STATUS_OOR = true →
       ends (.makerToOpen req) 7) ∧
     (s.writes req .LC_CMD 0 (word 1) = true → fine → st = 1 → begins (.makerToOpen req) { op := 1, dest := 2 }) ∧
     (s.writes req .LC_CMD 0 (word 2) = true → fine → st = 2 →
       (s.lcSlot.key ≠ none → ends (.keyfuse req) 5) ∧
       (s.lcSlot.key = none → ecValid s.lcKey = false → ends (.keyfuse req) 3) ∧
       (s.lcSlot.key = none → ecValid s.lcKey = true → begins (.keyfuse req) { op := 2, key := some s.lcKey })) ∧
     (s.writes req .LC_CMD 0 (word 3) = true → fine → st = 2 →
       (s.lcSlot.key = none → ends (.openToSealed req) 5) ∧
       (s.lcSlot.key ≠ none → begins (.openToSealed req) { op := 3, dest := 3 })) ∧
     (s.writes req .LC_CMD 0 (word 4) = true → fine → st = 3 →
       let k := s.tokenResult 1 0 (s.lcSlot.key.getD (0, 0));
       (k = 1 → begins (.sealedToReturn req) { op := 4, dest := 4 }) ∧ (k ≠ 1 → ends (.sealedToReturn req) k)) ∧
     (req = .dbg → s.writes req .LC_CMD 0 (word 5) = true → fine → st = 4 →
       begins (.topen req) { op := 5, res := s.tokenResult 2 (s.reg .LC_NONCE) Config.torralaKey }) ∧
     (s.writes req .LC_CMD 0 (word 6) = true → fine → st ≠ 5 →
       (s.flag F.LC_STATUS_SCRP = false ∨ s.scrapLate = true → exec (.scrap req) s = .next (State.answered
         { s.raise F.LC_STATUS_SCRP with lc := { s.lc with scrpAt := s.ltMs } } req)) ∧
       (s.flag F.LC_STATUS_SCRP = true → s.scrapLate = false → begins (.scrap req) { op := 6, dest := 5 })) ∧
     (req = .dbg → s.writes req .LC_CMD 0 (word 7) = true → fine →
       (st = 0 → begins (.blankToMaker req) { op := 7, dest := 1 }) ∧
       (st = 4 → s.flag F.LC_STATE_TOPEN = true → s.lc.slot = 0 → s.lc.slot1 = {} →
         begins (.blankToMaker req) { op := 7, dest := 1 })) ∧
     (s.lc.scrpAt + 256000000 ≤ s.ltMs → exec .scrapConfirmExpiry s = .next (s.setFld F.LC_STATUS_SCRP 0 0)) ∧
     (s.lc.scrpAt ≤ s.ltMs → s.ltMs < s.lc.scrpAt + 256000000 → exec .scrapConfirmExpiry s = .next s)) ∧
  (∀ (s : State) (c : LcCmd) (ok0 ok1 ok2 : Bool), s.Wf →
     let short := c.op = 2 ∨ c.op = 5;
     (s.lc.cmd = none → exec .lcCommandComplete s = .next s ∧ exec (.lcProgramComplete ok0 ok1 ok2) s = .next s) ∧
     (s.lc.cmd = some c → ¬ short → exec .lcCommandComplete s = .next s) ∧
     (s.lc.cmd = some c → short → exec (.lcProgramComplete ok0 ok1 ok2) s = .next s) ∧
     (s.lc.cmd = some c → short → c.res < 16 → ∃ t : State, exec .lcCommandComplete s = .next t ∧ t.lc.cmd = none ∧
       t.flag F.LC_STATUS_BUSY = false ∧ t.fld F.LC_STATUS_RES = c.res ∧ t.lcState = s.lcState ∧
       (c.res ≠ 1 → t.lcSlot = s.lcSlot ∧ t.flag F.LC_STATE_TOPEN = s.flag F.LC_STATE_TOPEN) ∧
       (c.op = 2 → c.res = 1 → t.lcSlot.key = c.key ∧ t.flag F.LC_STATE_KEYV = c.key.isSome) ∧
       (c.op = 5 → c.res = 1 → t.flag F.LC_STATE_TOPEN = true ∧ (s.lcState = 4 → t.debugOpen = true))) ∧
     (s.lc.cmd = some c → ¬ short → c.dest < 8 → (ok0 && ok1 || ok0 && ok2 || ok1 && ok2) = true →
       ∃ t : State, exec (.lcProgramComplete ok0 ok1 ok2) s = .next t ∧ t.lcState = c.dest ∧ t.mode = 1 ∧
         t.flag F.PM_AON_RSTCAUSE_CMD = true ∧ t.lc.cmd = none ∧
         (c.op = 4 → t.lcSlot = { erased := true }) ∧
         (c.op = 7 → s.lcState = 4 → t.lc.slot = s.lc.slot + 1) ∧
         (c.op ≠ 4 → t.lc.slot0 = s.lc.slot0 ∧ t.lc.slot1 = s.lc.slot1)))

/-- Commands of the tick, the Plaza, the Arcades and the host interface complete with their own effect wherever the
conditions of their rules hold: a tick and a stage close, the delivery of a packet to an Arcade, a finished class-A transfer,
the idle release and the flush of an Arcade, a BAR 0 read that was not served, every form of configuration request, a
function level reset, the release of HPn_PERST_N, the moves of a host link, and a held message that may be sent (R37, R39, R183,
R186, R231, R232, R357, R361, R362, R377, R442, R482). -/
def Obligations.CompletionOfEvents : Prop :=
  (∀ s : State, s.timeRuns = true →
     let k := ((s.ltNs : Int) - s.tickPhase) / s.tickPeriod;
     (s.ct.kMax < k → s.ct.sc = true → exec .tick s = .next (s.tickAt k)) ∧
     (s.ct.kMax < k → s.ct.sc = false → exec .tick s = .next (s.stageClose.tickAt k)) ∧
     (s.ct.sc = false → (s.ct.kMax + 1) * s.tickPeriod + s.tickPhase - 160 ≤ (s.ltNs : Int) →
       exec .stageClose s = .next s.stageClose)) ∧
  (∀ (s : State) (typ : Fin 16) (idx : Fin 256) (p : Packet) (rest : List Packet) (d cycles : Nat) (r : PzReq) (g : PzTgt)
      (fourth : Bool), s.Wf →
     (takePacket typ idx s.presented = some (p, rest) → p.dests = some [d] → d < 64 →
       exec (.packetRoute typ idx) s = .next (({ s with presented := rest } : State).arcStore d p)) ∧
     (takePacket typ idx s.presented = some (p, rest) → p.dests = none → ∃ t : State,
       exec (.packetRoute typ idx) s = .next t ∧ t.presented = rest ∧ t.flag F.PZ_STATUS_UNRT = true ∧
         t.fld F.PZ_UNROUTED_UNRN = min (s.fld F.PZ_UNROUTED_UNRN + 1) (maxOf F.PZ_UNROUTED_UNRN.width)) ∧
     (s.pzClass r = .a → ∃ t : State, exec (.plazaTransferComplete r g cycles fourth) s = .next t ∧
       t.fld F.PZ_AMAX_AMAX = max (s.fld F.PZ_AMAX_AMAX) (min cycles 65535) ∧
       (s.pzBound g = true → 40 < cycles → t.flag F.PZ_STATUS_ABND = true) ∧
       (s.pzBound g = true → fourth = true → t.flag F.PZ_STATUS_ACONT = true))) ∧
  (∀ (s : State) (req : Req) (a : Fin 64), s.Wf →
     (s.arcIdleDue a = true → ∃ t : State, exec (.arcadeIdleTimeout a) s = .next t ∧ (t.arcOf a).rel = (s.arcOf a).pc ∧
       (t.arcOf a).idle = none) ∧
     (s.writes req .ARC_CMD a 1 = true → (s.arcOf a).flp = false →
       exec (.arcadeFlush req a) s = .next ((s.arcFlush a).answered req))) ∧
  (∀ (s : State) (q : Fin 4) (c : CfgReq) (w : Fin 1024) (b m : Bool) (x : BitVec 44) (y : BitVec 48) (off : Fin 1048576)
      (at_ : Nat) (vec : Fin 16), s.Wf →
     let u := s.qOf q;
     let pm (v : Nat) : State := { s with pm := { s.pm with aspm := v } };
     (s.powered pdHost = true → bit s.pm.perst (q / 2) = true → s.cfgRetry q = false →
       exec (.pcieConfigRequest q (.read w)) s = .next (s.emit (.cfg q (some (s.cfgWord q w)))) ∧
       exec (.pcieConfigRequest q (.busMaster b)) s = .next (((s.setQ q { u with busMaster := b }).emit (.cfg q (some 0))).hostAct) ∧
       exec (.pcieConfigRequest q (.msix b m)) s = .next ((s.setQ q { u with msixEn := b, fmask := m }).emit (.cfg q (some 0))) ∧
       exec (.pcieConfigRequest q (.payload b)) s =
         .next ((s.setQ q { u with mps := if b then 256 else 128 }).emit (.cfg q (some 0))) ∧
       exec (.pcieConfigRequest q (.bar0 x)) s =
         .next ((s.setQ q { u with bar0 := x.toNat * 2 ^ 20 }).emit (.cfg q (some 0))) ∧
       exec (.pcieConfigRequest q (.bar2 y)) s =
         .next ((s.setQ q { u with bar2a := y.toNat * 2 ^ 16 }).emit (.cfg q (some 0))) ∧
       exec (.pcieConfigRequest q (.aspmL1 true)) s =
         .next ((pm (s.pm.aspm ||| 2 ^ (q.val / 2))).emit (.cfg q (some 0))) ∧
       exec (.pcieConfigRequest q (.aspmL1 false)) s =
         .next ((pm (s.pm.aspm - (s.pm.aspm &&& 2 ^ (q.val / 2)))).emit (.cfg q (some 0)))) ∧
     exec (.functionLevelReset q) s = .next ((s.cfgReset q).askReset q 0) ∧
     (at_ + 256 * 50000 ≤ s.ltMs → ∃ t : State, exec (.bar0ReadTimeout q off at_) s = .next t ∧
       t.flag F.HP_QSTAT_RDTO q = true ∧ t.out = .bar q off 0xFFFFFFFF false :: s.out) ∧
     (u.msixPend.contains vec.val = true → s.mayMsg q vec = true → ∃ t : State, exec (.msixPendingSend q vec) s = .next t ∧
       (t.qOf q).msixPend = u.msixPend.filter (· != vec.val) ∧ t.out.length = s.out.length + 1)) ∧
  (∀ (s : State) (p : Fin 2) (fast : Bool), s.Wf →
     (s.powered pdHost = true → bit s.pm.perst p = true → ∃ t : State, exec (.hostLinkTrained p fast) s = .next t ∧
       t.linkUp p = true ∧ t.fld F.HP_LSTAT_LST p = 1 ∧ t.fld F.HP_LSTAT_SPD p = if fast then 2 else 1) ∧
     exec (.hostLinkDown p) s = .next (s.linkDown p) ∧
     (s.linkUp p = true → s.fld F.HP_LSTAT_LST p ≠ 1 → ∃ t : State, exec (.hostLinkL0 p) s = .next t ∧
       t.fld F.HP_LSTAT_LST p = 1 ∧ bit t.pm.wakeN p = false) ∧
     (s.mode = 5 → s.linkUp p = true → s.fld F.HP_LSTAT_LST p = 1 ∨ s.fld F.HP_LSTAT_LST p = 2 → bit s.pm.aspm p = true →
       exec (.hostLinkL1Entry p) s = .next (s.setFld F.HP_LSTAT_LST p 3)) ∧
     (∃ t : State, exec (.perstRelease p) s = .next t ∧ bit t.pm.perst p = true ∧ t.linkUp p = false ∧
       (t.qOf (2 * p)).qr.isSome = true ∧ (t.qOf (2 * p + 1)).qr.isSome = true))
end

