-- ==== Sys2Proof/Laws/Tab.lean ====
section
/-! SUPPORT. Sparse tables: every operation keeps the canonical form, a read after a write of the same key gives the value
written, and a write leaves every other key alone. -/

namespace Sys2Proof.Machine

section
variable {α : Type} [DecidableEq α] {d : Nat → α} {t : Tab α}

@[simp] theorem Tab.wf_nil : Tab.wf d ([] : Tab α) = true := rfl

theorem Tab.above_iff {β : Type} {b : Nat} {t : Tab β} : Tab.above b t = true ↔ ∀ e ∈ t, b < e.1 := by
  induction t with
  | nil => simp [Tab.above]
  | cons e t ih => simp [Tab.above, ih]

theorem Tab.wf_iff : Tab.wf d t = true ↔ t.Pairwise (fun a b => a.1 < b.1) ∧ ∀ e ∈ t, e.2 ≠ d e.1 := by
  induction t with
  | nil => simp [Tab.wf]
  | cons e t ih =>
    obtain ⟨j, v⟩ := e
    simp only [Tab.wf, Bool.and_eq_true, Tab.above_iff, decide_eq_true_eq, ih, List.pairwise_cons, List.mem_cons,
      forall_eq_or_imp]
    tauto

theorem Tab.mem_erase {β : Type} {t : Tab β} {k : Nat} {e : Nat × β} (h : e ∈ Tab.erase k t) : e ∈ t := by
  induction t with
  | nil => simp [Tab.erase] at h
  | cons a t ih =>
    obtain ⟨j, v⟩ := a
    simp only [Tab.erase] at h
    split_ifs at h <;> simp only [List.mem_cons] at h ⊢ <;> tauto

theorem Tab.mem_insert {β : Type} {t : Tab β} {k : Nat} {v : β} {e : Nat × β} (h : e ∈ Tab.insert k v t) :
    e = (k, v) ∨ e ∈ t := by
  induction t with
  | nil => simpa [Tab.insert] using h
  | cons a t ih =>
    obtain ⟨j, w⟩ := a
    simp only [Tab.insert] at h
    split_ifs at h <;> simp only [List.mem_cons] at h ⊢ <;> tauto

theorem Tab.sorted_erase {β : Type} {t : Tab β} {k : Nat} (h : t.Pairwise (fun a b => a.1 < b.1)) :
    (Tab.erase k t).Pairwise (fun a b => a.1 < b.1) := by
  induction t with
  | nil => simp [Tab.erase]
  | cons a t ih =>
    obtain ⟨j, v⟩ := a
    rw [List.pairwise_cons] at h
    simp only [Tab.erase]
    split_ifs
    · exact h.2
    · exact List.pairwise_cons.2 h
    · exact List.pairwise_cons.2 ⟨fun e he => h.1 e (Tab.mem_erase he), ih h.2⟩

theorem Tab.sorted_insert {β : Type} {t : Tab β} {k : Nat} {v : β} (h : t.Pairwise (fun a b => a.1 < b.1)) :
    (Tab.insert k v t).Pairwise (fun a b => a.1 < b.1) := by
  induction t with
  | nil => simp [Tab.insert]
  | cons a t ih =>
    obtain ⟨j, w⟩ := a
    have h' := List.pairwise_cons.1 h
    simp only [Tab.insert]
    split_ifs with h1 h2
    · subst h1; exact List.pairwise_cons.2 ⟨h'.1, h'.2⟩
    · refine List.pairwise_cons.2 ⟨fun e he => ?_, h⟩
      rcases List.mem_cons.1 he with rfl | he
      · exact h2
      · exact h2.trans (h'.1 e he)
    · refine List.pairwise_cons.2 ⟨fun e he => ?_, ih h'.2⟩
      rcases Tab.mem_insert he with rfl | he
      · show j < k; omega
      · exact h'.1 e he

/-- A write keeps the canonical form. -/
@[simp] theorem Tab.wf_set {k : Nat} {v : α} (h : Tab.wf d t = true) : Tab.wf d (t.set d k v) = true := by
  rw [Tab.wf_iff] at h ⊢
  unfold Tab.set
  split_ifs with hv
  · exact ⟨Tab.sorted_erase h.1, fun e he => h.2 e (Tab.mem_erase he)⟩
  · refine ⟨Tab.sorted_insert h.1, fun e he => ?_⟩
    rcases Tab.mem_insert he with rfl | he
    · exact hv
    · exact h.2 e he

/-- So does leaving out entries. -/
@[simp] theorem Tab.wf_filter {p : Nat × α → Bool} (h : Tab.wf d t = true) : Tab.wf d (t.filter p) = true := by
  rw [Tab.wf_iff] at h ⊢
  exact ⟨h.1.filter p, fun e he => h.2 e (List.mem_filter.1 he).1⟩

/-- A fold of steps that keep the form keeps it. -/
theorem Tab.wf_foldl {β : Type} {f : Tab α → β → Tab α} (hf : ∀ t b, Tab.wf d t = true → Tab.wf d (f t b) = true)
    (l : List β) : ∀ t, Tab.wf d t = true → Tab.wf d (l.foldl f t) = true := by
  induction l with
  | nil => exact fun t h => h
  | cons b l ih => exact fun t h => ih _ (hf t b h)

@[simp] theorem Tab.wf_drop {p : Nat → Bool} (h : Tab.wf d t = true) : Tab.wf d (tabDrop p t) = true :=
  Tab.wf_filter h

@[simp] theorem Tab.wf_map {c : α} {f : α → α} (h : Tab.wf (fun _ => c) t = true) :
    Tab.wf (fun _ => c) (tabMap c f t) = true := by
  rw [Tab.wf_iff] at h ⊢
  unfold tabMap
  refine ⟨h.1.filterMap _ fun a a' hlt b hb b' hb' => ?_, fun e he => ?_⟩
  · split_ifs at hb hb'
    simp_all
    rw [← hb, ← hb']; exact hlt
  · obtain ⟨a, -, ha⟩ := List.mem_filterMap.1 he
    split_ifs at ha with hc
    simp only [Option.some.injEq] at ha
    rw [← ha]; exact hc

theorem Tab.wf_takeFrom {p : Nat → Bool} {src t : Tab Word} (h : Tab.wf regDefault t = true) :
    Tab.wf regDefault (takeFrom p src t) = true :=
  Tab.wf_foldl (fun _ _ h => Tab.wf_set h) _ _ (Tab.wf_filter h)

theorem Tab.wf_mapTable (l : List RegEnt) (p : Nat) : Tab.wf regDefault (mapTable l p) = true :=
  Tab.wf_foldl (fun t e h => by split_ifs; exacts [Tab.wf_set h, h]) _ _ rfl

theorem Tab.wf_mapValues (l : List RegEnt) (p : Nat) : Tab.wf regDefault (mapValues l p) = true :=
  Tab.wf_foldl (fun t e h => by dsimp only; split_ifs; exacts [h, Tab.wf_set h]) _ _ (Tab.wf_mapTable l p)

/-- A write leaves every other key alone. -/
@[simp] theorem Tab.get_set_ne {k j : Nat} {v : α} (h : j ≠ k) : (t.set d k v).get d j = t.get d j := by
  unfold Tab.set
  split_ifs with hv
  · clear hv
    induction t with
    | nil => rfl
    | cons a t ih =>
      obtain ⟨i, w⟩ := a
      simp only [Tab.erase]
      split_ifs <;> simp only [Tab.get] <;> split_ifs <;> first | rfl | omega
  · induction t with
    | nil => simp [Tab.insert, Tab.get, h.symm]
    | cons a t ih =>
      obtain ⟨i, w⟩ := a
      simp only [Tab.insert]
      split_ifs <;> simp only [Tab.get] <;> split_ifs <;> first | rfl | omega

omit [DecidableEq α] in
theorem Tab.get_above {b k : Nat} (h : Tab.above b t = true) (hk : k ≤ b) : t.get d k = d k := by
  induction t with
  | nil => rfl
  | cons a t ih =>
    obtain ⟨i, w⟩ := a
    simp only [Tab.above, Bool.and_eq_true, decide_eq_true_eq] at h
    simp only [Tab.get]
    rw [if_neg (by omega)]
    exact ih h.2

/-- In canonical form, a read after a write of the same key gives the value written. -/
@[simp] theorem Tab.get_set_eq {k : Nat} {v : α} (h : Tab.wf d t = true) : (t.set d k v).get d k = v := by
  unfold Tab.set
  split_ifs with hv
  · rw [hv]
    clear hv
    induction t with
    | nil => rfl
    | cons a t ih =>
      obtain ⟨i, w⟩ := a
      simp only [Tab.wf, Bool.and_eq_true] at h
      simp only [Tab.erase]
      split_ifs with h1 h2
      · subst h1; exact Tab.get_above h.1.1 (Nat.le_refl _)
      · simp only [Tab.get]; rw [if_neg h1]; exact Tab.get_above h.1.1 (Nat.le_of_lt h2)
      · simp only [Tab.get]; rw [if_neg h1]; exact ih h.2
  · induction t with
    | nil => simp [Tab.insert, Tab.get]
    | cons a t ih =>
      obtain ⟨i, w⟩ := a
      simp only [Tab.wf, Bool.and_eq_true] at h
      simp only [Tab.insert]
      split_ifs with h1 h2
      · simp [Tab.get]
      · simp [Tab.get]
      · simp only [Tab.get]; rw [if_neg h1]; exact ih h.2

/-- Canonical tables with the same values at every key are equal. -/
theorem Tab.ext {u : Tab α} (ht : Tab.wf d t = true) (hu : Tab.wf d u = true) (h : ∀ k, t.get d k = u.get d k) : t = u := by
  induction t generalizing u with
  | nil =>
    cases u with
    | nil => rfl
    | cons b u =>
      obtain ⟨j, w⟩ := b
      have := h j
      simp only [Tab.wf, Bool.and_eq_true, decide_eq_true_eq] at hu
      simp only [Tab.get, if_true] at this
      exact absurd this.symm hu.1.2
  | cons a t ih =>
    obtain ⟨i, v⟩ := a
    simp only [Tab.wf, Bool.and_eq_true, decide_eq_true_eq] at ht
    cases u with
    | nil =>
      have := h i
      simp only [Tab.get, if_true] at this
      exact absurd this ht.1.2
    | cons b u =>
      obtain ⟨j, w⟩ := b
      simp only [Tab.wf, Bool.and_eq_true, decide_eq_true_eq] at hu
      have hij : i = j := by
        by_contra hne
        rcases Nat.lt_or_gt_of_ne hne with hl | hl
        · have := h i
          simp only [Tab.get, if_true, if_neg (Ne.symm hne)] at this
          rw [Tab.get_above hu.1.1 (Nat.le_of_lt hl)] at this
          exact ht.1.2 this
        · have := h j
          simp only [Tab.get, if_true, if_neg hne] at this
          rw [Tab.get_above ht.1.1 (Nat.le_of_lt hl)] at this
          exact hu.1.2 this.symm
      subst hij
      have hv : v = w := by simpa [Tab.get] using h i
      subst hv
      rw [ih ht.2 hu.2 fun k => ?_]
      by_cases hk : i = k
      · subst hk
        rw [Tab.get_above ht.1.1 (Nat.le_refl _), Tab.get_above hu.1.1 (Nat.le_refl _)]
      · simpa [Tab.get, hk] using h k

/-- The last of two writes of one key stands. -/
@[simp] theorem Tab.set_set {k : Nat} {v w : α} (h : Tab.wf d t = true) : (t.set d k v).set d k w = t.set d k w :=
  Tab.ext (Tab.wf_set (Tab.wf_set h)) (Tab.wf_set h) fun j => by
    by_cases hj : j = k
    · subst hj; rw [Tab.get_set_eq (Tab.wf_set h), Tab.get_set_eq h]
    · rw [Tab.get_set_ne hj, Tab.get_set_ne hj, Tab.get_set_ne hj]

/-- Writes of different keys may change places. -/
theorem Tab.set_comm {k j : Nat} {v w : α} (hk : k ≠ j) (h : Tab.wf d t = true) :
    (t.set d k v).set d j w = (t.set d j w).set d k v :=
  Tab.ext (Tab.wf_set (Tab.wf_set h)) (Tab.wf_set (Tab.wf_set h)) fun i => by
    by_cases h1 : i = k
    · subst h1; rw [Tab.get_set_ne hk, Tab.get_set_eq h, Tab.get_set_eq (Tab.wf_set h)]
    · by_cases h2 : i = j
      · subst h2; rw [Tab.get_set_eq (Tab.wf_set h), Tab.get_set_ne h1, Tab.get_set_eq h]
      · rw [Tab.get_set_ne h2, Tab.get_set_ne h1, Tab.get_set_ne h1, Tab.get_set_ne h2]

/-- Writing what stands there changes nothing. -/
@[simp] theorem Tab.set_get {k : Nat} (h : Tab.wf d t = true) : t.set d k (t.get d k) = t :=
  Tab.ext (Tab.wf_set h) h fun j => by
    by_cases hj : j = k
    · subst hj; rw [Tab.get_set_eq h]
    · rw [Tab.get_set_ne hj]

end

end Sys2Proof.Machine
end

