-- ==== Sys2Proof/Laws/Keeps.lean ====
section
/-! SUPPORT. What every operation of the device keeps: the queue, and the canonical form of the tables. -/

namespace Sys2Proof.Machine

/-- From s0 on, the queue is unchanged and the canonical form is kept. -/
structure Keeps (s0 s : State) : Prop where
  pending : s.pending = s0.pending
  wf : s0.Wf → s.Wf

theorem reset_wf : State.reset.Wf := by
  constructor <;> decide +kernel

theorem Keeps.refl (s : State) : Keeps s s := ⟨rfl, id⟩

/-- An update that leaves the queue and keeps the form. -/
theorem Keeps.step {s0 s s' : State} (h : Keeps s0 s) (hp : s'.pending = s.pending) (hw : s.Wf → s'.Wf) : Keeps s0 s' :=
  ⟨hp.trans h.pending, fun w => hw (h.wf w)⟩

/-- The state of a pair that a match has taken apart. -/
theorem keeps_pair {β : Type} {s0 a : State} {b : β} {p : State × β} (e : p = (a, b)) (h : Keeps s0 p.1) : Keeps s0 a := by
  subst e; exact h

@[simp] theorem keeps_ite {s0 a b : State} {c : Prop} [Decidable c] :
    Keeps s0 (if c then a else b) ↔ (c → Keeps s0 a) ∧ (¬c → Keeps s0 b) := by
  split_ifs with h <;> simp [h]

/-- A fold of steps that keep them keeps them. -/
@[simp] theorem keeps_foldl {β : Type} {s0 s : State} {f : State → β → State} {l : List β}
    (h : Keeps s0 s) (hf : ∀ s b, Keeps s0 s → Keeps s0 (f s b)) : Keeps s0 (l.foldl f s) := by
  induction l generalizing s with
  | nil => exact h
  | cons b l ih => exact ih (hf s b h)

/-- The same for a fold that carries a result. -/
@[simp] theorem keeps_foldl_fst {β γ : Type} {s0 : State} {p : State × γ} {f : State × γ → β → State × γ} {l : List β}
    (h : Keeps s0 p.1) (hf : ∀ p b, Keeps s0 p.1 → Keeps s0 (f p b).1) : Keeps s0 (l.foldl f p).1 := by
  induction l generalizing p with
  | nil => exact h
  | cons b l ih => exact ih (hf p b h)

@[simp] theorem each_keeps {s0 s : State} {n : Nat} {f : State → Nat → State}
    (h : Keeps s0 s) (hf : ∀ s i, Keeps s0 s → Keeps s0 (f s i)) : Keeps s0 (s.each n f) := keeps_foldl h hf

/-- `Keeps` by its parts: the queue and the tables. -/
def KeepsParts (s0 : State) (q : List Instr) (live staged captured active mapv holdReg : Tab Word) (holdMark : Tab Bool)
    (snap : Tab Word) (owner : Tab Nat) (mem : Tab Byte) (ecc : Tab Ecc) (blk : Tab Blk4) (thr : Tab Thr)
    (fp : Tab FpUnit) (arc : Tab Arc) (ll : Tab LlUnit) (pin : Tab Pin) (xc : Tab XCell) (hl : Tab HlUnit)
    (tw : Tab TwUnit) (qtr : Tab Qtr) (bar2 : Tab Word) : Prop :=
  Keeps s0 { pending := q, live := live, staged := staged, captured := captured, active := active, mapv := mapv,
             holdReg := holdReg, holdMark := holdMark, snap := snap, owner := owner, mem := mem, ecc := ecc, blk := blk,
             thr := thr, fp := fp, arc := arc, ll := ll, pin := pin, xc := xc, hl := hl, tw := tw, qtr := qtr, bar2 := bar2 }

/-- A state as its fields. -/
@[simp] theorem keeps_mk {s0 : State} {q a live staged captured active mapv holdReg holdMark snap owner mem ecc b c d blk thr
    fp e arc ll pin f xc g hl tw h i j k l m qtr bar2 n} :
    Keeps s0 (State.mk q a live staged captured active mapv holdReg holdMark snap owner mem ecc b c d blk thr
      fp e arc ll pin f xc g hl tw h i j k l m qtr bar2 n) ↔
    KeepsParts s0 q live staged captured active mapv holdReg holdMark snap owner mem ecc blk thr fp arc ll pin xc hl tw
      qtr bar2 :=
  ⟨fun ⟨p, w⟩ => ⟨p, fun w0 =>
      have ⟨h1, h2, h3, h4, h5, h6, h7, h8, h9, h10, h11, h12, h13, h14, h15, h16, h17, h18, h19, h20, h21, h22⟩ := w w0
      ⟨h1, h2, h3, h4, h5, h6, h7, h8, h9, h10, h11, h12, h13, h14, h15, h16, h17, h18, h19, h20, h21, h22⟩⟩,
    fun ⟨p, w⟩ => ⟨p, fun w0 =>
      have ⟨h1, h2, h3, h4, h5, h6, h7, h8, h9, h10, h11, h12, h13, h14, h15, h16, h17, h18, h19, h20, h21, h22⟩ := w w0
      ⟨h1, h2, h3, h4, h5, h6, h7, h8, h9, h10, h11, h12, h13, h14, h15, h16, h17, h18, h19, h20, h21, h22⟩⟩⟩

/-- An update of what is no table. -/
@[simp] theorem plain_keeps {s0 s : State} (h : Keeps s0 s) :
    KeepsParts s0 s.pending s.live s.staged s.captured s.active s.mapv s.holdReg s.holdMark s.snap s.owner s.mem s.ecc
      s.blk s.thr s.fp s.arc s.ll s.pin s.xc s.hl s.tw s.qtr s.bar2 := keeps_mk.1 (by exact h)

/-- Every staged copy is captured. -/
@[simp] theorem capture_keeps {s0 s : State} (h : Keeps s0 s) :
    KeepsParts s0 s.pending s.live s.staged s.staged s.active s.mapv s.holdReg s.holdMark s.snap s.owner s.mem s.ecc
      s.blk s.thr s.fp s.arc s.ll s.pin s.xc s.hl s.tw s.qtr s.bar2 :=
  keeps_mk.1 (h.step (s' := { s with captured := s.staged }) rfl fun w => { w with captured := w.staged })

/-- Every captured copy becomes active. -/
@[simp] theorem activate_keeps {s0 s : State} (h : Keeps s0 s) :
    KeepsParts s0 s.pending s.live s.staged s.captured s.captured s.mapv s.holdReg s.holdMark s.snap s.owner s.mem s.ecc
      s.blk s.thr s.fp s.arc s.ll s.pin s.xc s.hl s.tw s.qtr s.bar2 :=
  keeps_mk.1 (h.step (s' := { s with active := s.captured }) rfl fun w => { w with active := w.captured })

/-- The Map gives the ownership table and the Map values. -/
@[simp] theorem owner_keeps {s0 s : State} {o : Tab Nat} {m : Tab Word} (ho : Tab.wf (fun _ => 0) o = true)
    (hm : Tab.wf regDefault m = true) (h : Keeps s0 s) :
    KeepsParts s0 s.pending s.live s.staged s.captured s.active m s.holdReg s.holdMark s.snap o s.mem s.ecc
      s.blk s.thr s.fp s.arc s.ll s.pin s.xc s.hl s.tw s.qtr s.bar2 :=
  keeps_mk.1 (h.step (s' := { s with mapv := m, owner := o }) rfl fun w => { w with mapv := hm, owner := ho })

/-- A step answers a next state that keeps them. -/
def OutKeeps (s0 : State) : Host.Outcome State Fault Refusal → Prop
  | .next s => Keeps s0 s
  | .fault _ => False
  | .refused _ => False

@[simp] theorem outKeeps_next {s0 s : State} : OutKeeps s0 (.next s) ↔ Keeps s0 s := Iff.rfl

@[simp] theorem outKeeps_ite {s0 : State} {a b : Host.Outcome State Fault Refusal} {c : Prop} [Decidable c] :
    OutKeeps s0 (if c then a else b) ↔ (c → OutKeeps s0 a) ∧ (¬c → OutKeeps s0 b) := by
  split_ifs with h <;> simp [h]

/-- A step that is total and keeps the canonical form answers such a state. -/
theorem OutKeeps.next {s0 : State} {o : Host.Outcome State Fault Refusal} (h : OutKeeps s0 o) :
    ∃ t, o = .next t ∧ Keeps s0 t := by
  cases o with
  | next t => exact ⟨t, rfl, h⟩
  | fault r => exact h.elim
  | refused r => exact h.elim

@[simp] theorem setReg_keeps {s0 s : State} (r : Reg) (i : Nat) (w : Word) (h : Keeps s0 s) : Keeps s0 (s.setReg r i w) :=
  h.step rfl fun w => { w with live := Tab.wf_set w.live }

@[simp] theorem setStg_keeps {s0 s : State} (r : Reg) (i : Nat) (w : Word) (h : Keeps s0 s) : Keeps s0 (s.setStg r i w) :=
  h.step rfl fun w => { w with staged := Tab.wf_set w.staged }

@[simp] theorem setActw_keeps {s0 s : State} (r : Reg) (i : Nat) (w : Word) (h : Keeps s0 s) : Keeps s0 (s.setActw r i w) :=
  h.step rfl fun w => { w with active := Tab.wf_set w.active }

@[simp] theorem setCapw_keeps {s0 s : State} (r : Reg) (i : Nat) (w : Word) (h : Keeps s0 s) : Keeps s0 (s.setCapw r i w) :=
  h.step rfl fun w => { w with captured := Tab.wf_set w.captured }

@[simp] theorem setBlk_keeps {s0 s : State} (b : Nat) (v : Blk4) (h : Keeps s0 s) : Keeps s0 (s.setBlk b v) :=
  h.step rfl fun w => { w with blk := Tab.wf_set w.blk }

@[simp] theorem setThr_keeps {s0 s : State} (b : Nat) (v : Thr) (h : Keeps s0 s) : Keeps s0 (s.setThr b v) :=
  h.step rfl fun w => { w with thr := Tab.wf_set w.thr }

@[simp] theorem setFp_keeps {s0 s : State} (b : Nat) (v : FpUnit) (h : Keeps s0 s) : Keeps s0 (s.setFp b v) :=
  h.step rfl fun w => { w with fp := Tab.wf_set w.fp }

@[simp] theorem setArc_keeps {s0 s : State} (b : Nat) (v : Arc) (h : Keeps s0 s) : Keeps s0 (s.setArc b v) :=
  h.step rfl fun w => { w with arc := Tab.wf_set w.arc }

@[simp] theorem setLl_keeps {s0 s : State} (b : Nat) (v : LlUnit) (h : Keeps s0 s) : Keeps s0 (s.setLl b v) :=
  h.step rfl fun w => { w with ll := Tab.wf_set w.ll }

@[simp] theorem setPin_keeps {s0 s : State} (b : Nat) (v : Pin) (h : Keeps s0 s) : Keeps s0 (s.setPin b v) :=
  h.step rfl fun w => { w with pin := Tab.wf_set w.pin }

@[simp] theorem setCell_keeps {s0 s : State} (b : Nat) (v : XCell) (h : Keeps s0 s) : Keeps s0 (s.setCell b v) :=
  h.step rfl fun w => { w with xc := Tab.wf_set w.xc }

@[simp] theorem setQ_keeps {s0 s : State} (b : Nat) (v : Qtr) (h : Keeps s0 s) : Keeps s0 (s.setQ b v) :=
  h.step rfl fun w => { w with qtr := Tab.wf_set w.qtr }

@[simp] theorem setHl_keeps {s0 s : State} (b : Nat) (v : HlUnit) (h : Keeps s0 s) : Keeps s0 (s.setHl b v) :=
  h.step rfl fun w => { w with hl := Tab.wf_set w.hl }

@[simp] theorem setTw_keeps {s0 s : State} (b : Nat) (v : TwUnit) (h : Keeps s0 s) : Keeps s0 (s.setTw b v) :=
  h.step rfl fun w => { w with tw := Tab.wf_set w.tw }

@[simp] theorem setEcc_keeps {s0 s : State} (rg w : Nat) (e : Ecc) (h : Keeps s0 s) : Keeps s0 (s.setEcc rg w e) :=
  h.step rfl fun w => { w with ecc := Tab.wf_set w.ecc }

@[simp] theorem setByte_keeps {s0 s : State} (rg o : Nat) (b : Byte) (h : Keeps s0 s) : Keeps s0 (s.setByte rg o b) :=
  h.step rfl fun w => { w with mem := Tab.wf_set w.mem }

@[simp] theorem setBar2_keeps {s0 s : State} (q o : Nat) (w : Word) (h : Keeps s0 s) : Keeps s0 (s.setBar2 q o w) :=
  h.step rfl fun w => { w with bar2 := Tab.wf_set w.bar2 }

end Sys2Proof.Machine
end

