-- ==== Sys2Proof/Laws/Ops.lean ====
section
/-! SUPPORT. Each operation of Machine/Ops.lean keeps the queue and the canonical form of the tables. -/

set_option linter.all false

namespace Sys2Proof.Machine

@[simp] theorem setFld_keeps {s0 s : State} (f : Field) (i : Nat) (v : Nat) (h : Keeps s0 s) : Keeps s0 (State.setFld s f i v) := by
  unfold State.setFld
  simp (maxDischargeDepth := 60) +contextual only [setReg_keeps, keeps_mk, plain_keeps, keeps_ite, keeps_foldl, keeps_foldl_fst, apply_ite Prod.fst,
      apply_ite Prod.snd, implies_true, and_self, *]

@[simp] theorem raise_keeps {s0 s : State} (f : Field) (i : Nat) (h : Keeps s0 s) : Keeps s0 (State.raise s f i) := by
  unfold State.raise
  simp (maxDischargeDepth := 60) +contextual only [setFld_keeps, keeps_mk, plain_keeps, keeps_ite, keeps_foldl, keeps_foldl_fst, apply_ite Prod.fst,
      apply_ite Prod.snd, implies_true, and_self, *]

@[simp] theorem raiseIf_keeps {s0 s : State} (c : Bool) (f : Field) (i : Nat) (h : Keeps s0 s) : Keeps s0 (State.raiseIf s c f i) := by
  unfold State.raiseIf
  simp (maxDischargeDepth := 60) +contextual only [raise_keeps, keeps_mk, plain_keeps, keeps_ite, keeps_foldl, keeps_foldl_fst, apply_ite Prod.fst,
      apply_ite Prod.snd, implies_true, and_self, *]

@[simp] theorem bump_keeps {s0 s : State} (f : Field) (i : Nat) (n : Nat) (h : Keeps s0 s) : Keeps s0 (State.bump s f i n) := by
  unfold State.bump
  simp (maxDischargeDepth := 60) +contextual only [setFld_keeps, keeps_mk, plain_keeps, keeps_ite, keeps_foldl, keeps_foldl_fst, apply_ite Prod.fst,
      apply_ite Prod.snd, implies_true, and_self, *]

@[simp] theorem emit_keeps {s0 s : State} (o : Out) (h : Keeps s0 s) : Keeps s0 (State.emit s o) := by
  unfold State.emit
  simp (maxDischargeDepth := 60) +contextual only [keeps_mk, plain_keeps, keeps_ite, keeps_foldl, keeps_foldl_fst, apply_ite Prod.fst, apply_ite Prod.snd,
      implies_true, and_self, *]

@[simp] theorem fresh_keeps {s0 s : State} (h : Keeps s0 s) : Keeps s0 (State.fresh s).1 := by
  unfold State.fresh
  simp (maxDischargeDepth := 60) +contextual only [keeps_mk, plain_keeps, keeps_ite, keeps_foldl, keeps_foldl_fst, apply_ite Prod.fst, apply_ite Prod.snd,
      implies_true, and_self, *]

@[simp] theorem eccRead_keeps {s0 s : State} (rg : Nat) (w : Nat) (h : Keeps s0 s) : Keeps s0 (State.eccRead s rg w).1 := by
  unfold State.eccRead
  repeat' first
    | (extract_lets +onlyGivenNames x
       try (have hx : Keeps s0 x := (by
         simp only [x]
         repeat' first
           | (simp (maxDischargeDepth := 60) +contextual only [bump_keeps, raise_keeps, setFld_keeps, setEcc_keeps, keeps_mk, plain_keeps, keeps_ite, keeps_foldl,
      keeps_foldl_fst, apply_ite Prod.fst, apply_ite Prod.snd, implies_true, and_self, *]
              done)
           | refine keeps_foldl ?_ (fun s b hs => ?_)
           | refine keeps_foldl_fst ?_ (fun p b hp => ?_)
           | split))
       try (have hx : Keeps s0 x.1 := (by simp (maxDischargeDepth := 60) +contextual only [x, bump_keeps, raise_keeps, setFld_keeps, setEcc_keeps, keeps_mk, plain_keeps, keeps_ite, keeps_foldl,
      keeps_foldl_fst, apply_ite Prod.fst, apply_ite Prod.snd, implies_true, and_self, *]))
       clear_value x)
    | (simp (maxDischargeDepth := 60) +contextual only [bump_keeps, raise_keeps, setFld_keeps, setEcc_keeps, keeps_mk, plain_keeps, keeps_ite, keeps_foldl,
      keeps_foldl_fst, apply_ite Prod.fst, apply_ite Prod.snd, implies_true, and_self, *]
       done)
    | refine keeps_foldl ?_ (fun s b hs => ?_)
    | refine keeps_foldl_fst ?_ (fun p b hp => ?_)
    | refine each_keeps ?_ (fun s i hs => ?_)
    | (split
       all_goals try (rename_i heq
                      have hk := keeps_pair (s0 := s0) heq (by clear heq; simp (maxDischargeDepth := 60) +contextual only [bump_keeps, raise_keeps, setFld_keeps, setEcc_keeps, keeps_mk, plain_keeps, keeps_ite, keeps_foldl,
      keeps_foldl_fst, apply_ite Prod.fst, apply_ite Prod.snd, implies_true, and_self, *])
                      clear heq))

@[simp] theorem inject_keeps {s0 s : State} (rg : Nat) (h : Keeps s0 s) : Keeps s0 (State.inject s rg).1 := by
  unfold State.inject
  simp (maxDischargeDepth := 60) +contextual only [setFld_keeps, keeps_mk, plain_keeps, keeps_ite, keeps_foldl, keeps_foldl_fst, apply_ite Prod.fst,
      apply_ite Prod.snd, implies_true, and_self, *]

@[simp] theorem eccWrite_keeps {s0 s : State} (rg : Nat) (w : Nat) (whole : Bool) (h : Keeps s0 s) : Keeps s0 (State.eccWrite s rg w whole).1 := by
  unfold State.eccWrite
  repeat' first
    | (extract_lets +onlyGivenNames x
       try (have hx : Keeps s0 x := (by
         simp only [x]
         repeat' first
           | (simp (maxDischargeDepth := 60) +contextual only [inject_keeps, setEcc_keeps, raise_keeps, keeps_mk, plain_keeps, keeps_ite, keeps_foldl, keeps_foldl_fst,
      apply_ite Prod.fst, apply_ite Prod.snd, implies_true, and_self, *]
              done)
           | refine keeps_foldl ?_ (fun s b hs => ?_)
           | refine keeps_foldl_fst ?_ (fun p b hp => ?_)
           | split))
       try (have hx : Keeps s0 x.1 := (by simp (maxDischargeDepth := 60) +contextual only [x, inject_keeps, setEcc_keeps, raise_keeps, keeps_mk, plain_keeps, keeps_ite, keeps_foldl, keeps_foldl_fst,
      apply_ite Prod.fst, apply_ite Prod.snd, implies_true, and_self, *]))
       clear_value x)
    | (simp (maxDischargeDepth := 60) +contextual only [inject_keeps, setEcc_keeps, raise_keeps, keeps_mk, plain_keeps, keeps_ite, keeps_foldl, keeps_foldl_fst,
      apply_ite Prod.fst, apply_ite Prod.snd, implies_true, and_self, *]
       done)
    | refine keeps_foldl ?_ (fun s b hs => ?_)
    | refine keeps_foldl_fst ?_ (fun p b hp => ?_)
    | refine each_keeps ?_ (fun s i hs => ?_)
    | (split
       all_goals try (rename_i heq
                      have hk := keeps_pair (s0 := s0) heq (by clear heq; simp (maxDischargeDepth := 60) +contextual only [inject_keeps, setEcc_keeps, raise_keeps, keeps_mk, plain_keeps, keeps_ite, keeps_foldl, keeps_foldl_fst,
      apply_ite Prod.fst, apply_ite Prod.snd, implies_true, and_self, *])
                      clear heq))

@[simp] theorem poke_keeps {s0 s : State} (rg : Nat) (off : Nat) (x0 : Nat) (x1 : Nat) (h : Keeps s0 s) : Keeps s0 (State.poke s rg off x0 x1) := by
  induction x0 generalizing s off x1 with
  | zero => exact h
  | succ n ih => exact ih _ _ (setByte_keeps _ _ _ h)

@[simp] theorem flipWord_keeps {s0 s : State} (rg : Nat) (w : Nat) (d : BitVec 64) (h : Keeps s0 s) : Keeps s0 (State.flipWord s rg w d) := by
  unfold State.flipWord
  simp (maxDischargeDepth := 60) +contextual only [poke_keeps, keeps_mk, plain_keeps, keeps_ite, keeps_foldl, keeps_foldl_fst, apply_ite Prod.fst, apply_ite
      Prod.snd, implies_true, and_self, *]

@[simp] theorem memRead_keeps {s0 s : State} (rg : Nat) (off : Nat) (n : Nat) (h : Keeps s0 s) : Keeps s0 (State.memRead s rg off n).1 := by
  unfold State.memRead
  repeat' first
    | (extract_lets +onlyGivenNames x
       try (have hx : Keeps s0 x := (by
         simp only [x]
         repeat' first
           | (simp (maxDischargeDepth := 60) +contextual only [eccRead_keeps, keeps_mk, plain_keeps, keeps_ite, keeps_foldl, keeps_foldl_fst, apply_ite Prod.fst,
      apply_ite Prod.snd, implies_true, and_self, *]
              done)
           | refine keeps_foldl ?_ (fun s b hs => ?_)
           | refine keeps_foldl_fst ?_ (fun p b hp => ?_)
           | split))
       try (have hx : Keeps s0 x.1 := (by simp (maxDischargeDepth := 60) +contextual only [x, eccRead_keeps, keeps_mk, plain_keeps, keeps_ite, keeps_foldl, keeps_foldl_fst, apply_ite Prod.fst,
      apply_ite Prod.snd, implies_true, and_self, *]))
       clear_value x)
    | (simp (maxDischargeDepth := 60) +contextual only [eccRead_keeps, keeps_mk, plain_keeps, keeps_ite, keeps_foldl, keeps_foldl_fst, apply_ite Prod.fst,
      apply_ite Prod.snd, implies_true, and_self, *]
       done)
    | refine keeps_foldl ?_ (fun s b hs => ?_)
    | refine keeps_foldl_fst ?_ (fun p b hp => ?_)
    | refine each_keeps ?_ (fun s i hs => ?_)
    | (split
       all_goals try (rename_i heq
                      have hk := keeps_pair (s0 := s0) heq (by clear heq; simp (maxDischargeDepth := 60) +contextual only [eccRead_keeps, keeps_mk, plain_keeps, keeps_ite, keeps_foldl, keeps_foldl_fst, apply_ite Prod.fst,
      apply_ite Prod.snd, implies_true, and_self, *])
                      clear heq))

@[simp] theorem memWrite_keeps {s0 s : State} (rg : Nat) (off : Nat) (n : Nat) (v : Nat) (h : Keeps s0 s) : Keeps s0 (State.memWrite s rg off n v) := by
  unfold State.memWrite
  repeat' first
    | (extract_lets +onlyGivenNames x
       try (have hx : Keeps s0 x := (by
         simp only [x]
         repeat' first
           | (simp (maxDischargeDepth := 60) +contextual only [eccWrite_keeps, flipWord_keeps, poke_keeps, keeps_mk, plain_keeps, keeps_ite, keeps_foldl,
      keeps_foldl_fst, apply_ite Prod.fst, apply_ite Prod.snd, implies_true, and_self, *]
              done)
           | refine keeps_foldl ?_ (fun s b hs => ?_)
           | refine keeps_foldl_fst ?_ (fun p b hp => ?_)
           | split))
       try (have hx : Keeps s0 x.1 := (by simp (maxDischargeDepth := 60) +contextual only [x, eccWrite_keeps, flipWord_keeps, poke_keeps, keeps_mk, plain_keeps, keeps_ite, keeps_foldl,
      keeps_foldl_fst, apply_ite Prod.fst, apply_ite Prod.snd, implies_true, and_self, *]))
       clear_value x)
    | (simp (maxDischargeDepth := 60) +contextual only [eccWrite_keeps, flipWord_keeps, poke_keeps, keeps_mk, plain_keeps, keeps_ite, keeps_foldl,
      keeps_foldl_fst, apply_ite Prod.fst, apply_ite Prod.snd, implies_true, and_self, *]
       done)
    | refine keeps_foldl ?_ (fun s b hs => ?_)
    | refine keeps_foldl_fst ?_ (fun p b hp => ?_)
    | refine each_keeps ?_ (fun s i hs => ?_)
    | (split
       all_goals try (rename_i heq
                      have hk := keeps_pair (s0 := s0) heq (by clear heq; simp (maxDischargeDepth := 60) +contextual only [eccWrite_keeps, flipWord_keeps, poke_keeps, keeps_mk, plain_keeps, keeps_ite, keeps_foldl,
      keeps_foldl_fst, apply_ite Prod.fst, apply_ite Prod.snd, implies_true, and_self, *])
                      clear heq))

@[simp] theorem bufRead_keeps {s0 s : State} (r : Reg) (i : Nat) (h : Keeps s0 s) : Keeps s0 (State.bufRead s r i).1 := by
  unfold State.bufRead
  repeat' first
    | (extract_lets +onlyGivenNames x
       try (have hx : Keeps s0 x := (by
         simp only [x]
         repeat' first
           | (simp (maxDischargeDepth := 60) +contextual only [eccRead_keeps, keeps_mk, plain_keeps, keeps_ite, keeps_foldl, keeps_foldl_fst, apply_ite Prod.fst,
      apply_ite Prod.snd, implies_true, and_self, *]
              done)
           | refine keeps_foldl ?_ (fun s b hs => ?_)
           | refine keeps_foldl_fst ?_ (fun p b hp => ?_)
           | split))
       try (have hx : Keeps s0 x.1 := (by simp (maxDischargeDepth := 60) +contextual only [x, eccRead_keeps, keeps_mk, plain_keeps, keeps_ite, keeps_foldl, keeps_foldl_fst, apply_ite Prod.fst,
      apply_ite Prod.snd, implies_true, and_self, *]))
       clear_value x)
    | (simp (maxDischargeDepth := 60) +contextual only [eccRead_keeps, keeps_mk, plain_keeps, keeps_ite, keeps_foldl, keeps_foldl_fst, apply_ite Prod.fst,
      apply_ite Prod.snd, implies_true, and_self, *]
       done)
    | refine keeps_foldl ?_ (fun s b hs => ?_)
    | refine keeps_foldl_fst ?_ (fun p b hp => ?_)
    | refine each_keeps ?_ (fun s i hs => ?_)
    | (split
       all_goals try (rename_i heq
                      have hk := keeps_pair (s0 := s0) heq (by clear heq; simp (maxDischargeDepth := 60) +contextual only [eccRead_keeps, keeps_mk, plain_keeps, keeps_ite, keeps_foldl, keeps_foldl_fst, apply_ite Prod.fst,
      apply_ite Prod.snd, implies_true, and_self, *])
                      clear heq))

@[simp] theorem portWord_keeps {s0 s : State} (r : Reg) (i : Nat) (h : Keeps s0 s) : Keeps s0 (State.portWord s r i).1 := by
  unfold State.portWord
  repeat' first
    | (extract_lets +onlyGivenNames x
       try (have hx : Keeps s0 x := (by
         simp only [x]
         repeat' first
           | (simp (maxDischargeDepth := 60) +contextual only [bufRead_keeps, keeps_mk, plain_keeps, keeps_ite, keeps_foldl, keeps_foldl_fst, apply_ite Prod.fst,
      apply_ite Prod.snd, implies_true, and_self, *]
              done)
           | refine keeps_foldl ?_ (fun s b hs => ?_)
           | refine keeps_foldl_fst ?_ (fun p b hp => ?_)
           | split))
       try (have hx : Keeps s0 x.1 := (by simp (maxDischargeDepth := 60) +contextual only [x, bufRead_keeps, keeps_mk, plain_keeps, keeps_ite, keeps_foldl, keeps_foldl_fst, apply_ite Prod.fst,
      apply_ite Prod.snd, implies_true, and_self, *]))
       clear_value x)
    | (simp (maxDischargeDepth := 60) +contextual only [bufRead_keeps, keeps_mk, plain_keeps, keeps_ite, keeps_foldl, keeps_foldl_fst, apply_ite Prod.fst,
      apply_ite Prod.snd, implies_true, and_self, *]
       done)
    | refine keeps_foldl ?_ (fun s b hs => ?_)
    | refine keeps_foldl_fst ?_ (fun p b hp => ?_)
    | refine each_keeps ?_ (fun s i hs => ?_)
    | (split
       all_goals try (rename_i heq
                      have hk := keeps_pair (s0 := s0) heq (by clear heq; simp (maxDischargeDepth := 60) +contextual only [bufRead_keeps, keeps_mk, plain_keeps, keeps_ite, keeps_foldl, keeps_foldl_fst, apply_ite Prod.fst,
      apply_ite Prod.snd, implies_true, and_self, *])
                      clear heq))

@[simp] theorem portWords_keeps {s0 s : State} (r : Reg) (l : List Nat) (h : Keeps s0 s) : Keeps s0 (State.portWords s r l).1 := by
  unfold State.portWords
  repeat' first
    | (extract_lets +onlyGivenNames x
       try (have hx : Keeps s0 x := (by
         simp only [x]
         repeat' first
           | (simp (maxDischargeDepth := 60) +contextual only [portWord_keeps, keeps_mk, plain_keeps, keeps_ite, keeps_foldl, keeps_foldl_fst, apply_ite Prod.fst,
      apply_ite Prod.snd, implies_true, and_self, *]
              done)
           | refine keeps_foldl ?_ (fun s b hs => ?_)
           | refine keeps_foldl_fst ?_ (fun p b hp => ?_)
           | split))
       try (have hx : Keeps s0 x.1 := (by simp (maxDischargeDepth := 60) +contextual only [x, portWord_keeps, keeps_mk, plain_keeps, keeps_ite, keeps_foldl, keeps_foldl_fst, apply_ite Prod.fst,
      apply_ite Prod.snd, implies_true, and_self, *]))
       clear_value x)
    | (simp (maxDischargeDepth := 60) +contextual only [portWord_keeps, keeps_mk, plain_keeps, keeps_ite, keeps_foldl, keeps_foldl_fst, apply_ite Prod.fst,
      apply_ite Prod.snd, implies_true, and_self, *]
       done)
    | refine keeps_foldl ?_ (fun s b hs => ?_)
    | refine keeps_foldl_fst ?_ (fun p b hp => ?_)
    | refine each_keeps ?_ (fun s i hs => ?_)
    | (split
       all_goals try (rename_i heq
                      have hk := keeps_pair (s0 := s0) heq (by clear heq; simp (maxDischargeDepth := 60) +contextual only [portWord_keeps, keeps_mk, plain_keeps, keeps_ite, keeps_foldl, keeps_foldl_fst, apply_ite Prod.fst,
      apply_ite Prod.snd, implies_true, and_self, *])
                      clear heq))

@[simp] theorem portWrite_keeps {s0 s : State} (r : Reg) (i : Nat) (w : Word) (h : Keeps s0 s) : Keeps s0 (State.portWrite s r i w) := by
  unfold State.portWrite
  repeat' first
    | (extract_lets +onlyGivenNames x
       try (have hx : Keeps s0 x := (by
         simp only [x]
         repeat' first
           | (simp (maxDischargeDepth := 60) +contextual only [eccWrite_keeps, setReg_keeps, keeps_mk, plain_keeps, keeps_ite, keeps_foldl, keeps_foldl_fst, apply_ite
      Prod.fst, apply_ite Prod.snd, implies_true, and_self, *]
              done)
           | refine keeps_foldl ?_ (fun s b hs => ?_)
           | refine keeps_foldl_fst ?_ (fun p b hp => ?_)
           | split))
       try (have hx : Keeps s0 x.1 := (by simp (maxDischargeDepth := 60) +contextual only [x, eccWrite_keeps, setReg_keeps, keeps_mk, plain_keeps, keeps_ite, keeps_foldl, keeps_foldl_fst, apply_ite
      Prod.fst, apply_ite Prod.snd, implies_true, and_self, *]))
       clear_value x)
    | (simp (maxDischargeDepth := 60) +contextual only [eccWrite_keeps, setReg_keeps, keeps_mk, plain_keeps, keeps_ite, keeps_foldl, keeps_foldl_fst, apply_ite
      Prod.fst, apply_ite Prod.snd, implies_true, and_self, *]
       done)
    | refine keeps_foldl ?_ (fun s b hs => ?_)
    | refine keeps_foldl_fst ?_ (fun p b hp => ?_)
    | refine each_keeps ?_ (fun s i hs => ?_)
    | (split
       all_goals try (rename_i heq
                      have hk := keeps_pair (s0 := s0) heq (by clear heq; simp (maxDischargeDepth := 60) +contextual only [eccWrite_keeps, setReg_keeps, keeps_mk, plain_keeps, keeps_ite, keeps_foldl, keeps_foldl_fst, apply_ite
      Prod.fst, apply_ite Prod.snd, implies_true, and_self, *])
                      clear heq))

@[simp] theorem bar2Read_keeps {s0 s : State} (q : Nat) (off : Nat) (h : Keeps s0 s) : Keeps s0 (State.bar2Read s q off).1 := by
  unfold State.bar2Read
  repeat' first
    | (extract_lets +onlyGivenNames x
       try (have hx : Keeps s0 x := (by
         simp only [x]
         repeat' first
           | (simp (maxDischargeDepth := 60) +contextual only [eccRead_keeps, keeps_mk, plain_keeps, keeps_ite, keeps_foldl, keeps_foldl_fst, apply_ite Prod.fst,
      apply_ite Prod.snd, implies_true, and_self, *]
              done)
           | refine keeps_foldl ?_ (fun s b hs => ?_)
           | refine keeps_foldl_fst ?_ (fun p b hp => ?_)
           | split))
       try (have hx : Keeps s0 x.1 := (by simp (maxDischargeDepth := 60) +contextual only [x, eccRead_keeps, keeps_mk, plain_keeps, keeps_ite, keeps_foldl, keeps_foldl_fst, apply_ite Prod.fst,
      apply_ite Prod.snd, implies_true, and_self, *]))
       clear_value x)
    | (simp (maxDischargeDepth := 60) +contextual only [eccRead_keeps, keeps_mk, plain_keeps, keeps_ite, keeps_foldl, keeps_foldl_fst, apply_ite Prod.fst,
      apply_ite Prod.snd, implies_true, and_self, *]
       done)
    | refine keeps_foldl ?_ (fun s b hs => ?_)
    | refine keeps_foldl_fst ?_ (fun p b hp => ?_)
    | refine each_keeps ?_ (fun s i hs => ?_)
    | (split
       all_goals try (rename_i heq
                      have hk := keeps_pair (s0 := s0) heq (by clear heq; simp (maxDischargeDepth := 60) +contextual only [eccRead_keeps, keeps_mk, plain_keeps, keeps_ite, keeps_foldl, keeps_foldl_fst, apply_ite Prod.fst,
      apply_ite Prod.snd, implies_true, and_self, *])
                      clear heq))

@[simp] theorem bar2Own_keeps {s0 s : State} (q : Nat) (off : Nat) (h : Keeps s0 s) : Keeps s0 (State.bar2Own s q off).1 := by
  unfold State.bar2Own
  repeat' first
    | (extract_lets +onlyGivenNames x
       try (have hx : Keeps s0 x := (by
         simp only [x]
         repeat' first
           | (simp (maxDischargeDepth := 60) +contextual only [bar2Read_keeps, keeps_mk, plain_keeps, keeps_ite, keeps_foldl, keeps_foldl_fst, apply_ite Prod.fst,
      apply_ite Prod.snd, implies_true, and_self, *]
              done)
           | refine keeps_foldl ?_ (fun s b hs => ?_)
           | refine keeps_foldl_fst ?_ (fun p b hp => ?_)
           | split))
       try (have hx : Keeps s0 x.1 := (by simp (maxDischargeDepth := 60) +contextual only [x, bar2Read_keeps, keeps_mk, plain_keeps, keeps_ite, keeps_foldl, keeps_foldl_fst, apply_ite Prod.fst,
      apply_ite Prod.snd, implies_true, and_self, *]))
       clear_value x)
    | (simp (maxDischargeDepth := 60) +contextual only [bar2Read_keeps, keeps_mk, plain_keeps, keeps_ite, keeps_foldl, keeps_foldl_fst, apply_ite Prod.fst,
      apply_ite Prod.snd, implies_true, and_self, *]
       done)
    | refine keeps_foldl ?_ (fun s b hs => ?_)
    | refine keeps_foldl_fst ?_ (fun p b hp => ?_)
    | refine each_keeps ?_ (fun s i hs => ?_)
    | (split
       all_goals try (rename_i heq
                      have hk := keeps_pair (s0 := s0) heq (by clear heq; simp (maxDischargeDepth := 60) +contextual only [bar2Read_keeps, keeps_mk, plain_keeps, keeps_ite, keeps_foldl, keeps_foldl_fst, apply_ite Prod.fst,
      apply_ite Prod.snd, implies_true, and_self, *])
                      clear heq))

@[simp] theorem bar2Poke_keeps {s0 s : State} (q : Nat) (off : Nat) (w : Word) (h : Keeps s0 s) : Keeps s0 (State.bar2Poke s q off w) := by
  unfold State.bar2Poke
  repeat' first
    | (extract_lets +onlyGivenNames x
       try (have hx : Keeps s0 x := (by
         simp only [x]
         repeat' first
           | (simp (maxDischargeDepth := 60) +contextual only [eccWrite_keeps, setBar2_keeps, keeps_mk, plain_keeps, keeps_ite, keeps_foldl, keeps_foldl_fst, apply_ite
      Prod.fst, apply_ite Prod.snd, implies_true, and_self, *]
              done)
           | refine keeps_foldl ?_ (fun s b hs => ?_)
           | refine keeps_foldl_fst ?_ (fun p b hp => ?_)
           | split))
       try (have hx : Keeps s0 x.1 := (by simp (maxDischargeDepth := 60) +contextual only [x, eccWrite_keeps, setBar2_keeps, keeps_mk, plain_keeps, keeps_ite, keeps_foldl, keeps_foldl_fst, apply_ite
      Prod.fst, apply_ite Prod.snd, implies_true, and_self, *]))
       clear_value x)
    | (simp (maxDischargeDepth := 60) +contextual only [eccWrite_keeps, setBar2_keeps, keeps_mk, plain_keeps, keeps_ite, keeps_foldl, keeps_foldl_fst, apply_ite
      Prod.fst, apply_ite Prod.snd, implies_true, and_self, *]
       done)
    | refine keeps_foldl ?_ (fun s b hs => ?_)
    | refine keeps_foldl_fst ?_ (fun p b hp => ?_)
    | refine each_keeps ?_ (fun s i hs => ?_)
    | (split
       all_goals try (rename_i heq
                      have hk := keeps_pair (s0 := s0) heq (by clear heq; simp (maxDischargeDepth := 60) +contextual only [eccWrite_keeps, setBar2_keeps, keeps_mk, plain_keeps, keeps_ite, keeps_foldl, keeps_foldl_fst, apply_ite
      Prod.fst, apply_ite Prod.snd, implies_true, and_self, *])
                      clear heq))

@[simp] theorem bar2Pair_keeps {s0 s : State} (q : Nat) (off : Nat) (lo : Word) (hi : Word) (h : Keeps s0 s) : Keeps s0 (State.bar2Pair s q off lo hi) := by
  unfold State.bar2Pair
  simp (maxDischargeDepth := 60) +contextual only [eccWrite_keeps, setBar2_keeps, keeps_mk, plain_keeps, keeps_ite, keeps_foldl, keeps_foldl_fst, apply_ite
      Prod.fst, apply_ite Prod.snd, implies_true, and_self, *]

@[simp] theorem sendMsg_keeps {s0 s : State} (q : Nat) (vec : Nat) (h : Keeps s0 s) : Keeps s0 (State.sendMsg s q vec) := by
  unfold State.sendMsg
  repeat' first
    | (extract_lets +onlyGivenNames x
       try (have hx : Keeps s0 x := (by
         simp only [x]
         repeat' first
           | (simp (maxDischargeDepth := 60) +contextual only [emit_keeps, keeps_mk, plain_keeps, keeps_ite, keeps_foldl, keeps_foldl_fst, apply_ite Prod.fst, apply_ite
      Prod.snd, implies_true, and_self, *]
              done)
           | refine keeps_foldl ?_ (fun s b hs => ?_)
           | refine keeps_foldl_fst ?_ (fun p b hp => ?_)
           | split))
       try (have hx : Keeps s0 x.1 := (by simp (maxDischargeDepth := 60) +contextual only [x, emit_keeps, keeps_mk, plain_keeps, keeps_ite, keeps_foldl, keeps_foldl_fst, apply_ite Prod.fst, apply_ite
      Prod.snd, implies_true, and_self, *]))
       clear_value x)
    | (simp (maxDischargeDepth := 60) +contextual only [emit_keeps, keeps_mk, plain_keeps, keeps_ite, keeps_foldl, keeps_foldl_fst, apply_ite Prod.fst, apply_ite
      Prod.snd, implies_true, and_self, *]
       done)
    | refine keeps_foldl ?_ (fun s b hs => ?_)
    | refine keeps_foldl_fst ?_ (fun p b hp => ?_)
    | refine each_keeps ?_ (fun s i hs => ?_)
    | (split
       all_goals try (rename_i heq
                      have hk := keeps_pair (s0 := s0) heq (by clear heq; simp (maxDischargeDepth := 60) +contextual only [emit_keeps, keeps_mk, plain_keeps, keeps_ite, keeps_foldl, keeps_foldl_fst, apply_ite Prod.fst, apply_ite
      Prod.snd, implies_true, and_self, *])
                      clear heq))

@[simp] theorem message_keeps {s0 s : State} (q : Nat) (vec : Nat) (h : Keeps s0 s) : Keeps s0 (State.message s q vec) := by
  unfold State.message
  repeat' first
    | (extract_lets +onlyGivenNames x
       try (have hx : Keeps s0 x := (by
         simp only [x]
         repeat' first
           | (simp (maxDischargeDepth := 60) +contextual only [sendMsg_keeps, setQ_keeps, keeps_mk, plain_keeps, keeps_ite, keeps_foldl, keeps_foldl_fst, apply_ite
      Prod.fst, apply_ite Prod.snd, implies_true, and_self, *]
              done)
           | refine keeps_foldl ?_ (fun s b hs => ?_)
           | refine keeps_foldl_fst ?_ (fun p b hp => ?_)
           | split))
       try (have hx : Keeps s0 x.1 := (by simp (maxDischargeDepth := 60) +contextual only [x, sendMsg_keeps, setQ_keeps, keeps_mk, plain_keeps, keeps_ite, keeps_foldl, keeps_foldl_fst, apply_ite
      Prod.fst, apply_ite Prod.snd, implies_true, and_self, *]))
       clear_value x)
    | (simp (maxDischargeDepth := 60) +contextual only [sendMsg_keeps, setQ_keeps, keeps_mk, plain_keeps, keeps_ite, keeps_foldl, keeps_foldl_fst, apply_ite
      Prod.fst, apply_ite Prod.snd, implies_true, and_self, *]
       done)
    | refine keeps_foldl ?_ (fun s b hs => ?_)
    | refine keeps_foldl_fst ?_ (fun p b hp => ?_)
    | refine each_keeps ?_ (fun s i hs => ?_)
    | (split
       all_goals try (rename_i heq
                      have hk := keeps_pair (s0 := s0) heq (by clear heq; simp (maxDischargeDepth := 60) +contextual only [sendMsg_keeps, setQ_keeps, keeps_mk, plain_keeps, keeps_ite, keeps_foldl, keeps_foldl_fst, apply_ite
      Prod.fst, apply_ite Prod.snd, implies_true, and_self, *])
                      clear heq))

@[simp] theorem notice_keeps {s0 s : State} (q : Nat) (kind : Nat) (detail : Nat) (inst : Nat) (ms : Nat) (w2 : Word) (h : Keeps s0 s) : Keeps s0 (State.notice s q kind detail inst ms w2) := by
  unfold State.notice
  repeat' first
    | (extract_lets +onlyGivenNames x
       try (have hx : Keeps s0 x := (by
         simp only [x]
         repeat' first
           | (simp (maxDischargeDepth := 60) +contextual only [setQ_keeps, bump_keeps, raise_keeps, bar2Pair_keeps, setFld_keeps, message_keeps, keeps_mk, plain_keeps,
      keeps_ite, keeps_foldl, keeps_foldl_fst, apply_ite Prod.fst, apply_ite Prod.snd, implies_true, and_self,
      *]
              done)
           | refine keeps_foldl ?_ (fun s b hs => ?_)
           | refine keeps_foldl_fst ?_ (fun p b hp => ?_)
           | split))
       try (have hx : Keeps s0 x.1 := (by simp (maxDischargeDepth := 60) +contextual only [x, setQ_keeps, bump_keeps, raise_keeps, bar2Pair_keeps, setFld_keeps, message_keeps, keeps_mk, plain_keeps,
      keeps_ite, keeps_foldl, keeps_foldl_fst, apply_ite Prod.fst, apply_ite Prod.snd, implies_true, and_self,
      *]))
       clear_value x)
    | (simp (maxDischargeDepth := 60) +contextual only [setQ_keeps, bump_keeps, raise_keeps, bar2Pair_keeps, setFld_keeps, message_keeps, keeps_mk, plain_keeps,
      keeps_ite, keeps_foldl, keeps_foldl_fst, apply_ite Prod.fst, apply_ite Prod.snd, implies_true, and_self,
      *]
       done)
    | refine keeps_foldl ?_ (fun s b hs => ?_)
    | refine keeps_foldl_fst ?_ (fun p b hp => ?_)
    | refine each_keeps ?_ (fun s i hs => ?_)
    | (split
       all_goals try (rename_i heq
                      have hk := keeps_pair (s0 := s0) heq (by clear heq; simp (maxDischargeDepth := 60) +contextual only [setQ_keeps, bump_keeps, raise_keeps, bar2Pair_keeps, setFld_keeps, message_keeps, keeps_mk, plain_keeps,
      keeps_ite, keeps_foldl, keeps_foldl_fst, apply_ite Prod.fst, apply_ite Prod.snd, implies_true, and_self,
      *])
                      clear heq))

@[simp] theorem refuse_keeps {s0 s : State} (r : Req) (write : Bool) (off : Nat) (h : Keeps s0 s) : Keeps s0 (State.refuse s r write off) := by
  unfold State.refuse
  repeat' first
    | (extract_lets +onlyGivenNames x
       try (have hx : Keeps s0 x := (by
         simp only [x]
         repeat' first
           | (simp (maxDischargeDepth := 60) +contextual only [raise_keeps, setFld_keeps, setQ_keeps, notice_keeps, keeps_mk, plain_keeps, keeps_ite, keeps_foldl,
      keeps_foldl_fst, apply_ite Prod.fst, apply_ite Prod.snd, implies_true, and_self, *]
              done)
           | refine keeps_foldl ?_ (fun s b hs => ?_)
           | refine keeps_foldl_fst ?_ (fun p b hp => ?_)
           | split))
       try (have hx : Keeps s0 x.1 := (by simp (maxDischargeDepth := 60) +contextual only [x, raise_keeps, setFld_keeps, setQ_keeps, notice_keeps, keeps_mk, plain_keeps, keeps_ite, keeps_foldl,
      keeps_foldl_fst, apply_ite Prod.fst, apply_ite Prod.snd, implies_true, and_self, *]))
       clear_value x)
    | (simp (maxDischargeDepth := 60) +contextual only [raise_keeps, setFld_keeps, setQ_keeps, notice_keeps, keeps_mk, plain_keeps, keeps_ite, keeps_foldl,
      keeps_foldl_fst, apply_ite Prod.fst, apply_ite Prod.snd, implies_true, and_self, *]
       done)
    | refine keeps_foldl ?_ (fun s b hs => ?_)
    | refine keeps_foldl_fst ?_ (fun p b hp => ?_)
    | refine each_keeps ?_ (fun s i hs => ?_)
    | (split
       all_goals try (rename_i heq
                      have hk := keeps_pair (s0 := s0) heq (by clear heq; simp (maxDischargeDepth := 60) +contextual only [raise_keeps, setFld_keeps, setQ_keeps, notice_keeps, keeps_mk, plain_keeps, keeps_ite, keeps_foldl,
      keeps_foldl_fst, apply_ite Prod.fst, apply_ite Prod.snd, implies_true, and_self, *])
                      clear heq))

@[simp] theorem portPair_keeps {s0 s : State} (r : Reg) (i : Nat) (lo : Word) (hi : Word) (h : Keeps s0 s) : Keeps s0 (State.portPair s r i lo hi) := by
  unfold State.portPair
  simp (maxDischargeDepth := 60) +contextual only [eccWrite_keeps, setReg_keeps, keeps_mk, plain_keeps, keeps_ite, keeps_foldl, keeps_foldl_fst, apply_ite
      Prod.fst, apply_ite Prod.snd, implies_true, and_self, *]

@[simp] theorem present_keeps {s0 s : State} (p : Packet) (h : Keeps s0 s) : Keeps s0 (State.present s p) := by
  unfold State.present
  simp (maxDischargeDepth := 60) +contextual only [keeps_mk, plain_keeps, keeps_ite, keeps_foldl, keeps_foldl_fst, apply_ite Prod.fst, apply_ite Prod.snd,
      implies_true, and_self, *]

@[simp] theorem setGpOut_keeps {s0 s : State} (n : Nat) (v : Bool) (h : Keeps s0 s) : Keeps s0 (State.setGpOut s n v) := by
  unfold State.setGpOut
  repeat' first
    | (extract_lets +onlyGivenNames x
       try (have hx : Keeps s0 x := (by
         simp only [x]
         repeat' first
           | (simp (maxDischargeDepth := 60) +contextual only [setReg_keeps, keeps_mk, plain_keeps, keeps_ite, keeps_foldl, keeps_foldl_fst, apply_ite Prod.fst,
      apply_ite Prod.snd, implies_true, and_self, *]
              done)
           | refine keeps_foldl ?_ (fun s b hs => ?_)
           | refine keeps_foldl_fst ?_ (fun p b hp => ?_)
           | split))
       try (have hx : Keeps s0 x.1 := (by simp (maxDischargeDepth := 60) +contextual only [x, setReg_keeps, keeps_mk, plain_keeps, keeps_ite, keeps_foldl, keeps_foldl_fst, apply_ite Prod.fst,
      apply_ite Prod.snd, implies_true, and_self, *]))
       clear_value x)
    | (simp (maxDischargeDepth := 60) +contextual only [setReg_keeps, keeps_mk, plain_keeps, keeps_ite, keeps_foldl, keeps_foldl_fst, apply_ite Prod.fst,
      apply_ite Prod.snd, implies_true, and_self, *]
       done)
    | refine keeps_foldl ?_ (fun s b hs => ?_)
    | refine keeps_foldl_fst ?_ (fun p b hp => ?_)
    | refine each_keeps ?_ (fun s i hs => ?_)
    | (split
       all_goals try (rename_i heq
                      have hk := keeps_pair (s0 := s0) heq (by clear heq; simp (maxDischargeDepth := 60) +contextual only [setReg_keeps, keeps_mk, plain_keeps, keeps_ite, keeps_foldl, keeps_foldl_fst, apply_ite Prod.fst,
      apply_ite Prod.snd, implies_true, and_self, *])
                      clear heq))

@[simp] theorem checkConc_keeps {s0 s : State} (b : Nat) (h : Keeps s0 s) : Keeps s0 (State.checkConc s b) := by
  unfold State.checkConc
  repeat' first
    | (extract_lets +onlyGivenNames x
       try (have hx : Keeps s0 x := (by
         simp only [x]
         repeat' first
           | (simp (maxDischargeDepth := 60) +contextual only [raiseIf_keeps, keeps_mk, plain_keeps, keeps_ite, keeps_foldl, keeps_foldl_fst, apply_ite Prod.fst,
      apply_ite Prod.snd, implies_true, and_self, *]
              done)
           | refine keeps_foldl ?_ (fun s b hs => ?_)
           | refine keeps_foldl_fst ?_ (fun p b hp => ?_)
           | split))
       try (have hx : Keeps s0 x.1 := (by simp (maxDischargeDepth := 60) +contextual only [x, raiseIf_keeps, keeps_mk, plain_keeps, keeps_ite, keeps_foldl, keeps_foldl_fst, apply_ite Prod.fst,
      apply_ite Prod.snd, implies_true, and_self, *]))
       clear_value x)
    | (simp (maxDischargeDepth := 60) +contextual only [raiseIf_keeps, keeps_mk, plain_keeps, keeps_ite, keeps_foldl, keeps_foldl_fst, apply_ite Prod.fst,
      apply_ite Prod.snd, implies_true, and_self, *]
       done)
    | refine keeps_foldl ?_ (fun s b hs => ?_)
    | refine keeps_foldl_fst ?_ (fun p b hp => ?_)
    | refine each_keeps ?_ (fun s i hs => ?_)
    | (split
       all_goals try (rename_i heq
                      have hk := keeps_pair (s0 := s0) heq (by clear heq; simp (maxDischargeDepth := 60) +contextual only [raiseIf_keeps, keeps_mk, plain_keeps, keeps_ite, keeps_foldl, keeps_foldl_fst, apply_ite Prod.fst,
      apply_ite Prod.snd, implies_true, and_self, *])
                      clear heq))

@[simp] theorem beginActivation_keeps {s0 s : State} (t : Nat) (h : Keeps s0 s) : Keeps s0 (State.beginActivation s t) := by
  unfold State.beginActivation
  repeat' first
    | (extract_lets +onlyGivenNames x
       try (have hx : Keeps s0 x := (by
         simp only [x]
         repeat' first
           | (simp (maxDischargeDepth := 60) +contextual only [setThr_keeps, checkConc_keeps, keeps_mk, plain_keeps, keeps_ite, keeps_foldl, keeps_foldl_fst, apply_ite
      Prod.fst, apply_ite Prod.snd, implies_true, and_self, *]
              done)
           | refine keeps_foldl ?_ (fun s b hs => ?_)
           | refine keeps_foldl_fst ?_ (fun p b hp => ?_)
           | split))
       try (have hx : Keeps s0 x.1 := (by simp (maxDischargeDepth := 60) +contextual only [x, setThr_keeps, checkConc_keeps, keeps_mk, plain_keeps, keeps_ite, keeps_foldl, keeps_foldl_fst, apply_ite
      Prod.fst, apply_ite Prod.snd, implies_true, and_self, *]))
       clear_value x)
    | (simp (maxDischargeDepth := 60) +contextual only [setThr_keeps, checkConc_keeps, keeps_mk, plain_keeps, keeps_ite, keeps_foldl, keeps_foldl_fst, apply_ite
      Prod.fst, apply_ite Prod.snd, implies_true, and_self, *]
       done)
    | refine keeps_foldl ?_ (fun s b hs => ?_)
    | refine keeps_foldl_fst ?_ (fun p b hp => ?_)
    | refine each_keeps ?_ (fun s i hs => ?_)
    | (split
       all_goals try (rename_i heq
                      have hk := keeps_pair (s0 := s0) heq (by clear heq; simp (maxDischargeDepth := 60) +contextual only [setThr_keeps, checkConc_keeps, keeps_mk, plain_keeps, keeps_ite, keeps_foldl, keeps_foldl_fst, apply_ite
      Prod.fst, apply_ite Prod.snd, implies_true, and_self, *])
                      clear heq))

@[simp] theorem wakeThread_keeps {s0 s : State} (t : Nat) (h : Keeps s0 s) : Keeps s0 (State.wakeThread s t) := by
  unfold State.wakeThread
  repeat' first
    | (extract_lets +onlyGivenNames x
       try (have hx : Keeps s0 x := (by
         simp only [x]
         repeat' first
           | (simp (maxDischargeDepth := 60) +contextual only [bump_keeps, beginActivation_keeps, setThr_keeps, keeps_mk, plain_keeps, keeps_ite, keeps_foldl,
      keeps_foldl_fst, apply_ite Prod.fst, apply_ite Prod.snd, implies_true, and_self, *]
              done)
           | refine keeps_foldl ?_ (fun s b hs => ?_)
           | refine keeps_foldl_fst ?_ (fun p b hp => ?_)
           | split))
       try (have hx : Keeps s0 x.1 := (by simp (maxDischargeDepth := 60) +contextual only [x, bump_keeps, beginActivation_keeps, setThr_keeps, keeps_mk, plain_keeps, keeps_ite, keeps_foldl,
      keeps_foldl_fst, apply_ite Prod.fst, apply_ite Prod.snd, implies_true, and_self, *]))
       clear_value x)
    | (simp (maxDischargeDepth := 60) +contextual only [bump_keeps, beginActivation_keeps, setThr_keeps, keeps_mk, plain_keeps, keeps_ite, keeps_foldl,
      keeps_foldl_fst, apply_ite Prod.fst, apply_ite Prod.snd, implies_true, and_self, *]
       done)
    | refine keeps_foldl ?_ (fun s b hs => ?_)
    | refine keeps_foldl_fst ?_ (fun p b hp => ?_)
    | refine each_keeps ?_ (fun s i hs => ?_)
    | (split
       all_goals try (rename_i heq
                      have hk := keeps_pair (s0 := s0) heq (by clear heq; simp (maxDischargeDepth := 60) +contextual only [bump_keeps, beginActivation_keeps, setThr_keeps, keeps_mk, plain_keeps, keeps_ite, keeps_foldl,
      keeps_foldl_fst, apply_ite Prod.fst, apply_ite Prod.snd, implies_true, and_self, *])
                      clear heq))

@[simp] theorem signalThread_keeps {s0 s : State} (t : Nat) (h : Keeps s0 s) : Keeps s0 (State.signalThread s t) := by
  unfold State.signalThread
  repeat' first
    | (extract_lets +onlyGivenNames x
       try (have hx : Keeps s0 x := (by
         simp only [x]
         repeat' first
           | (simp (maxDischargeDepth := 60) +contextual only [setThr_keeps, keeps_mk, plain_keeps, keeps_ite, keeps_foldl, keeps_foldl_fst, apply_ite Prod.fst,
      apply_ite Prod.snd, implies_true, and_self, *]
              done)
           | refine keeps_foldl ?_ (fun s b hs => ?_)
           | refine keeps_foldl_fst ?_ (fun p b hp => ?_)
           | split))
       try (have hx : Keeps s0 x.1 := (by simp (maxDischargeDepth := 60) +contextual only [x, setThr_keeps, keeps_mk, plain_keeps, keeps_ite, keeps_foldl, keeps_foldl_fst, apply_ite Prod.fst,
      apply_ite Prod.snd, implies_true, and_self, *]))
       clear_value x)
    | (simp (maxDischargeDepth := 60) +contextual only [setThr_keeps, keeps_mk, plain_keeps, keeps_ite, keeps_foldl, keeps_foldl_fst, apply_ite Prod.fst,
      apply_ite Prod.snd, implies_true, and_self, *]
       done)
    | refine keeps_foldl ?_ (fun s b hs => ?_)
    | refine keeps_foldl_fst ?_ (fun p b hp => ?_)
    | refine each_keeps ?_ (fun s i hs => ?_)
    | (split
       all_goals try (rename_i heq
                      have hk := keeps_pair (s0 := s0) heq (by clear heq; simp (maxDischargeDepth := 60) +contextual only [setThr_keeps, keeps_mk, plain_keeps, keeps_ite, keeps_foldl, keeps_foldl_fst, apply_ite Prod.fst,
      apply_ite Prod.snd, implies_true, and_self, *])
                      clear heq))

end Sys2Proof.Machine
end

