-- ==== Sys2Proof/Laws/Clock.lean ====
section
/-! SUPPORT. Each operation of Machine/Clock.lean keeps the queue and the canonical form of the tables. -/

set_option linter.all false

namespace Sys2Proof.Machine

@[simp] theorem setDom_keeps {s0 s : State} (x : Bool) (d : Domain) (h : Keeps s0 s) : Keeps s0 (State.setDom s x d) := by
  unfold State.setDom
  simp (maxDischargeDepth := 60) +contextual only [keeps_mk, plain_keeps, keeps_ite, keeps_foldl, keeps_foldl_fst, apply_ite Prod.fst, apply_ite Prod.snd,
      implies_true, and_self, *]

@[simp] theorem setDomSt_keeps {s0 s : State} (x : Bool) (v : Nat) (h : Keeps s0 s) : Keeps s0 (State.setDomSt s x v) := by
  unfold State.setDomSt
  simp (maxDischargeDepth := 60) +contextual only [setFld_keeps, keeps_mk, plain_keeps, keeps_ite, keeps_foldl, keeps_foldl_fst, apply_ite Prod.fst,
      apply_ite Prod.snd, implies_true, and_self, *]

@[simp] theorem enterSt_keeps {s0 s : State} (x : Bool) (v : Nat) (h : Keeps s0 s) : Keeps s0 (State.enterSt s x v) := by
  unfold State.enterSt
  repeat' first
    | (extract_lets +onlyGivenNames x
       try (have hx : Keeps s0 x := (by
         simp only [x]
         repeat' first
           | (simp (maxDischargeDepth := 60) +contextual only [setDomSt_keeps, keeps_mk, plain_keeps, keeps_ite, keeps_foldl, keeps_foldl_fst, apply_ite Prod.fst,
      apply_ite Prod.snd, implies_true, and_self, *]
              done)
           | refine keeps_foldl ?_ (fun s b hs => ?_)
           | refine keeps_foldl_fst ?_ (fun p b hp => ?_)
           | split))
       try (have hx : Keeps s0 x.1 := (by simp (maxDischargeDepth := 60) +contextual only [x, setDomSt_keeps, keeps_mk, plain_keeps, keeps_ite, keeps_foldl, keeps_foldl_fst, apply_ite Prod.fst,
      apply_ite Prod.snd, implies_true, and_self, *]))
       clear_value x)
    | (simp (maxDischargeDepth := 60) +contextual only [setDomSt_keeps, keeps_mk, plain_keeps, keeps_ite, keeps_foldl, keeps_foldl_fst, apply_ite Prod.fst,
      apply_ite Prod.snd, implies_true, and_self, *]
       done)
    | refine keeps_foldl ?_ (fun s b hs => ?_)
    | refine keeps_foldl_fst ?_ (fun p b hp => ?_)
    | refine each_keeps ?_ (fun s i hs => ?_)
    | (split
       all_goals try (rename_i heq
                      have hk := keeps_pair (s0 := s0) heq (by clear heq; simp (maxDischargeDepth := 60) +contextual only [setDomSt_keeps, keeps_mk, plain_keeps, keeps_ite, keeps_foldl, keeps_foldl_fst, apply_ite Prod.fst,
      apply_ite Prod.snd, implies_true, and_self, *])
                      clear heq))

@[simp] theorem stepDom_keeps {s0 s : State} (x : Bool) (d : Int) (h : Keeps s0 s) : Keeps s0 (State.stepDom s x d) := by
  unfold State.stepDom
  repeat' first
    | (extract_lets +onlyGivenNames x
       try (have hx : Keeps s0 x := (by
         simp only [x]
         repeat' first
           | (simp (maxDischargeDepth := 60) +contextual only [setDom_keeps, raise_keeps, keeps_mk, plain_keeps, keeps_ite, keeps_foldl, keeps_foldl_fst, apply_ite
      Prod.fst, apply_ite Prod.snd, implies_true, and_self, *]
              done)
           | refine keeps_foldl ?_ (fun s b hs => ?_)
           | refine keeps_foldl_fst ?_ (fun p b hp => ?_)
           | split))
       try (have hx : Keeps s0 x.1 := (by simp (maxDischargeDepth := 60) +contextual only [x, setDom_keeps, raise_keeps, keeps_mk, plain_keeps, keeps_ite, keeps_foldl, keeps_foldl_fst, apply_ite
      Prod.fst, apply_ite Prod.snd, implies_true, and_self, *]))
       clear_value x)
    | (simp (maxDischargeDepth := 60) +contextual only [setDom_keeps, raise_keeps, keeps_mk, plain_keeps, keeps_ite, keeps_foldl, keeps_foldl_fst, apply_ite
      Prod.fst, apply_ite Prod.snd, implies_true, and_self, *]
       done)
    | refine keeps_foldl ?_ (fun s b hs => ?_)
    | refine keeps_foldl_fst ?_ (fun p b hp => ?_)
    | refine each_keeps ?_ (fun s i hs => ?_)
    | (split
       all_goals try (rename_i heq
                      have hk := keeps_pair (s0 := s0) heq (by clear heq; simp (maxDischargeDepth := 60) +contextual only [setDom_keeps, raise_keeps, keeps_mk, plain_keeps, keeps_ite, keeps_foldl, keeps_foldl_fst, apply_ite
      Prod.fst, apply_ite Prod.snd, implies_true, and_self, *])
                      clear heq))

@[simp] theorem afterStep_keeps {s0 s : State} (x : Bool) (h : Keeps s0 s) : Keeps s0 (State.afterStep s x) := by
  unfold State.afterStep
  repeat' first
    | (extract_lets +onlyGivenNames x
       try (have hx : Keeps s0 x := (by
         simp only [x]
         repeat' first
           | (simp (maxDischargeDepth := 60) +contextual only [raise_keeps, setDom_keeps, enterSt_keeps, keeps_mk, plain_keeps, keeps_ite, keeps_foldl, keeps_foldl_fst,
      apply_ite Prod.fst, apply_ite Prod.snd, implies_true, and_self, *]
              done)
           | refine keeps_foldl ?_ (fun s b hs => ?_)
           | refine keeps_foldl_fst ?_ (fun p b hp => ?_)
           | split))
       try (have hx : Keeps s0 x.1 := (by simp (maxDischargeDepth := 60) +contextual only [x, raise_keeps, setDom_keeps, enterSt_keeps, keeps_mk, plain_keeps, keeps_ite, keeps_foldl, keeps_foldl_fst,
      apply_ite Prod.fst, apply_ite Prod.snd, implies_true, and_self, *]))
       clear_value x)
    | (simp (maxDischargeDepth := 60) +contextual only [raise_keeps, setDom_keeps, enterSt_keeps, keeps_mk, plain_keeps, keeps_ite, keeps_foldl, keeps_foldl_fst,
      apply_ite Prod.fst, apply_ite Prod.snd, implies_true, and_self, *]
       done)
    | refine keeps_foldl ?_ (fun s b hs => ?_)
    | refine keeps_foldl_fst ?_ (fun p b hp => ?_)
    | refine each_keeps ?_ (fun s i hs => ?_)
    | (split
       all_goals try (rename_i heq
                      have hk := keeps_pair (s0 := s0) heq (by clear heq; simp (maxDischargeDepth := 60) +contextual only [raise_keeps, setDom_keeps, enterSt_keeps, keeps_mk, plain_keeps, keeps_ite, keeps_foldl, keeps_foldl_fst,
      apply_ite Prod.fst, apply_ite Prod.snd, implies_true, and_self, *])
                      clear heq))

@[simp] theorem stepOne_keeps {s0 s : State} (p : Bool × CtStep) (h : Keeps s0 s) : Keeps s0 (State.stepOne s p) := by
  unfold State.stepOne
  simp (maxDischargeDepth := 60) +contextual only [stepDom_keeps, afterStep_keeps, keeps_mk, plain_keeps, keeps_ite, keeps_foldl, keeps_foldl_fst, apply_ite
      Prod.fst, apply_ite Prod.snd, implies_true, and_self, *]

@[simp] theorem switchTo_keeps {s0 s : State} (x : Bool) (h : Keeps s0 s) : Keeps s0 (State.switchTo s x) := by
  unfold State.switchTo
  repeat' first
    | (extract_lets +onlyGivenNames x
       try (have hx : Keeps s0 x := (by
         simp only [x]
         repeat' first
           | (simp (maxDischargeDepth := 60) +contextual only [setFld_keeps, keeps_mk, plain_keeps, keeps_ite, keeps_foldl, keeps_foldl_fst, apply_ite Prod.fst,
      apply_ite Prod.snd, implies_true, and_self, *]
              done)
           | refine keeps_foldl ?_ (fun s b hs => ?_)
           | refine keeps_foldl_fst ?_ (fun p b hp => ?_)
           | split))
       try (have hx : Keeps s0 x.1 := (by simp (maxDischargeDepth := 60) +contextual only [x, setFld_keeps, keeps_mk, plain_keeps, keeps_ite, keeps_foldl, keeps_foldl_fst, apply_ite Prod.fst,
      apply_ite Prod.snd, implies_true, and_self, *]))
       clear_value x)
    | (simp (maxDischargeDepth := 60) +contextual only [setFld_keeps, keeps_mk, plain_keeps, keeps_ite, keeps_foldl, keeps_foldl_fst, apply_ite Prod.fst,
      apply_ite Prod.snd, implies_true, and_self, *]
       done)
    | refine keeps_foldl ?_ (fun s b hs => ?_)
    | refine keeps_foldl_fst ?_ (fun p b hp => ?_)
    | refine each_keeps ?_ (fun s i hs => ?_)
    | (split
       all_goals try (rename_i heq
                      have hk := keeps_pair (s0 := s0) heq (by clear heq; simp (maxDischargeDepth := 60) +contextual only [setFld_keeps, keeps_mk, plain_keeps, keeps_ite, keeps_foldl, keeps_foldl_fst, apply_ite Prod.fst,
      apply_ite Prod.snd, implies_true, and_self, *])
                      clear heq))

@[simp] theorem switchDue_keeps {s0 s : State} (sel : Option Bool) (auto : Bool) (h : Keeps s0 s) : Keeps s0 (State.switchDue s sel auto) := by
  unfold State.switchDue
  repeat' first
    | (extract_lets +onlyGivenNames x
       try (have hx : Keeps s0 x := (by
         simp only [x]
         repeat' first
           | (simp (maxDischargeDepth := 60) +contextual only [switchTo_keeps, raise_keeps, keeps_mk, plain_keeps, keeps_ite, keeps_foldl, keeps_foldl_fst, apply_ite
      Prod.fst, apply_ite Prod.snd, implies_true, and_self, *]
              done)
           | refine keeps_foldl ?_ (fun s b hs => ?_)
           | refine keeps_foldl_fst ?_ (fun p b hp => ?_)
           | split))
       try (have hx : Keeps s0 x.1 := (by simp (maxDischargeDepth := 60) +contextual only [x, switchTo_keeps, raise_keeps, keeps_mk, plain_keeps, keeps_ite, keeps_foldl, keeps_foldl_fst, apply_ite
      Prod.fst, apply_ite Prod.snd, implies_true, and_self, *]))
       clear_value x)
    | (simp (maxDischargeDepth := 60) +contextual only [switchTo_keeps, raise_keeps, keeps_mk, plain_keeps, keeps_ite, keeps_foldl, keeps_foldl_fst, apply_ite
      Prod.fst, apply_ite Prod.snd, implies_true, and_self, *]
       done)
    | refine keeps_foldl ?_ (fun s b hs => ?_)
    | refine keeps_foldl_fst ?_ (fun p b hp => ?_)
    | refine each_keeps ?_ (fun s i hs => ?_)
    | (split
       all_goals try (rename_i heq
                      have hk := keeps_pair (s0 := s0) heq (by clear heq; simp (maxDischargeDepth := 60) +contextual only [switchTo_keeps, raise_keeps, keeps_mk, plain_keeps, keeps_ite, keeps_foldl, keeps_foldl_fst, apply_ite
      Prod.fst, apply_ite Prod.snd, implies_true, and_self, *])
                      clear heq))

@[simp] theorem ckStep_keeps {s0 s : State} (h : Keeps s0 s) : Keeps s0 (State.ckStep s) := by
  unfold State.ckStep
  repeat' first
    | (extract_lets +onlyGivenNames x
       try (have hx : Keeps s0 x := (by
         simp only [x]
         repeat' first
           | (simp (maxDischargeDepth := 60) +contextual only [stepOne_keeps, switchDue_keeps, keeps_mk, plain_keeps, keeps_ite, keeps_foldl, keeps_foldl_fst, apply_ite
      Prod.fst, apply_ite Prod.snd, implies_true, and_self, *]
              done)
           | refine keeps_foldl ?_ (fun s b hs => ?_)
           | refine keeps_foldl_fst ?_ (fun p b hp => ?_)
           | split))
       try (have hx : Keeps s0 x.1 := (by simp (maxDischargeDepth := 60) +contextual only [x, stepOne_keeps, switchDue_keeps, keeps_mk, plain_keeps, keeps_ite, keeps_foldl, keeps_foldl_fst, apply_ite
      Prod.fst, apply_ite Prod.snd, implies_true, and_self, *]))
       clear_value x)
    | (simp (maxDischargeDepth := 60) +contextual only [stepOne_keeps, switchDue_keeps, keeps_mk, plain_keeps, keeps_ite, keeps_foldl, keeps_foldl_fst, apply_ite
      Prod.fst, apply_ite Prod.snd, implies_true, and_self, *]
       done)
    | refine keeps_foldl ?_ (fun s b hs => ?_)
    | refine keeps_foldl_fst ?_ (fun p b hp => ?_)
    | refine each_keeps ?_ (fun s i hs => ?_)
    | (split
       all_goals try (rename_i heq
                      have hk := keeps_pair (s0 := s0) heq (by clear heq; simp (maxDischargeDepth := 60) +contextual only [stepOne_keeps, switchDue_keeps, keeps_mk, plain_keeps, keeps_ite, keeps_foldl, keeps_foldl_fst, apply_ite
      Prod.fst, apply_ite Prod.snd, implies_true, and_self, *])
                      clear heq))

@[simp] theorem llOvertake_keeps {s0 s : State} (old : Nat) (h : Keeps s0 s) : Keeps s0 (State.llOvertake s old) := by
  unfold State.llOvertake
  repeat' first
    | (extract_lets +onlyGivenNames x
       try (have hx : Keeps s0 x := (by
         simp only [x]
         repeat' first
           | (simp (maxDischargeDepth := 60) +contextual only [ckStep_keeps, each_keeps, setLl_keeps, raiseIf_keeps, keeps_mk, plain_keeps, keeps_ite, keeps_foldl,
      keeps_foldl_fst, apply_ite Prod.fst, apply_ite Prod.snd, implies_true, and_self, *]
              done)
           | refine keeps_foldl ?_ (fun s b hs => ?_)
           | refine keeps_foldl_fst ?_ (fun p b hp => ?_)
           | split))
       try (have hx : Keeps s0 x.1 := (by simp (maxDischargeDepth := 60) +contextual only [x, ckStep_keeps, each_keeps, setLl_keeps, raiseIf_keeps, keeps_mk, plain_keeps, keeps_ite, keeps_foldl,
      keeps_foldl_fst, apply_ite Prod.fst, apply_ite Prod.snd, implies_true, and_self, *]))
       clear_value x)
    | (simp (maxDischargeDepth := 60) +contextual only [ckStep_keeps, each_keeps, setLl_keeps, raiseIf_keeps, keeps_mk, plain_keeps, keeps_ite, keeps_foldl,
      keeps_foldl_fst, apply_ite Prod.fst, apply_ite Prod.snd, implies_true, and_self, *]
       done)
    | refine keeps_foldl ?_ (fun s b hs => ?_)
    | refine keeps_foldl_fst ?_ (fun p b hp => ?_)
    | refine each_keeps ?_ (fun s i hs => ?_)
    | (split
       all_goals try (rename_i heq
                      have hk := keeps_pair (s0 := s0) heq (by clear heq; simp (maxDischargeDepth := 60) +contextual only [ckStep_keeps, each_keeps, setLl_keeps, raiseIf_keeps, keeps_mk, plain_keeps, keeps_ite, keeps_foldl,
      keeps_foldl_fst, apply_ite Prod.fst, apply_ite Prod.snd, implies_true, and_self, *])
                      clear heq))

@[simp] theorem ckTime_keeps {s0 s : State} (h : Keeps s0 s) : Keeps s0 (State.ckTime s) := by
  unfold State.ckTime
  simp (maxDischargeDepth := 60) +contextual only [ckStep_keeps, llOvertake_keeps, keeps_mk, plain_keeps, keeps_ite, keeps_foldl, keeps_foldl_fst, apply_ite
      Prod.fst, apply_ite Prod.snd, implies_true, and_self, *]

@[simp] theorem countLock_keeps {s0 s : State} (x : Bool) (theta : Int) (h : Keeps s0 s) : Keeps s0 (State.countLock s x theta) := by
  unfold State.countLock
  repeat' first
    | (extract_lets +onlyGivenNames x
       try (have hx : Keeps s0 x := (by
         simp only [x]
         repeat' first
           | (simp (maxDischargeDepth := 60) +contextual only [setDom_keeps, enterSt_keeps, raise_keeps, keeps_mk, plain_keeps, keeps_ite, keeps_foldl, keeps_foldl_fst,
      apply_ite Prod.fst, apply_ite Prod.snd, implies_true, and_self, *]
              done)
           | refine keeps_foldl ?_ (fun s b hs => ?_)
           | refine keeps_foldl_fst ?_ (fun p b hp => ?_)
           | split))
       try (have hx : Keeps s0 x.1 := (by simp (maxDischargeDepth := 60) +contextual only [x, setDom_keeps, enterSt_keeps, raise_keeps, keeps_mk, plain_keeps, keeps_ite, keeps_foldl, keeps_foldl_fst,
      apply_ite Prod.fst, apply_ite Prod.snd, implies_true, and_self, *]))
       clear_value x)
    | (simp (maxDischargeDepth := 60) +contextual only [setDom_keeps, enterSt_keeps, raise_keeps, keeps_mk, plain_keeps, keeps_ite, keeps_foldl, keeps_foldl_fst,
      apply_ite Prod.fst, apply_ite Prod.snd, implies_true, and_self, *]
       done)
    | refine keeps_foldl ?_ (fun s b hs => ?_)
    | refine keeps_foldl_fst ?_ (fun p b hp => ?_)
    | refine each_keeps ?_ (fun s i hs => ?_)
    | (split
       all_goals try (rename_i heq
                      have hk := keeps_pair (s0 := s0) heq (by clear heq; simp (maxDischargeDepth := 60) +contextual only [setDom_keeps, enterSt_keeps, raise_keeps, keeps_mk, plain_keeps, keeps_ite, keeps_foldl, keeps_foldl_fst,
      apply_ite Prod.fst, apply_ite Prod.snd, implies_true, and_self, *])
                      clear heq))

@[simp] theorem servoStep_keeps {s0 s : State} (x : Bool) (theta : Int) (h : Keeps s0 s) : Keeps s0 (State.servoStep s x theta) := by
  unfold State.servoStep
  repeat' first
    | (extract_lets +onlyGivenNames x
       try (have hx : Keeps s0 x := (by
         simp only [x]
         repeat' first
           | (simp (maxDischargeDepth := 60) +contextual only [bump_keeps, setFld_keeps, setDom_keeps, countLock_keeps, keeps_mk, plain_keeps, keeps_ite, keeps_foldl,
      keeps_foldl_fst, apply_ite Prod.fst, apply_ite Prod.snd, implies_true, and_self, *]
              done)
           | refine keeps_foldl ?_ (fun s b hs => ?_)
           | refine keeps_foldl_fst ?_ (fun p b hp => ?_)
           | split))
       try (have hx : Keeps s0 x.1 := (by simp (maxDischargeDepth := 60) +contextual only [x, bump_keeps, setFld_keeps, setDom_keeps, countLock_keeps, keeps_mk, plain_keeps, keeps_ite, keeps_foldl,
      keeps_foldl_fst, apply_ite Prod.fst, apply_ite Prod.snd, implies_true, and_self, *]))
       clear_value x)
    | (simp (maxDischargeDepth := 60) +contextual only [bump_keeps, setFld_keeps, setDom_keeps, countLock_keeps, keeps_mk, plain_keeps, keeps_ite, keeps_foldl,
      keeps_foldl_fst, apply_ite Prod.fst, apply_ite Prod.snd, implies_true, and_self, *]
       done)
    | refine keeps_foldl ?_ (fun s b hs => ?_)
    | refine keeps_foldl_fst ?_ (fun p b hp => ?_)
    | refine each_keeps ?_ (fun s i hs => ?_)
    | (split
       all_goals try (rename_i heq
                      have hk := keeps_pair (s0 := s0) heq (by clear heq; simp (maxDischargeDepth := 60) +contextual only [bump_keeps, setFld_keeps, setDom_keeps, countLock_keeps, keeps_mk, plain_keeps, keeps_ite, keeps_foldl,
      keeps_foldl_fst, apply_ite Prod.fst, apply_ite Prod.snd, implies_true, and_self, *])
                      clear heq))

@[simp] theorem execOffsetMeasurement_keeps {s0 s : State} (x : Bool) (h : Keeps s0 s) : OutKeeps s0 (execOffsetMeasurement x s) := by
  unfold execOffsetMeasurement
  repeat' first
    | (extract_lets +onlyGivenNames x
       try (have hx : Keeps s0 x := (by
         simp only [x]
         repeat' first
           | (simp (maxDischargeDepth := 60) +contextual only [servoStep_keeps, outKeeps_next, outKeeps_ite, keeps_mk, plain_keeps, keeps_ite, keeps_foldl,
      keeps_foldl_fst, apply_ite Prod.fst, apply_ite Prod.snd, implies_true, and_self, *]
              done)
           | refine keeps_foldl ?_ (fun s b hs => ?_)
           | refine keeps_foldl_fst ?_ (fun p b hp => ?_)
           | split))
       try (have hx : Keeps s0 x.1 := (by simp (maxDischargeDepth := 60) +contextual only [x, servoStep_keeps, outKeeps_next, outKeeps_ite, keeps_mk, plain_keeps, keeps_ite, keeps_foldl,
      keeps_foldl_fst, apply_ite Prod.fst, apply_ite Prod.snd, implies_true, and_self, *]))
       clear_value x)
    | (simp (maxDischargeDepth := 60) +contextual only [servoStep_keeps, outKeeps_next, outKeeps_ite, keeps_mk, plain_keeps, keeps_ite, keeps_foldl,
      keeps_foldl_fst, apply_ite Prod.fst, apply_ite Prod.snd, implies_true, and_self, *]
       done)
    | refine keeps_foldl ?_ (fun s b hs => ?_)
    | refine keeps_foldl_fst ?_ (fun p b hp => ?_)
    | refine each_keeps ?_ (fun s i hs => ?_)
    | (split
       all_goals try (rename_i heq
                      have hk := keeps_pair (s0 := s0) heq (by clear heq; simp (maxDischargeDepth := 60) +contextual only [servoStep_keeps, outKeeps_next, outKeeps_ite, keeps_mk, plain_keeps, keeps_ite, keeps_foldl,
      keeps_foldl_fst, apply_ite Prod.fst, apply_ite Prod.snd, implies_true, and_self, *])
                      clear heq))

@[simp] theorem offer_keeps {s0 s : State} (x : Bool) (src : Nat) (theta : Int) (h : Keeps s0 s) : Keeps s0 (State.offer s x src theta) := by
  unfold State.offer
  simp (maxDischargeDepth := 60) +contextual only [keeps_mk, plain_keeps, keeps_ite, keeps_foldl, keeps_foldl_fst, apply_ite Prod.fst, apply_ite Prod.snd,
      implies_true, and_self, *]

@[simp] theorem execDomainSilence_keeps {s0 s : State} (x : Bool) (h : Keeps s0 s) : OutKeeps s0 (execDomainSilence x s) := by
  unfold execDomainSilence
  repeat' first
    | (extract_lets +onlyGivenNames x
       try (have hx : Keeps s0 x := (by
         simp only [x]
         repeat' first
           | (simp (maxDischargeDepth := 60) +contextual only [setDom_keeps, raise_keeps, enterSt_keeps, outKeeps_next, outKeeps_ite, keeps_mk, plain_keeps, keeps_ite,
      keeps_foldl, keeps_foldl_fst, apply_ite Prod.fst, apply_ite Prod.snd, implies_true, and_self, *]
              done)
           | refine keeps_foldl ?_ (fun s b hs => ?_)
           | refine keeps_foldl_fst ?_ (fun p b hp => ?_)
           | split))
       try (have hx : Keeps s0 x.1 := (by simp (maxDischargeDepth := 60) +contextual only [x, setDom_keeps, raise_keeps, enterSt_keeps, outKeeps_next, outKeeps_ite, keeps_mk, plain_keeps, keeps_ite,
      keeps_foldl, keeps_foldl_fst, apply_ite Prod.fst, apply_ite Prod.snd, implies_true, and_self, *]))
       clear_value x)
    | (simp (maxDischargeDepth := 60) +contextual only [setDom_keeps, raise_keeps, enterSt_keeps, outKeeps_next, outKeeps_ite, keeps_mk, plain_keeps, keeps_ite,
      keeps_foldl, keeps_foldl_fst, apply_ite Prod.fst, apply_ite Prod.snd, implies_true, and_self, *]
       done)
    | refine keeps_foldl ?_ (fun s b hs => ?_)
    | refine keeps_foldl_fst ?_ (fun p b hp => ?_)
    | refine each_keeps ?_ (fun s i hs => ?_)
    | (split
       all_goals try (rename_i heq
                      have hk := keeps_pair (s0 := s0) heq (by clear heq; simp (maxDischargeDepth := 60) +contextual only [setDom_keeps, raise_keeps, enterSt_keeps, outKeeps_next, outKeeps_ite, keeps_mk, plain_keeps, keeps_ite,
      keeps_foldl, keeps_foldl_fst, apply_ite Prod.fst, apply_ite Prod.snd, implies_true, and_self, *])
                      clear heq))

@[simp] theorem wrIncrLo_keeps {s0 s : State} (x : Bool) (w : Word) (h : Keeps s0 s) : Keeps s0 (State.wrIncrLo s x w) := by
  unfold State.wrIncrLo
  simp (maxDischargeDepth := 60) +contextual only [raise_keeps, setDom_keeps, keeps_mk, plain_keeps, keeps_ite, keeps_foldl, keeps_foldl_fst, apply_ite
      Prod.fst, apply_ite Prod.snd, implies_true, and_self, *]

@[simp] theorem wrIncrHi_keeps {s0 s : State} (x : Bool) (w : Word) (h : Keeps s0 s) : Keeps s0 (State.wrIncrHi s x w) := by
  unfold State.wrIncrHi
  repeat' first
    | (extract_lets +onlyGivenNames x
       try (have hx : Keeps s0 x := (by
         simp only [x]
         repeat' first
           | (simp (maxDischargeDepth := 60) +contextual only [raise_keeps, setDom_keeps, keeps_mk, plain_keeps, keeps_ite, keeps_foldl, keeps_foldl_fst, apply_ite
      Prod.fst, apply_ite Prod.snd, implies_true, and_self, *]
              done)
           | refine keeps_foldl ?_ (fun s b hs => ?_)
           | refine keeps_foldl_fst ?_ (fun p b hp => ?_)
           | split))
       try (have hx : Keeps s0 x.1 := (by simp (maxDischargeDepth := 60) +contextual only [x, raise_keeps, setDom_keeps, keeps_mk, plain_keeps, keeps_ite, keeps_foldl, keeps_foldl_fst, apply_ite
      Prod.fst, apply_ite Prod.snd, implies_true, and_self, *]))
       clear_value x)
    | (simp (maxDischargeDepth := 60) +contextual only [raise_keeps, setDom_keeps, keeps_mk, plain_keeps, keeps_ite, keeps_foldl, keeps_foldl_fst, apply_ite
      Prod.fst, apply_ite Prod.snd, implies_true, and_self, *]
       done)
    | refine keeps_foldl ?_ (fun s b hs => ?_)
    | refine keeps_foldl_fst ?_ (fun p b hp => ?_)
    | refine each_keeps ?_ (fun s i hs => ?_)
    | (split
       all_goals try (rename_i heq
                      have hk := keeps_pair (s0 := s0) heq (by clear heq; simp (maxDischargeDepth := 60) +contextual only [raise_keeps, setDom_keeps, keeps_mk, plain_keeps, keeps_ite, keeps_foldl, keeps_foldl_fst, apply_ite
      Prod.fst, apply_ite Prod.snd, implies_true, and_self, *])
                      clear heq))

@[simp] theorem wrDt_keeps {s0 s : State} (x : Bool) (hi : Word) (lo : Option Word) (h : Keeps s0 s) : Keeps s0 (State.wrDt s x hi lo) := by
  unfold State.wrDt
  simp (maxDischargeDepth := 60) +contextual only [keeps_mk, plain_keeps, keeps_ite, keeps_foldl, keeps_foldl_fst, apply_ite Prod.fst, apply_ite Prod.snd,
      implies_true, and_self, *]

@[simp] theorem wrSrvCfg_keeps {s0 s : State} (x : Bool) (w : Word) (h : Keeps s0 s) : Keeps s0 (State.wrSrvCfg s x w) := by
  unfold State.wrSrvCfg
  repeat' first
    | (extract_lets +onlyGivenNames x
       try (have hx : Keeps s0 x := (by
         simp only [x]
         repeat' first
           | (simp (maxDischargeDepth := 60) +contextual only [setReg_keeps, setDom_keeps, enterSt_keeps, keeps_mk, plain_keeps, keeps_ite, keeps_foldl,
      keeps_foldl_fst, apply_ite Prod.fst, apply_ite Prod.snd, implies_true, and_self, *]
              done)
           | refine keeps_foldl ?_ (fun s b hs => ?_)
           | refine keeps_foldl_fst ?_ (fun p b hp => ?_)
           | split))
       try (have hx : Keeps s0 x.1 := (by simp (maxDischargeDepth := 60) +contextual only [x, setReg_keeps, setDom_keeps, enterSt_keeps, keeps_mk, plain_keeps, keeps_ite, keeps_foldl,
      keeps_foldl_fst, apply_ite Prod.fst, apply_ite Prod.snd, implies_true, and_self, *]))
       clear_value x)
    | (simp (maxDischargeDepth := 60) +contextual only [setReg_keeps, setDom_keeps, enterSt_keeps, keeps_mk, plain_keeps, keeps_ite, keeps_foldl,
      keeps_foldl_fst, apply_ite Prod.fst, apply_ite Prod.snd, implies_true, and_self, *]
       done)
    | refine keeps_foldl ?_ (fun s b hs => ?_)
    | refine keeps_foldl_fst ?_ (fun p b hp => ?_)
    | refine each_keeps ?_ (fun s i hs => ?_)
    | (split
       all_goals try (rename_i heq
                      have hk := keeps_pair (s0 := s0) heq (by clear heq; simp (maxDischargeDepth := 60) +contextual only [setReg_keeps, setDom_keeps, enterSt_keeps, keeps_mk, plain_keeps, keeps_ite, keeps_foldl,
      keeps_foldl_fst, apply_ite Prod.fst, apply_ite Prod.snd, implies_true, and_self, *])
                      clear heq))

@[simp] theorem wrCtrl_keeps {s0 s : State} (w : Word) (h : Keeps s0 s) : Keeps s0 (State.wrCtrl s w) := by
  unfold State.wrCtrl
  repeat' first
    | (extract_lets +onlyGivenNames x
       try (have hx : Keeps s0 x := (by
         simp only [x]
         repeat' first
           | (simp (maxDischargeDepth := 60) +contextual only [setReg_keeps, keeps_mk, plain_keeps, keeps_ite, keeps_foldl, keeps_foldl_fst, apply_ite Prod.fst,
      apply_ite Prod.snd, implies_true, and_self, *]
              done)
           | refine keeps_foldl ?_ (fun s b hs => ?_)
           | refine keeps_foldl_fst ?_ (fun p b hp => ?_)
           | split))
       try (have hx : Keeps s0 x.1 := (by simp (maxDischargeDepth := 60) +contextual only [x, setReg_keeps, keeps_mk, plain_keeps, keeps_ite, keeps_foldl, keeps_foldl_fst, apply_ite Prod.fst,
      apply_ite Prod.snd, implies_true, and_self, *]))
       clear_value x)
    | (simp (maxDischargeDepth := 60) +contextual only [setReg_keeps, keeps_mk, plain_keeps, keeps_ite, keeps_foldl, keeps_foldl_fst, apply_ite Prod.fst,
      apply_ite Prod.snd, implies_true, and_self, *]
       done)
    | refine keeps_foldl ?_ (fun s b hs => ?_)
    | refine keeps_foldl_fst ?_ (fun p b hp => ?_)
    | refine each_keeps ?_ (fun s i hs => ?_)
    | (split
       all_goals try (rename_i heq
                      have hk := keeps_pair (s0 := s0) heq (by clear heq; simp (maxDischargeDepth := 60) +contextual only [setReg_keeps, keeps_mk, plain_keeps, keeps_ite, keeps_foldl, keeps_foldl_fst, apply_ite Prod.fst,
      apply_ite Prod.snd, implies_true, and_self, *])
                      clear heq))

@[simp] theorem calWindow_keeps {s0 s : State} (h : Keeps s0 s) : Keeps s0 (State.calWindow s) := by
  unfold State.calWindow
  repeat' first
    | (extract_lets +onlyGivenNames x
       try (have hx : Keeps s0 x := (by
         simp only [x]
         repeat' first
           | (simp (maxDischargeDepth := 60) +contextual only [setReg_keeps, raise_keeps, keeps_mk, plain_keeps, keeps_ite, keeps_foldl, keeps_foldl_fst, apply_ite
      Prod.fst, apply_ite Prod.snd, implies_true, and_self, *]
              done)
           | refine keeps_foldl ?_ (fun s b hs => ?_)
           | refine keeps_foldl_fst ?_ (fun p b hp => ?_)
           | split))
       try (have hx : Keeps s0 x.1 := (by simp (maxDischargeDepth := 60) +contextual only [x, setReg_keeps, raise_keeps, keeps_mk, plain_keeps, keeps_ite, keeps_foldl, keeps_foldl_fst, apply_ite
      Prod.fst, apply_ite Prod.snd, implies_true, and_self, *]))
       clear_value x)
    | (simp (maxDischargeDepth := 60) +contextual only [setReg_keeps, raise_keeps, keeps_mk, plain_keeps, keeps_ite, keeps_foldl, keeps_foldl_fst, apply_ite
      Prod.fst, apply_ite Prod.snd, implies_true, and_self, *]
       done)
    | refine keeps_foldl ?_ (fun s b hs => ?_)
    | refine keeps_foldl_fst ?_ (fun p b hp => ?_)
    | refine each_keeps ?_ (fun s i hs => ?_)
    | (split
       all_goals try (rename_i heq
                      have hk := keeps_pair (s0 := s0) heq (by clear heq; simp (maxDischargeDepth := 60) +contextual only [setReg_keeps, raise_keeps, keeps_mk, plain_keeps, keeps_ite, keeps_foldl, keeps_foldl_fst, apply_ite
      Prod.fst, apply_ite Prod.snd, implies_true, and_self, *])
                      clear heq))

@[simp] theorem aonCount_keeps {s0 s : State} (h : Keeps s0 s) : Keeps s0 (State.aonCount s) := by
  unfold State.aonCount
  simp (maxDischargeDepth := 60) +contextual only [keeps_mk, plain_keeps, keeps_ite, keeps_foldl, keeps_foldl_fst, apply_ite Prod.fst, apply_ite Prod.snd,
      implies_true, and_self, *]

@[simp] theorem execAonEdgeStamp_keeps {s0 s : State} (h : Keeps s0 s) : OutKeeps s0 (execAonEdgeStamp s) := by
  unfold execAonEdgeStamp
  repeat' first
    | (extract_lets +onlyGivenNames x
       try (have hx : Keeps s0 x := (by
         simp only [x]
         repeat' first
           | (simp (maxDischargeDepth := 60) +contextual only [aonCount_keeps, calWindow_keeps, outKeeps_next, outKeeps_ite, keeps_mk, plain_keeps, keeps_ite,
      keeps_foldl, keeps_foldl_fst, apply_ite Prod.fst, apply_ite Prod.snd, implies_true, and_self, *]
              done)
           | refine keeps_foldl ?_ (fun s b hs => ?_)
           | refine keeps_foldl_fst ?_ (fun p b hp => ?_)
           | split))
       try (have hx : Keeps s0 x.1 := (by simp (maxDischargeDepth := 60) +contextual only [x, aonCount_keeps, calWindow_keeps, outKeeps_next, outKeeps_ite, keeps_mk, plain_keeps, keeps_ite,
      keeps_foldl, keeps_foldl_fst, apply_ite Prod.fst, apply_ite Prod.snd, implies_true, and_self, *]))
       clear_value x)
    | (simp (maxDischargeDepth := 60) +contextual only [aonCount_keeps, calWindow_keeps, outKeeps_next, outKeeps_ite, keeps_mk, plain_keeps, keeps_ite,
      keeps_foldl, keeps_foldl_fst, apply_ite Prod.fst, apply_ite Prod.snd, implies_true, and_self, *]
       done)
    | refine keeps_foldl ?_ (fun s b hs => ?_)
    | refine keeps_foldl_fst ?_ (fun p b hp => ?_)
    | refine each_keeps ?_ (fun s i hs => ?_)
    | (split
       all_goals try (rename_i heq
                      have hk := keeps_pair (s0 := s0) heq (by clear heq; simp (maxDischargeDepth := 60) +contextual only [aonCount_keeps, calWindow_keeps, outKeeps_next, outKeeps_ite, keeps_mk, plain_keeps, keeps_ite,
      keeps_foldl, keeps_foldl_fst, apply_ite Prod.fst, apply_ite Prod.snd, implies_true, and_self, *])
                      clear heq))

@[simp] theorem execAonCalWindow_keeps {s0 s : State} (h : Keeps s0 s) : OutKeeps s0 (execAonCalWindow s) := by
  unfold execAonCalWindow
  simp (maxDischargeDepth := 60) +contextual only [calWindow_keeps, outKeeps_next, outKeeps_ite, keeps_mk, plain_keeps, keeps_ite, keeps_foldl,
      keeps_foldl_fst, apply_ite Prod.fst, apply_ite Prod.snd, implies_true, and_self, *]

@[simp] theorem reconstruct_keeps {s0 s : State} (e : EntryRec) (h : Keeps s0 s) : Keeps s0 (State.reconstruct s e) := by
  unfold State.reconstruct
  repeat' first
    | (extract_lets +onlyGivenNames x
       try (have hx : Keeps s0 x := (by
         simp only [x]
         repeat' first
           | (simp (maxDischargeDepth := 60) +contextual only [setDomSt_keeps, setReg_keeps, setFld_keeps, raise_keeps, keeps_mk, plain_keeps, keeps_ite, keeps_foldl,
      keeps_foldl_fst, apply_ite Prod.fst, apply_ite Prod.snd, implies_true, and_self, *]
              done)
           | refine keeps_foldl ?_ (fun s b hs => ?_)
           | refine keeps_foldl_fst ?_ (fun p b hp => ?_)
           | split))
       try (have hx : Keeps s0 x.1 := (by simp (maxDischargeDepth := 60) +contextual only [x, setDomSt_keeps, setReg_keeps, setFld_keeps, raise_keeps, keeps_mk, plain_keeps, keeps_ite, keeps_foldl,
      keeps_foldl_fst, apply_ite Prod.fst, apply_ite Prod.snd, implies_true, and_self, *]))
       clear_value x)
    | (simp (maxDischargeDepth := 60) +contextual only [setDomSt_keeps, setReg_keeps, setFld_keeps, raise_keeps, keeps_mk, plain_keeps, keeps_ite, keeps_foldl,
      keeps_foldl_fst, apply_ite Prod.fst, apply_ite Prod.snd, implies_true, and_self, *]
       done)
    | refine keeps_foldl ?_ (fun s b hs => ?_)
    | refine keeps_foldl_fst ?_ (fun p b hp => ?_)
    | refine each_keeps ?_ (fun s i hs => ?_)
    | (split
       all_goals try (rename_i heq
                      have hk := keeps_pair (s0 := s0) heq (by clear heq; simp (maxDischargeDepth := 60) +contextual only [setDomSt_keeps, setReg_keeps, setFld_keeps, raise_keeps, keeps_mk, plain_keeps, keeps_ite, keeps_foldl,
      keeps_foldl_fst, apply_ite Prod.fst, apply_ite Prod.snd, implies_true, and_self, *])
                      clear heq))

@[simp] theorem execLtReconstruct_keeps {s0 s : State} (h : Keeps s0 s) : OutKeeps s0 (execLtReconstruct s) := by
  unfold execLtReconstruct
  repeat' first
    | (extract_lets +onlyGivenNames x
       try (have hx : Keeps s0 x := (by
         simp only [x]
         repeat' first
           | (simp (maxDischargeDepth := 60) +contextual only [aonCount_keeps, reconstruct_keeps, outKeeps_next, outKeeps_ite, keeps_mk, plain_keeps, keeps_ite,
      keeps_foldl, keeps_foldl_fst, apply_ite Prod.fst, apply_ite Prod.snd, implies_true, and_self, *]
              done)
           | refine keeps_foldl ?_ (fun s b hs => ?_)
           | refine keeps_foldl_fst ?_ (fun p b hp => ?_)
           | split))
       try (have hx : Keeps s0 x.1 := (by simp (maxDischargeDepth := 60) +contextual only [x, aonCount_keeps, reconstruct_keeps, outKeeps_next, outKeeps_ite, keeps_mk, plain_keeps, keeps_ite,
      keeps_foldl, keeps_foldl_fst, apply_ite Prod.fst, apply_ite Prod.snd, implies_true, and_self, *]))
       clear_value x)
    | (simp (maxDischargeDepth := 60) +contextual only [aonCount_keeps, reconstruct_keeps, outKeeps_next, outKeeps_ite, keeps_mk, plain_keeps, keeps_ite,
      keeps_foldl, keeps_foldl_fst, apply_ite Prod.fst, apply_ite Prod.snd, implies_true, and_self, *]
       done)
    | refine keeps_foldl ?_ (fun s b hs => ?_)
    | refine keeps_foldl_fst ?_ (fun p b hp => ?_)
    | refine each_keeps ?_ (fun s i hs => ?_)
    | (split
       all_goals try (rename_i heq
                      have hk := keeps_pair (s0 := s0) heq (by clear heq; simp (maxDischargeDepth := 60) +contextual only [aonCount_keeps, reconstruct_keeps, outKeeps_next, outKeeps_ite, keeps_mk, plain_keeps, keeps_ite,
      keeps_foldl, keeps_foldl_fst, apply_ite Prod.fst, apply_ite Prod.snd, implies_true, and_self, *])
                      clear heq))

@[simp] theorem execAonCrystalFailure_keeps {s0 s : State} (h : Keeps s0 s) : OutKeeps s0 (execAonCrystalFailure s) := by
  unfold execAonCrystalFailure
  simp (maxDischargeDepth := 60) +contextual only [outKeeps_next, outKeeps_ite, keeps_mk, plain_keeps, keeps_ite, keeps_foldl, keeps_foldl_fst, apply_ite
      Prod.fst, apply_ite Prod.snd, implies_true, and_self, *]

@[simp] theorem execAonCrystalStable_keeps {s0 s : State} (h : Keeps s0 s) : OutKeeps s0 (execAonCrystalStable s) := by
  unfold execAonCrystalStable
  simp (maxDischargeDepth := 60) +contextual only [outKeeps_next, outKeeps_ite, keeps_mk, plain_keeps, keeps_ite, keeps_foldl, keeps_foldl_fst, apply_ite
      Prod.fst, apply_ite Prod.snd, implies_true, and_self, *]

end Sys2Proof.Machine
end

