-- ==== Sys2Proof/Laws/Arcades.lean ====
section
/-! SUPPORT. Each operation of Machine/Arcades.lean keeps the queue and the canonical form of the tables. -/

set_option linter.all false

namespace Sys2Proof.Machine

@[simp] theorem arcLose_keeps {s0 s : State} (a : Nat) (n : Nat) (h : Keeps s0 s) : Keeps s0 (State.arcLose s a n) := by
  unfold State.arcLose
  repeat' first
    | (extract_lets +onlyGivenNames x
       try (have hx : Keeps s0 x := (by
         simp only [x]
         repeat' first
           | (simp (maxDischargeDepth := 60) +contextual only [setArc_keeps, bump_keeps, keeps_mk, plain_keeps, keeps_ite, keeps_foldl, keeps_foldl_fst, apply_ite
      Prod.fst, apply_ite Prod.snd, implies_true, and_self, *]
              done)
           | refine keeps_foldl ?_ (fun s b hs => ?_)
           | refine keeps_foldl_fst ?_ (fun p b hp => ?_)
           | split))
       try (have hx : Keeps s0 x.1 := (by simp (maxDischargeDepth := 60) +contextual only [x, setArc_keeps, bump_keeps, keeps_mk, plain_keeps, keeps_ite, keeps_foldl, keeps_foldl_fst, apply_ite
      Prod.fst, apply_ite Prod.snd, implies_true, and_self, *]))
       clear_value x)
    | (simp (maxDischargeDepth := 60) +contextual only [setArc_keeps, bump_keeps, keeps_mk, plain_keeps, keeps_ite, keeps_foldl, keeps_foldl_fst, apply_ite
      Prod.fst, apply_ite Prod.snd, implies_true, and_self, *]
       done)
    | refine keeps_foldl ?_ (fun s b hs => ?_)
    | refine keeps_foldl_fst ?_ (fun p b hp => ?_)
    | refine each_keeps ?_ (fun s i hs => ?_)
    | (split
       all_goals try (rename_i heq
                      have hk := keeps_pair (s0 := s0) heq (by clear heq; simp (maxDischargeDepth := 60) +contextual only [setArc_keeps, bump_keeps, keeps_mk, plain_keeps, keeps_ite, keeps_foldl, keeps_foldl_fst, apply_ite
      Prod.fst, apply_ite Prod.snd, implies_true, and_self, *])
                      clear heq))

@[simp] theorem arcEngage_keeps {s0 s : State} (a : Nat) (h : Keeps s0 s) : Keeps s0 (State.arcEngage s a) := by
  unfold State.arcEngage
  repeat' first
    | (extract_lets +onlyGivenNames x
       try (have hx : Keeps s0 x := (by
         simp only [x]
         repeat' first
           | (simp (maxDischargeDepth := 60) +contextual only [setArc_keeps, keeps_mk, plain_keeps, keeps_ite, keeps_foldl, keeps_foldl_fst, apply_ite Prod.fst,
      apply_ite Prod.snd, implies_true, and_self, *]
              done)
           | refine keeps_foldl ?_ (fun s b hs => ?_)
           | refine keeps_foldl_fst ?_ (fun p b hp => ?_)
           | split))
       try (have hx : Keeps s0 x.1 := (by simp (maxDischargeDepth := 60) +contextual only [x, setArc_keeps, keeps_mk, plain_keeps, keeps_ite, keeps_foldl, keeps_foldl_fst, apply_ite Prod.fst,
      apply_ite Prod.snd, implies_true, and_self, *]))
       clear_value x)
    | (simp (maxDischargeDepth := 60) +contextual only [setArc_keeps, keeps_mk, plain_keeps, keeps_ite, keeps_foldl, keeps_foldl_fst, apply_ite Prod.fst,
      apply_ite Prod.snd, implies_true, and_self, *]
       done)
    | refine keeps_foldl ?_ (fun s b hs => ?_)
    | refine keeps_foldl_fst ?_ (fun p b hp => ?_)
    | refine each_keeps ?_ (fun s i hs => ?_)
    | (split
       all_goals try (rename_i heq
                      have hk := keeps_pair (s0 := s0) heq (by clear heq; simp (maxDischargeDepth := 60) +contextual only [setArc_keeps, keeps_mk, plain_keeps, keeps_ite, keeps_foldl, keeps_foldl_fst, apply_ite Prod.fst,
      apply_ite Prod.snd, implies_true, and_self, *])
                      clear heq))

@[simp] theorem arcSettle_keeps {s0 s : State} (a : Nat) (h : Keeps s0 s) : Keeps s0 (State.arcSettle s a) := by
  unfold State.arcSettle
  simp (maxDischargeDepth := 60) +contextual only [setArc_keeps, arcEngage_keeps, keeps_mk, plain_keeps, keeps_ite, keeps_foldl, keeps_foldl_fst, apply_ite
      Prod.fst, apply_ite Prod.snd, implies_true, and_self, *]

@[simp] theorem arcQuota_keeps {s0 s : State} (a : Nat) (h : Keeps s0 s) : Keeps s0 (State.arcQuota s a) := by
  unfold State.arcQuota
  repeat' first
    | (extract_lets +onlyGivenNames x
       try (have hx : Keeps s0 x := (by
         simp only [x]
         repeat' first
           | (simp (maxDischargeDepth := 60) +contextual only [setArc_keeps, keeps_mk, plain_keeps, keeps_ite, keeps_foldl, keeps_foldl_fst, apply_ite Prod.fst,
      apply_ite Prod.snd, implies_true, and_self, *]
              done)
           | refine keeps_foldl ?_ (fun s b hs => ?_)
           | refine keeps_foldl_fst ?_ (fun p b hp => ?_)
           | split))
       try (have hx : Keeps s0 x.1 := (by simp (maxDischargeDepth := 60) +contextual only [x, setArc_keeps, keeps_mk, plain_keeps, keeps_ite, keeps_foldl, keeps_foldl_fst, apply_ite Prod.fst,
      apply_ite Prod.snd, implies_true, and_self, *]))
       clear_value x)
    | (simp (maxDischargeDepth := 60) +contextual only [setArc_keeps, keeps_mk, plain_keeps, keeps_ite, keeps_foldl, keeps_foldl_fst, apply_ite Prod.fst,
      apply_ite Prod.snd, implies_true, and_self, *]
       done)
    | refine keeps_foldl ?_ (fun s b hs => ?_)
    | refine keeps_foldl_fst ?_ (fun p b hp => ?_)
    | refine each_keeps ?_ (fun s i hs => ?_)
    | (split
       all_goals try (rename_i heq
                      have hk := keeps_pair (s0 := s0) heq (by clear heq; simp (maxDischargeDepth := 60) +contextual only [setArc_keeps, keeps_mk, plain_keeps, keeps_ite, keeps_foldl, keeps_foldl_fst, apply_ite Prod.fst,
      apply_ite Prod.snd, implies_true, and_self, *])
                      clear heq))

@[simp] theorem arcOverwrite_keeps {s0 s : State} (a : Nat) (h : Keeps s0 s) : Keeps s0 (State.arcOverwrite s a) := by
  unfold State.arcOverwrite
  repeat' first
    | (extract_lets +onlyGivenNames x
       try (have hx : Keeps s0 x := (by
         simp only [x]
         repeat' first
           | (simp (maxDischargeDepth := 60) +contextual only [raise_keeps, setFld_keeps, setArc_keeps, arcLose_keeps, keeps_mk, plain_keeps, keeps_ite, keeps_foldl,
      keeps_foldl_fst, apply_ite Prod.fst, apply_ite Prod.snd, implies_true, and_self, *]
              done)
           | refine keeps_foldl ?_ (fun s b hs => ?_)
           | refine keeps_foldl_fst ?_ (fun p b hp => ?_)
           | split))
       try (have hx : Keeps s0 x.1 := (by simp (maxDischargeDepth := 60) +contextual only [x, raise_keeps, setFld_keeps, setArc_keeps, arcLose_keeps, keeps_mk, plain_keeps, keeps_ite, keeps_foldl,
      keeps_foldl_fst, apply_ite Prod.fst, apply_ite Prod.snd, implies_true, and_self, *]))
       clear_value x)
    | (simp (maxDischargeDepth := 60) +contextual only [raise_keeps, setFld_keeps, setArc_keeps, arcLose_keeps, keeps_mk, plain_keeps, keeps_ite, keeps_foldl,
      keeps_foldl_fst, apply_ite Prod.fst, apply_ite Prod.snd, implies_true, and_self, *]
       done)
    | refine keeps_foldl ?_ (fun s b hs => ?_)
    | refine keeps_foldl_fst ?_ (fun p b hp => ?_)
    | refine each_keeps ?_ (fun s i hs => ?_)
    | (split
       all_goals try (rename_i heq
                      have hk := keeps_pair (s0 := s0) heq (by clear heq; simp (maxDischargeDepth := 60) +contextual only [raise_keeps, setFld_keeps, setArc_keeps, arcLose_keeps, keeps_mk, plain_keeps, keeps_ite, keeps_foldl,
      keeps_foldl_fst, apply_ite Prod.fst, apply_ite Prod.snd, implies_true, and_self, *])
                      clear heq))

@[simp] theorem arcRoom_keeps {s0 s : State} (a : Nat) (h : Keeps s0 s) : Keeps s0 (State.arcRoom s a) := by
  unfold State.arcRoom
  repeat' first
    | (extract_lets +onlyGivenNames x
       try (have hx : Keeps s0 x := (by
         simp only [x]
         repeat' first
           | (simp (maxDischargeDepth := 60) +contextual only [arcOverwrite_keeps, setArc_keeps, keeps_mk, plain_keeps, keeps_ite, keeps_foldl, keeps_foldl_fst,
      apply_ite Prod.fst, apply_ite Prod.snd, implies_true, and_self, *]
              done)
           | refine keeps_foldl ?_ (fun s b hs => ?_)
           | refine keeps_foldl_fst ?_ (fun p b hp => ?_)
           | split))
       try (have hx : Keeps s0 x.1 := (by simp (maxDischargeDepth := 60) +contextual only [x, arcOverwrite_keeps, setArc_keeps, keeps_mk, plain_keeps, keeps_ite, keeps_foldl, keeps_foldl_fst,
      apply_ite Prod.fst, apply_ite Prod.snd, implies_true, and_self, *]))
       clear_value x)
    | (simp (maxDischargeDepth := 60) +contextual only [arcOverwrite_keeps, setArc_keeps, keeps_mk, plain_keeps, keeps_ite, keeps_foldl, keeps_foldl_fst,
      apply_ite Prod.fst, apply_ite Prod.snd, implies_true, and_self, *]
       done)
    | refine keeps_foldl ?_ (fun s b hs => ?_)
    | refine keeps_foldl_fst ?_ (fun p b hp => ?_)
    | refine each_keeps ?_ (fun s i hs => ?_)
    | (split
       all_goals try (rename_i heq
                      have hk := keeps_pair (s0 := s0) heq (by clear heq; simp (maxDischargeDepth := 60) +contextual only [arcOverwrite_keeps, setArc_keeps, keeps_mk, plain_keeps, keeps_ite, keeps_foldl, keeps_foldl_fst,
      apply_ite Prod.fst, apply_ite Prod.snd, implies_true, and_self, *])
                      clear heq))

@[simp] theorem arcAdvance_keeps {s0 s : State} (a : Nat) (h : Keeps s0 s) : Keeps s0 (State.arcAdvance s a) := by
  unfold State.arcAdvance
  repeat' first
    | (extract_lets +onlyGivenNames x
       try (have hx : Keeps s0 x := (by
         simp only [x]
         repeat' first
           | (simp (maxDischargeDepth := 60) +contextual only [arcRoom_keeps, setArc_keeps, keeps_mk, plain_keeps, keeps_ite, keeps_foldl, keeps_foldl_fst, apply_ite
      Prod.fst, apply_ite Prod.snd, implies_true, and_self, *]
              done)
           | refine keeps_foldl ?_ (fun s b hs => ?_)
           | refine keeps_foldl_fst ?_ (fun p b hp => ?_)
           | split))
       try (have hx : Keeps s0 x.1 := (by simp (maxDischargeDepth := 60) +contextual only [x, arcRoom_keeps, setArc_keeps, keeps_mk, plain_keeps, keeps_ite, keeps_foldl, keeps_foldl_fst, apply_ite
      Prod.fst, apply_ite Prod.snd, implies_true, and_self, *]))
       clear_value x)
    | (simp (maxDischargeDepth := 60) +contextual only [arcRoom_keeps, setArc_keeps, keeps_mk, plain_keeps, keeps_ite, keeps_foldl, keeps_foldl_fst, apply_ite
      Prod.fst, apply_ite Prod.snd, implies_true, and_self, *]
       done)
    | refine keeps_foldl ?_ (fun s b hs => ?_)
    | refine keeps_foldl_fst ?_ (fun p b hp => ?_)
    | refine each_keeps ?_ (fun s i hs => ?_)
    | (split
       all_goals try (rename_i heq
                      have hk := keeps_pair (s0 := s0) heq (by clear heq; simp (maxDischargeDepth := 60) +contextual only [arcRoom_keeps, setArc_keeps, keeps_mk, plain_keeps, keeps_ite, keeps_foldl, keeps_foldl_fst, apply_ite
      Prod.fst, apply_ite Prod.snd, implies_true, and_self, *])
                      clear heq))

@[simp] theorem arcPut_keeps {s0 s : State} (a : Nat) (v : Word) (h : Keeps s0 s) : Keeps s0 (State.arcPut s a v) := by
  unfold State.arcPut
  repeat' first
    | (extract_lets +onlyGivenNames x
       try (have hx : Keeps s0 x := (by
         simp only [x]
         repeat' first
           | (simp (maxDischargeDepth := 60) +contextual only [arcAdvance_keeps, memWrite_keeps, arcSettle_keeps, keeps_mk, plain_keeps, keeps_ite, keeps_foldl,
      keeps_foldl_fst, apply_ite Prod.fst, apply_ite Prod.snd, implies_true, and_self, *]
              done)
           | refine keeps_foldl ?_ (fun s b hs => ?_)
           | refine keeps_foldl_fst ?_ (fun p b hp => ?_)
           | split))
       try (have hx : Keeps s0 x.1 := (by simp (maxDischargeDepth := 60) +contextual only [x, arcAdvance_keeps, memWrite_keeps, arcSettle_keeps, keeps_mk, plain_keeps, keeps_ite, keeps_foldl,
      keeps_foldl_fst, apply_ite Prod.fst, apply_ite Prod.snd, implies_true, and_self, *]))
       clear_value x)
    | (simp (maxDischargeDepth := 60) +contextual only [arcAdvance_keeps, memWrite_keeps, arcSettle_keeps, keeps_mk, plain_keeps, keeps_ite, keeps_foldl,
      keeps_foldl_fst, apply_ite Prod.fst, apply_ite Prod.snd, implies_true, and_self, *]
       done)
    | refine keeps_foldl ?_ (fun s b hs => ?_)
    | refine keeps_foldl_fst ?_ (fun p b hp => ?_)
    | refine each_keeps ?_ (fun s i hs => ?_)
    | (split
       all_goals try (rename_i heq
                      have hk := keeps_pair (s0 := s0) heq (by clear heq; simp (maxDischargeDepth := 60) +contextual only [arcAdvance_keeps, memWrite_keeps, arcSettle_keeps, keeps_mk, plain_keeps, keeps_ite, keeps_foldl,
      keeps_foldl_fst, apply_ite Prod.fst, apply_ite Prod.snd, implies_true, and_self, *])
                      clear heq))

@[simp] theorem arcPut2_keeps {s0 s : State} (a : Nat) (v : Word) (u : Word) (h : Keeps s0 s) : Keeps s0 (State.arcPut2 s a v u) := by
  unfold State.arcPut2
  repeat' first
    | (extract_lets +onlyGivenNames x
       try (have hx : Keeps s0 x := (by
         simp only [x]
         repeat' first
           | (simp (maxDischargeDepth := 60) +contextual only [arcAdvance_keeps, memWrite_keeps, arcSettle_keeps, keeps_mk, plain_keeps, keeps_ite, keeps_foldl,
      keeps_foldl_fst, apply_ite Prod.fst, apply_ite Prod.snd, implies_true, and_self, *]
              done)
           | refine keeps_foldl ?_ (fun s b hs => ?_)
           | refine keeps_foldl_fst ?_ (fun p b hp => ?_)
           | split))
       try (have hx : Keeps s0 x.1 := (by simp (maxDischargeDepth := 60) +contextual only [x, arcAdvance_keeps, memWrite_keeps, arcSettle_keeps, keeps_mk, plain_keeps, keeps_ite, keeps_foldl,
      keeps_foldl_fst, apply_ite Prod.fst, apply_ite Prod.snd, implies_true, and_self, *]))
       clear_value x)
    | (simp (maxDischargeDepth := 60) +contextual only [arcAdvance_keeps, memWrite_keeps, arcSettle_keeps, keeps_mk, plain_keeps, keeps_ite, keeps_foldl,
      keeps_foldl_fst, apply_ite Prod.fst, apply_ite Prod.snd, implies_true, and_self, *]
       done)
    | refine keeps_foldl ?_ (fun s b hs => ?_)
    | refine keeps_foldl_fst ?_ (fun p b hp => ?_)
    | refine each_keeps ?_ (fun s i hs => ?_)
    | (split
       all_goals try (rename_i heq
                      have hk := keeps_pair (s0 := s0) heq (by clear heq; simp (maxDischargeDepth := 60) +contextual only [arcAdvance_keeps, memWrite_keeps, arcSettle_keeps, keeps_mk, plain_keeps, keeps_ite, keeps_foldl,
      keeps_foldl_fst, apply_ite Prod.fst, apply_ite Prod.snd, implies_true, and_self, *])
                      clear heq))

@[simp] theorem arcPuts_keeps {s0 s : State} (a : Nat) (x0 : List Word) (h : Keeps s0 s) : Keeps s0 (State.arcPuts s a x0) := by
  induction h' : x0.length using Nat.strong_induction_on generalizing s x0 with
  | _ n ih =>
    match x0 with
    | [] => exact h
    | [v] => unfold State.arcPuts; split_ifs <;> simp [h]
    | v :: u :: vs =>
      unfold State.arcPuts
      dsimp only
      split_ifs
      · exact h
      · exact ih _ (by simp at h'; omega) _ (arcPut2_keeps _ _ _ h) rfl
      · exact ih _ (by simp at h' ⊢; omega) _ (arcPut_keeps _ _ h) rfl

@[simp] theorem arcMark_keeps {s0 s : State} (a : Nat) (st : Nat) (b : Nat) (h : Keeps s0 s) : Keeps s0 (State.arcMark s a st b) := by
  unfold State.arcMark
  repeat' first
    | (extract_lets +onlyGivenNames x
       try (have hx : Keeps s0 x := (by
         simp only [x]
         repeat' first
           | (simp (maxDischargeDepth := 60) +contextual only [memWrite_keeps, keeps_mk, plain_keeps, keeps_ite, keeps_foldl, keeps_foldl_fst, apply_ite Prod.fst,
      apply_ite Prod.snd, implies_true, and_self, *]
              done)
           | refine keeps_foldl ?_ (fun s b hs => ?_)
           | refine keeps_foldl_fst ?_ (fun p b hp => ?_)
           | split))
       try (have hx : Keeps s0 x.1 := (by simp (maxDischargeDepth := 60) +contextual only [x, memWrite_keeps, keeps_mk, plain_keeps, keeps_ite, keeps_foldl, keeps_foldl_fst, apply_ite Prod.fst,
      apply_ite Prod.snd, implies_true, and_self, *]))
       clear_value x)
    | (simp (maxDischargeDepth := 60) +contextual only [memWrite_keeps, keeps_mk, plain_keeps, keeps_ite, keeps_foldl, keeps_foldl_fst, apply_ite Prod.fst,
      apply_ite Prod.snd, implies_true, and_self, *]
       done)
    | refine keeps_foldl ?_ (fun s b hs => ?_)
    | refine keeps_foldl_fst ?_ (fun p b hp => ?_)
    | refine each_keeps ?_ (fun s i hs => ?_)
    | (split
       all_goals try (rename_i heq
                      have hk := keeps_pair (s0 := s0) heq (by clear heq; simp (maxDischargeDepth := 60) +contextual only [memWrite_keeps, keeps_mk, plain_keeps, keeps_ite, keeps_foldl, keeps_foldl_fst, apply_ite Prod.fst,
      apply_ite Prod.snd, implies_true, and_self, *])
                      clear heq))

@[simp] theorem arcClose_keeps {s0 s : State} (a : Nat) (st : Nat) (en : Nat) (h : Keeps s0 s) : Keeps s0 (State.arcClose s a st en) := by
  unfold State.arcClose
  repeat' first
    | (extract_lets +onlyGivenNames x
       try (have hx : Keeps s0 x := (by
         simp only [x]
         repeat' first
           | (simp (maxDischargeDepth := 60) +contextual only [setArc_keeps, arcSettle_keeps, bump_keeps, keeps_mk, plain_keeps, keeps_ite, keeps_foldl,
      keeps_foldl_fst, apply_ite Prod.fst, apply_ite Prod.snd, implies_true, and_self, *]
              done)
           | refine keeps_foldl ?_ (fun s b hs => ?_)
           | refine keeps_foldl_fst ?_ (fun p b hp => ?_)
           | split))
       try (have hx : Keeps s0 x.1 := (by simp (maxDischargeDepth := 60) +contextual only [x, setArc_keeps, arcSettle_keeps, bump_keeps, keeps_mk, plain_keeps, keeps_ite, keeps_foldl,
      keeps_foldl_fst, apply_ite Prod.fst, apply_ite Prod.snd, implies_true, and_self, *]))
       clear_value x)
    | (simp (maxDischargeDepth := 60) +contextual only [setArc_keeps, arcSettle_keeps, bump_keeps, keeps_mk, plain_keeps, keeps_ite, keeps_foldl,
      keeps_foldl_fst, apply_ite Prod.fst, apply_ite Prod.snd, implies_true, and_self, *]
       done)
    | refine keeps_foldl ?_ (fun s b hs => ?_)
    | refine keeps_foldl_fst ?_ (fun p b hp => ?_)
    | refine each_keeps ?_ (fun s i hs => ?_)
    | (split
       all_goals try (rename_i heq
                      have hk := keeps_pair (s0 := s0) heq (by clear heq; simp (maxDischargeDepth := 60) +contextual only [setArc_keeps, arcSettle_keeps, bump_keeps, keeps_mk, plain_keeps, keeps_ite, keeps_foldl,
      keeps_foldl_fst, apply_ite Prod.fst, apply_ite Prod.snd, implies_true, and_self, *])
                      clear heq))

@[simp] theorem arcDone_keeps {s0 s : State} (a : Nat) (h : Keeps s0 s) : Keeps s0 (State.arcDone s a) := by
  unfold State.arcDone
  repeat' first
    | (extract_lets +onlyGivenNames x
       try (have hx : Keeps s0 x := (by
         simp only [x]
         repeat' first
           | (simp (maxDischargeDepth := 60) +contextual only [arcClose_keeps, keeps_mk, plain_keeps, keeps_ite, keeps_foldl, keeps_foldl_fst, apply_ite Prod.fst,
      apply_ite Prod.snd, implies_true, and_self, *]
              done)
           | refine keeps_foldl ?_ (fun s b hs => ?_)
           | refine keeps_foldl_fst ?_ (fun p b hp => ?_)
           | split))
       try (have hx : Keeps s0 x.1 := (by simp (maxDischargeDepth := 60) +contextual only [x, arcClose_keeps, keeps_mk, plain_keeps, keeps_ite, keeps_foldl, keeps_foldl_fst, apply_ite Prod.fst,
      apply_ite Prod.snd, implies_true, and_self, *]))
       clear_value x)
    | (simp (maxDischargeDepth := 60) +contextual only [arcClose_keeps, keeps_mk, plain_keeps, keeps_ite, keeps_foldl, keeps_foldl_fst, apply_ite Prod.fst,
      apply_ite Prod.snd, implies_true, and_self, *]
       done)
    | refine keeps_foldl ?_ (fun s b hs => ?_)
    | refine keeps_foldl_fst ?_ (fun p b hp => ?_)
    | refine each_keeps ?_ (fun s i hs => ?_)
    | (split
       all_goals try (rename_i heq
                      have hk := keeps_pair (s0 := s0) heq (by clear heq; simp (maxDischargeDepth := 60) +contextual only [arcClose_keeps, keeps_mk, plain_keeps, keeps_ite, keeps_foldl, keeps_foldl_fst, apply_ite Prod.fst,
      apply_ite Prod.snd, implies_true, and_self, *])
                      clear heq))

@[simp] theorem arcOpen_keeps {s0 s : State} (a : Nat) (len : Nat) (t : Option Nat) (h : Keeps s0 s) : Keeps s0 (State.arcOpen s a len t).1 := by
  unfold State.arcOpen
  repeat' first
    | (extract_lets +onlyGivenNames x
       try (have hx : Keeps s0 x := (by
         simp only [x]
         repeat' first
           | (simp (maxDischargeDepth := 60) +contextual only [raise_keeps, arcLose_keeps, setArc_keeps, keeps_mk, plain_keeps, keeps_ite, keeps_foldl, keeps_foldl_fst,
      apply_ite Prod.fst, apply_ite Prod.snd, implies_true, and_self, *]
              done)
           | refine keeps_foldl ?_ (fun s b hs => ?_)
           | refine keeps_foldl_fst ?_ (fun p b hp => ?_)
           | split))
       try (have hx : Keeps s0 x.1 := (by simp (maxDischargeDepth := 60) +contextual only [x, raise_keeps, arcLose_keeps, setArc_keeps, keeps_mk, plain_keeps, keeps_ite, keeps_foldl, keeps_foldl_fst,
      apply_ite Prod.fst, apply_ite Prod.snd, implies_true, and_self, *]))
       clear_value x)
    | (simp (maxDischargeDepth := 60) +contextual only [raise_keeps, arcLose_keeps, setArc_keeps, keeps_mk, plain_keeps, keeps_ite, keeps_foldl, keeps_foldl_fst,
      apply_ite Prod.fst, apply_ite Prod.snd, implies_true, and_self, *]
       done)
    | refine keeps_foldl ?_ (fun s b hs => ?_)
    | refine keeps_foldl_fst ?_ (fun p b hp => ?_)
    | refine each_keeps ?_ (fun s i hs => ?_)
    | (split
       all_goals try (rename_i heq
                      have hk := keeps_pair (s0 := s0) heq (by clear heq; simp (maxDischargeDepth := 60) +contextual only [raise_keeps, arcLose_keeps, setArc_keeps, keeps_mk, plain_keeps, keeps_ite, keeps_foldl, keeps_foldl_fst,
      apply_ite Prod.fst, apply_ite Prod.snd, implies_true, and_self, *])
                      clear heq))

@[simp] theorem arcStore_keeps {s0 s : State} (a : Nat) (p : Packet) (h : Keeps s0 s) : Keeps s0 (State.arcStore s a p) := by
  unfold State.arcStore
  repeat' first
    | (extract_lets +onlyGivenNames x
       try (have hx : Keeps s0 x := (by
         simp only [x]
         repeat' first
           | (simp (maxDischargeDepth := 60) +contextual only [bump_keeps, raise_keeps, arcOpen_keeps, arcPuts_keeps, arcDone_keeps, keeps_mk, plain_keeps, keeps_ite,
      keeps_foldl, keeps_foldl_fst, apply_ite Prod.fst, apply_ite Prod.snd, implies_true, and_self, *]
              done)
           | refine keeps_foldl ?_ (fun s b hs => ?_)
           | refine keeps_foldl_fst ?_ (fun p b hp => ?_)
           | split))
       try (have hx : Keeps s0 x.1 := (by simp (maxDischargeDepth := 60) +contextual only [x, bump_keeps, raise_keeps, arcOpen_keeps, arcPuts_keeps, arcDone_keeps, keeps_mk, plain_keeps, keeps_ite,
      keeps_foldl, keeps_foldl_fst, apply_ite Prod.fst, apply_ite Prod.snd, implies_true, and_self, *]))
       clear_value x)
    | (simp (maxDischargeDepth := 60) +contextual only [bump_keeps, raise_keeps, arcOpen_keeps, arcPuts_keeps, arcDone_keeps, keeps_mk, plain_keeps, keeps_ite,
      keeps_foldl, keeps_foldl_fst, apply_ite Prod.fst, apply_ite Prod.snd, implies_true, and_self, *]
       done)
    | refine keeps_foldl ?_ (fun s b hs => ?_)
    | refine keeps_foldl_fst ?_ (fun p b hp => ?_)
    | refine each_keeps ?_ (fun s i hs => ?_)
    | (split
       all_goals try (rename_i heq
                      have hk := keeps_pair (s0 := s0) heq (by clear heq; simp (maxDischargeDepth := 60) +contextual only [bump_keeps, raise_keeps, arcOpen_keeps, arcPuts_keeps, arcDone_keeps, keeps_mk, plain_keeps, keeps_ite,
      keeps_foldl, keeps_foldl_fst, apply_ite Prod.fst, apply_ite Prod.snd, implies_true, and_self, *])
                      clear heq))

@[simp] theorem arcRefuse_keeps {s0 s : State} (a : Nat) (named : Bool) (h : Keeps s0 s) : Keeps s0 (State.arcRefuse s a named) := by
  unfold State.arcRefuse
  simp (maxDischargeDepth := 60) +contextual only [raiseIf_keeps, keeps_mk, plain_keeps, keeps_ite, keeps_foldl, keeps_foldl_fst, apply_ite Prod.fst,
      apply_ite Prod.snd, implies_true, and_self, *]

@[simp] theorem arcOut_keeps {s0 s : State} (a : Nat) (t : Nat) (v : Word) (h : Keeps s0 s) : Keeps s0 (State.arcOut s a t v) := by
  unfold State.arcOut
  repeat' first
    | (extract_lets +onlyGivenNames x
       try (have hx : Keeps s0 x := (by
         simp only [x]
         repeat' first
           | (simp (maxDischargeDepth := 60) +contextual only [arcRefuse_keeps, setArc_keeps, arcPut_keeps, arcDone_keeps, arcOpen_keeps, arcPuts_keeps, keeps_mk,
      plain_keeps, keeps_ite, keeps_foldl, keeps_foldl_fst, apply_ite Prod.fst, apply_ite Prod.snd,
      implies_true, and_self, *]
              done)
           | refine keeps_foldl ?_ (fun s b hs => ?_)
           | refine keeps_foldl_fst ?_ (fun p b hp => ?_)
           | split))
       try (have hx : Keeps s0 x.1 := (by simp (maxDischargeDepth := 60) +contextual only [x, arcRefuse_keeps, setArc_keeps, arcPut_keeps, arcDone_keeps, arcOpen_keeps, arcPuts_keeps, keeps_mk,
      plain_keeps, keeps_ite, keeps_foldl, keeps_foldl_fst, apply_ite Prod.fst, apply_ite Prod.snd,
      implies_true, and_self, *]))
       clear_value x)
    | (simp (maxDischargeDepth := 60) +contextual only [arcRefuse_keeps, setArc_keeps, arcPut_keeps, arcDone_keeps, arcOpen_keeps, arcPuts_keeps, keeps_mk,
      plain_keeps, keeps_ite, keeps_foldl, keeps_foldl_fst, apply_ite Prod.fst, apply_ite Prod.snd,
      implies_true, and_self, *]
       done)
    | refine keeps_foldl ?_ (fun s b hs => ?_)
    | refine keeps_foldl_fst ?_ (fun p b hp => ?_)
    | refine each_keeps ?_ (fun s i hs => ?_)
    | (split
       all_goals try (rename_i heq
                      have hk := keeps_pair (s0 := s0) heq (by clear heq; simp (maxDischargeDepth := 60) +contextual only [arcRefuse_keeps, setArc_keeps, arcPut_keeps, arcDone_keeps, arcOpen_keeps, arcPuts_keeps, keeps_mk,
      plain_keeps, keeps_ite, keeps_foldl, keeps_foldl_fst, apply_ite Prod.fst, apply_ite Prod.snd,
      implies_true, and_self, *])
                      clear heq))

@[simp] theorem arcAbandon_keeps {s0 s : State} (a : Nat) (t : Nat) (h : Keeps s0 s) : Keeps s0 (State.arcAbandon s a t) := by
  unfold State.arcAbandon
  repeat' first
    | (extract_lets +onlyGivenNames x
       try (have hx : Keeps s0 x := (by
         simp only [x]
         repeat' first
           | (simp (maxDischargeDepth := 60) +contextual only [setArc_keeps, arcLose_keeps, arcClose_keeps, memWrite_keeps, keeps_mk, plain_keeps, keeps_ite,
      keeps_foldl, keeps_foldl_fst, apply_ite Prod.fst, apply_ite Prod.snd, implies_true, and_self, *]
              done)
           | refine keeps_foldl ?_ (fun s b hs => ?_)
           | refine keeps_foldl_fst ?_ (fun p b hp => ?_)
           | split))
       try (have hx : Keeps s0 x.1 := (by simp (maxDischargeDepth := 60) +contextual only [x, setArc_keeps, arcLose_keeps, arcClose_keeps, memWrite_keeps, keeps_mk, plain_keeps, keeps_ite,
      keeps_foldl, keeps_foldl_fst, apply_ite Prod.fst, apply_ite Prod.snd, implies_true, and_self, *]))
       clear_value x)
    | (simp (maxDischargeDepth := 60) +contextual only [setArc_keeps, arcLose_keeps, arcClose_keeps, memWrite_keeps, keeps_mk, plain_keeps, keeps_ite,
      keeps_foldl, keeps_foldl_fst, apply_ite Prod.fst, apply_ite Prod.snd, implies_true, and_self, *]
       done)
    | refine keeps_foldl ?_ (fun s b hs => ?_)
    | refine keeps_foldl_fst ?_ (fun p b hp => ?_)
    | refine each_keeps ?_ (fun s i hs => ?_)
    | (split
       all_goals try (rename_i heq
                      have hk := keeps_pair (s0 := s0) heq (by clear heq; simp (maxDischargeDepth := 60) +contextual only [setArc_keeps, arcLose_keeps, arcClose_keeps, memWrite_keeps, keeps_mk, plain_keeps, keeps_ite,
      keeps_foldl, keeps_foldl_fst, apply_ite Prod.fst, apply_ite Prod.snd, implies_true, and_self, *])
                      clear heq))

@[simp] theorem arcAbandonBy_keeps {s0 s : State} (t : Nat) (h : Keeps s0 s) : Keeps s0 (State.arcAbandonBy s t) := by
  unfold State.arcAbandonBy
  simp (maxDischargeDepth := 60) +contextual only [arcAbandon_keeps, keeps_mk, plain_keeps, keeps_ite, keeps_foldl, keeps_foldl_fst, apply_ite Prod.fst,
      apply_ite Prod.snd, implies_true, and_self, *]

@[simp] theorem arcGet_keeps {s0 s : State} (a : Nat) (again : Bool) (h : Keeps s0 s) : Keeps s0 (State.arcGet s a again).1 := by
  unfold State.arcGet
  (try dsimp only)
  repeat' split
  all_goals (try simp only [Prod.ext_iff] at *)
  all_goals (try casesm* _ ∧ _)
  all_goals (try subst_vars)
  all_goals simp (maxDischargeDepth := 60) +contextual only [setArc_keeps, memRead_keeps, arcSettle_keeps, keeps_mk, plain_keeps, keeps_ite, keeps_foldl,
      keeps_foldl_fst, apply_ite Prod.fst, apply_ite Prod.snd, implies_true, and_self, *]

@[simp] theorem arcEmpty_keeps {s0 s : State} (a : Nat) (h : Keeps s0 s) : Keeps s0 (State.arcEmpty s a) := by
  unfold State.arcEmpty
  repeat' first
    | (extract_lets +onlyGivenNames x
       try (have hx : Keeps s0 x := (by
         simp only [x]
         repeat' first
           | (simp (maxDischargeDepth := 60) +contextual only [setArc_keeps, keeps_mk, plain_keeps, keeps_ite, keeps_foldl, keeps_foldl_fst, apply_ite Prod.fst,
      apply_ite Prod.snd, implies_true, and_self, *]
              done)
           | refine keeps_foldl ?_ (fun s b hs => ?_)
           | refine keeps_foldl_fst ?_ (fun p b hp => ?_)
           | split))
       try (have hx : Keeps s0 x.1 := (by simp (maxDischargeDepth := 60) +contextual only [x, setArc_keeps, keeps_mk, plain_keeps, keeps_ite, keeps_foldl, keeps_foldl_fst, apply_ite Prod.fst,
      apply_ite Prod.snd, implies_true, and_self, *]))
       clear_value x)
    | (simp (maxDischargeDepth := 60) +contextual only [setArc_keeps, keeps_mk, plain_keeps, keeps_ite, keeps_foldl, keeps_foldl_fst, apply_ite Prod.fst,
      apply_ite Prod.snd, implies_true, and_self, *]
       done)
    | refine keeps_foldl ?_ (fun s b hs => ?_)
    | refine keeps_foldl_fst ?_ (fun p b hp => ?_)
    | refine each_keeps ?_ (fun s i hs => ?_)
    | (split
       all_goals try (rename_i heq
                      have hk := keeps_pair (s0 := s0) heq (by clear heq; simp (maxDischargeDepth := 60) +contextual only [setArc_keeps, keeps_mk, plain_keeps, keeps_ite, keeps_foldl, keeps_foldl_fst, apply_ite Prod.fst,
      apply_ite Prod.snd, implies_true, and_self, *])
                      clear heq))

@[simp] theorem arcFlush_keeps {s0 s : State} (a : Nat) (h : Keeps s0 s) : Keeps s0 (State.arcFlush s a) := by
  unfold State.arcFlush
  repeat' first
    | (extract_lets +onlyGivenNames x
       try (have hx : Keeps s0 x := (by
         simp only [x]
         repeat' first
           | (simp (maxDischargeDepth := 60) +contextual only [setArc_keeps, arcSettle_keeps, bump_keeps, keeps_mk, plain_keeps, keeps_ite, keeps_foldl,
      keeps_foldl_fst, apply_ite Prod.fst, apply_ite Prod.snd, implies_true, and_self, *]
              done)
           | refine keeps_foldl ?_ (fun s b hs => ?_)
           | refine keeps_foldl_fst ?_ (fun p b hp => ?_)
           | split))
       try (have hx : Keeps s0 x.1 := (by simp (maxDischargeDepth := 60) +contextual only [x, setArc_keeps, arcSettle_keeps, bump_keeps, keeps_mk, plain_keeps, keeps_ite, keeps_foldl,
      keeps_foldl_fst, apply_ite Prod.fst, apply_ite Prod.snd, implies_true, and_self, *]))
       clear_value x)
    | (simp (maxDischargeDepth := 60) +contextual only [setArc_keeps, arcSettle_keeps, bump_keeps, keeps_mk, plain_keeps, keeps_ite, keeps_foldl,
      keeps_foldl_fst, apply_ite Prod.fst, apply_ite Prod.snd, implies_true, and_self, *]
       done)
    | refine keeps_foldl ?_ (fun s b hs => ?_)
    | refine keeps_foldl_fst ?_ (fun p b hp => ?_)
    | refine each_keeps ?_ (fun s i hs => ?_)
    | (split
       all_goals try (rename_i heq
                      have hk := keeps_pair (s0 := s0) heq (by clear heq; simp (maxDischargeDepth := 60) +contextual only [setArc_keeps, arcSettle_keeps, bump_keeps, keeps_mk, plain_keeps, keeps_ite, keeps_foldl,
      keeps_foldl_fst, apply_ite Prod.fst, apply_ite Prod.snd, implies_true, and_self, *])
                      clear heq))

@[simp] theorem execArcadeIdleTimeout_keeps {s0 s : State} (a : Fin 64) (h : Keeps s0 s) : OutKeeps s0 (execArcadeIdleTimeout a s) := by
  unfold execArcadeIdleTimeout
  repeat' first
    | (extract_lets +onlyGivenNames x
       try (have hx : Keeps s0 x := (by
         simp only [x]
         repeat' first
           | (simp (maxDischargeDepth := 60) +contextual only [arcMark_keeps, setArc_keeps, setFld_keeps, notice_keeps, outKeeps_next, outKeeps_ite, keeps_mk,
      plain_keeps, keeps_ite, keeps_foldl, keeps_foldl_fst, apply_ite Prod.fst, apply_ite Prod.snd,
      implies_true, and_self, *]
              done)
           | refine keeps_foldl ?_ (fun s b hs => ?_)
           | refine keeps_foldl_fst ?_ (fun p b hp => ?_)
           | split))
       try (have hx : Keeps s0 x.1 := (by simp (maxDischargeDepth := 60) +contextual only [x, arcMark_keeps, setArc_keeps, setFld_keeps, notice_keeps, outKeeps_next, outKeeps_ite, keeps_mk,
      plain_keeps, keeps_ite, keeps_foldl, keeps_foldl_fst, apply_ite Prod.fst, apply_ite Prod.snd,
      implies_true, and_self, *]))
       clear_value x)
    | (simp (maxDischargeDepth := 60) +contextual only [arcMark_keeps, setArc_keeps, setFld_keeps, notice_keeps, outKeeps_next, outKeeps_ite, keeps_mk,
      plain_keeps, keeps_ite, keeps_foldl, keeps_foldl_fst, apply_ite Prod.fst, apply_ite Prod.snd,
      implies_true, and_self, *]
       done)
    | refine keeps_foldl ?_ (fun s b hs => ?_)
    | refine keeps_foldl_fst ?_ (fun p b hp => ?_)
    | refine each_keeps ?_ (fun s i hs => ?_)
    | (split
       all_goals try (rename_i heq
                      have hk := keeps_pair (s0 := s0) heq (by clear heq; simp (maxDischargeDepth := 60) +contextual only [arcMark_keeps, setArc_keeps, setFld_keeps, notice_keeps, outKeeps_next, outKeeps_ite, keeps_mk,
      plain_keeps, keeps_ite, keeps_foldl, keeps_foldl_fst, apply_ite Prod.fst, apply_ite Prod.snd,
      implies_true, and_self, *])
                      clear heq))

end Sys2Proof.Machine
end

