-- ==== Sys2Proof/Laws/FieldPorts.lean ====
section
/-! SUPPORT. Each operation of Machine/FieldPorts.lean keeps the queue and the canonical form of the tables. -/

set_option linter.all false

namespace Sys2Proof.Machine

@[simp] theorem fpTxWords_keeps {s0 s : State} (n : Nat) (l : List Nat) (h : Keeps s0 s) : Keeps s0 (State.fpTxWords s n l).1 := by
  unfold State.fpTxWords
  repeat' first
    | (extract_lets +onlyGivenNames x
       try (have hx : Keeps s0 x := (by
         simp only [x]
         repeat' first
           | (simp (maxDischargeDepth := 60) +contextual only [portWords_keeps, keeps_mk, plain_keeps, keeps_ite, keeps_foldl, keeps_foldl_fst, apply_ite Prod.fst,
      apply_ite Prod.snd, implies_true, and_self, *]
              done)
           | refine keeps_foldl ?_ (fun s b hs => ?_)
           | refine keeps_foldl_fst ?_ (fun p b hp => ?_)
           | split))
       try (have hx : Keeps s0 x.1 := (by simp (maxDischargeDepth := 60) +contextual only [x, portWords_keeps, keeps_mk, plain_keeps, keeps_ite, keeps_foldl, keeps_foldl_fst, apply_ite Prod.fst,
      apply_ite Prod.snd, implies_true, and_self, *]))
       clear_value x)
    | (simp (maxDischargeDepth := 60) +contextual only [portWords_keeps, keeps_mk, plain_keeps, keeps_ite, keeps_foldl, keeps_foldl_fst, apply_ite Prod.fst,
      apply_ite Prod.snd, implies_true, and_self, *]
       done)
    | refine keeps_foldl ?_ (fun s b hs => ?_)
    | refine keeps_foldl_fst ?_ (fun p b hp => ?_)
    | refine each_keeps ?_ (fun s i hs => ?_)
    | (split
       all_goals try (rename_i heq
                      have hk := keeps_pair (s0 := s0) heq (by clear heq; simp (maxDischargeDepth := 60) +contextual only [portWords_keeps, keeps_mk, plain_keeps, keeps_ite, keeps_foldl, keeps_foldl_fst, apply_ite Prod.fst,
      apply_ite Prod.snd, implies_true, and_self, *])
                      clear heq))

@[simp] theorem fpLoadSel_keeps {s0 s : State} (n : Nat) (p : FpSel) (k : Nat) (h : Keeps s0 s) : Keeps s0 (State.fpLoadSel s n p k).1 := by
  unfold State.fpLoadSel
  repeat' first
    | (extract_lets +onlyGivenNames x
       try (have hx : Keeps s0 x := (by
         simp only [x]
         repeat' first
           | (simp (maxDischargeDepth := 60) +contextual only [fpTxWords_keeps, keeps_mk, plain_keeps, keeps_ite, keeps_foldl, keeps_foldl_fst, apply_ite Prod.fst,
      apply_ite Prod.snd, implies_true, and_self, *]
              done)
           | refine keeps_foldl ?_ (fun s b hs => ?_)
           | refine keeps_foldl_fst ?_ (fun p b hp => ?_)
           | split))
       try (have hx : Keeps s0 x.1 := (by simp (maxDischargeDepth := 60) +contextual only [x, fpTxWords_keeps, keeps_mk, plain_keeps, keeps_ite, keeps_foldl, keeps_foldl_fst, apply_ite Prod.fst,
      apply_ite Prod.snd, implies_true, and_self, *]))
       clear_value x)
    | (simp (maxDischargeDepth := 60) +contextual only [fpTxWords_keeps, keeps_mk, plain_keeps, keeps_ite, keeps_foldl, keeps_foldl_fst, apply_ite Prod.fst,
      apply_ite Prod.snd, implies_true, and_self, *]
       done)
    | refine keeps_foldl ?_ (fun s b hs => ?_)
    | refine keeps_foldl_fst ?_ (fun p b hp => ?_)
    | refine each_keeps ?_ (fun s i hs => ?_)
    | (split
       all_goals try (rename_i heq
                      have hk := keeps_pair (s0 := s0) heq (by clear heq; simp (maxDischargeDepth := 60) +contextual only [fpTxWords_keeps, keeps_mk, plain_keeps, keeps_ite, keeps_foldl, keeps_foldl_fst, apply_ite Prod.fst,
      apply_ite Prod.snd, implies_true, and_self, *])
                      clear heq))

@[simp] theorem fpLoad_keeps {s0 s : State} (n : Nat) (h : Keeps s0 s) : Keeps s0 (State.fpLoad s n) := by
  unfold State.fpLoad
  repeat' first
    | (extract_lets +onlyGivenNames x
       try (have hx : Keeps s0 x := (by
         simp only [x]
         repeat' first
           | (simp (maxDischargeDepth := 60) +contextual only [fpTxWords_keeps, setFp_keeps, fresh_keeps, fpLoadSel_keeps, keeps_mk, plain_keeps, keeps_ite,
      keeps_foldl, keeps_foldl_fst, apply_ite Prod.fst, apply_ite Prod.snd, implies_true, and_self, *]
              done)
           | refine keeps_foldl ?_ (fun s b hs => ?_)
           | refine keeps_foldl_fst ?_ (fun p b hp => ?_)
           | split))
       try (have hx : Keeps s0 x.1 := (by simp (maxDischargeDepth := 60) +contextual only [x, fpTxWords_keeps, setFp_keeps, fresh_keeps, fpLoadSel_keeps, keeps_mk, plain_keeps, keeps_ite,
      keeps_foldl, keeps_foldl_fst, apply_ite Prod.fst, apply_ite Prod.snd, implies_true, and_self, *]))
       clear_value x)
    | (simp (maxDischargeDepth := 60) +contextual only [fpTxWords_keeps, setFp_keeps, fresh_keeps, fpLoadSel_keeps, keeps_mk, plain_keeps, keeps_ite,
      keeps_foldl, keeps_foldl_fst, apply_ite Prod.fst, apply_ite Prod.snd, implies_true, and_self, *]
       done)
    | refine keeps_foldl ?_ (fun s b hs => ?_)
    | refine keeps_foldl_fst ?_ (fun p b hp => ?_)
    | refine each_keeps ?_ (fun s i hs => ?_)
    | (split
       all_goals try (rename_i heq
                      have hk := keeps_pair (s0 := s0) heq (by clear heq; simp (maxDischargeDepth := 60) +contextual only [fpTxWords_keeps, setFp_keeps, fresh_keeps, fpLoadSel_keeps, keeps_mk, plain_keeps, keeps_ite,
      keeps_foldl, keeps_foldl_fst, apply_ite Prod.fst, apply_ite Prod.snd, implies_true, and_self, *])
                      clear heq))

@[simp] theorem fpDeliver_keeps {s0 s : State} (n : Nat) (ms : Nat) (items : List Word) (h : Keeps s0 s) : Keeps s0 (State.fpDeliver s n ms items) := by
  unfold State.fpDeliver
  simp (maxDischargeDepth := 60) +contextual only [bump_keeps, present_keeps, keeps_mk, plain_keeps, keeps_ite, keeps_foldl, keeps_foldl_fst, apply_ite
      Prod.fst, apply_ite Prod.snd, implies_true, and_self, *]

@[simp] theorem fpStart_keeps {s0 s : State} (n : Nat) (entry : Option Nat) (l : Nat) (h : Keeps s0 s) : Keeps s0 (State.fpStart s n entry l) := by
  unfold State.fpStart
  repeat' first
    | (extract_lets +onlyGivenNames x
       try (have hx : Keeps s0 x := (by
         simp only [x]
         repeat' first
           | (simp (maxDischargeDepth := 60) +contextual only [bump_keeps, fpTxWords_keeps, setFp_keeps, keeps_mk, plain_keeps, keeps_ite, keeps_foldl, keeps_foldl_fst,
      apply_ite Prod.fst, apply_ite Prod.snd, implies_true, and_self, *]
              done)
           | refine keeps_foldl ?_ (fun s b hs => ?_)
           | refine keeps_foldl_fst ?_ (fun p b hp => ?_)
           | split))
       try (have hx : Keeps s0 x.1 := (by simp (maxDischargeDepth := 60) +contextual only [x, bump_keeps, fpTxWords_keeps, setFp_keeps, keeps_mk, plain_keeps, keeps_ite, keeps_foldl, keeps_foldl_fst,
      apply_ite Prod.fst, apply_ite Prod.snd, implies_true, and_self, *]))
       clear_value x)
    | (simp (maxDischargeDepth := 60) +contextual only [bump_keeps, fpTxWords_keeps, setFp_keeps, keeps_mk, plain_keeps, keeps_ite, keeps_foldl, keeps_foldl_fst,
      apply_ite Prod.fst, apply_ite Prod.snd, implies_true, and_self, *]
       done)
    | refine keeps_foldl ?_ (fun s b hs => ?_)
    | refine keeps_foldl_fst ?_ (fun p b hp => ?_)
    | refine each_keeps ?_ (fun s i hs => ?_)
    | (split
       all_goals try (rename_i heq
                      have hk := keeps_pair (s0 := s0) heq (by clear heq; simp (maxDischargeDepth := 60) +contextual only [bump_keeps, fpTxWords_keeps, setFp_keeps, keeps_mk, plain_keeps, keeps_ite, keeps_foldl, keeps_foldl_fst,
      apply_ite Prod.fst, apply_ite Prod.snd, implies_true, and_self, *])
                      clear heq))

@[simp] theorem fpLaunchOne_keeps {s0 s : State} (n : Nat) (i : Nat) (h : Keeps s0 s) : Keeps s0 (State.fpLaunchOne s n i) := by
  unfold State.fpLaunchOne
  repeat' first
    | (extract_lets +onlyGivenNames x
       try (have hx : Keeps s0 x := (by
         simp only [x]
         repeat' first
           | (simp (maxDischargeDepth := 60) +contextual only [setFp_keeps, bump_keeps, raise_keeps, fpStart_keeps, keeps_mk, plain_keeps, keeps_ite, keeps_foldl,
      keeps_foldl_fst, apply_ite Prod.fst, apply_ite Prod.snd, implies_true, and_self, *]
              done)
           | refine keeps_foldl ?_ (fun s b hs => ?_)
           | refine keeps_foldl_fst ?_ (fun p b hp => ?_)
           | split))
       try (have hx : Keeps s0 x.1 := (by simp (maxDischargeDepth := 60) +contextual only [x, setFp_keeps, bump_keeps, raise_keeps, fpStart_keeps, keeps_mk, plain_keeps, keeps_ite, keeps_foldl,
      keeps_foldl_fst, apply_ite Prod.fst, apply_ite Prod.snd, implies_true, and_self, *]))
       clear_value x)
    | (simp (maxDischargeDepth := 60) +contextual only [setFp_keeps, bump_keeps, raise_keeps, fpStart_keeps, keeps_mk, plain_keeps, keeps_ite, keeps_foldl,
      keeps_foldl_fst, apply_ite Prod.fst, apply_ite Prod.snd, implies_true, and_self, *]
       done)
    | refine keeps_foldl ?_ (fun s b hs => ?_)
    | refine keeps_foldl_fst ?_ (fun p b hp => ?_)
    | refine each_keeps ?_ (fun s i hs => ?_)
    | (split
       all_goals try (rename_i heq
                      have hk := keeps_pair (s0 := s0) heq (by clear heq; simp (maxDischargeDepth := 60) +contextual only [setFp_keeps, bump_keeps, raise_keeps, fpStart_keeps, keeps_mk, plain_keeps, keeps_ite, keeps_foldl,
      keeps_foldl_fst, apply_ite Prod.fst, apply_ite Prod.snd, implies_true, and_self, *])
                      clear heq))

@[simp] theorem fpLaunches_keeps {s0 s : State} (n : Nat) (x : Nat) (h : Keeps s0 s) : Keeps s0 (State.fpLaunches s n x) := by
  unfold State.fpLaunches
  simp (maxDischargeDepth := 60) +contextual only [fpLaunchOne_keeps, keeps_mk, plain_keeps, keeps_ite, keeps_foldl, keeps_foldl_fst, apply_ite Prod.fst,
      apply_ite Prod.snd, implies_true, and_self, *]

@[simp] theorem execFpLaunch_keeps {s0 s : State} (n : Fin 32) (i : Fin 8) (h : Keeps s0 s) : OutKeeps s0 (execFpLaunch n i s) := by
  unfold execFpLaunch
  simp (maxDischargeDepth := 60) +contextual only [fpLaunches_keeps, outKeeps_next, outKeeps_ite, keeps_mk, plain_keeps, keeps_ite, keeps_foldl,
      keeps_foldl_fst, apply_ite Prod.fst, apply_ite Prod.snd, implies_true, and_self, *]

@[simp] theorem fpCommand_keeps {s0 s : State} (n : Nat) (h : Keeps s0 s) : Keeps s0 (State.fpCommand s n) := by
  unfold State.fpCommand
  repeat' first
    | (extract_lets +onlyGivenNames x
       try (have hx : Keeps s0 x := (by
         simp only [x]
         repeat' first
           | (simp (maxDischargeDepth := 60) +contextual only [fpLaunches_keeps, setFp_keeps, fpStart_keeps, keeps_mk, plain_keeps, keeps_ite, keeps_foldl,
      keeps_foldl_fst, apply_ite Prod.fst, apply_ite Prod.snd, implies_true, and_self, *]
              done)
           | refine keeps_foldl ?_ (fun s b hs => ?_)
           | refine keeps_foldl_fst ?_ (fun p b hp => ?_)
           | split))
       try (have hx : Keeps s0 x.1 := (by simp (maxDischargeDepth := 60) +contextual only [x, fpLaunches_keeps, setFp_keeps, fpStart_keeps, keeps_mk, plain_keeps, keeps_ite, keeps_foldl,
      keeps_foldl_fst, apply_ite Prod.fst, apply_ite Prod.snd, implies_true, and_self, *]))
       clear_value x)
    | (simp (maxDischargeDepth := 60) +contextual only [fpLaunches_keeps, setFp_keeps, fpStart_keeps, keeps_mk, plain_keeps, keeps_ite, keeps_foldl,
      keeps_foldl_fst, apply_ite Prod.fst, apply_ite Prod.snd, implies_true, and_self, *]
       done)
    | refine keeps_foldl ?_ (fun s b hs => ?_)
    | refine keeps_foldl_fst ?_ (fun p b hp => ?_)
    | refine each_keeps ?_ (fun s i hs => ?_)
    | (split
       all_goals try (rename_i heq
                      have hk := keeps_pair (s0 := s0) heq (by clear heq; simp (maxDischargeDepth := 60) +contextual only [fpLaunches_keeps, setFp_keeps, fpStart_keeps, keeps_mk, plain_keeps, keeps_ite, keeps_foldl,
      keeps_foldl_fst, apply_ite Prod.fst, apply_ite Prod.snd, implies_true, and_self, *])
                      clear heq))

@[simp] theorem execFpPendingLaunch_keeps {s0 s : State} (n : Fin 32) (h : Keeps s0 s) : OutKeeps s0 (execFpPendingLaunch n s) := by
  unfold execFpPendingLaunch
  simp (maxDischargeDepth := 60) +contextual only [fpCommand_keeps, outKeeps_next, outKeeps_ite, keeps_mk, plain_keeps, keeps_ite, keeps_foldl,
      keeps_foldl_fst, apply_ite Prod.fst, apply_ite Prod.snd, implies_true, and_self, *]

@[simp] theorem execFpFrameEnd_keeps {s0 s : State} (n : Fin 32) (rx : List Bool) (h : Keeps s0 s) : OutKeeps s0 (execFpFrameEnd n rx s) := by
  unfold execFpFrameEnd
  repeat' first
    | (extract_lets +onlyGivenNames x
       try (have hx : Keeps s0 x := (by
         simp only [x]
         repeat' first
           | (simp (maxDischargeDepth := 60) +contextual only [fpTxWords_keeps, emit_keeps, setFp_keeps, bump_keeps, fpDeliver_keeps, outKeeps_next, outKeeps_ite,
      keeps_mk, plain_keeps, keeps_ite, keeps_foldl, keeps_foldl_fst, apply_ite Prod.fst, apply_ite Prod.snd,
      implies_true, and_self, *]
              done)
           | refine keeps_foldl ?_ (fun s b hs => ?_)
           | refine keeps_foldl_fst ?_ (fun p b hp => ?_)
           | split))
       try (have hx : Keeps s0 x.1 := (by simp (maxDischargeDepth := 60) +contextual only [x, fpTxWords_keeps, emit_keeps, setFp_keeps, bump_keeps, fpDeliver_keeps, outKeeps_next, outKeeps_ite,
      keeps_mk, plain_keeps, keeps_ite, keeps_foldl, keeps_foldl_fst, apply_ite Prod.fst, apply_ite Prod.snd,
      implies_true, and_self, *]))
       clear_value x)
    | (simp (maxDischargeDepth := 60) +contextual only [fpTxWords_keeps, emit_keeps, setFp_keeps, bump_keeps, fpDeliver_keeps, outKeeps_next, outKeeps_ite,
      keeps_mk, plain_keeps, keeps_ite, keeps_foldl, keeps_foldl_fst, apply_ite Prod.fst, apply_ite Prod.snd,
      implies_true, and_self, *]
       done)
    | refine keeps_foldl ?_ (fun s b hs => ?_)
    | refine keeps_foldl_fst ?_ (fun p b hp => ?_)
    | refine each_keeps ?_ (fun s i hs => ?_)
    | (split
       all_goals try (rename_i heq
                      have hk := keeps_pair (s0 := s0) heq (by clear heq; simp (maxDischargeDepth := 60) +contextual only [fpTxWords_keeps, emit_keeps, setFp_keeps, bump_keeps, fpDeliver_keeps, outKeeps_next, outKeeps_ite,
      keeps_mk, plain_keeps, keeps_ite, keeps_foldl, keeps_foldl_fst, apply_ite Prod.fst, apply_ite Prod.snd,
      implies_true, and_self, *])
                      clear heq))

@[simp] theorem execFpSelectRelease_keeps {s0 s : State} (n : Fin 32) (h : Keeps s0 s) : OutKeeps s0 (execFpSelectRelease n s) := by
  unfold execFpSelectRelease
  repeat' first
    | (extract_lets +onlyGivenNames x
       try (have hx : Keeps s0 x := (by
         simp only [x]
         repeat' first
           | (simp (maxDischargeDepth := 60) +contextual only [setFp_keeps, setGpOut_keeps, outKeeps_next, outKeeps_ite, keeps_mk, plain_keeps, keeps_ite, keeps_foldl,
      keeps_foldl_fst, apply_ite Prod.fst, apply_ite Prod.snd, implies_true, and_self, *]
              done)
           | refine keeps_foldl ?_ (fun s b hs => ?_)
           | refine keeps_foldl_fst ?_ (fun p b hp => ?_)
           | split))
       try (have hx : Keeps s0 x.1 := (by simp (maxDischargeDepth := 60) +contextual only [x, setFp_keeps, setGpOut_keeps, outKeeps_next, outKeeps_ite, keeps_mk, plain_keeps, keeps_ite, keeps_foldl,
      keeps_foldl_fst, apply_ite Prod.fst, apply_ite Prod.snd, implies_true, and_self, *]))
       clear_value x)
    | (simp (maxDischargeDepth := 60) +contextual only [setFp_keeps, setGpOut_keeps, outKeeps_next, outKeeps_ite, keeps_mk, plain_keeps, keeps_ite, keeps_foldl,
      keeps_foldl_fst, apply_ite Prod.fst, apply_ite Prod.snd, implies_true, and_self, *]
       done)
    | refine keeps_foldl ?_ (fun s b hs => ?_)
    | refine keeps_foldl_fst ?_ (fun p b hp => ?_)
    | refine each_keeps ?_ (fun s i hs => ?_)
    | (split
       all_goals try (rename_i heq
                      have hk := keeps_pair (s0 := s0) heq (by clear heq; simp (maxDischargeDepth := 60) +contextual only [setFp_keeps, setGpOut_keeps, outKeeps_next, outKeeps_ite, keeps_mk, plain_keeps, keeps_ite, keeps_foldl,
      keeps_foldl_fst, apply_ite Prod.fst, apply_ite Prod.snd, implies_true, and_self, *])
                      clear heq))

@[simp] theorem fpCmd_keeps {s0 s : State} (n : Nat) (w : Word) (h : Keeps s0 s) : Keeps s0 (State.fpCmd s n w) := by
  unfold State.fpCmd
  repeat' first
    | (extract_lets +onlyGivenNames x
       try (have hx : Keeps s0 x := (by
         simp only [x]
         repeat' first
           | (simp (maxDischargeDepth := 60) +contextual only [raise_keeps, setFp_keeps, bump_keeps, fpCommand_keeps, keeps_mk, plain_keeps, keeps_ite, keeps_foldl,
      keeps_foldl_fst, apply_ite Prod.fst, apply_ite Prod.snd, implies_true, and_self, *]
              done)
           | refine keeps_foldl ?_ (fun s b hs => ?_)
           | refine keeps_foldl_fst ?_ (fun p b hp => ?_)
           | split))
       try (have hx : Keeps s0 x.1 := (by simp (maxDischargeDepth := 60) +contextual only [x, raise_keeps, setFp_keeps, bump_keeps, fpCommand_keeps, keeps_mk, plain_keeps, keeps_ite, keeps_foldl,
      keeps_foldl_fst, apply_ite Prod.fst, apply_ite Prod.snd, implies_true, and_self, *]))
       clear_value x)
    | (simp (maxDischargeDepth := 60) +contextual only [raise_keeps, setFp_keeps, bump_keeps, fpCommand_keeps, keeps_mk, plain_keeps, keeps_ite, keeps_foldl,
      keeps_foldl_fst, apply_ite Prod.fst, apply_ite Prod.snd, implies_true, and_self, *]
       done)
    | refine keeps_foldl ?_ (fun s b hs => ?_)
    | refine keeps_foldl_fst ?_ (fun p b hp => ?_)
    | refine each_keeps ?_ (fun s i hs => ?_)
    | (split
       all_goals try (rename_i heq
                      have hk := keeps_pair (s0 := s0) heq (by clear heq; simp (maxDischargeDepth := 60) +contextual only [raise_keeps, setFp_keeps, bump_keeps, fpCommand_keeps, keeps_mk, plain_keeps, keeps_ite, keeps_foldl,
      keeps_foldl_fst, apply_ite Prod.fst, apply_ite Prod.snd, implies_true, and_self, *])
                      clear heq))

@[simp] theorem fpPat_keeps {s0 s : State} (n : Nat) (r : FpReply) (h : Keeps s0 s) : Keeps s0 (State.fpPat s n r).1 := by
  unfold State.fpPat
  repeat' first
    | (extract_lets +onlyGivenNames x
       try (have hx : Keeps s0 x := (by
         simp only [x]
         repeat' first
           | (simp (maxDischargeDepth := 60) +contextual only [fpTxWords_keeps, keeps_mk, plain_keeps, keeps_ite, keeps_foldl, keeps_foldl_fst, apply_ite Prod.fst,
      apply_ite Prod.snd, implies_true, and_self, *]
              done)
           | refine keeps_foldl ?_ (fun s b hs => ?_)
           | refine keeps_foldl_fst ?_ (fun p b hp => ?_)
           | split))
       try (have hx : Keeps s0 x.1 := (by simp (maxDischargeDepth := 60) +contextual only [x, fpTxWords_keeps, keeps_mk, plain_keeps, keeps_ite, keeps_foldl, keeps_foldl_fst, apply_ite Prod.fst,
      apply_ite Prod.snd, implies_true, and_self, *]))
       clear_value x)
    | (simp (maxDischargeDepth := 60) +contextual only [fpTxWords_keeps, keeps_mk, plain_keeps, keeps_ite, keeps_foldl, keeps_foldl_fst, apply_ite Prod.fst,
      apply_ite Prod.snd, implies_true, and_self, *]
       done)
    | refine keeps_foldl ?_ (fun s b hs => ?_)
    | refine keeps_foldl_fst ?_ (fun p b hp => ?_)
    | refine each_keeps ?_ (fun s i hs => ?_)
    | (split
       all_goals try (rename_i heq
                      have hk := keeps_pair (s0 := s0) heq (by clear heq; simp (maxDischargeDepth := 60) +contextual only [fpTxWords_keeps, keeps_mk, plain_keeps, keeps_ite, keeps_foldl, keeps_foldl_fst, apply_ite Prod.fst,
      apply_ite Prod.snd, implies_true, and_self, *])
                      clear heq))

@[simp] theorem execFpSelectStart_keeps {s0 s : State} (n : Fin 32) (p : Fin 32) (h : Keeps s0 s) : OutKeeps s0 (execFpSelectStart n p s) := by
  unfold execFpSelectStart
  repeat' first
    | (extract_lets +onlyGivenNames x
       try (have hx : Keeps s0 x := (by
         simp only [x]
         repeat' first
           | (simp (maxDischargeDepth := 60) +contextual only [fpPat_keeps, setFp_keeps, bump_keeps, outKeeps_next, outKeeps_ite, keeps_mk, plain_keeps, keeps_ite,
      keeps_foldl, keeps_foldl_fst, apply_ite Prod.fst, apply_ite Prod.snd, implies_true, and_self, *]
              done)
           | refine keeps_foldl ?_ (fun s b hs => ?_)
           | refine keeps_foldl_fst ?_ (fun p b hp => ?_)
           | split))
       try (have hx : Keeps s0 x.1 := (by simp (maxDischargeDepth := 60) +contextual only [x, fpPat_keeps, setFp_keeps, bump_keeps, outKeeps_next, outKeeps_ite, keeps_mk, plain_keeps, keeps_ite,
      keeps_foldl, keeps_foldl_fst, apply_ite Prod.fst, apply_ite Prod.snd, implies_true, and_self, *]))
       clear_value x)
    | (simp (maxDischargeDepth := 60) +contextual only [fpPat_keeps, setFp_keeps, bump_keeps, outKeeps_next, outKeeps_ite, keeps_mk, plain_keeps, keeps_ite,
      keeps_foldl, keeps_foldl_fst, apply_ite Prod.fst, apply_ite Prod.snd, implies_true, and_self, *]
       done)
    | refine keeps_foldl ?_ (fun s b hs => ?_)
    | refine keeps_foldl_fst ?_ (fun p b hp => ?_)
    | refine each_keeps ?_ (fun s i hs => ?_)
    | (split
       all_goals try (rename_i heq
                      have hk := keeps_pair (s0 := s0) heq (by clear heq; simp (maxDischargeDepth := 60) +contextual only [fpPat_keeps, setFp_keeps, bump_keeps, outKeeps_next, outKeeps_ite, keeps_mk, plain_keeps, keeps_ite,
      keeps_foldl, keeps_foldl_fst, apply_ite Prod.fst, apply_ite Prod.snd, implies_true, and_self, *])
                      clear heq))

@[simp] theorem fpReplyBits_keeps {s0 s : State} (n : Nat) (p : FpSel) (b : Nat) (h : Keeps s0 s) : Keeps s0 (State.fpReplyBits s n p b).1 := by
  unfold State.fpReplyBits
  repeat' first
    | (extract_lets +onlyGivenNames x
       try (have hx : Keeps s0 x := (by
         simp only [x]
         repeat' first
           | (simp (maxDischargeDepth := 60) +contextual only [fpLoadSel_keeps, keeps_mk, plain_keeps, keeps_ite, keeps_foldl, keeps_foldl_fst, apply_ite Prod.fst,
      apply_ite Prod.snd, implies_true, and_self, *]
              done)
           | refine keeps_foldl ?_ (fun s b hs => ?_)
           | refine keeps_foldl_fst ?_ (fun p b hp => ?_)
           | split))
       try (have hx : Keeps s0 x.1 := (by simp (maxDischargeDepth := 60) +contextual only [x, fpLoadSel_keeps, keeps_mk, plain_keeps, keeps_ite, keeps_foldl, keeps_foldl_fst, apply_ite Prod.fst,
      apply_ite Prod.snd, implies_true, and_self, *]))
       clear_value x)
    | (simp (maxDischargeDepth := 60) +contextual only [fpLoadSel_keeps, keeps_mk, plain_keeps, keeps_ite, keeps_foldl, keeps_foldl_fst, apply_ite Prod.fst,
      apply_ite Prod.snd, implies_true, and_self, *]
       done)
    | refine keeps_foldl ?_ (fun s b hs => ?_)
    | refine keeps_foldl_fst ?_ (fun p b hp => ?_)
    | refine each_keeps ?_ (fun s i hs => ?_)
    | (split
       all_goals try (rename_i heq
                      have hk := keeps_pair (s0 := s0) heq (by clear heq; simp (maxDischargeDepth := 60) +contextual only [fpLoadSel_keeps, keeps_mk, plain_keeps, keeps_ite, keeps_foldl, keeps_foldl_fst, apply_ite Prod.fst,
      apply_ite Prod.snd, implies_true, and_self, *])
                      clear heq))

@[simp] theorem execFpSelectEnd_keeps {s0 s : State} (n : Fin 32) (rx : List Bool) (h : Keeps s0 s) : OutKeeps s0 (execFpSelectEnd n rx s) := by
  unfold execFpSelectEnd
  repeat' first
    | (extract_lets +onlyGivenNames x
       try (have hx : Keeps s0 x := (by
         simp only [x]
         repeat' first
           | (simp (maxDischargeDepth := 60) +contextual only [setFp_keeps, bump_keeps, fpReplyBits_keeps, emit_keeps, setFld_keeps, raise_keeps, fpDeliver_keeps,
      outKeeps_next, outKeeps_ite, keeps_mk, plain_keeps, keeps_ite, keeps_foldl, keeps_foldl_fst, apply_ite
      Prod.fst, apply_ite Prod.snd, implies_true, and_self, *]
              done)
           | refine keeps_foldl ?_ (fun s b hs => ?_)
           | refine keeps_foldl_fst ?_ (fun p b hp => ?_)
           | split))
       try (have hx : Keeps s0 x.1 := (by simp (maxDischargeDepth := 60) +contextual only [x, setFp_keeps, bump_keeps, fpReplyBits_keeps, emit_keeps, setFld_keeps, raise_keeps, fpDeliver_keeps,
      outKeeps_next, outKeeps_ite, keeps_mk, plain_keeps, keeps_ite, keeps_foldl, keeps_foldl_fst, apply_ite
      Prod.fst, apply_ite Prod.snd, implies_true, and_self, *]))
       clear_value x)
    | (simp (maxDischargeDepth := 60) +contextual only [setFp_keeps, bump_keeps, fpReplyBits_keeps, emit_keeps, setFld_keeps, raise_keeps, fpDeliver_keeps,
      outKeeps_next, outKeeps_ite, keeps_mk, plain_keeps, keeps_ite, keeps_foldl, keeps_foldl_fst, apply_ite
      Prod.fst, apply_ite Prod.snd, implies_true, and_self, *]
       done)
    | refine keeps_foldl ?_ (fun s b hs => ?_)
    | refine keeps_foldl_fst ?_ (fun p b hp => ?_)
    | refine each_keeps ?_ (fun s i hs => ?_)
    | (split
       all_goals try (rename_i heq
                      have hk := keeps_pair (s0 := s0) heq (by clear heq; simp (maxDischargeDepth := 60) +contextual only [setFp_keeps, bump_keeps, fpReplyBits_keeps, emit_keeps, setFld_keeps, raise_keeps, fpDeliver_keeps,
      outKeeps_next, outKeeps_ite, keeps_mk, plain_keeps, keeps_ite, keeps_foldl, keeps_foldl_fst, apply_ite
      Prod.fst, apply_ite Prod.snd, implies_true, and_self, *])
                      clear heq))

@[simp] theorem fpTick_keeps {s0 s : State} (old : Tab Word) (n : Nat) (h : Keeps s0 s) : Keeps s0 (State.fpTick s old n) := by
  unfold State.fpTick
  repeat' first
    | (extract_lets +onlyGivenNames x
       try (have hx : Keeps s0 x := (by
         simp only [x]
         repeat' first
           | (simp (maxDischargeDepth := 60) +contextual only [setFp_keeps, bump_keeps, emit_keeps, setFld_keeps, raiseIf_keeps, keeps_mk, plain_keeps, keeps_ite,
      keeps_foldl, keeps_foldl_fst, apply_ite Prod.fst, apply_ite Prod.snd, implies_true, and_self, *]
              done)
           | refine keeps_foldl ?_ (fun s b hs => ?_)
           | refine keeps_foldl_fst ?_ (fun p b hp => ?_)
           | split))
       try (have hx : Keeps s0 x.1 := (by simp (maxDischargeDepth := 60) +contextual only [x, setFp_keeps, bump_keeps, emit_keeps, setFld_keeps, raiseIf_keeps, keeps_mk, plain_keeps, keeps_ite,
      keeps_foldl, keeps_foldl_fst, apply_ite Prod.fst, apply_ite Prod.snd, implies_true, and_self, *]))
       clear_value x)
    | (simp (maxDischargeDepth := 60) +contextual only [setFp_keeps, bump_keeps, emit_keeps, setFld_keeps, raiseIf_keeps, keeps_mk, plain_keeps, keeps_ite,
      keeps_foldl, keeps_foldl_fst, apply_ite Prod.fst, apply_ite Prod.snd, implies_true, and_self, *]
       done)
    | refine keeps_foldl ?_ (fun s b hs => ?_)
    | refine keeps_foldl_fst ?_ (fun p b hp => ?_)
    | refine each_keeps ?_ (fun s i hs => ?_)
    | (split
       all_goals try (rename_i heq
                      have hk := keeps_pair (s0 := s0) heq (by clear heq; simp (maxDischargeDepth := 60) +contextual only [setFp_keeps, bump_keeps, emit_keeps, setFld_keeps, raiseIf_keeps, keeps_mk, plain_keeps, keeps_ite,
      keeps_foldl, keeps_foldl_fst, apply_ite Prod.fst, apply_ite Prod.snd, implies_true, and_self, *])
                      clear heq))

end Sys2Proof.Machine
end

