-- ==== Sys2Proof/Laws/Pins.lean ====
section
/-! SUPPORT. Each operation of Machine/Pins.lean keeps the queue and the canonical form of the tables. -/

set_option linter.all false

namespace Sys2Proof.Machine

@[simp] theorem xJoin_keeps {s0 s : State} (e : XEnt) (h : Keeps s0 s) : Keeps s0 (State.xJoin s e) := by
  unfold State.xJoin
  simp (maxDischargeDepth := 60) +contextual only [bump_keeps, raise_keeps, keeps_mk, plain_keeps, keeps_ite, keeps_foldl, keeps_foldl_fst, apply_ite
      Prod.fst, apply_ite Prod.snd, implies_true, and_self, *]

@[simp] theorem xSample_keeps {s0 s : State} (src : Nat) (ms : Nat) (w : XWhat) (h : Keeps s0 s) : Keeps s0 (State.xSample s src ms w) := by
  unfold State.xSample
  simp (maxDischargeDepth := 60) +contextual only [xJoin_keeps, keeps_mk, plain_keeps, keeps_ite, keeps_foldl, keeps_foldl_fst, apply_ite Prod.fst,
      apply_ite Prod.snd, implies_true, and_self, *]

@[simp] theorem pmRecord_keeps {s0 s : State} (n : Nat) (ms : Nat) (lvl : Bool) (h : Keeps s0 s) : Keeps s0 (State.pmRecord s n ms lvl) := by
  unfold State.pmRecord
  repeat' first
    | (extract_lets +onlyGivenNames x
       try (have hx : Keeps s0 x := (by
         simp only [x]
         repeat' first
           | (simp (maxDischargeDepth := 60) +contextual only [raise_keeps, bump_keeps, xSample_keeps, setPin_keeps, keeps_mk, plain_keeps, keeps_ite, keeps_foldl,
      keeps_foldl_fst, apply_ite Prod.fst, apply_ite Prod.snd, implies_true, and_self, *]
              done)
           | refine keeps_foldl ?_ (fun s b hs => ?_)
           | refine keeps_foldl_fst ?_ (fun p b hp => ?_)
           | split))
       try (have hx : Keeps s0 x.1 := (by simp (maxDischargeDepth := 60) +contextual only [x, raise_keeps, bump_keeps, xSample_keeps, setPin_keeps, keeps_mk, plain_keeps, keeps_ite, keeps_foldl,
      keeps_foldl_fst, apply_ite Prod.fst, apply_ite Prod.snd, implies_true, and_self, *]))
       clear_value x)
    | (simp (maxDischargeDepth := 60) +contextual only [raise_keeps, bump_keeps, xSample_keeps, setPin_keeps, keeps_mk, plain_keeps, keeps_ite, keeps_foldl,
      keeps_foldl_fst, apply_ite Prod.fst, apply_ite Prod.snd, implies_true, and_self, *]
       done)
    | refine keeps_foldl ?_ (fun s b hs => ?_)
    | refine keeps_foldl_fst ?_ (fun p b hp => ?_)
    | refine each_keeps ?_ (fun s i hs => ?_)
    | (split
       all_goals try (rename_i heq
                      have hk := keeps_pair (s0 := s0) heq (by clear heq; simp (maxDischargeDepth := 60) +contextual only [raise_keeps, bump_keeps, xSample_keeps, setPin_keeps, keeps_mk, plain_keeps, keeps_ite, keeps_foldl,
      keeps_foldl_fst, apply_ite Prod.fst, apply_ite Prod.snd, implies_true, and_self, *])
                      clear heq))

@[simp] theorem pmFlush_keeps {s0 s : State} (n : Nat) (h : Keeps s0 s) : Keeps s0 (State.pmFlush s n) := by
  unfold State.pmFlush
  repeat' first
    | (extract_lets +onlyGivenNames x
       try (have hx : Keeps s0 x := (by
         simp only [x]
         repeat' first
           | (simp (maxDischargeDepth := 60) +contextual only [setPin_keeps, pmRecord_keeps, keeps_mk, plain_keeps, keeps_ite, keeps_foldl, keeps_foldl_fst, apply_ite
      Prod.fst, apply_ite Prod.snd, implies_true, and_self, *]
              done)
           | refine keeps_foldl ?_ (fun s b hs => ?_)
           | refine keeps_foldl_fst ?_ (fun p b hp => ?_)
           | split))
       try (have hx : Keeps s0 x.1 := (by simp (maxDischargeDepth := 60) +contextual only [x, setPin_keeps, pmRecord_keeps, keeps_mk, plain_keeps, keeps_ite, keeps_foldl, keeps_foldl_fst, apply_ite
      Prod.fst, apply_ite Prod.snd, implies_true, and_self, *]))
       clear_value x)
    | (simp (maxDischargeDepth := 60) +contextual only [setPin_keeps, pmRecord_keeps, keeps_mk, plain_keeps, keeps_ite, keeps_foldl, keeps_foldl_fst, apply_ite
      Prod.fst, apply_ite Prod.snd, implies_true, and_self, *]
       done)
    | refine keeps_foldl ?_ (fun s b hs => ?_)
    | refine keeps_foldl_fst ?_ (fun p b hp => ?_)
    | refine each_keeps ?_ (fun s i hs => ?_)
    | (split
       all_goals try (rename_i heq
                      have hk := keeps_pair (s0 := s0) heq (by clear heq; simp (maxDischargeDepth := 60) +contextual only [setPin_keeps, pmRecord_keeps, keeps_mk, plain_keeps, keeps_ite, keeps_foldl, keeps_foldl_fst, apply_ite
      Prod.fst, apply_ite Prod.snd, implies_true, and_self, *])
                      clear heq))

@[simp] theorem pmSettle_keeps {s0 s : State} (h : Keeps s0 s) : Keeps s0 (State.pmSettle s) := by
  unfold State.pmSettle
  repeat' first
    | (extract_lets +onlyGivenNames x
       try (have hx : Keeps s0 x := (by
         simp only [x]
         repeat' first
           | (simp (maxDischargeDepth := 60) +contextual only [pmFlush_keeps, keeps_mk, plain_keeps, keeps_ite, keeps_foldl, keeps_foldl_fst, apply_ite Prod.fst,
      apply_ite Prod.snd, implies_true, and_self, *]
              done)
           | refine keeps_foldl ?_ (fun s b hs => ?_)
           | refine keeps_foldl_fst ?_ (fun p b hp => ?_)
           | split))
       try (have hx : Keeps s0 x.1 := (by simp (maxDischargeDepth := 60) +contextual only [x, pmFlush_keeps, keeps_mk, plain_keeps, keeps_ite, keeps_foldl, keeps_foldl_fst, apply_ite Prod.fst,
      apply_ite Prod.snd, implies_true, and_self, *]))
       clear_value x)
    | (simp (maxDischargeDepth := 60) +contextual only [pmFlush_keeps, keeps_mk, plain_keeps, keeps_ite, keeps_foldl, keeps_foldl_fst, apply_ite Prod.fst,
      apply_ite Prod.snd, implies_true, and_self, *]
       done)
    | refine keeps_foldl ?_ (fun s b hs => ?_)
    | refine keeps_foldl_fst ?_ (fun p b hp => ?_)
    | refine each_keeps ?_ (fun s i hs => ?_)
    | (split
       all_goals try (rename_i heq
                      have hk := keeps_pair (s0 := s0) heq (by clear heq; simp (maxDischargeDepth := 60) +contextual only [pmFlush_keeps, keeps_mk, plain_keeps, keeps_ite, keeps_foldl, keeps_foldl_fst, apply_ite Prod.fst,
      apply_ite Prod.snd, implies_true, and_self, *])
                      clear heq))

@[simp] theorem pmEdge_keeps {s0 s : State} (n : Nat) (ms : Nat) (lvl : Bool) (h : Keeps s0 s) : Keeps s0 (State.pmEdge s n ms lvl) := by
  unfold State.pmEdge
  repeat' first
    | (extract_lets +onlyGivenNames x
       try (have hx : Keeps s0 x := (by
         simp only [x]
         repeat' first
           | (simp (maxDischargeDepth := 60) +contextual only [pmFlush_keeps, pmRecord_keeps, setPin_keeps, bump_keeps, keeps_mk, plain_keeps, keeps_ite, keeps_foldl,
      keeps_foldl_fst, apply_ite Prod.fst, apply_ite Prod.snd, implies_true, and_self, *]
              done)
           | refine keeps_foldl ?_ (fun s b hs => ?_)
           | refine keeps_foldl_fst ?_ (fun p b hp => ?_)
           | split))
       try (have hx : Keeps s0 x.1 := (by simp (maxDischargeDepth := 60) +contextual only [x, pmFlush_keeps, pmRecord_keeps, setPin_keeps, bump_keeps, keeps_mk, plain_keeps, keeps_ite, keeps_foldl,
      keeps_foldl_fst, apply_ite Prod.fst, apply_ite Prod.snd, implies_true, and_self, *]))
       clear_value x)
    | (simp (maxDischargeDepth := 60) +contextual only [pmFlush_keeps, pmRecord_keeps, setPin_keeps, bump_keeps, keeps_mk, plain_keeps, keeps_ite, keeps_foldl,
      keeps_foldl_fst, apply_ite Prod.fst, apply_ite Prod.snd, implies_true, and_self, *]
       done)
    | refine keeps_foldl ?_ (fun s b hs => ?_)
    | refine keeps_foldl_fst ?_ (fun p b hp => ?_)
    | refine each_keeps ?_ (fun s i hs => ?_)
    | (split
       all_goals try (rename_i heq
                      have hk := keeps_pair (s0 := s0) heq (by clear heq; simp (maxDischargeDepth := 60) +contextual only [pmFlush_keeps, pmRecord_keeps, setPin_keeps, bump_keeps, keeps_mk, plain_keeps, keeps_ite, keeps_foldl,
      keeps_foldl_fst, apply_ite Prod.fst, apply_ite Prod.snd, implies_true, and_self, *])
                      clear heq))

@[simp] theorem capEdge_keeps {s0 s : State} (n : Nat) (ms : Nat) (lvl : Bool) (h : Keeps s0 s) : Keeps s0 (State.capEdge s n ms lvl) := by
  unfold State.capEdge
  repeat' first
    | (extract_lets +onlyGivenNames x
       try (have hx : Keeps s0 x := (by
         simp only [x]
         repeat' first
           | (simp (maxDischargeDepth := 60) +contextual only [setFld_keeps, bump_keeps, setPin_keeps, present_keeps, keeps_mk, plain_keeps, keeps_ite, keeps_foldl,
      keeps_foldl_fst, apply_ite Prod.fst, apply_ite Prod.snd, implies_true, and_self, *]
              done)
           | refine keeps_foldl ?_ (fun s b hs => ?_)
           | refine keeps_foldl_fst ?_ (fun p b hp => ?_)
           | split))
       try (have hx : Keeps s0 x.1 := (by simp (maxDischargeDepth := 60) +contextual only [x, setFld_keeps, bump_keeps, setPin_keeps, present_keeps, keeps_mk, plain_keeps, keeps_ite, keeps_foldl,
      keeps_foldl_fst, apply_ite Prod.fst, apply_ite Prod.snd, implies_true, and_self, *]))
       clear_value x)
    | (simp (maxDischargeDepth := 60) +contextual only [setFld_keeps, bump_keeps, setPin_keeps, present_keeps, keeps_mk, plain_keeps, keeps_ite, keeps_foldl,
      keeps_foldl_fst, apply_ite Prod.fst, apply_ite Prod.snd, implies_true, and_self, *]
       done)
    | refine keeps_foldl ?_ (fun s b hs => ?_)
    | refine keeps_foldl_fst ?_ (fun p b hp => ?_)
    | refine each_keeps ?_ (fun s i hs => ?_)
    | (split
       all_goals try (rename_i heq
                      have hk := keeps_pair (s0 := s0) heq (by clear heq; simp (maxDischargeDepth := 60) +contextual only [setFld_keeps, bump_keeps, setPin_keeps, present_keeps, keeps_mk, plain_keeps, keeps_ite, keeps_foldl,
      keeps_foldl_fst, apply_ite Prod.fst, apply_ite Prod.snd, implies_true, and_self, *])
                      clear heq))

@[simp] theorem ppsEdge_keeps {s0 s : State} (n : Nat) (e : PinNew) (lvl : Bool) (h : Keeps s0 s) : Keeps s0 (State.ppsEdge s n e lvl) := by
  unfold State.ppsEdge
  simp (maxDischargeDepth := 60) +contextual only [offer_keeps, keeps_mk, plain_keeps, keeps_ite, keeps_foldl, keeps_foldl_fst, apply_ite Prod.fst,
      apply_ite Prod.snd, implies_true, and_self, *]

@[simp] theorem pinAccept_keeps {s0 s : State} (n : Nat) (e : PinNew) (h : Keeps s0 s) : Keeps s0 (State.pinAccept s n e) := by
  unfold State.pinAccept
  repeat' first
    | (extract_lets +onlyGivenNames x
       try (have hx : Keeps s0 x := (by
         simp only [x]
         repeat' first
           | (simp (maxDischargeDepth := 60) +contextual only [setPin_keeps, capEdge_keeps, ppsEdge_keeps, setFld_keeps, pmEdge_keeps, keeps_mk, plain_keeps, keeps_ite,
      keeps_foldl, keeps_foldl_fst, apply_ite Prod.fst, apply_ite Prod.snd, implies_true, and_self, *]
              done)
           | refine keeps_foldl ?_ (fun s b hs => ?_)
           | refine keeps_foldl_fst ?_ (fun p b hp => ?_)
           | split))
       try (have hx : Keeps s0 x.1 := (by simp (maxDischargeDepth := 60) +contextual only [x, setPin_keeps, capEdge_keeps, ppsEdge_keeps, setFld_keeps, pmEdge_keeps, keeps_mk, plain_keeps, keeps_ite,
      keeps_foldl, keeps_foldl_fst, apply_ite Prod.fst, apply_ite Prod.snd, implies_true, and_self, *]))
       clear_value x)
    | (simp (maxDischargeDepth := 60) +contextual only [setPin_keeps, capEdge_keeps, ppsEdge_keeps, setFld_keeps, pmEdge_keeps, keeps_mk, plain_keeps, keeps_ite,
      keeps_foldl, keeps_foldl_fst, apply_ite Prod.fst, apply_ite Prod.snd, implies_true, and_self, *]
       done)
    | refine keeps_foldl ?_ (fun s b hs => ?_)
    | refine keeps_foldl_fst ?_ (fun p b hp => ?_)
    | refine each_keeps ?_ (fun s i hs => ?_)
    | (split
       all_goals try (rename_i heq
                      have hk := keeps_pair (s0 := s0) heq (by clear heq; simp (maxDischargeDepth := 60) +contextual only [setPin_keeps, capEdge_keeps, ppsEdge_keeps, setFld_keeps, pmEdge_keeps, keeps_mk, plain_keeps, keeps_ite,
      keeps_foldl, keeps_foldl_fst, apply_ite Prod.fst, apply_ite Prod.snd, implies_true, and_self, *])
                      clear heq))

@[simp] theorem pinTake_keeps {s0 s : State} (n : Nat) (h : Keeps s0 s) : Keeps s0 (State.pinTake s n) := by
  unfold State.pinTake
  repeat' first
    | (extract_lets +onlyGivenNames x
       try (have hx : Keeps s0 x := (by
         simp only [x]
         repeat' first
           | (simp (maxDischargeDepth := 60) +contextual only [pinAccept_keeps, setPin_keeps, keeps_mk, plain_keeps, keeps_ite, keeps_foldl, keeps_foldl_fst, apply_ite
      Prod.fst, apply_ite Prod.snd, implies_true, and_self, *]
              done)
           | refine keeps_foldl ?_ (fun s b hs => ?_)
           | refine keeps_foldl_fst ?_ (fun p b hp => ?_)
           | split))
       try (have hx : Keeps s0 x.1 := (by simp (maxDischargeDepth := 60) +contextual only [x, pinAccept_keeps, setPin_keeps, keeps_mk, plain_keeps, keeps_ite, keeps_foldl, keeps_foldl_fst, apply_ite
      Prod.fst, apply_ite Prod.snd, implies_true, and_self, *]))
       clear_value x)
    | (simp (maxDischargeDepth := 60) +contextual only [pinAccept_keeps, setPin_keeps, keeps_mk, plain_keeps, keeps_ite, keeps_foldl, keeps_foldl_fst, apply_ite
      Prod.fst, apply_ite Prod.snd, implies_true, and_self, *]
       done)
    | refine keeps_foldl ?_ (fun s b hs => ?_)
    | refine keeps_foldl_fst ?_ (fun p b hp => ?_)
    | refine each_keeps ?_ (fun s i hs => ?_)
    | (split
       all_goals try (rename_i heq
                      have hk := keeps_pair (s0 := s0) heq (by clear heq; simp (maxDischargeDepth := 60) +contextual only [pinAccept_keeps, setPin_keeps, keeps_mk, plain_keeps, keeps_ite, keeps_foldl, keeps_foldl_fst, apply_ite
      Prod.fst, apply_ite Prod.snd, implies_true, and_self, *])
                      clear heq))

@[simp] theorem pinSample_keeps {s0 s : State} (h : Keeps s0 s) : Keeps s0 (State.pinSample s) := by
  unfold State.pinSample
  simp (maxDischargeDepth := 60) +contextual only [pinTake_keeps, keeps_mk, plain_keeps, keeps_ite, keeps_foldl, keeps_foldl_fst, apply_ite Prod.fst,
      apply_ite Prod.snd, implies_true, and_self, *]

@[simp] theorem execPinEdge_keeps {s0 s : State} (n : Fin 96) (lvl : Bool) (p : Fin 32) (h : Keeps s0 s) : OutKeeps s0 (execPinEdge n lvl p s) := by
  unfold execPinEdge
  repeat' first
    | (extract_lets +onlyGivenNames x
       try (have hx : Keeps s0 x := (by
         simp only [x]
         repeat' first
           | (simp (maxDischargeDepth := 60) +contextual only [setPin_keeps, pinTake_keeps, outKeeps_next, outKeeps_ite, keeps_mk, plain_keeps, keeps_ite, keeps_foldl,
      keeps_foldl_fst, apply_ite Prod.fst, apply_ite Prod.snd, implies_true, and_self, *]
              done)
           | refine keeps_foldl ?_ (fun s b hs => ?_)
           | refine keeps_foldl_fst ?_ (fun p b hp => ?_)
           | split))
       try (have hx : Keeps s0 x.1 := (by simp (maxDischargeDepth := 60) +contextual only [x, setPin_keeps, pinTake_keeps, outKeeps_next, outKeeps_ite, keeps_mk, plain_keeps, keeps_ite, keeps_foldl,
      keeps_foldl_fst, apply_ite Prod.fst, apply_ite Prod.snd, implies_true, and_self, *]))
       clear_value x)
    | (simp (maxDischargeDepth := 60) +contextual only [setPin_keeps, pinTake_keeps, outKeeps_next, outKeeps_ite, keeps_mk, plain_keeps, keeps_ite, keeps_foldl,
      keeps_foldl_fst, apply_ite Prod.fst, apply_ite Prod.snd, implies_true, and_self, *]
       done)
    | refine keeps_foldl ?_ (fun s b hs => ?_)
    | refine keeps_foldl_fst ?_ (fun p b hp => ?_)
    | refine each_keeps ?_ (fun s i hs => ?_)
    | (split
       all_goals try (rename_i heq
                      have hk := keeps_pair (s0 := s0) heq (by clear heq; simp (maxDischargeDepth := 60) +contextual only [setPin_keeps, pinTake_keeps, outKeeps_next, outKeeps_ite, keeps_mk, plain_keeps, keeps_ite, keeps_foldl,
      keeps_foldl_fst, apply_ite Prod.fst, apply_ite Prod.snd, implies_true, and_self, *])
                      clear heq))

@[simp] theorem execPinStuck_keeps {s0 s : State} (n : Fin 96) (h : Keeps s0 s) : OutKeeps s0 (execPinStuck n s) := by
  unfold execPinStuck
  repeat' first
    | (extract_lets +onlyGivenNames x
       try (have hx : Keeps s0 x := (by
         simp only [x]
         repeat' first
           | (simp (maxDischargeDepth := 60) +contextual only [raise_keeps, xSample_keeps, outKeeps_next, outKeeps_ite, keeps_mk, plain_keeps, keeps_ite, keeps_foldl,
      keeps_foldl_fst, apply_ite Prod.fst, apply_ite Prod.snd, implies_true, and_self, *]
              done)
           | refine keeps_foldl ?_ (fun s b hs => ?_)
           | refine keeps_foldl_fst ?_ (fun p b hp => ?_)
           | split))
       try (have hx : Keeps s0 x.1 := (by simp (maxDischargeDepth := 60) +contextual only [x, raise_keeps, xSample_keeps, outKeeps_next, outKeeps_ite, keeps_mk, plain_keeps, keeps_ite, keeps_foldl,
      keeps_foldl_fst, apply_ite Prod.fst, apply_ite Prod.snd, implies_true, and_self, *]))
       clear_value x)
    | (simp (maxDischargeDepth := 60) +contextual only [raise_keeps, xSample_keeps, outKeeps_next, outKeeps_ite, keeps_mk, plain_keeps, keeps_ite, keeps_foldl,
      keeps_foldl_fst, apply_ite Prod.fst, apply_ite Prod.snd, implies_true, and_self, *]
       done)
    | refine keeps_foldl ?_ (fun s b hs => ?_)
    | refine keeps_foldl_fst ?_ (fun p b hp => ?_)
    | refine each_keeps ?_ (fun s i hs => ?_)
    | (split
       all_goals try (rename_i heq
                      have hk := keeps_pair (s0 := s0) heq (by clear heq; simp (maxDischargeDepth := 60) +contextual only [raise_keeps, xSample_keeps, outKeeps_next, outKeeps_ite, keeps_mk, plain_keeps, keeps_ite, keeps_foldl,
      keeps_foldl_fst, apply_ite Prod.fst, apply_ite Prod.snd, implies_true, and_self, *])
                      clear heq))

@[simp] theorem pmTick_keeps {s0 s : State} (old : Tab Word) (n : Nat) (h : Keeps s0 s) : Keeps s0 (State.pmTick s old n) := by
  unfold State.pmTick
  repeat' first
    | (extract_lets +onlyGivenNames x
       try (have hx : Keeps s0 x := (by
         simp only [x]
         repeat' first
           | (simp (maxDischargeDepth := 60) +contextual only [setPin_keeps, setFld_keeps, xSample_keeps, keeps_mk, plain_keeps, keeps_ite, keeps_foldl,
      keeps_foldl_fst, apply_ite Prod.fst, apply_ite Prod.snd, implies_true, and_self, *]
              done)
           | refine keeps_foldl ?_ (fun s b hs => ?_)
           | refine keeps_foldl_fst ?_ (fun p b hp => ?_)
           | split))
       try (have hx : Keeps s0 x.1 := (by simp (maxDischargeDepth := 60) +contextual only [x, setPin_keeps, setFld_keeps, xSample_keeps, keeps_mk, plain_keeps, keeps_ite, keeps_foldl,
      keeps_foldl_fst, apply_ite Prod.fst, apply_ite Prod.snd, implies_true, and_self, *]))
       clear_value x)
    | (simp (maxDischargeDepth := 60) +contextual only [setPin_keeps, setFld_keeps, xSample_keeps, keeps_mk, plain_keeps, keeps_ite, keeps_foldl,
      keeps_foldl_fst, apply_ite Prod.fst, apply_ite Prod.snd, implies_true, and_self, *]
       done)
    | refine keeps_foldl ?_ (fun s b hs => ?_)
    | refine keeps_foldl_fst ?_ (fun p b hp => ?_)
    | refine each_keeps ?_ (fun s i hs => ?_)
    | (split
       all_goals try (rename_i heq
                      have hk := keeps_pair (s0 := s0) heq (by clear heq; simp (maxDischargeDepth := 60) +contextual only [setPin_keeps, setFld_keeps, xSample_keeps, keeps_mk, plain_keeps, keeps_ite, keeps_foldl,
      keeps_foldl_fst, apply_ite Prod.fst, apply_ite Prod.snd, implies_true, and_self, *])
                      clear heq))

end Sys2Proof.Machine
end

