-- ==== Sys2Proof/Laws/Pads.lean ====
section
/-! SUPPORT. Each operation of Machine/Pads.lean keeps the queue and the canonical form of the tables. -/

set_option linter.all false

namespace Sys2Proof.Machine

@[simp] theorem latchPads_keeps {s0 s : State} (h : Keeps s0 s) : Keeps s0 (State.latchPads s) := by
  unfold State.latchPads
  simp (maxDischargeDepth := 60) +contextual only [keeps_mk, plain_keeps, keeps_ite, keeps_foldl, keeps_foldl_fst, apply_ite Prod.fst, apply_ite Prod.snd,
      implies_true, and_self, *]

end Sys2Proof.Machine
end

