-- ==== Sys2Proof/Laws/RegAccess.lean ====
section
/-! SUPPORT. Each operation of Machine/RegAccess.lean keeps the queue and the canonical form of the tables. -/

set_option linter.all false

namespace Sys2Proof.Machine

@[simp] theorem latchWide_keeps {s0 s : State} (req : Req) (r : Reg) (i : Nat) (h : Keeps s0 s) : Keeps s0 (State.latchWide s req r i) := by
  unfold State.latchWide
  split
  · split
    · exact keeps_foldl h fun s x hs => hs.step rfl fun w => { w with snap := Tab.wf_set w.snap }
    · exact h
  · exact h

@[simp] theorem clearRc_keeps {s0 s : State} (r : Reg) (i : Nat) (h : Keeps s0 s) : Keeps s0 (State.clearRc s r i) := by
  unfold State.clearRc
  simp (maxDischargeDepth := 60) +contextual only [setReg_keeps, keeps_mk, plain_keeps, keeps_ite, keeps_foldl, keeps_foldl_fst, apply_ite Prod.fst,
      apply_ite Prod.snd, implies_true, and_self, *]

@[simp] theorem regGet_keeps {s0 s : State} (req : Req) (r : Reg) (i : Nat) (h : Keeps s0 s) : Keeps s0 (State.regGet s req r i).1 := by
  unfold State.regGet
  repeat' first
    | (extract_lets +onlyGivenNames x
       try (have hx : Keeps s0 x := (by
         simp only [x]
         repeat' first
           | (simp (maxDischargeDepth := 60) +contextual only [bufRead_keeps, patPop_keeps, latchWide_keeps, clearRc_keeps, keeps_mk, plain_keeps, keeps_ite,
      keeps_foldl, keeps_foldl_fst, apply_ite Prod.fst, apply_ite Prod.snd, implies_true, and_self, *]
              done)
           | refine keeps_foldl ?_ (fun s b hs => ?_)
           | refine keeps_foldl_fst ?_ (fun p b hp => ?_)
           | split))
       try (have hx : Keeps s0 x.1 := (by simp (maxDischargeDepth := 60) +contextual only [x, bufRead_keeps, patPop_keeps, latchWide_keeps, clearRc_keeps, keeps_mk, plain_keeps, keeps_ite,
      keeps_foldl, keeps_foldl_fst, apply_ite Prod.fst, apply_ite Prod.snd, implies_true, and_self, *]))
       clear_value x)
    | (simp (maxDischargeDepth := 60) +contextual only [bufRead_keeps, patPop_keeps, latchWide_keeps, clearRc_keeps, keeps_mk, plain_keeps, keeps_ite,
      keeps_foldl, keeps_foldl_fst, apply_ite Prod.fst, apply_ite Prod.snd, implies_true, and_self, *]
       done)
    | refine keeps_foldl ?_ (fun s b hs => ?_)
    | refine keeps_foldl_fst ?_ (fun p b hp => ?_)
    | refine each_keeps ?_ (fun s i hs => ?_)
    | (split
       all_goals try (rename_i heq
                      have hk := keeps_pair (s0 := s0) heq (by clear heq; simp (maxDischargeDepth := 60) +contextual only [bufRead_keeps, patPop_keeps, latchWide_keeps, clearRc_keeps, keeps_mk, plain_keeps, keeps_ite,
      keeps_foldl, keeps_foldl_fst, apply_ite Prod.fst, apply_ite Prod.snd, implies_true, and_self, *])
                      clear heq))

@[simp] theorem regRead_keeps {s0 s : State} (req : Req) (r : Reg) (i : Nat) (h : Keeps s0 s) : Keeps s0 (State.regRead s req r i).1 := by
  unfold State.regRead
  simp (maxDischargeDepth := 60) +contextual only [refuse_keeps, regGet_keeps, keeps_mk, plain_keeps, keeps_ite, keeps_foldl, keeps_foldl_fst, apply_ite
      Prod.fst, apply_ite Prod.snd, implies_true, and_self, *]

@[simp] theorem regStore_keeps {s0 s : State} (r : Reg) (i : Nat) (w : Word) (h : Keeps s0 s) : Keeps s0 (State.regStore s r i w) := by
  unfold State.regStore
  simp (maxDischargeDepth := 60) +contextual only [setStg_keeps, setReg_keeps, keeps_mk, plain_keeps, keeps_ite, keeps_foldl, keeps_foldl_fst, apply_ite
      Prod.fst, apply_ite Prod.snd, implies_true, and_self, *]

@[simp] theorem gpWrite_keeps {s0 s : State} (req : Req) (r : Reg) (k : Nat) (w : Word) (h : Keeps s0 s) : Keeps s0 (State.gpWrite s req r k w) := by
  unfold State.gpWrite
  repeat' first
    | (extract_lets +onlyGivenNames x
       try (have hx : Keeps s0 x := (by
         simp only [x]
         repeat' first
           | (simp (maxDischargeDepth := 60) +contextual only [refuse_keeps, setReg_keeps, keeps_mk, plain_keeps, keeps_ite, keeps_foldl, keeps_foldl_fst, apply_ite
      Prod.fst, apply_ite Prod.snd, implies_true, and_self, *]
              done)
           | refine keeps_foldl ?_ (fun s b hs => ?_)
           | refine keeps_foldl_fst ?_ (fun p b hp => ?_)
           | split))
       try (have hx : Keeps s0 x.1 := (by simp (maxDischargeDepth := 60) +contextual only [x, refuse_keeps, setReg_keeps, keeps_mk, plain_keeps, keeps_ite, keeps_foldl, keeps_foldl_fst, apply_ite
      Prod.fst, apply_ite Prod.snd, implies_true, and_self, *]))
       clear_value x)
    | (simp (maxDischargeDepth := 60) +contextual only [refuse_keeps, setReg_keeps, keeps_mk, plain_keeps, keeps_ite, keeps_foldl, keeps_foldl_fst, apply_ite
      Prod.fst, apply_ite Prod.snd, implies_true, and_self, *]
       done)
    | refine keeps_foldl ?_ (fun s b hs => ?_)
    | refine keeps_foldl_fst ?_ (fun p b hp => ?_)
    | refine each_keeps ?_ (fun s i hs => ?_)
    | (split
       all_goals try (rename_i heq
                      have hk := keeps_pair (s0 := s0) heq (by clear heq; simp (maxDischargeDepth := 60) +contextual only [refuse_keeps, setReg_keeps, keeps_mk, plain_keeps, keeps_ite, keeps_foldl, keeps_foldl_fst, apply_ite
      Prod.fst, apply_ite Prod.snd, implies_true, and_self, *])
                      clear heq))

@[simp] theorem bkCmd_keeps {s0 s : State} (b : Nat) (w : Word) (h : Keeps s0 s) : Keeps s0 (State.bkCmd s b w) := by
  unfold State.bkCmd
  repeat' first
    | (extract_lets +onlyGivenNames x
       try (have hx : Keeps s0 x := (by
         simp only [x]
         repeat' first
           | (simp (maxDischargeDepth := 60) +contextual only [setBlk_keeps, keeps_mk, plain_keeps, keeps_ite, keeps_foldl, keeps_foldl_fst, apply_ite Prod.fst,
      apply_ite Prod.snd, implies_true, and_self, *]
              done)
           | refine keeps_foldl ?_ (fun s b hs => ?_)
           | refine keeps_foldl_fst ?_ (fun p b hp => ?_)
           | split))
       try (have hx : Keeps s0 x.1 := (by simp (maxDischargeDepth := 60) +contextual only [x, setBlk_keeps, keeps_mk, plain_keeps, keeps_ite, keeps_foldl, keeps_foldl_fst, apply_ite Prod.fst,
      apply_ite Prod.snd, implies_true, and_self, *]))
       clear_value x)
    | (simp (maxDischargeDepth := 60) +contextual only [setBlk_keeps, keeps_mk, plain_keeps, keeps_ite, keeps_foldl, keeps_foldl_fst, apply_ite Prod.fst,
      apply_ite Prod.snd, implies_true, and_self, *]
       done)
    | refine keeps_foldl ?_ (fun s b hs => ?_)
    | refine keeps_foldl_fst ?_ (fun p b hp => ?_)
    | refine each_keeps ?_ (fun s i hs => ?_)
    | (split
       all_goals try (rename_i heq
                      have hk := keeps_pair (s0 := s0) heq (by clear heq; simp (maxDischargeDepth := 60) +contextual only [setBlk_keeps, keeps_mk, plain_keeps, keeps_ite, keeps_foldl, keeps_foldl_fst, apply_ite Prod.fst,
      apply_ite Prod.snd, implies_true, and_self, *])
                      clear heq))

@[simp] theorem mp1Guard_keeps {s0 s f : State} (h : Keeps s0 s) (hf : Keeps s0 f) : Keeps s0 (s.mp1Guard f) := by
  unfold State.mp1Guard
  split
  · exact raise_keeps _ _ h
  · exact hf

@[simp] theorem regEffect_keeps {s0 s : State} (req : Req) (r : Reg) (i : Nat) (w : Word) (h : Keeps s0 s) : Keeps s0 (State.regEffect s req r i w) := by
  unfold State.regEffect
  repeat' first
    | (extract_lets +onlyGivenNames x
       try (have hx : Keeps s0 x := (by
         simp only [x]
         repeat' first
           | (simp (maxDischargeDepth := 60) +contextual only [profCmd_keeps, pushCtl_keeps, wrCtrl_keeps, wrIncrLo_keeps, wrIncrHi_keeps, wrSrvCfg_keeps, llCmd_keeps,
      xcCmd_keeps, regStore_keeps, arcFlush_keeps, bkCmd_keeps, fpCmd_keeps, fpLoad_keeps, portWrite_keeps,
      twCmd_keeps, rgCmd_keeps, rgPost_keeps, hlCmd_keeps, hlTblCmd_keeps, cpiWrite_keeps, wdWrite_keeps,
      wdKick_keeps, drcfgWrite_keeps, drpiWrite_keeps, udoneWrite_keeps, mp0Ctl_keeps, mp0Raw_keeps,
      mp1Guard_keeps, mp1Cmd_keeps, mpPsnClr_keeps, modeReq_keeps, setFld_keeps, lcCmd_keeps, dbgCtl_keeps,
      gpWrite_keeps, keeps_mk, plain_keeps, keeps_ite, keeps_foldl, keeps_foldl_fst, apply_ite Prod.fst,
      apply_ite Prod.snd, implies_true, and_self, *]
              done)
           | refine keeps_foldl ?_ (fun s b hs => ?_)
           | refine keeps_foldl_fst ?_ (fun p b hp => ?_)
           | split))
       try (have hx : Keeps s0 x.1 := (by simp (maxDischargeDepth := 60) +contextual only [x, profCmd_keeps, pushCtl_keeps, wrCtrl_keeps, wrIncrLo_keeps, wrIncrHi_keeps, wrSrvCfg_keeps, llCmd_keeps,
      xcCmd_keeps, regStore_keeps, arcFlush_keeps, bkCmd_keeps, fpCmd_keeps, fpLoad_keeps, portWrite_keeps,
      twCmd_keeps, rgCmd_keeps, rgPost_keeps, hlCmd_keeps, hlTblCmd_keeps, cpiWrite_keeps, wdWrite_keeps,
      wdKick_keeps, drcfgWrite_keeps, drpiWrite_keeps, udoneWrite_keeps, mp0Ctl_keeps, mp0Raw_keeps,
      mp1Guard_keeps, mp1Cmd_keeps, mpPsnClr_keeps, modeReq_keeps, setFld_keeps, lcCmd_keeps, dbgCtl_keeps,
      gpWrite_keeps, keeps_mk, plain_keeps, keeps_ite, keeps_foldl, keeps_foldl_fst, apply_ite Prod.fst,
      apply_ite Prod.snd, implies_true, and_self, *]))
       clear_value x)
    | (simp (maxDischargeDepth := 60) +contextual only [profCmd_keeps, pushCtl_keeps, wrCtrl_keeps, wrIncrLo_keeps, wrIncrHi_keeps, wrSrvCfg_keeps, llCmd_keeps,
      xcCmd_keeps, regStore_keeps, arcFlush_keeps, bkCmd_keeps, fpCmd_keeps, fpLoad_keeps, portWrite_keeps,
      twCmd_keeps, rgCmd_keeps, rgPost_keeps, hlCmd_keeps, hlTblCmd_keeps, cpiWrite_keeps, wdWrite_keeps,
      wdKick_keeps, drcfgWrite_keeps, drpiWrite_keeps, udoneWrite_keeps, mp0Ctl_keeps, mp0Raw_keeps,
      mp1Guard_keeps, mp1Cmd_keeps, mpPsnClr_keeps, modeReq_keeps, setFld_keeps, lcCmd_keeps, dbgCtl_keeps,
      gpWrite_keeps, keeps_mk, plain_keeps, keeps_ite, keeps_foldl, keeps_foldl_fst, apply_ite Prod.fst,
      apply_ite Prod.snd, implies_true, and_self, *]
       done)
    | refine keeps_foldl ?_ (fun s b hs => ?_)
    | refine keeps_foldl_fst ?_ (fun p b hp => ?_)
    | refine each_keeps ?_ (fun s i hs => ?_)
    | (split
       all_goals try (rename_i heq
                      have hk := keeps_pair (s0 := s0) heq (by clear heq; simp (maxDischargeDepth := 60) +contextual only [profCmd_keeps, pushCtl_keeps, wrCtrl_keeps, wrIncrLo_keeps, wrIncrHi_keeps, wrSrvCfg_keeps, llCmd_keeps,
      xcCmd_keeps, regStore_keeps, arcFlush_keeps, bkCmd_keeps, fpCmd_keeps, fpLoad_keeps, portWrite_keeps,
      twCmd_keeps, rgCmd_keeps, rgPost_keeps, hlCmd_keeps, hlTblCmd_keeps, cpiWrite_keeps, wdWrite_keeps,
      wdKick_keeps, drcfgWrite_keeps, drpiWrite_keeps, udoneWrite_keeps, mp0Ctl_keeps, mp0Raw_keeps,
      mp1Guard_keeps, mp1Cmd_keeps, mpPsnClr_keeps, modeReq_keeps, setFld_keeps, lcCmd_keeps, dbgCtl_keeps,
      gpWrite_keeps, keeps_mk, plain_keeps, keeps_ite, keeps_foldl, keeps_foldl_fst, apply_ite Prod.fst,
      apply_ite Prod.snd, implies_true, and_self, *])
                      clear heq))

@[simp] theorem wideWrite_keeps {s0 s : State} (req : Req) (r : Reg) (i : Nat) (w : Word) (h : Keeps s0 s) : Keeps s0 (State.wideWrite s req r i w) := by
  have hm : ∀ k b, Keeps s0 { s with holdMark := s.holdMark.set (fun _ => false) k b } := fun k b =>
    h.step rfl fun w => { w with holdMark := Tab.wf_set w.holdMark }
  have hr : ∀ k v b, Keeps s0 { s with holdReg := s.holdReg.set (fun _ => 0) k v
                                       holdMark := s.holdMark.set (fun _ => false) k b } := fun k v b =>
    h.step rfl fun w => { w with holdReg := Tab.wf_set w.holdReg, holdMark := Tab.wf_set w.holdMark }
  unfold State.wideWrite
  split
  · extract_lets k low s1
    have hs : Keeps s0 s1 := hm k false
    clear_value s1 low
    split
    · exact hr k w true
    · split
      · exact wrDt_keeps _ _ _ hs
      · exact regStore_keeps _ _ _ (regStore_keeps _ _ _ hs)
  · exact h

@[simp] theorem regWrite_keeps {s0 s : State} (req : Req) (r : Reg) (i : Nat) (w : Word) (h : Keeps s0 s) : Keeps s0 (State.regWrite s req r i w) := by
  unfold State.regWrite
  simp (maxDischargeDepth := 60) +contextual only [refuse_keeps, raise_keeps, raiseIf_keeps, wideWrite_keeps, regEffect_keeps, keeps_mk, plain_keeps,
      keeps_ite, keeps_foldl, keeps_foldl_fst, apply_ite Prod.fst, apply_ite Prod.snd, implies_true, and_self,
      *]

@[simp] theorem ctlRead_keeps {s0 s : State} (req : Req) (off : Nat) (h : Keeps s0 s) : Keeps s0 (State.ctlRead s req off).1 := by
  unfold State.ctlRead
  repeat' first
    | (extract_lets +onlyGivenNames x
       try (have hx : Keeps s0 x := (by
         simp only [x]
         repeat' first
           | (simp (maxDischargeDepth := 60) +contextual only [regRead_keeps, keeps_mk, plain_keeps, keeps_ite, keeps_foldl, keeps_foldl_fst, apply_ite Prod.fst,
      apply_ite Prod.snd, implies_true, and_self, *]
              done)
           | refine keeps_foldl ?_ (fun s b hs => ?_)
           | refine keeps_foldl_fst ?_ (fun p b hp => ?_)
           | split))
       try (have hx : Keeps s0 x.1 := (by simp (maxDischargeDepth := 60) +contextual only [x, regRead_keeps, keeps_mk, plain_keeps, keeps_ite, keeps_foldl, keeps_foldl_fst, apply_ite Prod.fst,
      apply_ite Prod.snd, implies_true, and_self, *]))
       clear_value x)
    | (simp (maxDischargeDepth := 60) +contextual only [regRead_keeps, keeps_mk, plain_keeps, keeps_ite, keeps_foldl, keeps_foldl_fst, apply_ite Prod.fst,
      apply_ite Prod.snd, implies_true, and_self, *]
       done)
    | refine keeps_foldl ?_ (fun s b hs => ?_)
    | refine keeps_foldl_fst ?_ (fun p b hp => ?_)
    | refine each_keeps ?_ (fun s i hs => ?_)
    | (split
       all_goals try (rename_i heq
                      have hk := keeps_pair (s0 := s0) heq (by clear heq; simp (maxDischargeDepth := 60) +contextual only [regRead_keeps, keeps_mk, plain_keeps, keeps_ite, keeps_foldl, keeps_foldl_fst, apply_ite Prod.fst,
      apply_ite Prod.snd, implies_true, and_self, *])
                      clear heq))

@[simp] theorem ctlWrite_keeps {s0 s : State} (req : Req) (off : Nat) (w : Word) (h : Keeps s0 s) : Keeps s0 (State.ctlWrite s req off w) := by
  unfold State.ctlWrite
  repeat' first
    | (extract_lets +onlyGivenNames x
       try (have hx : Keeps s0 x := (by
         simp only [x]
         repeat' first
           | (simp (maxDischargeDepth := 60) +contextual only [regWrite_keeps, refuse_keeps, keeps_mk, plain_keeps, keeps_ite, keeps_foldl, keeps_foldl_fst, apply_ite
      Prod.fst, apply_ite Prod.snd, implies_true, and_self, *]
              done)
           | refine keeps_foldl ?_ (fun s b hs => ?_)
           | refine keeps_foldl_fst ?_ (fun p b hp => ?_)
           | split))
       try (have hx : Keeps s0 x.1 := (by simp (maxDischargeDepth := 60) +contextual only [x, regWrite_keeps, refuse_keeps, keeps_mk, plain_keeps, keeps_ite, keeps_foldl, keeps_foldl_fst, apply_ite
      Prod.fst, apply_ite Prod.snd, implies_true, and_self, *]))
       clear_value x)
    | (simp (maxDischargeDepth := 60) +contextual only [regWrite_keeps, refuse_keeps, keeps_mk, plain_keeps, keeps_ite, keeps_foldl, keeps_foldl_fst, apply_ite
      Prod.fst, apply_ite Prod.snd, implies_true, and_self, *]
       done)
    | refine keeps_foldl ?_ (fun s b hs => ?_)
    | refine keeps_foldl_fst ?_ (fun p b hp => ?_)
    | refine each_keeps ?_ (fun s i hs => ?_)
    | (split
       all_goals try (rename_i heq
                      have hk := keeps_pair (s0 := s0) heq (by clear heq; simp (maxDischargeDepth := 60) +contextual only [regWrite_keeps, refuse_keeps, keeps_mk, plain_keeps, keeps_ite, keeps_foldl, keeps_foldl_fst, apply_ite
      Prod.fst, apply_ite Prod.snd, implies_true, and_self, *])
                      clear heq))

@[simp] theorem bar0Read_keeps {s0 s : State} (q : Fin 4) (off : Nat) (h : Keeps s0 s) : Keeps s0 (State.bar0Read s q off) := by
  unfold State.bar0Read
  repeat' first
    | (extract_lets +onlyGivenNames x
       try (have hx : Keeps s0 x := (by
         simp only [x]
         repeat' first
           | (simp (maxDischargeDepth := 60) +contextual only [emit_keeps, ctlRead_keeps, keeps_mk, plain_keeps, keeps_ite, keeps_foldl, keeps_foldl_fst, apply_ite
      Prod.fst, apply_ite Prod.snd, implies_true, and_self, *]
              done)
           | refine keeps_foldl ?_ (fun s b hs => ?_)
           | refine keeps_foldl_fst ?_ (fun p b hp => ?_)
           | split))
       try (have hx : Keeps s0 x.1 := (by simp (maxDischargeDepth := 60) +contextual only [x, emit_keeps, ctlRead_keeps, keeps_mk, plain_keeps, keeps_ite, keeps_foldl, keeps_foldl_fst, apply_ite
      Prod.fst, apply_ite Prod.snd, implies_true, and_self, *]))
       clear_value x)
    | (simp (maxDischargeDepth := 60) +contextual only [emit_keeps, ctlRead_keeps, keeps_mk, plain_keeps, keeps_ite, keeps_foldl, keeps_foldl_fst, apply_ite
      Prod.fst, apply_ite Prod.snd, implies_true, and_self, *]
       done)
    | refine keeps_foldl ?_ (fun s b hs => ?_)
    | refine keeps_foldl_fst ?_ (fun p b hp => ?_)
    | refine each_keeps ?_ (fun s i hs => ?_)
    | (split
       all_goals try (rename_i heq
                      have hk := keeps_pair (s0 := s0) heq (by clear heq; simp (maxDischargeDepth := 60) +contextual only [emit_keeps, ctlRead_keeps, keeps_mk, plain_keeps, keeps_ite, keeps_foldl, keeps_foldl_fst, apply_ite
      Prod.fst, apply_ite Prod.snd, implies_true, and_self, *])
                      clear heq))

@[simp] theorem bar0Write_keeps {s0 s : State} (q : Fin 4) (off : Nat) (w : Word) (be : Nat) (h : Keeps s0 s) : Keeps s0 (State.bar0Write s q off w be) := by
  unfold State.bar0Write
  repeat' first
    | (extract_lets +onlyGivenNames x
       try (have hx : Keeps s0 x := (by
         simp only [x]
         repeat' first
           | (simp (maxDischargeDepth := 60) +contextual only [refuse_keeps, ctlWrite_keeps, keeps_mk, plain_keeps, keeps_ite, keeps_foldl, keeps_foldl_fst, apply_ite
      Prod.fst, apply_ite Prod.snd, implies_true, and_self, *]
              done)
           | refine keeps_foldl ?_ (fun s b hs => ?_)
           | refine keeps_foldl_fst ?_ (fun p b hp => ?_)
           | split))
       try (have hx : Keeps s0 x.1 := (by simp (maxDischargeDepth := 60) +contextual only [x, refuse_keeps, ctlWrite_keeps, keeps_mk, plain_keeps, keeps_ite, keeps_foldl, keeps_foldl_fst, apply_ite
      Prod.fst, apply_ite Prod.snd, implies_true, and_self, *]))
       clear_value x)
    | (simp (maxDischargeDepth := 60) +contextual only [refuse_keeps, ctlWrite_keeps, keeps_mk, plain_keeps, keeps_ite, keeps_foldl, keeps_foldl_fst, apply_ite
      Prod.fst, apply_ite Prod.snd, implies_true, and_self, *]
       done)
    | refine keeps_foldl ?_ (fun s b hs => ?_)
    | refine keeps_foldl_fst ?_ (fun p b hp => ?_)
    | refine each_keeps ?_ (fun s i hs => ?_)
    | (split
       all_goals try (rename_i heq
                      have hk := keeps_pair (s0 := s0) heq (by clear heq; simp (maxDischargeDepth := 60) +contextual only [refuse_keeps, ctlWrite_keeps, keeps_mk, plain_keeps, keeps_ite, keeps_foldl, keeps_foldl_fst, apply_ite
      Prod.fst, apply_ite Prod.snd, implies_true, and_self, *])
                      clear heq))

@[simp] theorem bar2ReadBy_keeps {s0 s : State} (q : Fin 4) (off : Nat) (h : Keeps s0 s) : Keeps s0 (State.bar2ReadBy s q off) := by
  unfold State.bar2ReadBy
  repeat' first
    | (extract_lets +onlyGivenNames x
       try (have hx : Keeps s0 x := (by
         simp only [x]
         repeat' first
           | (simp (maxDischargeDepth := 60) +contextual only [emit_keeps, bar2Read_keeps, keeps_mk, plain_keeps, keeps_ite, keeps_foldl, keeps_foldl_fst, apply_ite
      Prod.fst, apply_ite Prod.snd, implies_true, and_self, *]
              done)
           | refine keeps_foldl ?_ (fun s b hs => ?_)
           | refine keeps_foldl_fst ?_ (fun p b hp => ?_)
           | split))
       try (have hx : Keeps s0 x.1 := (by simp (maxDischargeDepth := 60) +contextual only [x, emit_keeps, bar2Read_keeps, keeps_mk, plain_keeps, keeps_ite, keeps_foldl, keeps_foldl_fst, apply_ite
      Prod.fst, apply_ite Prod.snd, implies_true, and_self, *]))
       clear_value x)
    | (simp (maxDischargeDepth := 60) +contextual only [emit_keeps, bar2Read_keeps, keeps_mk, plain_keeps, keeps_ite, keeps_foldl, keeps_foldl_fst, apply_ite
      Prod.fst, apply_ite Prod.snd, implies_true, and_self, *]
       done)
    | refine keeps_foldl ?_ (fun s b hs => ?_)
    | refine keeps_foldl_fst ?_ (fun p b hp => ?_)
    | refine each_keeps ?_ (fun s i hs => ?_)
    | (split
       all_goals try (rename_i heq
                      have hk := keeps_pair (s0 := s0) heq (by clear heq; simp (maxDischargeDepth := 60) +contextual only [emit_keeps, bar2Read_keeps, keeps_mk, plain_keeps, keeps_ite, keeps_foldl, keeps_foldl_fst, apply_ite
      Prod.fst, apply_ite Prod.snd, implies_true, and_self, *])
                      clear heq))

@[simp] theorem bar2WriteBy_keeps {s0 s : State} (q : Fin 4) (off : Nat) (w : Word) (be : Nat) (h : Keeps s0 s) : Keeps s0 (State.bar2WriteBy s q off w be) := by
  unfold State.bar2WriteBy
  repeat' first
    | (extract_lets +onlyGivenNames x
       try (have hx : Keeps s0 x := (by
         simp only [x]
         repeat' first
           | (simp (maxDischargeDepth := 60) +contextual only [refuse_keeps, bar2Poke_keeps, keeps_mk, plain_keeps, keeps_ite, keeps_foldl, keeps_foldl_fst, apply_ite
      Prod.fst, apply_ite Prod.snd, implies_true, and_self, *]
              done)
           | refine keeps_foldl ?_ (fun s b hs => ?_)
           | refine keeps_foldl_fst ?_ (fun p b hp => ?_)
           | split))
       try (have hx : Keeps s0 x.1 := (by simp (maxDischargeDepth := 60) +contextual only [x, refuse_keeps, bar2Poke_keeps, keeps_mk, plain_keeps, keeps_ite, keeps_foldl, keeps_foldl_fst, apply_ite
      Prod.fst, apply_ite Prod.snd, implies_true, and_self, *]))
       clear_value x)
    | (simp (maxDischargeDepth := 60) +contextual only [refuse_keeps, bar2Poke_keeps, keeps_mk, plain_keeps, keeps_ite, keeps_foldl, keeps_foldl_fst, apply_ite
      Prod.fst, apply_ite Prod.snd, implies_true, and_self, *]
       done)
    | refine keeps_foldl ?_ (fun s b hs => ?_)
    | refine keeps_foldl_fst ?_ (fun p b hp => ?_)
    | refine each_keeps ?_ (fun s i hs => ?_)
    | (split
       all_goals try (rename_i heq
                      have hk := keeps_pair (s0 := s0) heq (by clear heq; simp (maxDischargeDepth := 60) +contextual only [refuse_keeps, bar2Poke_keeps, keeps_mk, plain_keeps, keeps_ite, keeps_foldl, keeps_foldl_fst, apply_ite
      Prod.fst, apply_ite Prod.snd, implies_true, and_self, *])
                      clear heq))

@[simp] theorem dbgAnswer_keeps {s0 s : State} (acc : Bool) (busy : Bool) (w : Word) (h : Keeps s0 s) : Keeps s0 (State.dbgAnswer s acc busy w) := by
  unfold State.dbgAnswer
  simp (maxDischargeDepth := 60) +contextual only [keeps_mk, plain_keeps, keeps_ite, keeps_foldl, keeps_foldl_fst, apply_ite Prod.fst, apply_ite Prod.snd,
      implies_true, and_self, *]

@[simp] theorem dbgCtlRead_keeps {s0 s : State} (off : Nat) (h : Keeps s0 s) : Keeps s0 (State.dbgCtlRead s off) := by
  unfold State.dbgCtlRead
  repeat' first
    | (extract_lets +onlyGivenNames x
       try (have hx : Keeps s0 x := (by
         simp only [x]
         repeat' first
           | (simp (maxDischargeDepth := 60) +contextual only [dbgAnswer_keeps, ctlRead_keeps, keeps_mk, plain_keeps, keeps_ite, keeps_foldl, keeps_foldl_fst, apply_ite
      Prod.fst, apply_ite Prod.snd, implies_true, and_self, *]
              done)
           | refine keeps_foldl ?_ (fun s b hs => ?_)
           | refine keeps_foldl_fst ?_ (fun p b hp => ?_)
           | split))
       try (have hx : Keeps s0 x.1 := (by simp (maxDischargeDepth := 60) +contextual only [x, dbgAnswer_keeps, ctlRead_keeps, keeps_mk, plain_keeps, keeps_ite, keeps_foldl, keeps_foldl_fst, apply_ite
      Prod.fst, apply_ite Prod.snd, implies_true, and_self, *]))
       clear_value x)
    | (simp (maxDischargeDepth := 60) +contextual only [dbgAnswer_keeps, ctlRead_keeps, keeps_mk, plain_keeps, keeps_ite, keeps_foldl, keeps_foldl_fst, apply_ite
      Prod.fst, apply_ite Prod.snd, implies_true, and_self, *]
       done)
    | refine keeps_foldl ?_ (fun s b hs => ?_)
    | refine keeps_foldl_fst ?_ (fun p b hp => ?_)
    | refine each_keeps ?_ (fun s i hs => ?_)
    | (split
       all_goals try (rename_i heq
                      have hk := keeps_pair (s0 := s0) heq (by clear heq; simp (maxDischargeDepth := 60) +contextual only [dbgAnswer_keeps, ctlRead_keeps, keeps_mk, plain_keeps, keeps_ite, keeps_foldl, keeps_foldl_fst, apply_ite
      Prod.fst, apply_ite Prod.snd, implies_true, and_self, *])
                      clear heq))

@[simp] theorem dbgCtlWrite_keeps {s0 s : State} (off : Nat) (w : Word) (h : Keeps s0 s) : Keeps s0 (State.dbgCtlWrite s off w) := by
  unfold State.dbgCtlWrite
  simp (maxDischargeDepth := 60) +contextual only [dbgAnswer_keeps, ctlWrite_keeps, keeps_mk, plain_keeps, keeps_ite, keeps_foldl, keeps_foldl_fst,
      apply_ite Prod.fst, apply_ite Prod.snd, implies_true, and_self, *]

@[simp] theorem ctlFault_keeps {s0 s : State} (t : Nat) (off : Nat) (h : Keeps s0 s) : Keeps s0 (State.ctlFault s t off) := by
  unfold State.ctlFault
  simp (maxDischargeDepth := 60) +contextual only [raiseFault_keeps, keeps_mk, plain_keeps, keeps_ite, keeps_foldl, keeps_foldl_fst, apply_ite Prod.fst,
      apply_ite Prod.snd, implies_true, and_self, *]

@[simp] theorem arrive_keeps {s0 s : State} (req : Req) (r : Reg) (i : Nat) (w : Word) (h : Keeps s0 s) : Keeps s0 (State.arrive s req r i w) := by
  unfold State.arrive
  repeat' first
    | (extract_lets +onlyGivenNames x
       try (have hx : Keeps s0 x := (by
         simp only [x]
         repeat' first
           | (simp (maxDischargeDepth := 60) +contextual only [bar0Write_keeps, dbgCtlWrite_keeps, regWrite_keeps, keeps_mk, plain_keeps, keeps_ite, keeps_foldl,
      keeps_foldl_fst, apply_ite Prod.fst, apply_ite Prod.snd, implies_true, and_self, *]
              done)
           | refine keeps_foldl ?_ (fun s b hs => ?_)
           | refine keeps_foldl_fst ?_ (fun p b hp => ?_)
           | split))
       try (have hx : Keeps s0 x.1 := (by simp (maxDischargeDepth := 60) +contextual only [x, bar0Write_keeps, dbgCtlWrite_keeps, regWrite_keeps, keeps_mk, plain_keeps, keeps_ite, keeps_foldl,
      keeps_foldl_fst, apply_ite Prod.fst, apply_ite Prod.snd, implies_true, and_self, *]))
       clear_value x)
    | (simp (maxDischargeDepth := 60) +contextual only [bar0Write_keeps, dbgCtlWrite_keeps, regWrite_keeps, keeps_mk, plain_keeps, keeps_ite, keeps_foldl,
      keeps_foldl_fst, apply_ite Prod.fst, apply_ite Prod.snd, implies_true, and_self, *]
       done)
    | refine keeps_foldl ?_ (fun s b hs => ?_)
    | refine keeps_foldl_fst ?_ (fun p b hp => ?_)
    | refine each_keeps ?_ (fun s i hs => ?_)
    | (split
       all_goals try (rename_i heq
                      have hk := keeps_pair (s0 := s0) heq (by clear heq; simp (maxDischargeDepth := 60) +contextual only [bar0Write_keeps, dbgCtlWrite_keeps, regWrite_keeps, keeps_mk, plain_keeps, keeps_ite, keeps_foldl,
      keeps_foldl_fst, apply_ite Prod.fst, apply_ite Prod.snd, implies_true, and_self, *])
                      clear heq))

@[simp] theorem execRegisterWrite_keeps {s0 s : State} (req : Req) (a : RegTarget) (w : Word) (be : Fin 16) (h : Keeps s0 s) : OutKeeps s0 (execRegisterWrite req a w be s) := by
  unfold execRegisterWrite
  refine outKeeps_next.2 ?_
  repeat' first
    | (extract_lets +onlyGivenNames x
       try (have hx : Keeps s0 x := (by
         simp only [x]
         repeat' first
           | (simp (maxDischargeDepth := 60) +contextual only [bar0Write_keeps, bar2WriteBy_keeps, dbgCtlWrite_keeps, ctlFault_keeps, ctlWrite_keeps, outKeeps_next,
      outKeeps_ite, keeps_mk, plain_keeps, keeps_ite, keeps_foldl, keeps_foldl_fst, apply_ite Prod.fst,
      apply_ite Prod.snd, implies_true, and_self, *]
              done)
           | refine keeps_foldl ?_ (fun s b hs => ?_)
           | refine keeps_foldl_fst ?_ (fun p b hp => ?_)
           | split))
       try (have hx : Keeps s0 x.1 := (by simp (maxDischargeDepth := 60) +contextual only [x, bar0Write_keeps, bar2WriteBy_keeps, dbgCtlWrite_keeps, ctlFault_keeps, ctlWrite_keeps, outKeeps_next,
      outKeeps_ite, keeps_mk, plain_keeps, keeps_ite, keeps_foldl, keeps_foldl_fst, apply_ite Prod.fst,
      apply_ite Prod.snd, implies_true, and_self, *]))
       clear_value x)
    | (simp (maxDischargeDepth := 60) +contextual only [bar0Write_keeps, bar2WriteBy_keeps, dbgCtlWrite_keeps, ctlFault_keeps, ctlWrite_keeps, outKeeps_next,
      outKeeps_ite, keeps_mk, plain_keeps, keeps_ite, keeps_foldl, keeps_foldl_fst, apply_ite Prod.fst,
      apply_ite Prod.snd, implies_true, and_self, *]
       done)
    | refine keeps_foldl ?_ (fun s b hs => ?_)
    | refine keeps_foldl_fst ?_ (fun p b hp => ?_)
    | refine each_keeps ?_ (fun s i hs => ?_)
    | (split
       all_goals try (rename_i heq
                      have hk := keeps_pair (s0 := s0) heq (by clear heq; simp (maxDischargeDepth := 60) +contextual only [bar0Write_keeps, bar2WriteBy_keeps, dbgCtlWrite_keeps, ctlFault_keeps, ctlWrite_keeps, outKeeps_next,
      outKeeps_ite, keeps_mk, plain_keeps, keeps_ite, keeps_foldl, keeps_foldl_fst, apply_ite Prod.fst,
      apply_ite Prod.snd, implies_true, and_self, *])
                      clear heq))

@[simp] theorem execRegisterRead_keeps {s0 s : State} (req : Req) (a : RegTarget) (h : Keeps s0 s) : OutKeeps s0 (execRegisterRead req a s) := by
  unfold execRegisterRead
  refine outKeeps_next.2 ?_
  repeat' first
    | (extract_lets +onlyGivenNames x
       try (have hx : Keeps s0 x := (by
         simp only [x]
         repeat' first
           | (simp (maxDischargeDepth := 60) +contextual only [bar0Read_keeps, bar2ReadBy_keeps, dbgCtlRead_keeps, ctlFault_keeps, ctlRead_keeps, emit_keeps,
      outKeeps_next, outKeeps_ite, keeps_mk, plain_keeps, keeps_ite, keeps_foldl, keeps_foldl_fst, apply_ite
      Prod.fst, apply_ite Prod.snd, implies_true, and_self, *]
              done)
           | refine keeps_foldl ?_ (fun s b hs => ?_)
           | refine keeps_foldl_fst ?_ (fun p b hp => ?_)
           | split))
       try (have hx : Keeps s0 x.1 := (by simp (maxDischargeDepth := 60) +contextual only [x, bar0Read_keeps, bar2ReadBy_keeps, dbgCtlRead_keeps, ctlFault_keeps, ctlRead_keeps, emit_keeps,
      outKeeps_next, outKeeps_ite, keeps_mk, plain_keeps, keeps_ite, keeps_foldl, keeps_foldl_fst, apply_ite
      Prod.fst, apply_ite Prod.snd, implies_true, and_self, *]))
       clear_value x)
    | (simp (maxDischargeDepth := 60) +contextual only [bar0Read_keeps, bar2ReadBy_keeps, dbgCtlRead_keeps, ctlFault_keeps, ctlRead_keeps, emit_keeps,
      outKeeps_next, outKeeps_ite, keeps_mk, plain_keeps, keeps_ite, keeps_foldl, keeps_foldl_fst, apply_ite
      Prod.fst, apply_ite Prod.snd, implies_true, and_self, *]
       done)
    | refine keeps_foldl ?_ (fun s b hs => ?_)
    | refine keeps_foldl_fst ?_ (fun p b hp => ?_)
    | refine each_keeps ?_ (fun s i hs => ?_)
    | (split
       all_goals try (rename_i heq
                      have hk := keeps_pair (s0 := s0) heq (by clear heq; simp (maxDischargeDepth := 60) +contextual only [bar0Read_keeps, bar2ReadBy_keeps, dbgCtlRead_keeps, ctlFault_keeps, ctlRead_keeps, emit_keeps,
      outKeeps_next, outKeeps_ite, keeps_mk, plain_keeps, keeps_ite, keeps_foldl, keeps_foldl_fst, apply_ite
      Prod.fst, apply_ite Prod.snd, implies_true, and_self, *])
                      clear heq))

@[simp] theorem execCtIncrLoWrite_keeps {s0 s : State} (req : Req) (x : Bool) (w : Word) (h : Keeps s0 s) : OutKeeps s0 (execCtIncrLoWrite req x w s) := by
  unfold execCtIncrLoWrite
  simp (maxDischargeDepth := 60) +contextual only [arrive_keeps, outKeeps_next, outKeeps_ite, keeps_mk, plain_keeps, keeps_ite, keeps_foldl,
      keeps_foldl_fst, apply_ite Prod.fst, apply_ite Prod.snd, implies_true, and_self, *]

@[simp] theorem execCtIncrHiWrite_keeps {s0 s : State} (req : Req) (x : Bool) (w : Word) (h : Keeps s0 s) : OutKeeps s0 (execCtIncrHiWrite req x w s) := by
  unfold execCtIncrHiWrite
  simp (maxDischargeDepth := 60) +contextual only [arrive_keeps, outKeeps_next, outKeeps_ite, keeps_mk, plain_keeps, keeps_ite, keeps_foldl,
      keeps_foldl_fst, apply_ite Prod.fst, apply_ite Prod.snd, implies_true, and_self, *]

@[simp] theorem execCtDtWrite_keeps {s0 s : State} (req : Req) (x : Bool) (high : Bool) (w : Word) (h : Keeps s0 s) : OutKeeps s0 (execCtDtWrite req x high w s) := by
  unfold execCtDtWrite
  simp (maxDischargeDepth := 60) +contextual only [arrive_keeps, outKeeps_next, outKeeps_ite, keeps_mk, plain_keeps, keeps_ite, keeps_foldl,
      keeps_foldl_fst, apply_ite Prod.fst, apply_ite Prod.snd, implies_true, and_self, *]

@[simp] theorem execCtSrvCfgWrite_keeps {s0 s : State} (req : Req) (x : Bool) (w : Word) (h : Keeps s0 s) : OutKeeps s0 (execCtSrvCfgWrite req x w s) := by
  unfold execCtSrvCfgWrite
  simp (maxDischargeDepth := 60) +contextual only [arrive_keeps, outKeeps_next, outKeeps_ite, keeps_mk, plain_keeps, keeps_ite, keeps_foldl,
      keeps_foldl_fst, apply_ite Prod.fst, apply_ite Prod.snd, implies_true, and_self, *]

@[simp] theorem execDomainSwitch_keeps {s0 s : State} (req : Req) (w : Word) (h : Keeps s0 s) : OutKeeps s0 (execDomainSwitch req w s) := by
  unfold execDomainSwitch
  simp (maxDischargeDepth := 60) +contextual only [arrive_keeps, outKeeps_next, outKeeps_ite, keeps_mk, plain_keeps, keeps_ite, keeps_foldl,
      keeps_foldl_fst, apply_ite Prod.fst, apply_ite Prod.snd, implies_true, and_self, *]

@[simp] theorem execFpGo_keeps {s0 s : State} (req : Req) (n : Fin 32) (h : Keeps s0 s) : OutKeeps s0 (execFpGo req n s) := by
  unfold execFpGo
  simp (maxDischargeDepth := 60) +contextual only [arrive_keeps, outKeeps_next, outKeeps_ite, keeps_mk, plain_keeps, keeps_ite, keeps_foldl,
      keeps_foldl_fst, apply_ite Prod.fst, apply_ite Prod.snd, implies_true, and_self, *]

@[simp] theorem execFpArm_keeps {s0 s : State} (req : Req) (n : Fin 32) (h : Keeps s0 s) : OutKeeps s0 (execFpArm req n s) := by
  unfold execFpArm
  simp (maxDischargeDepth := 60) +contextual only [arrive_keeps, outKeeps_next, outKeeps_ite, keeps_mk, plain_keeps, keeps_ite, keeps_foldl,
      keeps_foldl_fst, apply_ite Prod.fst, apply_ite Prod.snd, implies_true, and_self, *]

@[simp] theorem execFpDiscard_keeps {s0 s : State} (req : Req) (n : Fin 32) (h : Keeps s0 s) : OutKeeps s0 (execFpDiscard req n s) := by
  unfold execFpDiscard
  simp (maxDischargeDepth := 60) +contextual only [arrive_keeps, outKeeps_next, outKeeps_ite, keeps_mk, plain_keeps, keeps_ite, keeps_foldl,
      keeps_foldl_fst, apply_ite Prod.fst, apply_ite Prod.snd, implies_true, and_self, *]

@[simp] theorem execTwGo_keeps {s0 s : State} (req : Req) (n : Fin 8) (h : Keeps s0 s) : OutKeeps s0 (execTwGo req n s) := by
  unfold execTwGo
  simp (maxDischargeDepth := 60) +contextual only [arrive_keeps, outKeeps_next, outKeeps_ite, keeps_mk, plain_keeps, keeps_ite, keeps_foldl,
      keeps_foldl_fst, apply_ite Prod.fst, apply_ite Prod.snd, implies_true, and_self, *]

@[simp] theorem execTwClear_keeps {s0 s : State} (req : Req) (n : Fin 8) (h : Keeps s0 s) : OutKeeps s0 (execTwClear req n s) := by
  unfold execTwClear
  simp (maxDischargeDepth := 60) +contextual only [arrive_keeps, outKeeps_next, outKeeps_ite, keeps_mk, plain_keeps, keeps_ite, keeps_foldl,
      keeps_foldl_fst, apply_ite Prod.fst, apply_ite Prod.snd, implies_true, and_self, *]

@[simp] theorem execTwPrst_keeps {s0 s : State} (req : Req) (n : Fin 8) (h : Keeps s0 s) : OutKeeps s0 (execTwPrst req n s) := by
  unfold execTwPrst
  simp (maxDischargeDepth := 60) +contextual only [arrive_keeps, outKeeps_next, outKeeps_ite, keeps_mk, plain_keeps, keeps_ite, keeps_foldl,
      keeps_foldl_fst, apply_ite Prod.fst, apply_ite Prod.snd, implies_true, and_self, *]

@[simp] theorem execTwReq_keeps {s0 s : State} (req : Req) (n : Fin 8) (h : Keeps s0 s) : OutKeeps s0 (execTwReq req n s) := by
  unfold execTwReq
  simp (maxDischargeDepth := 60) +contextual only [arrive_keeps, outKeeps_next, outKeeps_ite, keeps_mk, plain_keeps, keeps_ite, keeps_foldl,
      keeps_foldl_fst, apply_ite Prod.fst, apply_ite Prod.snd, implies_true, and_self, *]

@[simp] theorem execTwUnreq_keeps {s0 s : State} (req : Req) (n : Fin 8) (h : Keeps s0 s) : OutKeeps s0 (execTwUnreq req n s) := by
  unfold execTwUnreq
  simp (maxDischargeDepth := 60) +contextual only [arrive_keeps, outKeeps_next, outKeeps_ite, keeps_mk, plain_keeps, keeps_ite, keeps_foldl,
      keeps_foldl_fst, apply_ite Prod.fst, apply_ite Prod.snd, implies_true, and_self, *]

@[simp] theorem execHlBell_keeps {s0 s : State} (req : Req) (n : Fin 2) (h : Keeps s0 s) : OutKeeps s0 (execHlBell req n s) := by
  unfold execHlBell
  simp (maxDischargeDepth := 60) +contextual only [arrive_keeps, outKeeps_next, outKeeps_ite, keeps_mk, plain_keeps, keeps_ite, keeps_foldl,
      keeps_foldl_fst, apply_ite Prod.fst, apply_ite Prod.snd, implies_true, and_self, *]

@[simp] theorem execHlLrst_keeps {s0 s : State} (req : Req) (n : Fin 2) (h : Keeps s0 s) : OutKeeps s0 (execHlLrst req n s) := by
  unfold execHlLrst
  simp (maxDischargeDepth := 60) +contextual only [arrive_keeps, outKeeps_next, outKeeps_ite, keeps_mk, plain_keeps, keeps_ite, keeps_foldl,
      keeps_foldl_fst, apply_ite Prod.fst, apply_ite Prod.snd, implies_true, and_self, *]

@[simp] theorem execHlPrbnow_keeps {s0 s : State} (req : Req) (n : Fin 2) (h : Keeps s0 s) : OutKeeps s0 (execHlPrbnow req n s) := by
  unfold execHlPrbnow
  simp (maxDischargeDepth := 60) +contextual only [arrive_keeps, outKeeps_next, outKeeps_ite, keeps_mk, plain_keeps, keeps_ite, keeps_foldl,
      keeps_foldl_fst, apply_ite Prod.fst, apply_ite Prod.snd, implies_true, and_self, *]

@[simp] theorem execHlTblcmdGo_keeps {s0 s : State} (req : Req) (n : Fin 2) (up : Bool) (tab : Fin 8) (h : Keeps s0 s) : OutKeeps s0 (execHlTblcmdGo req n up tab s) := by
  unfold execHlTblcmdGo
  simp (maxDischargeDepth := 60) +contextual only [arrive_keeps, outKeeps_next, outKeeps_ite, keeps_mk, plain_keeps, keeps_ite, keeps_foldl,
      keeps_foldl_fst, apply_ite Prod.fst, apply_ite Prod.snd, implies_true, and_self, *]

@[simp] theorem execXcReset_keeps {s0 s : State} (req : Req) (c : Fin 128) (h : Keeps s0 s) : OutKeeps s0 (execXcReset req c s) := by
  unfold execXcReset
  simp (maxDischargeDepth := 60) +contextual only [arrive_keeps, outKeeps_next, outKeeps_ite, keeps_mk, plain_keeps, keeps_ite, keeps_foldl,
      keeps_foldl_fst, apply_ite Prod.fst, apply_ite Prod.snd, implies_true, and_self, *]

@[simp] theorem execXcRearm_keeps {s0 s : State} (req : Req) (c : Fin 128) (h : Keeps s0 s) : OutKeeps s0 (execXcRearm req c s) := by
  unfold execXcRearm
  simp (maxDischargeDepth := 60) +contextual only [arrive_keeps, outKeeps_next, outKeeps_ite, keeps_mk, plain_keeps, keeps_ite, keeps_foldl,
      keeps_foldl_fst, apply_ite Prod.fst, apply_ite Prod.snd, implies_true, and_self, *]

@[simp] theorem execArcadeFlush_keeps {s0 s : State} (req : Req) (a : Fin 64) (h : Keeps s0 s) : OutKeeps s0 (execArcadeFlush req a s) := by
  unfold execArcadeFlush
  simp (maxDischargeDepth := 60) +contextual only [arrive_keeps, outKeeps_next, outKeeps_ite, keeps_mk, plain_keeps, keeps_ite, keeps_foldl,
      keeps_foldl_fst, apply_ite Prod.fst, apply_ite Prod.snd, implies_true, and_self, *]

@[simp] theorem execLlCmdArm_keeps {s0 s : State} (req : Req) (n : Fin 16) (h : Keeps s0 s) : OutKeeps s0 (execLlCmdArm req n s) := by
  unfold execLlCmdArm
  simp (maxDischargeDepth := 60) +contextual only [arrive_keeps, outKeeps_next, outKeeps_ite, keeps_mk, plain_keeps, keeps_ite, keeps_foldl,
      keeps_foldl_fst, apply_ite Prod.fst, apply_ite Prod.snd, implies_true, and_self, *]

@[simp] theorem execLlCancel_keeps {s0 s : State} (req : Req) (n : Fin 16) (h : Keeps s0 s) : OutKeeps s0 (execLlCancel req n s) := by
  unfold execLlCancel
  simp (maxDischargeDepth := 60) +contextual only [arrive_keeps, outKeeps_next, outKeeps_ite, keeps_mk, plain_keeps, keeps_ite, keeps_foldl,
      keeps_foldl_fst, apply_ite Prod.fst, apply_ite Prod.snd, implies_true, and_self, *]

@[simp] theorem gpArrive_keeps {s0 s : State} (req : Req) (r : Reg) (k : Nat) (w : Word) (h : Keeps s0 s) : Keeps s0 (State.gpArrive s req r k w) := by
  unfold State.gpArrive
  repeat' first
    | (extract_lets +onlyGivenNames x
       try (have hx : Keeps s0 x := (by
         simp only [x]
         repeat' first
           | (simp (maxDischargeDepth := 60) +contextual only [arrive_keeps, keeps_mk, plain_keeps, keeps_ite, keeps_foldl, keeps_foldl_fst, apply_ite Prod.fst,
      apply_ite Prod.snd, implies_true, and_self, *]
              done)
           | refine keeps_foldl ?_ (fun s b hs => ?_)
           | refine keeps_foldl_fst ?_ (fun p b hp => ?_)
           | split))
       try (have hx : Keeps s0 x.1 := (by simp (maxDischargeDepth := 60) +contextual only [x, arrive_keeps, keeps_mk, plain_keeps, keeps_ite, keeps_foldl, keeps_foldl_fst, apply_ite Prod.fst,
      apply_ite Prod.snd, implies_true, and_self, *]))
       clear_value x)
    | (simp (maxDischargeDepth := 60) +contextual only [arrive_keeps, keeps_mk, plain_keeps, keeps_ite, keeps_foldl, keeps_foldl_fst, apply_ite Prod.fst,
      apply_ite Prod.snd, implies_true, and_self, *]
       done)
    | refine keeps_foldl ?_ (fun s b hs => ?_)
    | refine keeps_foldl_fst ?_ (fun p b hp => ?_)
    | refine each_keeps ?_ (fun s i hs => ?_)
    | (split
       all_goals try (rename_i heq
                      have hk := keeps_pair (s0 := s0) heq (by clear heq; simp (maxDischargeDepth := 60) +contextual only [arrive_keeps, keeps_mk, plain_keeps, keeps_ite, keeps_foldl, keeps_foldl_fst, apply_ite Prod.fst,
      apply_ite Prod.snd, implies_true, and_self, *])
                      clear heq))

@[simp] theorem execGpOutsetWrite_keeps {s0 s : State} (req : Req) (k : Fin 3) (w : Word) (h : Keeps s0 s) : OutKeeps s0 (execGpOutsetWrite req k w s) := by
  unfold execGpOutsetWrite
  simp (maxDischargeDepth := 60) +contextual only [gpArrive_keeps, outKeeps_next, outKeeps_ite, keeps_mk, plain_keeps, keeps_ite, keeps_foldl,
      keeps_foldl_fst, apply_ite Prod.fst, apply_ite Prod.snd, implies_true, and_self, *]

@[simp] theorem execGpOutclrWrite_keeps {s0 s : State} (req : Req) (k : Fin 3) (w : Word) (h : Keeps s0 s) : OutKeeps s0 (execGpOutclrWrite req k w s) := by
  unfold execGpOutclrWrite
  simp (maxDischargeDepth := 60) +contextual only [gpArrive_keeps, outKeeps_next, outKeeps_ite, keeps_mk, plain_keeps, keeps_ite, keeps_foldl,
      keeps_foldl_fst, apply_ite Prod.fst, apply_ite Prod.snd, implies_true, and_self, *]

@[simp] theorem execBkBtbinv_keeps {s0 s : State} (req : Req) (b : Fin 4) (h : Keeps s0 s) : OutKeeps s0 (execBkBtbinv req b s) := by
  unfold execBkBtbinv
  simp (maxDischargeDepth := 60) +contextual only [arrive_keeps, outKeeps_next, outKeeps_ite, keeps_mk, plain_keeps, keeps_ite, keeps_foldl,
      keeps_foldl_fst, apply_ite Prod.fst, apply_ite Prod.snd, implies_true, and_self, *]

@[simp] theorem execBkIcinv_keeps {s0 s : State} (req : Req) (b : Fin 4) (h : Keeps s0 s) : OutKeeps s0 (execBkIcinv req b s) := by
  unfold execBkIcinv
  simp (maxDischargeDepth := 60) +contextual only [arrive_keeps, outKeeps_next, outKeeps_ite, keeps_mk, plain_keeps, keeps_ite, keeps_foldl,
      keeps_foldl_fst, apply_ite Prod.fst, apply_ite Prod.snd, implies_true, and_self, *]

@[simp] theorem execRgPost_keeps {s0 s : State} (req : Req) (m : Fin 256) (h : Keeps s0 s) : OutKeeps s0 (execRgPost req m s) := by
  unfold execRgPost
  simp (maxDischargeDepth := 60) +contextual only [arrive_keeps, outKeeps_next, outKeeps_ite, keeps_mk, plain_keeps, keeps_ite, keeps_foldl,
      keeps_foldl_fst, apply_ite Prod.fst, apply_ite Prod.snd, implies_true, and_self, *]

@[simp] theorem execRgKclose_keeps {s0 s : State} (req : Req) (h : Keeps s0 s) : OutKeeps s0 (execRgKclose req s) := by
  unfold execRgKclose
  simp (maxDischargeDepth := 60) +contextual only [arrive_keeps, outKeeps_next, outKeeps_ite, keeps_mk, plain_keeps, keeps_ite, keeps_foldl,
      keeps_foldl_fst, apply_ite Prod.fst, apply_ite Prod.snd, implies_true, and_self, *]

@[simp] theorem execRgBell_keeps {s0 s : State} (req : Req) (p : Fin 2) (h : Keeps s0 s) : OutKeeps s0 (execRgBell req p s) := by
  unfold execRgBell
  simp (maxDischargeDepth := 60) +contextual only [arrive_keeps, outKeeps_next, outKeeps_ite, keeps_mk, plain_keeps, keeps_ite, keeps_foldl,
      keeps_foldl_fst, apply_ite Prod.fst, apply_ite Prod.snd, implies_true, and_self, *]

@[simp] theorem execHpCpiWrite_keeps {s0 s : State} (req : Req) (q : Fin 4) (w : Word) (h : Keeps s0 s) : OutKeeps s0 (execHpCpiWrite req q w s) := by
  unfold execHpCpiWrite
  simp (maxDischargeDepth := 60) +contextual only [arrive_keeps, outKeeps_next, outKeeps_ite, keeps_mk, plain_keeps, keeps_ite, keeps_foldl,
      keeps_foldl_fst, apply_ite Prod.fst, apply_ite Prod.snd, implies_true, and_self, *]

@[simp] theorem execHpUdoneWrite_keeps {s0 s : State} (req : Req) (q : Fin 4) (w : Word) (h : Keeps s0 s) : OutKeeps s0 (execHpUdoneWrite req q w s) := by
  unfold execHpUdoneWrite
  simp (maxDischargeDepth := 60) +contextual only [arrive_keeps, outKeeps_next, outKeeps_ite, keeps_mk, plain_keeps, keeps_ite, keeps_foldl,
      keeps_foldl_fst, apply_ite Prod.fst, apply_ite Prod.snd, implies_true, and_self, *]

@[simp] theorem execHpDrcfgWrite_keeps {s0 s : State} (req : Req) (q : Fin 4) (r : Fin 16) (w : Word) (h : Keeps s0 s) : OutKeeps s0 (execHpDrcfgWrite req q r w s) := by
  unfold execHpDrcfgWrite
  simp (maxDischargeDepth := 60) +contextual only [arrive_keeps, outKeeps_next, outKeeps_ite, keeps_mk, plain_keeps, keeps_ite, keeps_foldl,
      keeps_foldl_fst, apply_ite Prod.fst, apply_ite Prod.snd, implies_true, and_self, *]

@[simp] theorem execHpDrpiWrite_keeps {s0 s : State} (req : Req) (q : Fin 4) (r : Fin 16) (w : Word) (h : Keeps s0 s) : OutKeeps s0 (execHpDrpiWrite req q r w s) := by
  unfold execHpDrpiWrite
  simp (maxDischargeDepth := 60) +contextual only [arrive_keeps, outKeeps_next, outKeeps_ite, keeps_mk, plain_keeps, keeps_ite, keeps_foldl,
      keeps_foldl_fst, apply_ite Prod.fst, apply_ite Prod.snd, implies_true, and_self, *]

@[simp] theorem execHpWdkick_keeps {s0 s : State} (req : Req) (q : Fin 4) (h : Keeps s0 s) : OutKeeps s0 (execHpWdkick req q s) := by
  unfold execHpWdkick
  simp (maxDischargeDepth := 60) +contextual only [arrive_keeps, outKeeps_next, outKeeps_ite, keeps_mk, plain_keeps, keeps_ite, keeps_foldl,
      keeps_foldl_fst, apply_ite Prod.fst, apply_ite Prod.snd, implies_true, and_self, *]

@[simp] theorem execHpWdogWrite_keeps {s0 s : State} (req : Req) (q : Fin 4) (w : Word) (h : Keeps s0 s) : OutKeeps s0 (execHpWdogWrite req q w s) := by
  unfold execHpWdogWrite
  simp (maxDischargeDepth := 60) +contextual only [arrive_keeps, outKeeps_next, outKeeps_ite, keeps_mk, plain_keeps, keeps_ite, keeps_foldl,
      keeps_foldl_fst, apply_ite Prod.fst, apply_ite Prod.snd, implies_true, and_self, *]

@[simp] theorem execMp0CtlHoldWrite_keeps {s0 s : State} (req : Req) (hold : Bool) (h : Keeps s0 s) : OutKeeps s0 (execMp0CtlHoldWrite req hold s) := by
  unfold execMp0CtlHoldWrite
  simp (maxDischargeDepth := 60) +contextual only [arrive_keeps, outKeeps_next, outKeeps_ite, keeps_mk, plain_keeps, keeps_ite, keeps_foldl,
      keeps_foldl_fst, apply_ite Prod.fst, apply_ite Prod.snd, implies_true, and_self, *]

@[simp] theorem execMp0Invpf_keeps {s0 s : State} (req : Req) (hold : Bool) (h : Keeps s0 s) : OutKeeps s0 (execMp0Invpf req hold s) := by
  unfold execMp0Invpf
  simp (maxDischargeDepth := 60) +contextual only [arrive_keeps, outKeeps_next, outKeeps_ite, keeps_mk, plain_keeps, keeps_ite, keeps_foldl,
      keeps_foldl_fst, apply_ite Prod.fst, apply_ite Prod.snd, implies_true, and_self, *]

@[simp] theorem execMp0RawGo_keeps {s0 s : State} (req : Req) (w : Word) (h : Keeps s0 s) : OutKeeps s0 (execMp0RawGo req w s) := by
  unfold execMp0RawGo
  simp (maxDischargeDepth := 60) +contextual only [arrive_keeps, outKeeps_next, outKeeps_ite, keeps_mk, plain_keeps, keeps_ite, keeps_foldl,
      keeps_foldl_fst, apply_ite Prod.fst, apply_ite Prod.snd, implies_true, and_self, *]

@[simp] theorem execMpPsnclrWrite_keeps {s0 s : State} (req : Req) (w : Word) (h : Keeps s0 s) : OutKeeps s0 (execMpPsnclrWrite req w s) := by
  unfold execMpPsnclrWrite
  simp (maxDischargeDepth := 60) +contextual only [arrive_keeps, outKeeps_next, outKeeps_ite, keeps_mk, plain_keeps, keeps_ite, keeps_foldl,
      keeps_foldl_fst, apply_ite Prod.fst, apply_ite Prod.snd, implies_true, and_self, *]

@[simp] theorem execMpEccInjArm_keeps {s0 s : State} (req : Req) (rg : Fin 16) (m : BitVec 24) (h : Keeps s0 s) : OutKeeps s0 (execMpEccInjArm req rg m s) := by
  unfold execMpEccInjArm
  simp (maxDischargeDepth := 60) +contextual only [arrive_keeps, outKeeps_next, outKeeps_ite, keeps_mk, plain_keeps, keeps_ite, keeps_foldl,
      keeps_foldl_fst, apply_ite Prod.fst, apply_ite Prod.snd, implies_true, and_self, *]

@[simp] theorem mp1Arrive_keeps {s0 s : State} (req : Req) (op : Nat) (b : Nat) (p : Nat) (h : Keeps s0 s) : Keeps s0 (State.mp1Arrive s req op b p) := by
  unfold State.mp1Arrive
  simp (maxDischargeDepth := 60) +contextual only [arrive_keeps, keeps_mk, plain_keeps, keeps_ite, keeps_foldl, keeps_foldl_fst, apply_ite Prod.fst,
      apply_ite Prod.snd, implies_true, and_self, *]

@[simp] theorem execMp1Read_keeps {s0 s : State} (req : Req) (b : Fin 65536) (p : Fin 256) (h : Keeps s0 s) : OutKeeps s0 (execMp1Read req b p s) := by
  unfold execMp1Read
  simp (maxDischargeDepth := 60) +contextual only [mp1Arrive_keeps, outKeeps_next, outKeeps_ite, keeps_mk, plain_keeps, keeps_ite, keeps_foldl,
      keeps_foldl_fst, apply_ite Prod.fst, apply_ite Prod.snd, implies_true, and_self, *]

@[simp] theorem execMp1Readraw_keeps {s0 s : State} (req : Req) (b : Fin 65536) (p : Fin 256) (h : Keeps s0 s) : OutKeeps s0 (execMp1Readraw req b p s) := by
  unfold execMp1Readraw
  simp (maxDischargeDepth := 60) +contextual only [mp1Arrive_keeps, outKeeps_next, outKeeps_ite, keeps_mk, plain_keeps, keeps_ite, keeps_foldl,
      keeps_foldl_fst, apply_ite Prod.fst, apply_ite Prod.snd, implies_true, and_self, *]

@[simp] theorem execMp1Program_keeps {s0 s : State} (req : Req) (b : Fin 65536) (p : Fin 256) (h : Keeps s0 s) : OutKeeps s0 (execMp1Program req b p s) := by
  unfold execMp1Program
  simp (maxDischargeDepth := 60) +contextual only [mp1Arrive_keeps, outKeeps_next, outKeeps_ite, keeps_mk, plain_keeps, keeps_ite, keeps_foldl,
      keeps_foldl_fst, apply_ite Prod.fst, apply_ite Prod.snd, implies_true, and_self, *]

@[simp] theorem execMp1Erase_keeps {s0 s : State} (req : Req) (b : Fin 65536) (p : Fin 256) (h : Keeps s0 s) : OutKeeps s0 (execMp1Erase req b p s) := by
  unfold execMp1Erase
  simp (maxDischargeDepth := 60) +contextual only [mp1Arrive_keeps, outKeeps_next, outKeeps_ite, keeps_mk, plain_keeps, keeps_ite, keeps_foldl,
      keeps_foldl_fst, apply_ite Prod.fst, apply_ite Prod.snd, implies_true, and_self, *]

@[simp] theorem execMp1Bbtscan_keeps {s0 s : State} (req : Req) (b : Fin 65536) (p : Fin 256) (h : Keeps s0 s) : OutKeeps s0 (execMp1Bbtscan req b p s) := by
  unfold execMp1Bbtscan
  simp (maxDischargeDepth := 60) +contextual only [mp1Arrive_keeps, outKeeps_next, outKeeps_ite, keeps_mk, plain_keeps, keeps_ite, keeps_foldl,
      keeps_foldl_fst, apply_ite Prod.fst, apply_ite Prod.snd, implies_true, and_self, *]

@[simp] theorem execMp1PatresRead_keeps {s0 s : State} (req : Req) (h : Keeps s0 s) : OutKeeps s0 (execMp1PatresRead req s) := by
  unfold execMp1PatresRead
  repeat' first
    | (extract_lets +onlyGivenNames x
       try (have hx : Keeps s0 x := (by
         simp only [x]
         repeat' first
           | (simp (maxDischargeDepth := 60) +contextual only [bar0Read_keeps, dbgCtlRead_keeps, regRead_keeps, emit_keeps, outKeeps_next, outKeeps_ite, keeps_mk,
      plain_keeps, keeps_ite, keeps_foldl, keeps_foldl_fst, apply_ite Prod.fst, apply_ite Prod.snd,
      implies_true, and_self, *]
              done)
           | refine keeps_foldl ?_ (fun s b hs => ?_)
           | refine keeps_foldl_fst ?_ (fun p b hp => ?_)
           | split))
       try (have hx : Keeps s0 x.1 := (by simp (maxDischargeDepth := 60) +contextual only [x, bar0Read_keeps, dbgCtlRead_keeps, regRead_keeps, emit_keeps, outKeeps_next, outKeeps_ite, keeps_mk,
      plain_keeps, keeps_ite, keeps_foldl, keeps_foldl_fst, apply_ite Prod.fst, apply_ite Prod.snd,
      implies_true, and_self, *]))
       clear_value x)
    | (simp (maxDischargeDepth := 60) +contextual only [bar0Read_keeps, dbgCtlRead_keeps, regRead_keeps, emit_keeps, outKeeps_next, outKeeps_ite, keeps_mk,
      plain_keeps, keeps_ite, keeps_foldl, keeps_foldl_fst, apply_ite Prod.fst, apply_ite Prod.snd,
      implies_true, and_self, *]
       done)
    | refine keeps_foldl ?_ (fun s b hs => ?_)
    | refine keeps_foldl_fst ?_ (fun p b hp => ?_)
    | refine each_keeps ?_ (fun s i hs => ?_)
    | (split
       all_goals try (rename_i heq
                      have hk := keeps_pair (s0 := s0) heq (by clear heq; simp (maxDischargeDepth := 60) +contextual only [bar0Read_keeps, dbgCtlRead_keeps, regRead_keeps, emit_keeps, outKeeps_next, outKeeps_ite, keeps_mk,
      plain_keeps, keeps_ite, keeps_foldl, keeps_foldl_fst, apply_ite Prod.fst, apply_ite Prod.snd,
      implies_true, and_self, *])
                      clear heq))

@[simp] theorem execPushGo_keeps {s0 s : State} (req : Req) (len : Fin 16384) (last : Bool) (h : Keeps s0 s) : OutKeeps s0 (execPushGo req len last s) := by
  unfold execPushGo
  simp (maxDischargeDepth := 60) +contextual only [arrive_keeps, outKeeps_next, outKeeps_ite, keeps_mk, plain_keeps, keeps_ite, keeps_foldl,
      keeps_foldl_fst, apply_ite Prod.fst, apply_ite Prod.snd, implies_true, and_self, *]

@[simp] theorem execPushAbort_keeps {s0 s : State} (req : Req) (h : Keeps s0 s) : OutKeeps s0 (execPushAbort req s) := by
  unfold execPushAbort
  simp (maxDischargeDepth := 60) +contextual only [arrive_keeps, outKeeps_next, outKeeps_ite, keeps_mk, plain_keeps, keeps_ite, keeps_foldl,
      keeps_foldl_fst, apply_ite Prod.fst, apply_ite Prod.snd, implies_true, and_self, *]

@[simp] theorem execSysProfcmd_keeps {s0 s : State} (req : Req) (p : Fin 4) (h : Keeps s0 s) : OutKeeps s0 (execSysProfcmd req p s) := by
  unfold execSysProfcmd
  simp (maxDischargeDepth := 60) +contextual only [arrive_keeps, outKeeps_next, outKeeps_ite, keeps_mk, plain_keeps, keeps_ite, keeps_foldl,
      keeps_foldl_fst, apply_ite Prod.fst, apply_ite Prod.snd, implies_true, and_self, *]

@[simp] theorem execPmModereqWrite_keeps {s0 s : State} (req : Req) (w : Word) (h : Keeps s0 s) : OutKeeps s0 (execPmModereqWrite req w s) := by
  unfold execPmModereqWrite
  simp (maxDischargeDepth := 60) +contextual only [arrive_keeps, outKeeps_next, outKeeps_ite, keeps_mk, plain_keeps, keeps_ite, keeps_foldl,
      keeps_foldl_fst, apply_ite Prod.fst, apply_ite Prod.snd, implies_true, and_self, *]

@[simp] theorem lcArrive_keeps {s0 s : State} (req : Req) (op : Nat) (h : Keeps s0 s) : Keeps s0 (State.lcArrive s req op) := by
  unfold State.lcArrive
  simp (maxDischargeDepth := 60) +contextual only [arrive_keeps, keeps_mk, plain_keeps, keeps_ite, keeps_foldl, keeps_foldl_fst, apply_ite Prod.fst,
      apply_ite Prod.snd, implies_true, and_self, *]

@[simp] theorem execBlankToMaker_keeps {s0 s : State} (req : Req) (h : Keeps s0 s) : OutKeeps s0 (execBlankToMaker req s) := by
  unfold execBlankToMaker
  simp (maxDischargeDepth := 60) +contextual only [lcArrive_keeps, outKeeps_next, outKeeps_ite, keeps_mk, plain_keeps, keeps_ite, keeps_foldl,
      keeps_foldl_fst, apply_ite Prod.fst, apply_ite Prod.snd, implies_true, and_self, *]

@[simp] theorem execMakerToOpen_keeps {s0 s : State} (req : Req) (h : Keeps s0 s) : OutKeeps s0 (execMakerToOpen req s) := by
  unfold execMakerToOpen
  simp (maxDischargeDepth := 60) +contextual only [lcArrive_keeps, outKeeps_next, outKeeps_ite, keeps_mk, plain_keeps, keeps_ite, keeps_foldl,
      keeps_foldl_fst, apply_ite Prod.fst, apply_ite Prod.snd, implies_true, and_self, *]

@[simp] theorem execKeyfuse_keeps {s0 s : State} (req : Req) (h : Keeps s0 s) : OutKeeps s0 (execKeyfuse req s) := by
  unfold execKeyfuse
  simp (maxDischargeDepth := 60) +contextual only [lcArrive_keeps, outKeeps_next, outKeeps_ite, keeps_mk, plain_keeps, keeps_ite, keeps_foldl,
      keeps_foldl_fst, apply_ite Prod.fst, apply_ite Prod.snd, implies_true, and_self, *]

@[simp] theorem execOpenToSealed_keeps {s0 s : State} (req : Req) (h : Keeps s0 s) : OutKeeps s0 (execOpenToSealed req s) := by
  unfold execOpenToSealed
  simp (maxDischargeDepth := 60) +contextual only [lcArrive_keeps, outKeeps_next, outKeeps_ite, keeps_mk, plain_keeps, keeps_ite, keeps_foldl,
      keeps_foldl_fst, apply_ite Prod.fst, apply_ite Prod.snd, implies_true, and_self, *]

@[simp] theorem execSealedToReturn_keeps {s0 s : State} (req : Req) (h : Keeps s0 s) : OutKeeps s0 (execSealedToReturn req s) := by
  unfold execSealedToReturn
  simp (maxDischargeDepth := 60) +contextual only [lcArrive_keeps, outKeeps_next, outKeeps_ite, keeps_mk, plain_keeps, keeps_ite, keeps_foldl,
      keeps_foldl_fst, apply_ite Prod.fst, apply_ite Prod.snd, implies_true, and_self, *]

@[simp] theorem execTopen_keeps {s0 s : State} (req : Req) (h : Keeps s0 s) : OutKeeps s0 (execTopen req s) := by
  unfold execTopen
  simp (maxDischargeDepth := 60) +contextual only [lcArrive_keeps, outKeeps_next, outKeeps_ite, keeps_mk, plain_keeps, keeps_ite, keeps_foldl,
      keeps_foldl_fst, apply_ite Prod.fst, apply_ite Prod.snd, implies_true, and_self, *]

@[simp] theorem execScrap_keeps {s0 s : State} (req : Req) (h : Keeps s0 s) : OutKeeps s0 (execScrap req s) := by
  unfold execScrap
  simp (maxDischargeDepth := 60) +contextual only [lcArrive_keeps, outKeeps_next, outKeeps_ite, keeps_mk, plain_keeps, keeps_ite, keeps_foldl,
      keeps_foldl_fst, apply_ite Prod.fst, apply_ite Prod.snd, implies_true, and_self, *]

@[simp] theorem execHaltreq_keeps {s0 s : State} (bken : Bool) (h : Keeps s0 s) : OutKeeps s0 (execHaltreq bken s) := by
  unfold execHaltreq
  simp (maxDischargeDepth := 60) +contextual only [arrive_keeps, outKeeps_next, outKeeps_ite, keeps_mk, plain_keeps, keeps_ite, keeps_foldl,
      keeps_foldl_fst, apply_ite Prod.fst, apply_ite Prod.snd, implies_true, and_self, *]

@[simp] theorem execResume_keeps {s0 s : State} (bken : Bool) (h : Keeps s0 s) : OutKeeps s0 (execResume bken s) := by
  unfold execResume
  simp (maxDischargeDepth := 60) +contextual only [arrive_keeps, outKeeps_next, outKeeps_ite, keeps_mk, plain_keeps, keeps_ite, keeps_foldl,
      keeps_foldl_fst, apply_ite Prod.fst, apply_ite Prod.snd, implies_true, and_self, *]

end Sys2Proof.Machine
end

