-- ==== Sys2Proof/Laws/StackInstr.lean ====
section
/-! SUPPORT. Each operation of Machine/StackInstr.lean keeps the queue and the canonical form of the tables. -/

set_option linter.all false

namespace Sys2Proof.Machine

@[simp] theorem execINop_keeps {s0 s : State} (t : Fin 64) (h : Keeps s0 s) : OutKeeps s0 (execINop t s) := by
  unfold execINop
  simp (maxDischargeDepth := 60) +contextual only [stackOp_keeps, outKeeps_next, outKeeps_ite, keeps_mk, plain_keeps, keeps_ite, keeps_foldl,
      keeps_foldl_fst, apply_ite Prod.fst, apply_ite Prod.snd, implies_true, and_self, *]

@[simp] theorem execIDup_keeps {s0 s : State} (t : Fin 64) (h : Keeps s0 s) : OutKeeps s0 (execIDup t s) := by
  unfold execIDup
  simp (maxDischargeDepth := 60) +contextual only [stackOp_keeps, outKeeps_next, outKeeps_ite, keeps_mk, plain_keeps, keeps_ite, keeps_foldl,
      keeps_foldl_fst, apply_ite Prod.fst, apply_ite Prod.snd, implies_true, and_self, *]

@[simp] theorem execIDrop_keeps {s0 s : State} (t : Fin 64) (h : Keeps s0 s) : OutKeeps s0 (execIDrop t s) := by
  unfold execIDrop
  simp (maxDischargeDepth := 60) +contextual only [stackOp_keeps, outKeeps_next, outKeeps_ite, keeps_mk, plain_keeps, keeps_ite, keeps_foldl,
      keeps_foldl_fst, apply_ite Prod.fst, apply_ite Prod.snd, implies_true, and_self, *]

@[simp] theorem execISwap_keeps {s0 s : State} (t : Fin 64) (h : Keeps s0 s) : OutKeeps s0 (execISwap t s) := by
  unfold execISwap
  simp (maxDischargeDepth := 60) +contextual only [stackOp_keeps, outKeeps_next, outKeeps_ite, keeps_mk, plain_keeps, keeps_ite, keeps_foldl,
      keeps_foldl_fst, apply_ite Prod.fst, apply_ite Prod.snd, implies_true, and_self, *]

@[simp] theorem execIOver_keeps {s0 s : State} (t : Fin 64) (h : Keeps s0 s) : OutKeeps s0 (execIOver t s) := by
  unfold execIOver
  simp (maxDischargeDepth := 60) +contextual only [stackOp_keeps, outKeeps_next, outKeeps_ite, keeps_mk, plain_keeps, keeps_ite, keeps_foldl,
      keeps_foldl_fst, apply_ite Prod.fst, apply_ite Prod.snd, implies_true, and_self, *]

@[simp] theorem execINip_keeps {s0 s : State} (t : Fin 64) (h : Keeps s0 s) : OutKeeps s0 (execINip t s) := by
  unfold execINip
  simp (maxDischargeDepth := 60) +contextual only [stackOp_keeps, outKeeps_next, outKeeps_ite, keeps_mk, plain_keeps, keeps_ite, keeps_foldl,
      keeps_foldl_fst, apply_ite Prod.fst, apply_ite Prod.snd, implies_true, and_self, *]

@[simp] theorem execITuck_keeps {s0 s : State} (t : Fin 64) (h : Keeps s0 s) : OutKeeps s0 (execITuck t s) := by
  unfold execITuck
  simp (maxDischargeDepth := 60) +contextual only [stackOp_keeps, outKeeps_next, outKeeps_ite, keeps_mk, plain_keeps, keeps_ite, keeps_foldl,
      keeps_foldl_fst, apply_ite Prod.fst, apply_ite Prod.snd, implies_true, and_self, *]

@[simp] theorem execIRot_keeps {s0 s : State} (t : Fin 64) (h : Keeps s0 s) : OutKeeps s0 (execIRot t s) := by
  unfold execIRot
  simp (maxDischargeDepth := 60) +contextual only [stackOp_keeps, outKeeps_next, outKeeps_ite, keeps_mk, plain_keeps, keeps_ite, keeps_foldl,
      keeps_foldl_fst, apply_ite Prod.fst, apply_ite Prod.snd, implies_true, and_self, *]

@[simp] theorem execIMinusRot_keeps {s0 s : State} (t : Fin 64) (h : Keeps s0 s) : OutKeeps s0 (execIMinusRot t s) := by
  unfold execIMinusRot
  simp (maxDischargeDepth := 60) +contextual only [stackOp_keeps, outKeeps_next, outKeeps_ite, keeps_mk, plain_keeps, keeps_ite, keeps_foldl,
      keeps_foldl_fst, apply_ite Prod.fst, apply_ite Prod.snd, implies_true, and_self, *]

@[simp] theorem execITwoDup_keeps {s0 s : State} (t : Fin 64) (h : Keeps s0 s) : OutKeeps s0 (execITwoDup t s) := by
  unfold execITwoDup
  simp (maxDischargeDepth := 60) +contextual only [stackOp_keeps, outKeeps_next, outKeeps_ite, keeps_mk, plain_keeps, keeps_ite, keeps_foldl,
      keeps_foldl_fst, apply_ite Prod.fst, apply_ite Prod.snd, implies_true, and_self, *]

@[simp] theorem execITwoDrop_keeps {s0 s : State} (t : Fin 64) (h : Keeps s0 s) : OutKeeps s0 (execITwoDrop t s) := by
  unfold execITwoDrop
  simp (maxDischargeDepth := 60) +contextual only [stackOp_keeps, outKeeps_next, outKeeps_ite, keeps_mk, plain_keeps, keeps_ite, keeps_foldl,
      keeps_foldl_fst, apply_ite Prod.fst, apply_ite Prod.snd, implies_true, and_self, *]

@[simp] theorem execITwoSwap_keeps {s0 s : State} (t : Fin 64) (h : Keeps s0 s) : OutKeeps s0 (execITwoSwap t s) := by
  unfold execITwoSwap
  simp (maxDischargeDepth := 60) +contextual only [stackOp_keeps, outKeeps_next, outKeeps_ite, keeps_mk, plain_keeps, keeps_ite, keeps_foldl,
      keeps_foldl_fst, apply_ite Prod.fst, apply_ite Prod.snd, implies_true, and_self, *]

@[simp] theorem execITwoOver_keeps {s0 s : State} (t : Fin 64) (h : Keeps s0 s) : OutKeeps s0 (execITwoOver t s) := by
  unfold execITwoOver
  simp (maxDischargeDepth := 60) +contextual only [stackOp_keeps, outKeeps_next, outKeeps_ite, keeps_mk, plain_keeps, keeps_ite, keeps_foldl,
      keeps_foldl_fst, apply_ite Prod.fst, apply_ite Prod.snd, implies_true, and_self, *]

@[simp] theorem execIPick_keeps {s0 s : State} (t : Fin 64) (n : Byte) (h : Keeps s0 s) : OutKeeps s0 (execIPick t n s) := by
  unfold execIPick
  simp (maxDischargeDepth := 60) +contextual only [stackOp_keeps, outKeeps_next, outKeeps_ite, keeps_mk, plain_keeps, keeps_ite, keeps_foldl,
      keeps_foldl_fst, apply_ite Prod.fst, apply_ite Prod.snd, implies_true, and_self, *]

@[simp] theorem execIRoll_keeps {s0 s : State} (t : Fin 64) (n : Byte) (h : Keeps s0 s) : OutKeeps s0 (execIRoll t n s) := by
  unfold execIRoll
  simp (maxDischargeDepth := 60) +contextual only [stackOp_keeps, outKeeps_next, outKeeps_ite, keeps_mk, plain_keeps, keeps_ite, keeps_foldl,
      keeps_foldl_fst, apply_ite Prod.fst, apply_ite Prod.snd, implies_true, and_self, *]

@[simp] theorem execIDepth_keeps {s0 s : State} (t : Fin 64) (h : Keeps s0 s) : OutKeeps s0 (execIDepth t s) := by
  unfold execIDepth
  simp (maxDischargeDepth := 60) +contextual only [stackOp_keeps, outKeeps_next, outKeeps_ite, keeps_mk, plain_keeps, keeps_ite, keeps_foldl,
      keeps_foldl_fst, apply_ite Prod.fst, apply_ite Prod.snd, implies_true, and_self, *]

@[simp] theorem execIToR_keeps {s0 s : State} (t : Fin 64) (h : Keeps s0 s) : OutKeeps s0 (execIToR t s) := by
  unfold execIToR
  simp (maxDischargeDepth := 60) +contextual only [stackOp2_keeps, outKeeps_next, outKeeps_ite, keeps_mk, plain_keeps, keeps_ite, keeps_foldl,
      keeps_foldl_fst, apply_ite Prod.fst, apply_ite Prod.snd, implies_true, and_self, *]

@[simp] theorem execIRFrom_keeps {s0 s : State} (t : Fin 64) (h : Keeps s0 s) : OutKeeps s0 (execIRFrom t s) := by
  unfold execIRFrom
  simp (maxDischargeDepth := 60) +contextual only [stackOp2_keeps, outKeeps_next, outKeeps_ite, keeps_mk, plain_keeps, keeps_ite, keeps_foldl,
      keeps_foldl_fst, apply_ite Prod.fst, apply_ite Prod.snd, implies_true, and_self, *]

@[simp] theorem execIRFetch_keeps {s0 s : State} (t : Fin 64) (h : Keeps s0 s) : OutKeeps s0 (execIRFetch t s) := by
  unfold execIRFetch
  simp (maxDischargeDepth := 60) +contextual only [stackOp2_keeps, outKeeps_next, outKeeps_ite, keeps_mk, plain_keeps, keeps_ite, keeps_foldl,
      keeps_foldl_fst, apply_ite Prod.fst, apply_ite Prod.snd, implies_true, and_self, *]

@[simp] theorem execIRdrop_keeps {s0 s : State} (t : Fin 64) (h : Keeps s0 s) : OutKeeps s0 (execIRdrop t s) := by
  unfold execIRdrop
  simp (maxDischargeDepth := 60) +contextual only [stackOp2_keeps, outKeeps_next, outKeeps_ite, keeps_mk, plain_keeps, keeps_ite, keeps_foldl,
      keeps_foldl_fst, apply_ite Prod.fst, apply_ite Prod.snd, implies_true, and_self, *]

@[simp] theorem execIK_keeps {s0 s : State} (t : Fin 64) (n : Fin 17) (h : Keeps s0 s) : OutKeeps s0 (execIK t n s) := by
  unfold execIK
  simp (maxDischargeDepth := 60) +contextual only [stackOp_keeps, outKeeps_next, outKeeps_ite, keeps_mk, plain_keeps, keeps_ite, keeps_foldl,
      keeps_foldl_fst, apply_ite Prod.fst, apply_ite Prod.snd, implies_true, and_self, *]

@[simp] theorem execIKm1_keeps {s0 s : State} (t : Fin 64) (h : Keeps s0 s) : OutKeeps s0 (execIKm1 t s) := by
  unfold execIKm1
  simp (maxDischargeDepth := 60) +contextual only [stackOp_keeps, outKeeps_next, outKeeps_ite, keeps_mk, plain_keeps, keeps_ite, keeps_foldl,
      keeps_foldl_fst, apply_ite Prod.fst, apply_ite Prod.snd, implies_true, and_self, *]

@[simp] theorem execILit_keeps {s0 s : State} (t : Fin 64) (k : Byte) (h : Keeps s0 s) : OutKeeps s0 (execILit t k s) := by
  unfold execILit
  simp (maxDischargeDepth := 60) +contextual only [stackOp_keeps, outKeeps_next, outKeeps_ite, keeps_mk, plain_keeps, keeps_ite, keeps_foldl,
      keeps_foldl_fst, apply_ite Prod.fst, apply_ite Prod.snd, implies_true, and_self, *]

@[simp] theorem execILitu_keeps {s0 s : State} (t : Fin 64) (k : Byte) (h : Keeps s0 s) : OutKeeps s0 (execILitu t k s) := by
  unfold execILitu
  simp (maxDischargeDepth := 60) +contextual only [stackOp_keeps, outKeeps_next, outKeeps_ite, keeps_mk, plain_keeps, keeps_ite, keeps_foldl,
      keeps_foldl_fst, apply_ite Prod.fst, apply_ite Prod.snd, implies_true, and_self, *]

@[simp] theorem execILit16_keeps {s0 s : State} (t : Fin 64) (k : BitVec 16) (h : Keeps s0 s) : OutKeeps s0 (execILit16 t k s) := by
  unfold execILit16
  simp (maxDischargeDepth := 60) +contextual only [stackOp_keeps, outKeeps_next, outKeeps_ite, keeps_mk, plain_keeps, keeps_ite, keeps_foldl,
      keeps_foldl_fst, apply_ite Prod.fst, apply_ite Prod.snd, implies_true, and_self, *]

@[simp] theorem execILit32_keeps {s0 s : State} (t : Fin 64) (k : Word) (h : Keeps s0 s) : OutKeeps s0 (execILit32 t k s) := by
  unfold execILit32
  simp (maxDischargeDepth := 60) +contextual only [stackOp_keeps, outKeeps_next, outKeeps_ite, keeps_mk, plain_keeps, keeps_ite, keeps_foldl,
      keeps_foldl_fst, apply_ite Prod.fst, apply_ite Prod.snd, implies_true, and_self, *]

@[simp] theorem execILith_keeps {s0 s : State} (t : Fin 64) (k : BitVec 16) (h : Keeps s0 s) : OutKeeps s0 (execILith t k s) := by
  unfold execILith
  simp (maxDischargeDepth := 60) +contextual only [stackOp_keeps, outKeeps_next, outKeeps_ite, keeps_mk, plain_keeps, keeps_ite, keeps_foldl,
      keeps_foldl_fst, apply_ite Prod.fst, apply_ite Prod.snd, implies_true, and_self, *]

end Sys2Proof.Machine
end

