-- ==== Sys2Proof/Laws/ArithInstr.lean ====
section
/-! SUPPORT. Each operation of Machine/ArithInstr.lean keeps the queue and the canonical form of the tables. -/

set_option linter.all false

namespace Sys2Proof.Machine

@[simp] theorem execIAdd_keeps {s0 s : State} (t : Fin 64) (h : Keeps s0 s) : OutKeeps s0 (execIAdd t s) := by
  unfold execIAdd
  simp (maxDischargeDepth := 60) +contextual only [aluOp_keeps, outKeeps_next, outKeeps_ite, keeps_mk, plain_keeps, keeps_ite, keeps_foldl, keeps_foldl_fst,
      apply_ite Prod.fst, apply_ite Prod.snd, implies_true, and_self, *]

@[simp] theorem execISub_keeps {s0 s : State} (t : Fin 64) (h : Keeps s0 s) : OutKeeps s0 (execISub t s) := by
  unfold execISub
  simp (maxDischargeDepth := 60) +contextual only [aluOp_keeps, outKeeps_next, outKeeps_ite, keeps_mk, plain_keeps, keeps_ite, keeps_foldl, keeps_foldl_fst,
      apply_ite Prod.fst, apply_ite Prod.snd, implies_true, and_self, *]

@[simp] theorem execINeg_keeps {s0 s : State} (t : Fin 64) (h : Keeps s0 s) : OutKeeps s0 (execINeg t s) := by
  unfold execINeg
  simp (maxDischargeDepth := 60) +contextual only [aluOp_keeps, outKeeps_next, outKeeps_ite, keeps_mk, plain_keeps, keeps_ite, keeps_foldl, keeps_foldl_fst,
      apply_ite Prod.fst, apply_ite Prod.snd, implies_true, and_self, *]

@[simp] theorem execIAdc_keeps {s0 s : State} (t : Fin 64) (h : Keeps s0 s) : OutKeeps s0 (execIAdc t s) := by
  unfold execIAdc
  simp (maxDischargeDepth := 60) +contextual only [aluOp_keeps, outKeeps_next, outKeeps_ite, keeps_mk, plain_keeps, keeps_ite, keeps_foldl, keeps_foldl_fst,
      apply_ite Prod.fst, apply_ite Prod.snd, implies_true, and_self, *]

@[simp] theorem execISbc_keeps {s0 s : State} (t : Fin 64) (h : Keeps s0 s) : OutKeeps s0 (execISbc t s) := by
  unfold execISbc
  simp (maxDischargeDepth := 60) +contextual only [aluOp_keeps, outKeeps_next, outKeeps_ite, keeps_mk, plain_keeps, keeps_ite, keeps_foldl, keeps_foldl_fst,
      apply_ite Prod.fst, apply_ite Prod.snd, implies_true, and_self, *]

@[simp] theorem execICmp_keeps {s0 s : State} (t : Fin 64) (h : Keeps s0 s) : OutKeeps s0 (execICmp t s) := by
  unfold execICmp
  simp (maxDischargeDepth := 60) +contextual only [aluOp_keeps, outKeeps_next, outKeeps_ite, keeps_mk, plain_keeps, keeps_ite, keeps_foldl, keeps_foldl_fst,
      apply_ite Prod.fst, apply_ite Prod.snd, implies_true, and_self, *]

@[simp] theorem execIMul_keeps {s0 s : State} (t : Fin 64) (h : Keeps s0 s) : OutKeeps s0 (execIMul t s) := by
  unfold execIMul
  simp (maxDischargeDepth := 60) +contextual only [aluOp_keeps, outKeeps_next, outKeeps_ite, keeps_mk, plain_keeps, keeps_ite, keeps_foldl, keeps_foldl_fst,
      apply_ite Prod.fst, apply_ite Prod.snd, implies_true, and_self, *]

@[simp] theorem execIMulh_keeps {s0 s : State} (t : Fin 64) (h : Keeps s0 s) : OutKeeps s0 (execIMulh t s) := by
  unfold execIMulh
  simp (maxDischargeDepth := 60) +contextual only [aluOp_keeps, outKeeps_next, outKeeps_ite, keeps_mk, plain_keeps, keeps_ite, keeps_foldl, keeps_foldl_fst,
      apply_ite Prod.fst, apply_ite Prod.snd, implies_true, and_self, *]

@[simp] theorem execIMulhu_keeps {s0 s : State} (t : Fin 64) (h : Keeps s0 s) : OutKeeps s0 (execIMulhu t s) := by
  unfold execIMulhu
  simp (maxDischargeDepth := 60) +contextual only [aluOp_keeps, outKeeps_next, outKeeps_ite, keeps_mk, plain_keeps, keeps_ite, keeps_foldl, keeps_foldl_fst,
      apply_ite Prod.fst, apply_ite Prod.snd, implies_true, and_self, *]

@[simp] theorem execIAnd_keeps {s0 s : State} (t : Fin 64) (h : Keeps s0 s) : OutKeeps s0 (execIAnd t s) := by
  unfold execIAnd
  simp (maxDischargeDepth := 60) +contextual only [aluOp_keeps, outKeeps_next, outKeeps_ite, keeps_mk, plain_keeps, keeps_ite, keeps_foldl, keeps_foldl_fst,
      apply_ite Prod.fst, apply_ite Prod.snd, implies_true, and_self, *]

@[simp] theorem execIOr_keeps {s0 s : State} (t : Fin 64) (h : Keeps s0 s) : OutKeeps s0 (execIOr t s) := by
  unfold execIOr
  simp (maxDischargeDepth := 60) +contextual only [aluOp_keeps, outKeeps_next, outKeeps_ite, keeps_mk, plain_keeps, keeps_ite, keeps_foldl, keeps_foldl_fst,
      apply_ite Prod.fst, apply_ite Prod.snd, implies_true, and_self, *]

@[simp] theorem execIXor_keeps {s0 s : State} (t : Fin 64) (h : Keeps s0 s) : OutKeeps s0 (execIXor t s) := by
  unfold execIXor
  simp (maxDischargeDepth := 60) +contextual only [aluOp_keeps, outKeeps_next, outKeeps_ite, keeps_mk, plain_keeps, keeps_ite, keeps_foldl, keeps_foldl_fst,
      apply_ite Prod.fst, apply_ite Prod.snd, implies_true, and_self, *]

@[simp] theorem execINot_keeps {s0 s : State} (t : Fin 64) (h : Keeps s0 s) : OutKeeps s0 (execINot t s) := by
  unfold execINot
  simp (maxDischargeDepth := 60) +contextual only [aluOp_keeps, outKeeps_next, outKeeps_ite, keeps_mk, plain_keeps, keeps_ite, keeps_foldl, keeps_foldl_fst,
      apply_ite Prod.fst, apply_ite Prod.snd, implies_true, and_self, *]

@[simp] theorem execIShl_keeps {s0 s : State} (t : Fin 64) (h : Keeps s0 s) : OutKeeps s0 (execIShl t s) := by
  unfold execIShl
  simp (maxDischargeDepth := 60) +contextual only [aluOp_keeps, outKeeps_next, outKeeps_ite, keeps_mk, plain_keeps, keeps_ite, keeps_foldl, keeps_foldl_fst,
      apply_ite Prod.fst, apply_ite Prod.snd, implies_true, and_self, *]

@[simp] theorem execIShr_keeps {s0 s : State} (t : Fin 64) (h : Keeps s0 s) : OutKeeps s0 (execIShr t s) := by
  unfold execIShr
  simp (maxDischargeDepth := 60) +contextual only [aluOp_keeps, outKeeps_next, outKeeps_ite, keeps_mk, plain_keeps, keeps_ite, keeps_foldl, keeps_foldl_fst,
      apply_ite Prod.fst, apply_ite Prod.snd, implies_true, and_self, *]

@[simp] theorem execISar_keeps {s0 s : State} (t : Fin 64) (h : Keeps s0 s) : OutKeeps s0 (execISar t s) := by
  unfold execISar
  simp (maxDischargeDepth := 60) +contextual only [aluOp_keeps, outKeeps_next, outKeeps_ite, keeps_mk, plain_keeps, keeps_ite, keeps_foldl, keeps_foldl_fst,
      apply_ite Prod.fst, apply_ite Prod.snd, implies_true, and_self, *]

@[simp] theorem execIRol_keeps {s0 s : State} (t : Fin 64) (h : Keeps s0 s) : OutKeeps s0 (execIRol t s) := by
  unfold execIRol
  simp (maxDischargeDepth := 60) +contextual only [aluOp_keeps, outKeeps_next, outKeeps_ite, keeps_mk, plain_keeps, keeps_ite, keeps_foldl, keeps_foldl_fst,
      apply_ite Prod.fst, apply_ite Prod.snd, implies_true, and_self, *]

@[simp] theorem execIRor_keeps {s0 s : State} (t : Fin 64) (h : Keeps s0 s) : OutKeeps s0 (execIRor t s) := by
  unfold execIRor
  simp (maxDischargeDepth := 60) +contextual only [aluOp_keeps, outKeeps_next, outKeeps_ite, keeps_mk, plain_keeps, keeps_ite, keeps_foldl, keeps_foldl_fst,
      apply_ite Prod.fst, apply_ite Prod.snd, implies_true, and_self, *]

@[simp] theorem execIAddi_keeps {s0 s : State} (t : Fin 64) (k : Byte) (h : Keeps s0 s) : OutKeeps s0 (execIAddi t k s) := by
  unfold execIAddi
  simp (maxDischargeDepth := 60) +contextual only [aluOp_keeps, outKeeps_next, outKeeps_ite, keeps_mk, plain_keeps, keeps_ite, keeps_foldl, keeps_foldl_fst,
      apply_ite Prod.fst, apply_ite Prod.snd, implies_true, and_self, *]

@[simp] theorem execIMin_keeps {s0 s : State} (t : Fin 64) (h : Keeps s0 s) : OutKeeps s0 (execIMin t s) := by
  unfold execIMin
  simp (maxDischargeDepth := 60) +contextual only [aluOp_keeps, outKeeps_next, outKeeps_ite, keeps_mk, plain_keeps, keeps_ite, keeps_foldl, keeps_foldl_fst,
      apply_ite Prod.fst, apply_ite Prod.snd, implies_true, and_self, *]

@[simp] theorem execIMax_keeps {s0 s : State} (t : Fin 64) (h : Keeps s0 s) : OutKeeps s0 (execIMax t s) := by
  unfold execIMax
  simp (maxDischargeDepth := 60) +contextual only [aluOp_keeps, outKeeps_next, outKeeps_ite, keeps_mk, plain_keeps, keeps_ite, keeps_foldl, keeps_foldl_fst,
      apply_ite Prod.fst, apply_ite Prod.snd, implies_true, and_self, *]

@[simp] theorem execIMinu_keeps {s0 s : State} (t : Fin 64) (h : Keeps s0 s) : OutKeeps s0 (execIMinu t s) := by
  unfold execIMinu
  simp (maxDischargeDepth := 60) +contextual only [aluOp_keeps, outKeeps_next, outKeeps_ite, keeps_mk, plain_keeps, keeps_ite, keeps_foldl, keeps_foldl_fst,
      apply_ite Prod.fst, apply_ite Prod.snd, implies_true, and_self, *]

@[simp] theorem execIMaxu_keeps {s0 s : State} (t : Fin 64) (h : Keeps s0 s) : OutKeeps s0 (execIMaxu t s) := by
  unfold execIMaxu
  simp (maxDischargeDepth := 60) +contextual only [aluOp_keeps, outKeeps_next, outKeeps_ite, keeps_mk, plain_keeps, keeps_ite, keeps_foldl, keeps_foldl_fst,
      apply_ite Prod.fst, apply_ite Prod.snd, implies_true, and_self, *]

@[simp] theorem execIAbs_keeps {s0 s : State} (t : Fin 64) (h : Keeps s0 s) : OutKeeps s0 (execIAbs t s) := by
  unfold execIAbs
  simp (maxDischargeDepth := 60) +contextual only [aluOp_keeps, outKeeps_next, outKeeps_ite, keeps_mk, plain_keeps, keeps_ite, keeps_foldl, keeps_foldl_fst,
      apply_ite Prod.fst, apply_ite Prod.snd, implies_true, and_self, *]

@[simp] theorem execISextb_keeps {s0 s : State} (t : Fin 64) (h : Keeps s0 s) : OutKeeps s0 (execISextb t s) := by
  unfold execISextb
  simp (maxDischargeDepth := 60) +contextual only [aluOp_keeps, outKeeps_next, outKeeps_ite, keeps_mk, plain_keeps, keeps_ite, keeps_foldl, keeps_foldl_fst,
      apply_ite Prod.fst, apply_ite Prod.snd, implies_true, and_self, *]

@[simp] theorem execISexth_keeps {s0 s : State} (t : Fin 64) (h : Keeps s0 s) : OutKeeps s0 (execISexth t s) := by
  unfold execISexth
  simp (maxDischargeDepth := 60) +contextual only [aluOp_keeps, outKeeps_next, outKeeps_ite, keeps_mk, plain_keeps, keeps_ite, keeps_foldl, keeps_foldl_fst,
      apply_ite Prod.fst, apply_ite Prod.snd, implies_true, and_self, *]

@[simp] theorem execIBswap_keeps {s0 s : State} (t : Fin 64) (h : Keeps s0 s) : OutKeeps s0 (execIBswap t s) := by
  unfold execIBswap
  simp (maxDischargeDepth := 60) +contextual only [aluOp_keeps, outKeeps_next, outKeeps_ite, keeps_mk, plain_keeps, keeps_ite, keeps_foldl, keeps_foldl_fst,
      apply_ite Prod.fst, apply_ite Prod.snd, implies_true, and_self, *]

@[simp] theorem execIFlgFetch_keeps {s0 s : State} (t : Fin 64) (h : Keeps s0 s) : OutKeeps s0 (execIFlgFetch t s) := by
  unfold execIFlgFetch
  simp (maxDischargeDepth := 60) +contextual only [aluOp_keeps, outKeeps_next, outKeeps_ite, keeps_mk, plain_keeps, keeps_ite, keeps_foldl, keeps_foldl_fst,
      apply_ite Prod.fst, apply_ite Prod.snd, implies_true, and_self, *]

@[simp] theorem execIFlgStore_keeps {s0 s : State} (t : Fin 64) (h : Keeps s0 s) : OutKeeps s0 (execIFlgStore t s) := by
  unfold execIFlgStore
  simp (maxDischargeDepth := 60) +contextual only [aluOp_keeps, outKeeps_next, outKeeps_ite, keeps_mk, plain_keeps, keeps_ite, keeps_foldl, keeps_foldl_fst,
      apply_ite Prod.fst, apply_ite Prod.snd, implies_true, and_self, *]

@[simp] theorem divide_keeps {s0 s : State} (t : Nat) (code : Nat) (sgn : Bool) (h : Keeps s0 s) : Keeps s0 (State.divide s t code sgn) := by
  unfold State.divide
  simp (maxDischargeDepth := 60) +contextual only [issue_keeps, faultAt_keeps, setThr_keeps, divAsk_keeps, keeps_mk, plain_keeps, keeps_ite, keeps_foldl,
      keeps_foldl_fst, apply_ite Prod.fst, apply_ite Prod.snd, implies_true, and_self, *]

@[simp] theorem execIDiv_keeps {s0 s : State} (t : Fin 64) (h : Keeps s0 s) : OutKeeps s0 (execIDiv t s) := by
  unfold execIDiv
  simp (maxDischargeDepth := 60) +contextual only [divide_keeps, outKeeps_next, outKeeps_ite, keeps_mk, plain_keeps, keeps_ite, keeps_foldl,
      keeps_foldl_fst, apply_ite Prod.fst, apply_ite Prod.snd, implies_true, and_self, *]

@[simp] theorem execIDivu_keeps {s0 s : State} (t : Fin 64) (h : Keeps s0 s) : OutKeeps s0 (execIDivu t s) := by
  unfold execIDivu
  simp (maxDischargeDepth := 60) +contextual only [divide_keeps, outKeeps_next, outKeeps_ite, keeps_mk, plain_keeps, keeps_ite, keeps_foldl,
      keeps_foldl_fst, apply_ite Prod.fst, apply_ite Prod.snd, implies_true, and_self, *]

@[simp] theorem execDivisionComplete_keeps {s0 s : State} (b : Fin 4) (m : Nat) (h : Keeps s0 s) : OutKeeps s0 (execDivisionComplete b m s) := by
  unfold execDivisionComplete
  repeat' first
    | (extract_lets +onlyGivenNames x
       try (have hx : Keeps s0 x := (by
         simp only [x]
         repeat' first
           | (simp (maxDischargeDepth := 60) +contextual only [parkBill_keeps, setThr_keeps, setBlk_keeps, divPass_keeps, outKeeps_next, outKeeps_ite, keeps_mk,
      plain_keeps, keeps_ite, keeps_foldl, keeps_foldl_fst, apply_ite Prod.fst, apply_ite Prod.snd,
      implies_true, and_self, *]
              done)
           | refine keeps_foldl ?_ (fun s b hs => ?_)
           | refine keeps_foldl_fst ?_ (fun p b hp => ?_)
           | split))
       try (have hx : Keeps s0 x.1 := (by simp (maxDischargeDepth := 60) +contextual only [x, parkBill_keeps, setThr_keeps, setBlk_keeps, divPass_keeps, outKeeps_next, outKeeps_ite, keeps_mk,
      plain_keeps, keeps_ite, keeps_foldl, keeps_foldl_fst, apply_ite Prod.fst, apply_ite Prod.snd,
      implies_true, and_self, *]))
       clear_value x)
    | (simp (maxDischargeDepth := 60) +contextual only [parkBill_keeps, setThr_keeps, setBlk_keeps, divPass_keeps, outKeeps_next, outKeeps_ite, keeps_mk,
      plain_keeps, keeps_ite, keeps_foldl, keeps_foldl_fst, apply_ite Prod.fst, apply_ite Prod.snd,
      implies_true, and_self, *]
       done)
    | refine keeps_foldl ?_ (fun s b hs => ?_)
    | refine keeps_foldl_fst ?_ (fun p b hp => ?_)
    | refine each_keeps ?_ (fun s i hs => ?_)
    | (split
       all_goals try (rename_i heq
                      have hk := keeps_pair (s0 := s0) heq (by clear heq; simp (maxDischargeDepth := 60) +contextual only [parkBill_keeps, setThr_keeps, setBlk_keeps, divPass_keeps, outKeeps_next, outKeeps_ite, keeps_mk,
      plain_keeps, keeps_ite, keeps_foldl, keeps_foldl_fst, apply_ite Prod.fst, apply_ite Prod.snd,
      implies_true, and_self, *])
                      clear heq))

@[simp] theorem execICrcB_keeps {s0 s : State} (t : Fin 64) (p : Fin 4) (h : Keeps s0 s) : OutKeeps s0 (execICrcB t p s) := by
  unfold execICrcB
  simp (maxDischargeDepth := 60) +contextual only [aluOp_keeps, outKeeps_next, outKeeps_ite, keeps_mk, plain_keeps, keeps_ite, keeps_foldl, keeps_foldl_fst,
      apply_ite Prod.fst, apply_ite Prod.snd, implies_true, and_self, *]

@[simp] theorem execICrcW_keeps {s0 s : State} (t : Fin 64) (p : Fin 4) (h : Keeps s0 s) : OutKeeps s0 (execICrcW t p s) := by
  unfold execICrcW
  simp (maxDischargeDepth := 60) +contextual only [aluOp_keeps, outKeeps_next, outKeeps_ite, keeps_mk, plain_keeps, keeps_ite, keeps_foldl, keeps_foldl_fst,
      apply_ite Prod.fst, apply_ite Prod.snd, implies_true, and_self, *]

@[simp] theorem execIPar_keeps {s0 s : State} (t : Fin 64) (h : Keeps s0 s) : OutKeeps s0 (execIPar t s) := by
  unfold execIPar
  simp (maxDischargeDepth := 60) +contextual only [aluOp_keeps, outKeeps_next, outKeeps_ite, keeps_mk, plain_keeps, keeps_ite, keeps_foldl, keeps_foldl_fst,
      apply_ite Prod.fst, apply_ite Prod.snd, implies_true, and_self, *]

@[simp] theorem execIPopc_keeps {s0 s : State} (t : Fin 64) (h : Keeps s0 s) : OutKeeps s0 (execIPopc t s) := by
  unfold execIPopc
  simp (maxDischargeDepth := 60) +contextual only [aluOp_keeps, outKeeps_next, outKeeps_ite, keeps_mk, plain_keeps, keeps_ite, keeps_foldl, keeps_foldl_fst,
      apply_ite Prod.fst, apply_ite Prod.snd, implies_true, and_self, *]

@[simp] theorem execIClz_keeps {s0 s : State} (t : Fin 64) (h : Keeps s0 s) : OutKeeps s0 (execIClz t s) := by
  unfold execIClz
  simp (maxDischargeDepth := 60) +contextual only [aluOp_keeps, outKeeps_next, outKeeps_ite, keeps_mk, plain_keeps, keeps_ite, keeps_foldl, keeps_foldl_fst,
      apply_ite Prod.fst, apply_ite Prod.snd, implies_true, and_self, *]

@[simp] theorem execIBrev_keeps {s0 s : State} (t : Fin 64) (n : Byte) (h : Keeps s0 s) : OutKeeps s0 (execIBrev t n s) := by
  unfold execIBrev
  simp (maxDischargeDepth := 60) +contextual only [aluOp_keeps, outKeeps_next, outKeeps_ite, keeps_mk, plain_keeps, keeps_ite, keeps_foldl, keeps_foldl_fst,
      apply_ite Prod.fst, apply_ite Prod.snd, implies_true, and_self, *]

end Sys2Proof.Machine
end

