-- ==== Sys2Proof/Laws/MemoryInstr.lean ====
section
/-! SUPPORT. Each operation of Machine/MemoryInstr.lean keeps the queue and the canonical form of the tables. -/

set_option linter.all false

namespace Sys2Proof.Machine

@[simp] theorem execILdb_keeps {s0 s : State} (t : Fin 64) (h : Keeps s0 s) : OutKeeps s0 (execILdb t s) := by
  unfold execILdb
  simp (maxDischargeDepth := 60) +contextual only [memOp_keeps, outKeeps_next, outKeeps_ite, keeps_mk, plain_keeps, keeps_ite, keeps_foldl, keeps_foldl_fst,
      apply_ite Prod.fst, apply_ite Prod.snd, implies_true, and_self, *]

@[simp] theorem execILdbs_keeps {s0 s : State} (t : Fin 64) (h : Keeps s0 s) : OutKeeps s0 (execILdbs t s) := by
  unfold execILdbs
  simp (maxDischargeDepth := 60) +contextual only [memOp_keeps, outKeeps_next, outKeeps_ite, keeps_mk, plain_keeps, keeps_ite, keeps_foldl, keeps_foldl_fst,
      apply_ite Prod.fst, apply_ite Prod.snd, implies_true, and_self, *]

@[simp] theorem execILdh_keeps {s0 s : State} (t : Fin 64) (h : Keeps s0 s) : OutKeeps s0 (execILdh t s) := by
  unfold execILdh
  simp (maxDischargeDepth := 60) +contextual only [memOp_keeps, outKeeps_next, outKeeps_ite, keeps_mk, plain_keeps, keeps_ite, keeps_foldl, keeps_foldl_fst,
      apply_ite Prod.fst, apply_ite Prod.snd, implies_true, and_self, *]

@[simp] theorem execILdhs_keeps {s0 s : State} (t : Fin 64) (h : Keeps s0 s) : OutKeeps s0 (execILdhs t s) := by
  unfold execILdhs
  simp (maxDischargeDepth := 60) +contextual only [memOp_keeps, outKeeps_next, outKeeps_ite, keeps_mk, plain_keeps, keeps_ite, keeps_foldl, keeps_foldl_fst,
      apply_ite Prod.fst, apply_ite Prod.snd, implies_true, and_self, *]

@[simp] theorem execILdw_keeps {s0 s : State} (t : Fin 64) (h : Keeps s0 s) : OutKeeps s0 (execILdw t s) := by
  unfold execILdw
  simp (maxDischargeDepth := 60) +contextual only [memOp_keeps, outKeeps_next, outKeeps_ite, keeps_mk, plain_keeps, keeps_ite, keeps_foldl, keeps_foldl_fst,
      apply_ite Prod.fst, apply_ite Prod.snd, implies_true, and_self, *]

@[simp] theorem execIStb_keeps {s0 s : State} (t : Fin 64) (h : Keeps s0 s) : OutKeeps s0 (execIStb t s) := by
  unfold execIStb
  simp (maxDischargeDepth := 60) +contextual only [memOp_keeps, outKeeps_next, outKeeps_ite, keeps_mk, plain_keeps, keeps_ite, keeps_foldl, keeps_foldl_fst,
      apply_ite Prod.fst, apply_ite Prod.snd, implies_true, and_self, *]

@[simp] theorem execISth_keeps {s0 s : State} (t : Fin 64) (h : Keeps s0 s) : OutKeeps s0 (execISth t s) := by
  unfold execISth
  simp (maxDischargeDepth := 60) +contextual only [memOp_keeps, outKeeps_next, outKeeps_ite, keeps_mk, plain_keeps, keeps_ite, keeps_foldl, keeps_foldl_fst,
      apply_ite Prod.fst, apply_ite Prod.snd, implies_true, and_self, *]

@[simp] theorem execIStw_keeps {s0 s : State} (t : Fin 64) (h : Keeps s0 s) : OutKeeps s0 (execIStw t s) := by
  unfold execIStw
  simp (maxDischargeDepth := 60) +contextual only [memOp_keeps, outKeeps_next, outKeeps_ite, keeps_mk, plain_keeps, keeps_ite, keeps_foldl, keeps_foldl_fst,
      apply_ite Prod.fst, apply_ite Prod.snd, implies_true, and_self, *]

@[simp] theorem execILdwo_keeps {s0 s : State} (t : Fin 64) (n : Byte) (h : Keeps s0 s) : OutKeeps s0 (execILdwo t n s) := by
  unfold execILdwo
  simp (maxDischargeDepth := 60) +contextual only [memOp_keeps, outKeeps_next, outKeeps_ite, keeps_mk, plain_keeps, keeps_ite, keeps_foldl, keeps_foldl_fst,
      apply_ite Prod.fst, apply_ite Prod.snd, implies_true, and_self, *]

@[simp] theorem execIStwo_keeps {s0 s : State} (t : Fin 64) (n : Byte) (h : Keeps s0 s) : OutKeeps s0 (execIStwo t n s) := by
  unfold execIStwo
  simp (maxDischargeDepth := 60) +contextual only [memOp_keeps, outKeeps_next, outKeeps_ite, keeps_mk, plain_keeps, keeps_ite, keeps_foldl, keeps_foldl_fst,
      apply_ite Prod.fst, apply_ite Prod.snd, implies_true, and_self, *]

@[simp] theorem execIStPlus_keeps {s0 s : State} (t : Fin 64) (h : Keeps s0 s) : OutKeeps s0 (execIStPlus t s) := by
  unfold execIStPlus
  simp (maxDischargeDepth := 60) +contextual only [memOp_keeps, outKeeps_next, outKeeps_ite, keeps_mk, plain_keeps, keeps_ite, keeps_foldl, keeps_foldl_fst,
      apply_ite Prod.fst, apply_ite Prod.snd, implies_true, and_self, *]

@[simp] theorem execIStbPlus_keeps {s0 s : State} (t : Fin 64) (h : Keeps s0 s) : OutKeeps s0 (execIStbPlus t s) := by
  unfold execIStbPlus
  simp (maxDischargeDepth := 60) +contextual only [memOp_keeps, outKeeps_next, outKeeps_ite, keeps_mk, plain_keeps, keeps_ite, keeps_foldl, keeps_foldl_fst,
      apply_ite Prod.fst, apply_ite Prod.snd, implies_true, and_self, *]

@[simp] theorem execILdwPlus_keeps {s0 s : State} (t : Fin 64) (h : Keeps s0 s) : OutKeeps s0 (execILdwPlus t s) := by
  unfold execILdwPlus
  simp (maxDischargeDepth := 60) +contextual only [memOp_keeps, outKeeps_next, outKeeps_ite, keeps_mk, plain_keeps, keeps_ite, keeps_foldl, keeps_foldl_fst,
      apply_ite Prod.fst, apply_ite Prod.snd, implies_true, and_self, *]

@[simp] theorem execIMovw_keeps {s0 s : State} (t : Fin 64) (h : Keeps s0 s) : OutKeeps s0 (execIMovw t s) := by
  unfold execIMovw
  simp (maxDischargeDepth := 60) +contextual only [memOp_keeps, outKeeps_next, outKeeps_ite, keeps_mk, plain_keeps, keeps_ite, keeps_foldl, keeps_foldl_fst,
      apply_ite Prod.fst, apply_ite Prod.snd, implies_true, and_self, *]

@[simp] theorem execIMovb_keeps {s0 s : State} (t : Fin 64) (h : Keeps s0 s) : OutKeeps s0 (execIMovb t s) := by
  unfold execIMovb
  simp (maxDischargeDepth := 60) +contextual only [memOp_keeps, outKeeps_next, outKeeps_ite, keeps_mk, plain_keeps, keeps_ite, keeps_foldl, keeps_foldl_fst,
      apply_ite Prod.fst, apply_ite Prod.snd, implies_true, and_self, *]

@[simp] theorem execIXchg_keeps {s0 s : State} (t : Fin 64) (h : Keeps s0 s) : OutKeeps s0 (execIXchg t s) := by
  unfold execIXchg
  simp (maxDischargeDepth := 60) +contextual only [memOp_keeps, outKeeps_next, outKeeps_ite, keeps_mk, plain_keeps, keeps_ite, keeps_foldl, keeps_foldl_fst,
      apply_ite Prod.fst, apply_ite Prod.snd, implies_true, and_self, *]

@[simp] theorem execICrcm_keeps {s0 s : State} (t : Fin 64) (p : Fin 4) (h : Keeps s0 s) : OutKeeps s0 (execICrcm t p s) := by
  unfold execICrcm
  simp (maxDischargeDepth := 60) +contextual only [memOp_keeps, outKeeps_next, outKeeps_ite, keeps_mk, plain_keeps, keeps_ite, keeps_foldl, keeps_foldl_fst,
      apply_ite Prod.fst, apply_ite Prod.snd, implies_true, and_self, *]

@[simp] theorem execIIn_keeps {s0 s : State} (t : Fin 64) (n : Byte) (h : Keeps s0 s) : OutKeeps s0 (execIIn t n s) := by
  unfold execIIn
  simp (maxDischargeDepth := 60) +contextual only [memOp_keeps, outKeeps_next, outKeeps_ite, keeps_mk, plain_keeps, keeps_ite, keeps_foldl, keeps_foldl_fst,
      apply_ite Prod.fst, apply_ite Prod.snd, implies_true, and_self, *]

@[simp] theorem execIOut_keeps {s0 s : State} (t : Fin 64) (n : Byte) (h : Keeps s0 s) : OutKeeps s0 (execIOut t n s) := by
  unfold execIOut
  simp (maxDischargeDepth := 60) +contextual only [memOp_keeps, arcOut_keeps, outKeeps_next, outKeeps_ite, keeps_mk, plain_keeps, keeps_ite, keeps_foldl,
      keeps_foldl_fst, apply_ite Prod.fst, apply_ite Prod.snd, implies_true, and_self, *]

@[simp] theorem execIInm_keeps {s0 s : State} (t : Fin 64) (n : Byte) (h : Keeps s0 s) : OutKeeps s0 (execIInm t n s) := by
  unfold execIInm
  simp (maxDischargeDepth := 60) +contextual only [memOp_keeps, outKeeps_next, outKeeps_ite, keeps_mk, plain_keeps, keeps_ite, keeps_foldl, keeps_foldl_fst,
      apply_ite Prod.fst, apply_ite Prod.snd, implies_true, and_self, *]

@[simp] theorem execIOutm_keeps {s0 s : State} (t : Fin 64) (n : Byte) (h : Keeps s0 s) : OutKeeps s0 (execIOutm t n s) := by
  unfold execIOutm
  simp (maxDischargeDepth := 60) +contextual only [memOp_keeps, outKeeps_next, outKeeps_ite, keeps_mk, plain_keeps, keeps_ite, keeps_foldl, keeps_foldl_fst,
      apply_ite Prod.fst, apply_ite Prod.snd, implies_true, and_self, *]

@[simp] theorem gpInstr_keeps {s0 s : State} (t : Nat) (code : Nat) (n : Byte) (v : Bool) (h : Keeps s0 s) : Keeps s0 (State.gpInstr s t code n v) := by
  unfold State.gpInstr
  simp (maxDischargeDepth := 60) +contextual only [issue_keeps, faultFree_keeps, setGpOut_keeps, retire_keeps, keeps_mk, plain_keeps, keeps_ite,
      keeps_foldl, keeps_foldl_fst, apply_ite Prod.fst, apply_ite Prod.snd, implies_true, and_self, *]

@[simp] theorem execIGps_keeps {s0 s : State} (t : Fin 64) (n : Byte) (h : Keeps s0 s) : OutKeeps s0 (execIGps t n s) := by
  unfold execIGps
  simp (maxDischargeDepth := 60) +contextual only [gpInstr_keeps, outKeeps_next, outKeeps_ite, keeps_mk, plain_keeps, keeps_ite, keeps_foldl,
      keeps_foldl_fst, apply_ite Prod.fst, apply_ite Prod.snd, implies_true, and_self, *]

@[simp] theorem execIGpc_keeps {s0 s : State} (t : Fin 64) (n : Byte) (h : Keeps s0 s) : OutKeeps s0 (execIGpc t n s) := by
  unfold execIGpc
  simp (maxDischargeDepth := 60) +contextual only [gpInstr_keeps, outKeeps_next, outKeeps_ite, keeps_mk, plain_keeps, keeps_ite, keeps_foldl,
      keeps_foldl_fst, apply_ite Prod.fst, apply_ite Prod.snd, implies_true, and_self, *]

@[simp] theorem execIMile_keeps {s0 s : State} (t : Fin 64) (h : Keeps s0 s) : OutKeeps s0 (execIMile t s) := by
  unfold execIMile
  simp (maxDischargeDepth := 60) +contextual only [stackOp_keeps, outKeeps_next, outKeeps_ite, keeps_mk, plain_keeps, keeps_ite, keeps_foldl,
      keeps_foldl_fst, apply_ite Prod.fst, apply_ite Prod.snd, implies_true, and_self, *]

@[simp] theorem execIArm_keeps {s0 s : State} (t : Fin 64) (h : Keeps s0 s) : OutKeeps s0 (execIArm t s) := by
  unfold execIArm
  refine outKeeps_next.2 ?_
  repeat' first
    | (extract_lets +onlyGivenNames x
       try (have hx : Keeps s0 x := (by
         simp only [x]
         repeat' first
           | (simp (maxDischargeDepth := 60) +contextual only [issue_keeps, faultFree_keeps, llArm_keeps, leave_keeps, outKeeps_next, outKeeps_ite, keeps_mk,
      plain_keeps, keeps_ite, keeps_foldl, keeps_foldl_fst, apply_ite Prod.fst, apply_ite Prod.snd,
      implies_true, and_self, *]
              done)
           | refine keeps_foldl ?_ (fun s b hs => ?_)
           | refine keeps_foldl_fst ?_ (fun p b hp => ?_)
           | split))
       try (have hx : Keeps s0 x.1 := (by simp (maxDischargeDepth := 60) +contextual only [x, issue_keeps, faultFree_keeps, llArm_keeps, leave_keeps, outKeeps_next, outKeeps_ite, keeps_mk,
      plain_keeps, keeps_ite, keeps_foldl, keeps_foldl_fst, apply_ite Prod.fst, apply_ite Prod.snd,
      implies_true, and_self, *]))
       clear_value x)
    | (simp (maxDischargeDepth := 60) +contextual only [issue_keeps, faultFree_keeps, llArm_keeps, leave_keeps, outKeeps_next, outKeeps_ite, keeps_mk,
      plain_keeps, keeps_ite, keeps_foldl, keeps_foldl_fst, apply_ite Prod.fst, apply_ite Prod.snd,
      implies_true, and_self, *]
       done)
    | refine issue_keeps _ _ _ (fun u hu => ?_) ?_
    | refine keeps_foldl ?_ (fun s b hs => ?_)
    | refine keeps_foldl_fst ?_ (fun p b hp => ?_)
    | refine each_keeps ?_ (fun s i hs => ?_)
    | (split
       all_goals try (rename_i heq
                      have hk := keeps_pair (s0 := s0) heq (by clear heq; simp (maxDischargeDepth := 60) +contextual only [issue_keeps, faultFree_keeps, llArm_keeps, leave_keeps, outKeeps_next, outKeeps_ite, keeps_mk,
      plain_keeps, keeps_ite, keeps_foldl, keeps_foldl_fst, apply_ite Prod.fst, apply_ite Prod.snd,
      implies_true, and_self, *])
                      clear heq))

end Sys2Proof.Machine
end

