-- ==== Sys2Proof/Laws/ControlInstr.lean ====
section
/-! SUPPORT. Each operation of Machine/ControlInstr.lean keeps the queue and the canonical form of the tables. -/

set_option linter.all false

namespace Sys2Proof.Machine

@[simp] theorem endWait_keeps {s0 s : State} (t : Nat) (h : Keeps s0 s) : Keeps s0 (State.endWait s t) := by
  unfold State.endWait
  repeat' first
    | (extract_lets +onlyGivenNames x
       try (have hx : Keeps s0 x := (by
         simp only [x]
         repeat' first
           | (simp (maxDischargeDepth := 60) +contextual only [setThr_keeps, beginActivation_keeps, keeps_mk, plain_keeps, keeps_ite, keeps_foldl, keeps_foldl_fst,
      apply_ite Prod.fst, apply_ite Prod.snd, implies_true, and_self, *]
              done)
           | refine keeps_foldl ?_ (fun s b hs => ?_)
           | refine keeps_foldl_fst ?_ (fun p b hp => ?_)
           | split))
       try (have hx : Keeps s0 x.1 := (by simp (maxDischargeDepth := 60) +contextual only [x, setThr_keeps, beginActivation_keeps, keeps_mk, plain_keeps, keeps_ite, keeps_foldl, keeps_foldl_fst,
      apply_ite Prod.fst, apply_ite Prod.snd, implies_true, and_self, *]))
       clear_value x)
    | (simp (maxDischargeDepth := 60) +contextual only [setThr_keeps, beginActivation_keeps, keeps_mk, plain_keeps, keeps_ite, keeps_foldl, keeps_foldl_fst,
      apply_ite Prod.fst, apply_ite Prod.snd, implies_true, and_self, *]
       done)
    | refine keeps_foldl ?_ (fun s b hs => ?_)
    | refine keeps_foldl_fst ?_ (fun p b hp => ?_)
    | refine each_keeps ?_ (fun s i hs => ?_)
    | (split
       all_goals try (rename_i heq
                      have hk := keeps_pair (s0 := s0) heq (by clear heq; simp (maxDischargeDepth := 60) +contextual only [setThr_keeps, beginActivation_keeps, keeps_mk, plain_keeps, keeps_ite, keeps_foldl, keeps_foldl_fst,
      apply_ite Prod.fst, apply_ite Prod.snd, implies_true, and_self, *])
                      clear heq))

@[simp] theorem execIWait_keeps {s0 s : State} (t : Fin 64) (h : Keeps s0 s) : OutKeeps s0 (execIWait t s) := by
  unfold execIWait
  simp (maxDischargeDepth := 60) +contextual only [issue_keeps, retire_keeps, endWait_keeps, outKeeps_next, outKeeps_ite, keeps_mk, plain_keeps, keeps_ite,
      keeps_foldl, keeps_foldl_fst, apply_ite Prod.fst, apply_ite Prod.snd, implies_true, and_self, *]

@[simp] theorem execIWaittick_keeps {s0 s : State} (t : Fin 64) (h : Keeps s0 s) : OutKeeps s0 (execIWaittick t s) := by
  unfold execIWaittick
  refine outKeeps_next.2 ?_
  repeat' first
    | (extract_lets +onlyGivenNames x
       try (have hx : Keeps s0 x := (by
         simp only [x]
         repeat' first
           | (simp (maxDischargeDepth := 60) +contextual only [issue_keeps, retire_keeps, setThr_keeps, outKeeps_next, outKeeps_ite, keeps_mk, plain_keeps, keeps_ite,
      keeps_foldl, keeps_foldl_fst, apply_ite Prod.fst, apply_ite Prod.snd, implies_true, and_self, *]
              done)
           | refine keeps_foldl ?_ (fun s b hs => ?_)
           | refine keeps_foldl_fst ?_ (fun p b hp => ?_)
           | split))
       try (have hx : Keeps s0 x.1 := (by simp (maxDischargeDepth := 60) +contextual only [x, issue_keeps, retire_keeps, setThr_keeps, outKeeps_next, outKeeps_ite, keeps_mk, plain_keeps, keeps_ite,
      keeps_foldl, keeps_foldl_fst, apply_ite Prod.fst, apply_ite Prod.snd, implies_true, and_self, *]))
       clear_value x)
    | (simp (maxDischargeDepth := 60) +contextual only [issue_keeps, retire_keeps, setThr_keeps, outKeeps_next, outKeeps_ite, keeps_mk, plain_keeps, keeps_ite,
      keeps_foldl, keeps_foldl_fst, apply_ite Prod.fst, apply_ite Prod.snd, implies_true, and_self, *]
       done)
    | refine issue_keeps _ _ _ (fun u hu => ?_) ?_
    | refine keeps_foldl ?_ (fun s b hs => ?_)
    | refine keeps_foldl_fst ?_ (fun p b hp => ?_)
    | refine each_keeps ?_ (fun s i hs => ?_)
    | (split
       all_goals try (rename_i heq
                      have hk := keeps_pair (s0 := s0) heq (by clear heq; simp (maxDischargeDepth := 60) +contextual only [issue_keeps, retire_keeps, setThr_keeps, outKeeps_next, outKeeps_ite, keeps_mk, plain_keeps, keeps_ite,
      keeps_foldl, keeps_foldl_fst, apply_ite Prod.fst, apply_ite Prod.snd, implies_true, and_self, *])
                      clear heq))

@[simp] theorem parkOn_keeps {s0 s : State} (t : Nat) (p : Park) (h : Keeps s0 s) : Keeps s0 (State.parkOn s t p) := by
  unfold State.parkOn
  simp (maxDischargeDepth := 60) +contextual only [setThr_keeps, keeps_mk, plain_keeps, keeps_ite, keeps_foldl, keeps_foldl_fst, apply_ite Prod.fst,
      apply_ite Prod.snd, implies_true, and_self, *]

@[simp] theorem execIYield_keeps {s0 s : State} (t : Fin 64) (h : Keeps s0 s) : OutKeeps s0 (execIYield t s) := by
  unfold execIYield
  simp (maxDischargeDepth := 60) +contextual only [issue_keeps, parkOn_keeps, outKeeps_next, outKeeps_ite, keeps_mk, plain_keeps, keeps_ite, keeps_foldl,
      keeps_foldl_fst, apply_ite Prod.fst, apply_ite Prod.snd, implies_true, and_self, *]

@[simp] theorem execYieldEnd_keeps {s0 s : State} (t : Fin 64) (h : Keeps s0 s) : OutKeeps s0 (execYieldEnd t s) := by
  unfold execYieldEnd
  refine outKeeps_next.2 ?_
  repeat' first
    | (extract_lets +onlyGivenNames x
       try (have hx : Keeps s0 x := (by
         simp only [x]
         repeat' first
           | (simp (maxDischargeDepth := 60) +contextual only [parkBill_keeps, unpark_keeps, retire_keeps, outKeeps_next, outKeeps_ite, keeps_mk, plain_keeps,
      keeps_ite, keeps_foldl, keeps_foldl_fst, apply_ite Prod.fst, apply_ite Prod.snd, implies_true, and_self,
      *]
              done)
           | refine keeps_foldl ?_ (fun s b hs => ?_)
           | refine keeps_foldl_fst ?_ (fun p b hp => ?_)
           | split))
       try (have hx : Keeps s0 x.1 := (by simp (maxDischargeDepth := 60) +contextual only [x, parkBill_keeps, unpark_keeps, retire_keeps, outKeeps_next, outKeeps_ite, keeps_mk, plain_keeps,
      keeps_ite, keeps_foldl, keeps_foldl_fst, apply_ite Prod.fst, apply_ite Prod.snd, implies_true, and_self,
      *]))
       clear_value x)
    | (simp (maxDischargeDepth := 60) +contextual only [parkBill_keeps, unpark_keeps, retire_keeps, outKeeps_next, outKeeps_ite, keeps_mk, plain_keeps,
      keeps_ite, keeps_foldl, keeps_foldl_fst, apply_ite Prod.fst, apply_ite Prod.snd, implies_true, and_self,
      *]
       done)
    | refine keeps_foldl ?_ (fun s b hs => ?_)
    | refine keeps_foldl_fst ?_ (fun p b hp => ?_)
    | refine each_keeps ?_ (fun s i hs => ?_)
    | (split
       all_goals try (rename_i heq
                      have hk := keeps_pair (s0 := s0) heq (by clear heq; simp (maxDischargeDepth := 60) +contextual only [parkBill_keeps, unpark_keeps, retire_keeps, outKeeps_next, outKeeps_ite, keeps_mk, plain_keeps,
      keeps_ite, keeps_foldl, keeps_foldl_fst, apply_ite Prod.fst, apply_ite Prod.snd, implies_true, and_self,
      *])
                      clear heq))

@[simp] theorem execISynci_keeps {s0 s : State} (t : Fin 64) (h : Keeps s0 s) : OutKeeps s0 (execISynci t s) := by
  unfold execISynci
  refine outKeeps_next.2 ?_
  repeat' first
    | (extract_lets +onlyGivenNames x
       try (have hx : Keeps s0 x := (by
         simp only [x]
         repeat' first
           | (simp (maxDischargeDepth := 60) +contextual only [issue_keeps, syncInval_keeps, leave_keeps, parkOn_keeps, outKeeps_next, outKeeps_ite, keeps_mk,
      plain_keeps, keeps_ite, keeps_foldl, keeps_foldl_fst, apply_ite Prod.fst, apply_ite Prod.snd,
      implies_true, and_self, *]
              done)
           | refine keeps_foldl ?_ (fun s b hs => ?_)
           | refine keeps_foldl_fst ?_ (fun p b hp => ?_)
           | split))
       try (have hx : Keeps s0 x.1 := (by simp (maxDischargeDepth := 60) +contextual only [x, issue_keeps, syncInval_keeps, leave_keeps, parkOn_keeps, outKeeps_next, outKeeps_ite, keeps_mk,
      plain_keeps, keeps_ite, keeps_foldl, keeps_foldl_fst, apply_ite Prod.fst, apply_ite Prod.snd,
      implies_true, and_self, *]))
       clear_value x)
    | (simp (maxDischargeDepth := 60) +contextual only [issue_keeps, syncInval_keeps, leave_keeps, parkOn_keeps, outKeeps_next, outKeeps_ite, keeps_mk,
      plain_keeps, keeps_ite, keeps_foldl, keeps_foldl_fst, apply_ite Prod.fst, apply_ite Prod.snd,
      implies_true, and_self, *]
       done)
    | refine issue_keeps _ _ _ (fun u hu => ?_) ?_
    | refine keeps_foldl ?_ (fun s b hs => ?_)
    | refine keeps_foldl_fst ?_ (fun p b hp => ?_)
    | refine each_keeps ?_ (fun s i hs => ?_)
    | (split
       all_goals try (rename_i heq
                      have hk := keeps_pair (s0 := s0) heq (by clear heq; simp (maxDischargeDepth := 60) +contextual only [issue_keeps, syncInval_keeps, leave_keeps, parkOn_keeps, outKeeps_next, outKeeps_ite, keeps_mk,
      plain_keeps, keeps_ite, keeps_foldl, keeps_foldl_fst, apply_ite Prod.fst, apply_ite Prod.snd,
      implies_true, and_self, *])
                      clear heq))

@[simp] theorem execIFence_keeps {s0 s : State} (t : Fin 64) (h : Keeps s0 s) : OutKeeps s0 (execIFence t s) := by
  unfold execIFence
  simp (maxDischargeDepth := 60) +contextual only [issue_keeps, retire_keeps, parkOn_keeps, outKeeps_next, outKeeps_ite, keeps_mk, plain_keeps, keeps_ite,
      keeps_foldl, keeps_foldl_fst, apply_ite Prod.fst, apply_ite Prod.snd, implies_true, and_self, *]

@[simp] theorem execIEvt_keeps {s0 s : State} (t : Fin 64) (h : Keeps s0 s) : OutKeeps s0 (execIEvt t s) := by
  unfold execIEvt
  refine outKeeps_next.2 ?_
  repeat' first
    | (extract_lets +onlyGivenNames x
       try (have hx : Keeps s0 x := (by
         simp only [x]
         repeat' first
           | (simp (maxDischargeDepth := 60) +contextual only [issue_keeps, faultAt_keeps, leave_keeps, evtSend_keeps, outKeeps_next, outKeeps_ite, keeps_mk,
      plain_keeps, keeps_ite, keeps_foldl, keeps_foldl_fst, apply_ite Prod.fst, apply_ite Prod.snd,
      implies_true, and_self, *]
              done)
           | refine keeps_foldl ?_ (fun s b hs => ?_)
           | refine keeps_foldl_fst ?_ (fun p b hp => ?_)
           | split))
       try (have hx : Keeps s0 x.1 := (by simp (maxDischargeDepth := 60) +contextual only [x, issue_keeps, faultAt_keeps, leave_keeps, evtSend_keeps, outKeeps_next, outKeeps_ite, keeps_mk,
      plain_keeps, keeps_ite, keeps_foldl, keeps_foldl_fst, apply_ite Prod.fst, apply_ite Prod.snd,
      implies_true, and_self, *]))
       clear_value x)
    | (simp (maxDischargeDepth := 60) +contextual only [issue_keeps, faultAt_keeps, leave_keeps, evtSend_keeps, outKeeps_next, outKeeps_ite, keeps_mk,
      plain_keeps, keeps_ite, keeps_foldl, keeps_foldl_fst, apply_ite Prod.fst, apply_ite Prod.snd,
      implies_true, and_self, *]
       done)
    | refine issue_keeps _ _ _ (fun u hu => ?_) ?_
    | refine keeps_foldl ?_ (fun s b hs => ?_)
    | refine keeps_foldl_fst ?_ (fun p b hp => ?_)
    | refine each_keeps ?_ (fun s i hs => ?_)
    | (split
       all_goals try (rename_i heq
                      have hk := keeps_pair (s0 := s0) heq (by clear heq; simp (maxDischargeDepth := 60) +contextual only [issue_keeps, faultAt_keeps, leave_keeps, evtSend_keeps, outKeeps_next, outKeeps_ite, keeps_mk,
      plain_keeps, keeps_ite, keeps_foldl, keeps_foldl_fst, apply_ite Prod.fst, apply_ite Prod.snd,
      implies_true, and_self, *])
                      clear heq))

@[simp] theorem execIEntry_keeps {s0 s : State} (t : Fin 64) (h : Keeps s0 s) : OutKeeps s0 (execIEntry t s) := by
  unfold execIEntry
  refine outKeeps_next.2 ?_
  repeat' first
    | (extract_lets +onlyGivenNames x
       try (have hx : Keeps s0 x := (by
         simp only [x]
         repeat' first
           | (simp (maxDischargeDepth := 60) +contextual only [issue_keeps, setThr_keeps, outKeeps_next, outKeeps_ite, keeps_mk, plain_keeps, keeps_ite, keeps_foldl,
      keeps_foldl_fst, apply_ite Prod.fst, apply_ite Prod.snd, implies_true, and_self, *]
              done)
           | refine keeps_foldl ?_ (fun s b hs => ?_)
           | refine keeps_foldl_fst ?_ (fun p b hp => ?_)
           | split))
       try (have hx : Keeps s0 x.1 := (by simp (maxDischargeDepth := 60) +contextual only [x, issue_keeps, setThr_keeps, outKeeps_next, outKeeps_ite, keeps_mk, plain_keeps, keeps_ite, keeps_foldl,
      keeps_foldl_fst, apply_ite Prod.fst, apply_ite Prod.snd, implies_true, and_self, *]))
       clear_value x)
    | (simp (maxDischargeDepth := 60) +contextual only [issue_keeps, setThr_keeps, outKeeps_next, outKeeps_ite, keeps_mk, plain_keeps, keeps_ite, keeps_foldl,
      keeps_foldl_fst, apply_ite Prod.fst, apply_ite Prod.snd, implies_true, and_self, *]
       done)
    | refine issue_keeps _ _ _ (fun u hu => ?_) ?_
    | refine keeps_foldl ?_ (fun s b hs => ?_)
    | refine keeps_foldl_fst ?_ (fun p b hp => ?_)
    | refine each_keeps ?_ (fun s i hs => ?_)
    | (split
       all_goals try (rename_i heq
                      have hk := keeps_pair (s0 := s0) heq (by clear heq; simp (maxDischargeDepth := 60) +contextual only [issue_keeps, setThr_keeps, outKeeps_next, outKeeps_ite, keeps_mk, plain_keeps, keeps_ite, keeps_foldl,
      keeps_foldl_fst, apply_ite Prod.fst, apply_ite Prod.snd, implies_true, and_self, *])
                      clear heq))

@[simp] theorem execIEntoff_keeps {s0 s : State} (t : Fin 64) (h : Keeps s0 s) : OutKeeps s0 (execIEntoff t s) := by
  unfold execIEntoff
  simp (maxDischargeDepth := 60) +contextual only [issue_keeps, setThr_keeps, outKeeps_next, outKeeps_ite, keeps_mk, plain_keeps, keeps_ite, keeps_foldl,
      keeps_foldl_fst, apply_ite Prod.fst, apply_ite Prod.snd, implies_true, and_self, *]

@[simp] theorem execIRete_keeps {s0 s : State} (t : Fin 64) (h : Keeps s0 s) : OutKeeps s0 (execIRete t s) := by
  unfold execIRete
  refine outKeeps_next.2 ?_
  repeat' first
    | (extract_lets +onlyGivenNames x
       try (have hx : Keeps s0 x := (by
         simp only [x]
         repeat' first
           | (simp (maxDischargeDepth := 60) +contextual only [issue_keeps, faultAt_keeps, charge_keeps, setThr_keeps, outKeeps_next, outKeeps_ite, keeps_mk,
      plain_keeps, keeps_ite, keeps_foldl, keeps_foldl_fst, apply_ite Prod.fst, apply_ite Prod.snd,
      implies_true, and_self, *]
              done)
           | refine keeps_foldl ?_ (fun s b hs => ?_)
           | refine keeps_foldl_fst ?_ (fun p b hp => ?_)
           | split))
       try (have hx : Keeps s0 x.1 := (by simp (maxDischargeDepth := 60) +contextual only [x, issue_keeps, faultAt_keeps, charge_keeps, setThr_keeps, outKeeps_next, outKeeps_ite, keeps_mk,
      plain_keeps, keeps_ite, keeps_foldl, keeps_foldl_fst, apply_ite Prod.fst, apply_ite Prod.snd,
      implies_true, and_self, *]))
       clear_value x)
    | (simp (maxDischargeDepth := 60) +contextual only [issue_keeps, faultAt_keeps, charge_keeps, setThr_keeps, outKeeps_next, outKeeps_ite, keeps_mk,
      plain_keeps, keeps_ite, keeps_foldl, keeps_foldl_fst, apply_ite Prod.fst, apply_ite Prod.snd,
      implies_true, and_self, *]
       done)
    | refine issue_keeps _ _ _ (fun u hu => ?_) ?_
    | refine keeps_foldl ?_ (fun s b hs => ?_)
    | refine keeps_foldl_fst ?_ (fun p b hp => ?_)
    | refine each_keeps ?_ (fun s i hs => ?_)
    | (split
       all_goals try (rename_i heq
                      have hk := keeps_pair (s0 := s0) heq (by clear heq; simp (maxDischargeDepth := 60) +contextual only [issue_keeps, faultAt_keeps, charge_keeps, setThr_keeps, outKeeps_next, outKeeps_ite, keeps_mk,
      plain_keeps, keeps_ite, keeps_foldl, keeps_foldl_fst, apply_ite Prod.fst, apply_ite Prod.snd,
      implies_true, and_self, *])
                      clear heq))

@[simp] theorem enterHandler_keeps {s0 s : State} (t : Nat) (h : Keeps s0 s) : Keeps s0 (State.enterHandler s t) := by
  unfold State.enterHandler
  repeat' first
    | (extract_lets +onlyGivenNames x
       try (have hx : Keeps s0 x := (by
         simp only [x]
         repeat' first
           | (simp (maxDischargeDepth := 60) +contextual only [charge_keeps, setThr_keeps, keeps_mk, plain_keeps, keeps_ite, keeps_foldl, keeps_foldl_fst, apply_ite
      Prod.fst, apply_ite Prod.snd, implies_true, and_self, *]
              done)
           | refine keeps_foldl ?_ (fun s b hs => ?_)
           | refine keeps_foldl_fst ?_ (fun p b hp => ?_)
           | split))
       try (have hx : Keeps s0 x.1 := (by simp (maxDischargeDepth := 60) +contextual only [x, charge_keeps, setThr_keeps, keeps_mk, plain_keeps, keeps_ite, keeps_foldl, keeps_foldl_fst, apply_ite
      Prod.fst, apply_ite Prod.snd, implies_true, and_self, *]))
       clear_value x)
    | (simp (maxDischargeDepth := 60) +contextual only [charge_keeps, setThr_keeps, keeps_mk, plain_keeps, keeps_ite, keeps_foldl, keeps_foldl_fst, apply_ite
      Prod.fst, apply_ite Prod.snd, implies_true, and_self, *]
       done)
    | refine keeps_foldl ?_ (fun s b hs => ?_)
    | refine keeps_foldl_fst ?_ (fun p b hp => ?_)
    | refine each_keeps ?_ (fun s i hs => ?_)
    | (split
       all_goals try (rename_i heq
                      have hk := keeps_pair (s0 := s0) heq (by clear heq; simp (maxDischargeDepth := 60) +contextual only [charge_keeps, setThr_keeps, keeps_mk, plain_keeps, keeps_ite, keeps_foldl, keeps_foldl_fst, apply_ite
      Prod.fst, apply_ite Prod.snd, implies_true, and_self, *])
                      clear heq))

@[simp] theorem execEntryTaken_keeps {s0 s : State} (t : Fin 64) (m : Nat) (h : Keeps s0 s) : OutKeeps s0 (execEntryTaken t m s) := by
  unfold execEntryTaken
  refine outKeeps_next.2 ?_
  repeat' first
    | (extract_lets +onlyGivenNames x
       try (have hx : Keeps s0 x := (by
         simp only [x]
         repeat' first
           | (simp (maxDischargeDepth := 60) +contextual only [enterHandler_keeps, parkPass_keeps, divDrop_keeps, unpark_keeps, overrun_keeps, outKeeps_next,
      outKeeps_ite, keeps_mk, plain_keeps, keeps_ite, keeps_foldl, keeps_foldl_fst, apply_ite Prod.fst,
      apply_ite Prod.snd, implies_true, and_self, *]
              done)
           | refine keeps_foldl ?_ (fun s b hs => ?_)
           | refine keeps_foldl_fst ?_ (fun p b hp => ?_)
           | split))
       try (have hx : Keeps s0 x.1 := (by simp (maxDischargeDepth := 60) +contextual only [x, enterHandler_keeps, parkPass_keeps, divDrop_keeps, unpark_keeps, overrun_keeps, outKeeps_next,
      outKeeps_ite, keeps_mk, plain_keeps, keeps_ite, keeps_foldl, keeps_foldl_fst, apply_ite Prod.fst,
      apply_ite Prod.snd, implies_true, and_self, *]))
       clear_value x)
    | (simp (maxDischargeDepth := 60) +contextual only [enterHandler_keeps, parkPass_keeps, divDrop_keeps, unpark_keeps, overrun_keeps, outKeeps_next,
      outKeeps_ite, keeps_mk, plain_keeps, keeps_ite, keeps_foldl, keeps_foldl_fst, apply_ite Prod.fst,
      apply_ite Prod.snd, implies_true, and_self, *]
       done)
    | refine keeps_foldl ?_ (fun s b hs => ?_)
    | refine keeps_foldl_fst ?_ (fun p b hp => ?_)
    | refine each_keeps ?_ (fun s i hs => ?_)
    | (split
       all_goals try (rename_i heq
                      have hk := keeps_pair (s0 := s0) heq (by clear heq; simp (maxDischargeDepth := 60) +contextual only [enterHandler_keeps, parkPass_keeps, divDrop_keeps, unpark_keeps, overrun_keeps, outKeeps_next,
      outKeeps_ite, keeps_mk, plain_keeps, keeps_ite, keeps_foldl, keeps_foldl_fst, apply_ite Prod.fst,
      apply_ite Prod.snd, implies_true, and_self, *])
                      clear heq))

@[simp] theorem repeatOp_keeps {s0 s : State} (t : Nat) (code : Nat) (x : Bool) (op : Byte) (h : Keeps s0 s) : Keeps s0 (State.repeatOp s t code x op) := by
  unfold State.repeatOp
  refine issueWith_keeps t _ _ _ (fun u hu => ?_) h
  dsimp only
  split
  · exact setThr_keeps _ _ hu
  · exact hu

@[simp] theorem execIRep_keeps {s0 s : State} (t : Fin 64) (op : Byte) (h : Keeps s0 s) : OutKeeps s0 (execIRep t op s) := by
  unfold execIRep
  simp (maxDischargeDepth := 60) +contextual only [repeatOp_keeps, outKeeps_next, outKeeps_ite, keeps_mk, plain_keeps, keeps_ite, keeps_foldl,
      keeps_foldl_fst, apply_ite Prod.fst, apply_ite Prod.snd, implies_true, and_self, *]

@[simp] theorem execIRepx_keeps {s0 s : State} (t : Fin 64) (op : Byte) (h : Keeps s0 s) : OutKeeps s0 (execIRepx t op s) := by
  unfold execIRepx
  simp (maxDischargeDepth := 60) +contextual only [repeatOp_keeps, outKeeps_next, outKeeps_ite, keeps_mk, plain_keeps, keeps_ite, keeps_foldl,
      keeps_foldl_fst, apply_ite Prod.fst, apply_ite Prod.snd, implies_true, and_self, *]

@[simp] theorem execIRptFetch_keeps {s0 s : State} (t : Fin 64) (h : Keeps s0 s) : OutKeeps s0 (execIRptFetch t s) := by
  unfold execIRptFetch
  simp (maxDischargeDepth := 60) +contextual only [issue_keeps, leave_keeps, outKeeps_next, outKeeps_ite, keeps_mk, plain_keeps, keeps_ite, keeps_foldl,
      keeps_foldl_fst, apply_ite Prod.fst, apply_ite Prod.snd, implies_true, and_self, *]

@[simp] theorem execIRptStore_keeps {s0 s : State} (t : Fin 64) (h : Keeps s0 s) : OutKeeps s0 (execIRptStore t s) := by
  unfold execIRptStore
  refine outKeeps_next.2 ?_
  repeat' first
    | (extract_lets +onlyGivenNames x
       try (have hx : Keeps s0 x := (by
         simp only [x]
         repeat' first
           | (simp (maxDischargeDepth := 60) +contextual only [issue_keeps, setThr_keeps, outKeeps_next, outKeeps_ite, keeps_mk, plain_keeps, keeps_ite, keeps_foldl,
      keeps_foldl_fst, apply_ite Prod.fst, apply_ite Prod.snd, implies_true, and_self, *]
              done)
           | refine keeps_foldl ?_ (fun s b hs => ?_)
           | refine keeps_foldl_fst ?_ (fun p b hp => ?_)
           | split))
       try (have hx : Keeps s0 x.1 := (by simp (maxDischargeDepth := 60) +contextual only [x, issue_keeps, setThr_keeps, outKeeps_next, outKeeps_ite, keeps_mk, plain_keeps, keeps_ite, keeps_foldl,
      keeps_foldl_fst, apply_ite Prod.fst, apply_ite Prod.snd, implies_true, and_self, *]))
       clear_value x)
    | (simp (maxDischargeDepth := 60) +contextual only [issue_keeps, setThr_keeps, outKeeps_next, outKeeps_ite, keeps_mk, plain_keeps, keeps_ite, keeps_foldl,
      keeps_foldl_fst, apply_ite Prod.fst, apply_ite Prod.snd, implies_true, and_self, *]
       done)
    | refine issue_keeps _ _ _ (fun u hu => ?_) ?_
    | refine keeps_foldl ?_ (fun s b hs => ?_)
    | refine keeps_foldl_fst ?_ (fun p b hp => ?_)
    | refine each_keeps ?_ (fun s i hs => ?_)
    | (split
       all_goals try (rename_i heq
                      have hk := keeps_pair (s0 := s0) heq (by clear heq; simp (maxDischargeDepth := 60) +contextual only [issue_keeps, setThr_keeps, outKeeps_next, outKeeps_ite, keeps_mk, plain_keeps, keeps_ite, keeps_foldl,
      keeps_foldl_fst, apply_ite Prod.fst, apply_ite Prod.snd, implies_true, and_self, *])
                      clear heq))

@[simp] theorem execIBra_keeps {s0 s : State} (t : Fin 64) (d : Byte) (h : Keeps s0 s) : OutKeeps s0 (execIBra t d s) := by
  unfold execIBra
  simp (maxDischargeDepth := 60) +contextual only [branchOp_keeps, outKeeps_next, outKeeps_ite, keeps_mk, plain_keeps, keeps_ite, keeps_foldl,
      keeps_foldl_fst, apply_ite Prod.fst, apply_ite Prod.snd, implies_true, and_self, *]

@[simp] theorem execIBraW_keeps {s0 s : State} (t : Fin 64) (d : BitVec 16) (h : Keeps s0 s) : OutKeeps s0 (execIBraW t d s) := by
  unfold execIBraW
  simp (maxDischargeDepth := 60) +contextual only [branchOp_keeps, outKeeps_next, outKeeps_ite, keeps_mk, plain_keeps, keeps_ite, keeps_foldl,
      keeps_foldl_fst, apply_ite Prod.fst, apply_ite Prod.snd, implies_true, and_self, *]

@[simp] theorem execIBz_keeps {s0 s : State} (t : Fin 64) (d : Byte) (h : Keeps s0 s) : OutKeeps s0 (execIBz t d s) := by
  unfold execIBz
  simp (maxDischargeDepth := 60) +contextual only [branchOp_keeps, outKeeps_next, outKeeps_ite, keeps_mk, plain_keeps, keeps_ite, keeps_foldl,
      keeps_foldl_fst, apply_ite Prod.fst, apply_ite Prod.snd, implies_true, and_self, *]

@[simp] theorem execIBnz_keeps {s0 s : State} (t : Fin 64) (d : Byte) (h : Keeps s0 s) : OutKeeps s0 (execIBnz t d s) := by
  unfold execIBnz
  simp (maxDischargeDepth := 60) +contextual only [branchOp_keeps, outKeeps_next, outKeeps_ite, keeps_mk, plain_keeps, keeps_ite, keeps_foldl,
      keeps_foldl_fst, apply_ite Prod.fst, apply_ite Prod.snd, implies_true, and_self, *]

@[simp] theorem execIBzW_keeps {s0 s : State} (t : Fin 64) (d : BitVec 16) (h : Keeps s0 s) : OutKeeps s0 (execIBzW t d s) := by
  unfold execIBzW
  simp (maxDischargeDepth := 60) +contextual only [branchOp_keeps, outKeeps_next, outKeeps_ite, keeps_mk, plain_keeps, keeps_ite, keeps_foldl,
      keeps_foldl_fst, apply_ite Prod.fst, apply_ite Prod.snd, implies_true, and_self, *]

@[simp] theorem execIBnzW_keeps {s0 s : State} (t : Fin 64) (d : BitVec 16) (h : Keeps s0 s) : OutKeeps s0 (execIBnzW t d s) := by
  unfold execIBnzW
  simp (maxDischargeDepth := 60) +contextual only [branchOp_keeps, outKeeps_next, outKeeps_ite, keeps_mk, plain_keeps, keeps_ite, keeps_foldl,
      keeps_foldl_fst, apply_ite Prod.fst, apply_ite Prod.snd, implies_true, and_self, *]

@[simp] theorem execICall_keeps {s0 s : State} (t : Fin 64) (d : BitVec 16) (h : Keeps s0 s) : OutKeeps s0 (execICall t d s) := by
  unfold execICall
  refine outKeeps_next.2 ?_
  repeat' first
    | (extract_lets +onlyGivenNames x
       try (have hx : Keeps s0 x := (by
         simp only [x]
         repeat' first
           | (simp (maxDischargeDepth := 60) +contextual only [issue_keeps, setThr_keeps, jump_keeps, outKeeps_next, outKeeps_ite, keeps_mk, plain_keeps, keeps_ite,
      keeps_foldl, keeps_foldl_fst, apply_ite Prod.fst, apply_ite Prod.snd, implies_true, and_self, *]
              done)
           | refine keeps_foldl ?_ (fun s b hs => ?_)
           | refine keeps_foldl_fst ?_ (fun p b hp => ?_)
           | split))
       try (have hx : Keeps s0 x.1 := (by simp (maxDischargeDepth := 60) +contextual only [x, issue_keeps, setThr_keeps, jump_keeps, outKeeps_next, outKeeps_ite, keeps_mk, plain_keeps, keeps_ite,
      keeps_foldl, keeps_foldl_fst, apply_ite Prod.fst, apply_ite Prod.snd, implies_true, and_self, *]))
       clear_value x)
    | (simp (maxDischargeDepth := 60) +contextual only [issue_keeps, setThr_keeps, jump_keeps, outKeeps_next, outKeeps_ite, keeps_mk, plain_keeps, keeps_ite,
      keeps_foldl, keeps_foldl_fst, apply_ite Prod.fst, apply_ite Prod.snd, implies_true, and_self, *]
       done)
    | refine issue_keeps _ _ _ (fun u hu => ?_) ?_
    | refine keeps_foldl ?_ (fun s b hs => ?_)
    | refine keeps_foldl_fst ?_ (fun p b hp => ?_)
    | refine each_keeps ?_ (fun s i hs => ?_)
    | (split
       all_goals try (rename_i heq
                      have hk := keeps_pair (s0 := s0) heq (by clear heq; simp (maxDischargeDepth := 60) +contextual only [issue_keeps, setThr_keeps, jump_keeps, outKeeps_next, outKeeps_ite, keeps_mk, plain_keeps, keeps_ite,
      keeps_foldl, keeps_foldl_fst, apply_ite Prod.fst, apply_ite Prod.snd, implies_true, and_self, *])
                      clear heq))

@[simp] theorem execICalli_keeps {s0 s : State} (t : Fin 64) (h : Keeps s0 s) : OutKeeps s0 (execICalli t s) := by
  unfold execICalli
  refine outKeeps_next.2 ?_
  repeat' first
    | (extract_lets +onlyGivenNames x
       try (have hx : Keeps s0 x := (by
         simp only [x]
         repeat' first
           | (simp (maxDischargeDepth := 60) +contextual only [issue_keeps, setThr_keeps, jump_keeps, outKeeps_next, outKeeps_ite, keeps_mk, plain_keeps, keeps_ite,
      keeps_foldl, keeps_foldl_fst, apply_ite Prod.fst, apply_ite Prod.snd, implies_true, and_self, *]
              done)
           | refine keeps_foldl ?_ (fun s b hs => ?_)
           | refine keeps_foldl_fst ?_ (fun p b hp => ?_)
           | split))
       try (have hx : Keeps s0 x.1 := (by simp (maxDischargeDepth := 60) +contextual only [x, issue_keeps, setThr_keeps, jump_keeps, outKeeps_next, outKeeps_ite, keeps_mk, plain_keeps, keeps_ite,
      keeps_foldl, keeps_foldl_fst, apply_ite Prod.fst, apply_ite Prod.snd, implies_true, and_self, *]))
       clear_value x)
    | (simp (maxDischargeDepth := 60) +contextual only [issue_keeps, setThr_keeps, jump_keeps, outKeeps_next, outKeeps_ite, keeps_mk, plain_keeps, keeps_ite,
      keeps_foldl, keeps_foldl_fst, apply_ite Prod.fst, apply_ite Prod.snd, implies_true, and_self, *]
       done)
    | refine issue_keeps _ _ _ (fun u hu => ?_) ?_
    | refine keeps_foldl ?_ (fun s b hs => ?_)
    | refine keeps_foldl_fst ?_ (fun p b hp => ?_)
    | refine each_keeps ?_ (fun s i hs => ?_)
    | (split
       all_goals try (rename_i heq
                      have hk := keeps_pair (s0 := s0) heq (by clear heq; simp (maxDischargeDepth := 60) +contextual only [issue_keeps, setThr_keeps, jump_keeps, outKeeps_next, outKeeps_ite, keeps_mk, plain_keeps, keeps_ite,
      keeps_foldl, keeps_foldl_fst, apply_ite Prod.fst, apply_ite Prod.snd, implies_true, and_self, *])
                      clear heq))

@[simp] theorem execIJmpi_keeps {s0 s : State} (t : Fin 64) (h : Keeps s0 s) : OutKeeps s0 (execIJmpi t s) := by
  unfold execIJmpi
  refine outKeeps_next.2 ?_
  repeat' first
    | (extract_lets +onlyGivenNames x
       try (have hx : Keeps s0 x := (by
         simp only [x]
         repeat' first
           | (simp (maxDischargeDepth := 60) +contextual only [issue_keeps, setThr_keeps, jump_keeps, outKeeps_next, outKeeps_ite, keeps_mk, plain_keeps, keeps_ite,
      keeps_foldl, keeps_foldl_fst, apply_ite Prod.fst, apply_ite Prod.snd, implies_true, and_self, *]
              done)
           | refine keeps_foldl ?_ (fun s b hs => ?_)
           | refine keeps_foldl_fst ?_ (fun p b hp => ?_)
           | split))
       try (have hx : Keeps s0 x.1 := (by simp (maxDischargeDepth := 60) +contextual only [x, issue_keeps, setThr_keeps, jump_keeps, outKeeps_next, outKeeps_ite, keeps_mk, plain_keeps, keeps_ite,
      keeps_foldl, keeps_foldl_fst, apply_ite Prod.fst, apply_ite Prod.snd, implies_true, and_self, *]))
       clear_value x)
    | (simp (maxDischargeDepth := 60) +contextual only [issue_keeps, setThr_keeps, jump_keeps, outKeeps_next, outKeeps_ite, keeps_mk, plain_keeps, keeps_ite,
      keeps_foldl, keeps_foldl_fst, apply_ite Prod.fst, apply_ite Prod.snd, implies_true, and_self, *]
       done)
    | refine issue_keeps _ _ _ (fun u hu => ?_) ?_
    | refine keeps_foldl ?_ (fun s b hs => ?_)
    | refine keeps_foldl_fst ?_ (fun p b hp => ?_)
    | refine each_keeps ?_ (fun s i hs => ?_)
    | (split
       all_goals try (rename_i heq
                      have hk := keeps_pair (s0 := s0) heq (by clear heq; simp (maxDischargeDepth := 60) +contextual only [issue_keeps, setThr_keeps, jump_keeps, outKeeps_next, outKeeps_ite, keeps_mk, plain_keeps, keeps_ite,
      keeps_foldl, keeps_foldl_fst, apply_ite Prod.fst, apply_ite Prod.snd, implies_true, and_self, *])
                      clear heq))

@[simp] theorem execIRet_keeps {s0 s : State} (t : Fin 64) (h : Keeps s0 s) : OutKeeps s0 (execIRet t s) := by
  unfold execIRet
  refine outKeeps_next.2 ?_
  repeat' first
    | (extract_lets +onlyGivenNames x
       try (have hx : Keeps s0 x := (by
         simp only [x]
         repeat' first
           | (simp (maxDischargeDepth := 60) +contextual only [issue_keeps, setThr_keeps, jump_keeps, outKeeps_next, outKeeps_ite, keeps_mk, plain_keeps, keeps_ite,
      keeps_foldl, keeps_foldl_fst, apply_ite Prod.fst, apply_ite Prod.snd, implies_true, and_self, *]
              done)
           | refine keeps_foldl ?_ (fun s b hs => ?_)
           | refine keeps_foldl_fst ?_ (fun p b hp => ?_)
           | split))
       try (have hx : Keeps s0 x.1 := (by simp (maxDischargeDepth := 60) +contextual only [x, issue_keeps, setThr_keeps, jump_keeps, outKeeps_next, outKeeps_ite, keeps_mk, plain_keeps, keeps_ite,
      keeps_foldl, keeps_foldl_fst, apply_ite Prod.fst, apply_ite Prod.snd, implies_true, and_self, *]))
       clear_value x)
    | (simp (maxDischargeDepth := 60) +contextual only [issue_keeps, setThr_keeps, jump_keeps, outKeeps_next, outKeeps_ite, keeps_mk, plain_keeps, keeps_ite,
      keeps_foldl, keeps_foldl_fst, apply_ite Prod.fst, apply_ite Prod.snd, implies_true, and_self, *]
       done)
    | refine issue_keeps _ _ _ (fun u hu => ?_) ?_
    | refine keeps_foldl ?_ (fun s b hs => ?_)
    | refine keeps_foldl_fst ?_ (fun p b hp => ?_)
    | refine each_keeps ?_ (fun s i hs => ?_)
    | (split
       all_goals try (rename_i heq
                      have hk := keeps_pair (s0 := s0) heq (by clear heq; simp (maxDischargeDepth := 60) +contextual only [issue_keeps, setThr_keeps, jump_keeps, outKeeps_next, outKeeps_ite, keeps_mk, plain_keeps, keeps_ite,
      keeps_foldl, keeps_foldl_fst, apply_ite Prod.fst, apply_ite Prod.snd, implies_true, and_self, *])
                      clear heq))

@[simp] theorem execIDjnz_keeps {s0 s : State} (t : Fin 64) (d : Byte) (h : Keeps s0 s) : OutKeeps s0 (execIDjnz t d s) := by
  unfold execIDjnz
  simp (maxDischargeDepth := 60) +contextual only [branchOp_keeps, outKeeps_next, outKeeps_ite, keeps_mk, plain_keeps, keeps_ite, keeps_foldl,
      keeps_foldl_fst, apply_ite Prod.fst, apply_ite Prod.snd, implies_true, and_self, *]

@[simp] theorem cmpBranch_keeps {s0 s : State} (t : Nat) (code : Nat) (imm : Nat) (d : Word) (c : Cmp) (h : Keeps s0 s) : Keeps s0 (State.cmpBranch s t code imm d c) := by
  unfold State.cmpBranch
  simp (maxDischargeDepth := 60) +contextual only [branchOp_keeps, keeps_mk, plain_keeps, keeps_ite, keeps_foldl, keeps_foldl_fst, apply_ite Prod.fst,
      apply_ite Prod.snd, implies_true, and_self, *]

@[simp] theorem flagBranch_keeps {s0 s : State} (t : Nat) (code : Nat) (imm : Nat) (d : Word) (c : Cond) (h : Keeps s0 s) : Keeps s0 (State.flagBranch s t code imm d c) := by
  unfold State.flagBranch
  simp (maxDischargeDepth := 60) +contextual only [branchOp_keeps, keeps_mk, plain_keeps, keeps_ite, keeps_foldl, keeps_foldl_fst, apply_ite Prod.fst,
      apply_ite Prod.snd, implies_true, and_self, *]

@[simp] theorem execIAvenueBeq_keeps {s0 s : State} (t : Fin 64) (d : Byte) (h : Keeps s0 s) : OutKeeps s0 (execIAvenueBeq t d s) := by
  unfold execIAvenueBeq
  simp (maxDischargeDepth := 60) +contextual only [cmpBranch_keeps, outKeeps_next, outKeeps_ite, keeps_mk, plain_keeps, keeps_ite, keeps_foldl,
      keeps_foldl_fst, apply_ite Prod.fst, apply_ite Prod.snd, implies_true, and_self, *]

@[simp] theorem execIAvenueBne_keeps {s0 s : State} (t : Fin 64) (d : Byte) (h : Keeps s0 s) : OutKeeps s0 (execIAvenueBne t d s) := by
  unfold execIAvenueBne
  simp (maxDischargeDepth := 60) +contextual only [cmpBranch_keeps, outKeeps_next, outKeeps_ite, keeps_mk, plain_keeps, keeps_ite, keeps_foldl,
      keeps_foldl_fst, apply_ite Prod.fst, apply_ite Prod.snd, implies_true, and_self, *]

@[simp] theorem execIAvenueBlt_keeps {s0 s : State} (t : Fin 64) (d : Byte) (h : Keeps s0 s) : OutKeeps s0 (execIAvenueBlt t d s) := by
  unfold execIAvenueBlt
  simp (maxDischargeDepth := 60) +contextual only [cmpBranch_keeps, outKeeps_next, outKeeps_ite, keeps_mk, plain_keeps, keeps_ite, keeps_foldl,
      keeps_foldl_fst, apply_ite Prod.fst, apply_ite Prod.snd, implies_true, and_self, *]

@[simp] theorem execIAvenueBge_keeps {s0 s : State} (t : Fin 64) (d : Byte) (h : Keeps s0 s) : OutKeeps s0 (execIAvenueBge t d s) := by
  unfold execIAvenueBge
  simp (maxDischargeDepth := 60) +contextual only [cmpBranch_keeps, outKeeps_next, outKeeps_ite, keeps_mk, plain_keeps, keeps_ite, keeps_foldl,
      keeps_foldl_fst, apply_ite Prod.fst, apply_ite Prod.snd, implies_true, and_self, *]

@[simp] theorem execIAvenueBltu_keeps {s0 s : State} (t : Fin 64) (d : Byte) (h : Keeps s0 s) : OutKeeps s0 (execIAvenueBltu t d s) := by
  unfold execIAvenueBltu
  simp (maxDischargeDepth := 60) +contextual only [cmpBranch_keeps, outKeeps_next, outKeeps_ite, keeps_mk, plain_keeps, keeps_ite, keeps_foldl,
      keeps_foldl_fst, apply_ite Prod.fst, apply_ite Prod.snd, implies_true, and_self, *]

@[simp] theorem execIAvenueBgeu_keeps {s0 s : State} (t : Fin 64) (d : Byte) (h : Keeps s0 s) : OutKeeps s0 (execIAvenueBgeu t d s) := by
  unfold execIAvenueBgeu
  simp (maxDischargeDepth := 60) +contextual only [cmpBranch_keeps, outKeeps_next, outKeeps_ite, keeps_mk, plain_keeps, keeps_ite, keeps_foldl,
      keeps_foldl_fst, apply_ite Prod.fst, apply_ite Prod.snd, implies_true, and_self, *]

@[simp] theorem execIAvenueBgt_keeps {s0 s : State} (t : Fin 64) (d : Byte) (h : Keeps s0 s) : OutKeeps s0 (execIAvenueBgt t d s) := by
  unfold execIAvenueBgt
  simp (maxDischargeDepth := 60) +contextual only [cmpBranch_keeps, outKeeps_next, outKeeps_ite, keeps_mk, plain_keeps, keeps_ite, keeps_foldl,
      keeps_foldl_fst, apply_ite Prod.fst, apply_ite Prod.snd, implies_true, and_self, *]

@[simp] theorem execIAvenueBle_keeps {s0 s : State} (t : Fin 64) (d : Byte) (h : Keeps s0 s) : OutKeeps s0 (execIAvenueBle t d s) := by
  unfold execIAvenueBle
  simp (maxDischargeDepth := 60) +contextual only [cmpBranch_keeps, outKeeps_next, outKeeps_ite, keeps_mk, plain_keeps, keeps_ite, keeps_foldl,
      keeps_foldl_fst, apply_ite Prod.fst, apply_ite Prod.snd, implies_true, and_self, *]

@[simp] theorem execIAvenueBeqW_keeps {s0 s : State} (t : Fin 64) (d : BitVec 16) (h : Keeps s0 s) : OutKeeps s0 (execIAvenueBeqW t d s) := by
  unfold execIAvenueBeqW
  simp (maxDischargeDepth := 60) +contextual only [cmpBranch_keeps, outKeeps_next, outKeeps_ite, keeps_mk, plain_keeps, keeps_ite, keeps_foldl,
      keeps_foldl_fst, apply_ite Prod.fst, apply_ite Prod.snd, implies_true, and_self, *]

@[simp] theorem execIAvenueBneW_keeps {s0 s : State} (t : Fin 64) (d : BitVec 16) (h : Keeps s0 s) : OutKeeps s0 (execIAvenueBneW t d s) := by
  unfold execIAvenueBneW
  simp (maxDischargeDepth := 60) +contextual only [cmpBranch_keeps, outKeeps_next, outKeeps_ite, keeps_mk, plain_keeps, keeps_ite, keeps_foldl,
      keeps_foldl_fst, apply_ite Prod.fst, apply_ite Prod.snd, implies_true, and_self, *]

@[simp] theorem execIAvenueBltW_keeps {s0 s : State} (t : Fin 64) (d : BitVec 16) (h : Keeps s0 s) : OutKeeps s0 (execIAvenueBltW t d s) := by
  unfold execIAvenueBltW
  simp (maxDischargeDepth := 60) +contextual only [cmpBranch_keeps, outKeeps_next, outKeeps_ite, keeps_mk, plain_keeps, keeps_ite, keeps_foldl,
      keeps_foldl_fst, apply_ite Prod.fst, apply_ite Prod.snd, implies_true, and_self, *]

@[simp] theorem execIAvenueBgeW_keeps {s0 s : State} (t : Fin 64) (d : BitVec 16) (h : Keeps s0 s) : OutKeeps s0 (execIAvenueBgeW t d s) := by
  unfold execIAvenueBgeW
  simp (maxDischargeDepth := 60) +contextual only [cmpBranch_keeps, outKeeps_next, outKeeps_ite, keeps_mk, plain_keeps, keeps_ite, keeps_foldl,
      keeps_foldl_fst, apply_ite Prod.fst, apply_ite Prod.snd, implies_true, and_self, *]

@[simp] theorem execIAvenueBltuW_keeps {s0 s : State} (t : Fin 64) (d : BitVec 16) (h : Keeps s0 s) : OutKeeps s0 (execIAvenueBltuW t d s) := by
  unfold execIAvenueBltuW
  simp (maxDischargeDepth := 60) +contextual only [cmpBranch_keeps, outKeeps_next, outKeeps_ite, keeps_mk, plain_keeps, keeps_ite, keeps_foldl,
      keeps_foldl_fst, apply_ite Prod.fst, apply_ite Prod.snd, implies_true, and_self, *]

@[simp] theorem execIAvenueBgeuW_keeps {s0 s : State} (t : Fin 64) (d : BitVec 16) (h : Keeps s0 s) : OutKeeps s0 (execIAvenueBgeuW t d s) := by
  unfold execIAvenueBgeuW
  simp (maxDischargeDepth := 60) +contextual only [cmpBranch_keeps, outKeeps_next, outKeeps_ite, keeps_mk, plain_keeps, keeps_ite, keeps_foldl,
      keeps_foldl_fst, apply_ite Prod.fst, apply_ite Prod.snd, implies_true, and_self, *]

@[simp] theorem execIAvenueBgtW_keeps {s0 s : State} (t : Fin 64) (d : BitVec 16) (h : Keeps s0 s) : OutKeeps s0 (execIAvenueBgtW t d s) := by
  unfold execIAvenueBgtW
  simp (maxDischargeDepth := 60) +contextual only [cmpBranch_keeps, outKeeps_next, outKeeps_ite, keeps_mk, plain_keeps, keeps_ite, keeps_foldl,
      keeps_foldl_fst, apply_ite Prod.fst, apply_ite Prod.snd, implies_true, and_self, *]

@[simp] theorem execIAvenueBleW_keeps {s0 s : State} (t : Fin 64) (d : BitVec 16) (h : Keeps s0 s) : OutKeeps s0 (execIAvenueBleW t d s) := by
  unfold execIAvenueBleW
  simp (maxDischargeDepth := 60) +contextual only [cmpBranch_keeps, outKeeps_next, outKeeps_ite, keeps_mk, plain_keeps, keeps_ite, keeps_foldl,
      keeps_foldl_fst, apply_ite Prod.fst, apply_ite Prod.snd, implies_true, and_self, *]

@[simp] theorem execILaneBeq_keeps {s0 s : State} (t : Fin 64) (d : Byte) (h : Keeps s0 s) : OutKeeps s0 (execILaneBeq t d s) := by
  unfold execILaneBeq
  simp (maxDischargeDepth := 60) +contextual only [flagBranch_keeps, outKeeps_next, outKeeps_ite, keeps_mk, plain_keeps, keeps_ite, keeps_foldl,
      keeps_foldl_fst, apply_ite Prod.fst, apply_ite Prod.snd, implies_true, and_self, *]

@[simp] theorem execILaneBne_keeps {s0 s : State} (t : Fin 64) (d : Byte) (h : Keeps s0 s) : OutKeeps s0 (execILaneBne t d s) := by
  unfold execILaneBne
  simp (maxDischargeDepth := 60) +contextual only [flagBranch_keeps, outKeeps_next, outKeeps_ite, keeps_mk, plain_keeps, keeps_ite, keeps_foldl,
      keeps_foldl_fst, apply_ite Prod.fst, apply_ite Prod.snd, implies_true, and_self, *]

@[simp] theorem execILaneBcs_keeps {s0 s : State} (t : Fin 64) (d : Byte) (h : Keeps s0 s) : OutKeeps s0 (execILaneBcs t d s) := by
  unfold execILaneBcs
  simp (maxDischargeDepth := 60) +contextual only [flagBranch_keeps, outKeeps_next, outKeeps_ite, keeps_mk, plain_keeps, keeps_ite, keeps_foldl,
      keeps_foldl_fst, apply_ite Prod.fst, apply_ite Prod.snd, implies_true, and_self, *]

@[simp] theorem execILaneBcc_keeps {s0 s : State} (t : Fin 64) (d : Byte) (h : Keeps s0 s) : OutKeeps s0 (execILaneBcc t d s) := by
  unfold execILaneBcc
  simp (maxDischargeDepth := 60) +contextual only [flagBranch_keeps, outKeeps_next, outKeeps_ite, keeps_mk, plain_keeps, keeps_ite, keeps_foldl,
      keeps_foldl_fst, apply_ite Prod.fst, apply_ite Prod.snd, implies_true, and_self, *]

@[simp] theorem execILaneBmi_keeps {s0 s : State} (t : Fin 64) (d : Byte) (h : Keeps s0 s) : OutKeeps s0 (execILaneBmi t d s) := by
  unfold execILaneBmi
  simp (maxDischargeDepth := 60) +contextual only [flagBranch_keeps, outKeeps_next, outKeeps_ite, keeps_mk, plain_keeps, keeps_ite, keeps_foldl,
      keeps_foldl_fst, apply_ite Prod.fst, apply_ite Prod.snd, implies_true, and_self, *]

@[simp] theorem execILaneBpl_keeps {s0 s : State} (t : Fin 64) (d : Byte) (h : Keeps s0 s) : OutKeeps s0 (execILaneBpl t d s) := by
  unfold execILaneBpl
  simp (maxDischargeDepth := 60) +contextual only [flagBranch_keeps, outKeeps_next, outKeeps_ite, keeps_mk, plain_keeps, keeps_ite, keeps_foldl,
      keeps_foldl_fst, apply_ite Prod.fst, apply_ite Prod.snd, implies_true, and_self, *]

@[simp] theorem execILaneBvs_keeps {s0 s : State} (t : Fin 64) (d : Byte) (h : Keeps s0 s) : OutKeeps s0 (execILaneBvs t d s) := by
  unfold execILaneBvs
  simp (maxDischargeDepth := 60) +contextual only [flagBranch_keeps, outKeeps_next, outKeeps_ite, keeps_mk, plain_keeps, keeps_ite, keeps_foldl,
      keeps_foldl_fst, apply_ite Prod.fst, apply_ite Prod.snd, implies_true, and_self, *]

@[simp] theorem execILaneBvc_keeps {s0 s : State} (t : Fin 64) (d : Byte) (h : Keeps s0 s) : OutKeeps s0 (execILaneBvc t d s) := by
  unfold execILaneBvc
  simp (maxDischargeDepth := 60) +contextual only [flagBranch_keeps, outKeeps_next, outKeeps_ite, keeps_mk, plain_keeps, keeps_ite, keeps_foldl,
      keeps_foldl_fst, apply_ite Prod.fst, apply_ite Prod.snd, implies_true, and_self, *]

@[simp] theorem execILaneBhi_keeps {s0 s : State} (t : Fin 64) (d : Byte) (h : Keeps s0 s) : OutKeeps s0 (execILaneBhi t d s) := by
  unfold execILaneBhi
  simp (maxDischargeDepth := 60) +contextual only [flagBranch_keeps, outKeeps_next, outKeeps_ite, keeps_mk, plain_keeps, keeps_ite, keeps_foldl,
      keeps_foldl_fst, apply_ite Prod.fst, apply_ite Prod.snd, implies_true, and_self, *]

@[simp] theorem execILaneBls_keeps {s0 s : State} (t : Fin 64) (d : Byte) (h : Keeps s0 s) : OutKeeps s0 (execILaneBls t d s) := by
  unfold execILaneBls
  simp (maxDischargeDepth := 60) +contextual only [flagBranch_keeps, outKeeps_next, outKeeps_ite, keeps_mk, plain_keeps, keeps_ite, keeps_foldl,
      keeps_foldl_fst, apply_ite Prod.fst, apply_ite Prod.snd, implies_true, and_self, *]

@[simp] theorem execILaneBge_keeps {s0 s : State} (t : Fin 64) (d : Byte) (h : Keeps s0 s) : OutKeeps s0 (execILaneBge t d s) := by
  unfold execILaneBge
  simp (maxDischargeDepth := 60) +contextual only [flagBranch_keeps, outKeeps_next, outKeeps_ite, keeps_mk, plain_keeps, keeps_ite, keeps_foldl,
      keeps_foldl_fst, apply_ite Prod.fst, apply_ite Prod.snd, implies_true, and_self, *]

@[simp] theorem execILaneBlt_keeps {s0 s : State} (t : Fin 64) (d : Byte) (h : Keeps s0 s) : OutKeeps s0 (execILaneBlt t d s) := by
  unfold execILaneBlt
  simp (maxDischargeDepth := 60) +contextual only [flagBranch_keeps, outKeeps_next, outKeeps_ite, keeps_mk, plain_keeps, keeps_ite, keeps_foldl,
      keeps_foldl_fst, apply_ite Prod.fst, apply_ite Prod.snd, implies_true, and_self, *]

@[simp] theorem execILaneBgt_keeps {s0 s : State} (t : Fin 64) (d : Byte) (h : Keeps s0 s) : OutKeeps s0 (execILaneBgt t d s) := by
  unfold execILaneBgt
  simp (maxDischargeDepth := 60) +contextual only [flagBranch_keeps, outKeeps_next, outKeeps_ite, keeps_mk, plain_keeps, keeps_ite, keeps_foldl,
      keeps_foldl_fst, apply_ite Prod.fst, apply_ite Prod.snd, implies_true, and_self, *]

@[simp] theorem execILaneBle_keeps {s0 s : State} (t : Fin 64) (d : Byte) (h : Keeps s0 s) : OutKeeps s0 (execILaneBle t d s) := by
  unfold execILaneBle
  simp (maxDischargeDepth := 60) +contextual only [flagBranch_keeps, outKeeps_next, outKeeps_ite, keeps_mk, plain_keeps, keeps_ite, keeps_foldl,
      keeps_foldl_fst, apply_ite Prod.fst, apply_ite Prod.snd, implies_true, and_self, *]

@[simp] theorem execILaneBeqW_keeps {s0 s : State} (t : Fin 64) (d : BitVec 16) (h : Keeps s0 s) : OutKeeps s0 (execILaneBeqW t d s) := by
  unfold execILaneBeqW
  simp (maxDischargeDepth := 60) +contextual only [flagBranch_keeps, outKeeps_next, outKeeps_ite, keeps_mk, plain_keeps, keeps_ite, keeps_foldl,
      keeps_foldl_fst, apply_ite Prod.fst, apply_ite Prod.snd, implies_true, and_self, *]

@[simp] theorem execILaneBneW_keeps {s0 s : State} (t : Fin 64) (d : BitVec 16) (h : Keeps s0 s) : OutKeeps s0 (execILaneBneW t d s) := by
  unfold execILaneBneW
  simp (maxDischargeDepth := 60) +contextual only [flagBranch_keeps, outKeeps_next, outKeeps_ite, keeps_mk, plain_keeps, keeps_ite, keeps_foldl,
      keeps_foldl_fst, apply_ite Prod.fst, apply_ite Prod.snd, implies_true, and_self, *]

@[simp] theorem execITrap_keeps {s0 s : State} (t : Fin 64) (n : Byte) (h : Keeps s0 s) : OutKeeps s0 (execITrap t n s) := by
  unfold execITrap
  simp (maxDischargeDepth := 60) +contextual only [issue_keeps, faultAt_keeps, outKeeps_next, outKeeps_ite, keeps_mk, plain_keeps, keeps_ite, keeps_foldl,
      keeps_foldl_fst, apply_ite Prod.fst, apply_ite Prod.snd, implies_true, and_self, *]

@[simp] theorem execIBreak_keeps {s0 s : State} (t : Fin 64) (h : Keeps s0 s) : OutKeeps s0 (execIBreak t s) := by
  unfold execIBreak
  simp (maxDischargeDepth := 60) +contextual only [issue_keeps, retire_keeps, askHalt_keeps, faultAt_keeps, outKeeps_next, outKeeps_ite, keeps_mk,
      plain_keeps, keeps_ite, keeps_foldl, keeps_foldl_fst, apply_ite Prod.fst, apply_ite Prod.snd,
      implies_true, and_self, *]

@[simp] theorem execUndefinedOpcode_keeps {s0 s : State} (t : Fin 64) (op : Byte) (h : Keeps s0 s) : OutKeeps s0 (execUndefinedOpcode t op s) := by
  unfold execUndefinedOpcode
  simp (maxDischargeDepth := 60) +contextual only [issue_keeps, outKeeps_next, outKeeps_ite, keeps_mk, plain_keeps, keeps_ite, keeps_foldl, keeps_foldl_fst,
      apply_ite Prod.fst, apply_ite Prod.snd, implies_true, and_self, *]

end Sys2Proof.Machine
end

