-- ==== Sys2Proof/Laws/TickOp.lean ====
section
/-! SUPPORT. Each operation of Machine/TickOp.lean keeps the queue and the canonical form of the tables. -/

set_option linter.all false

namespace Sys2Proof.Machine
theorem wf_ownerTable (l : List Nat) : Tab.wf (fun _ => 0) (ownerTable l) = true := by
  have h1 : ∀ (n : Nat) (f : Nat → Nat) (g : Nat → Nat) (t : Tab Nat), Tab.wf (fun _ => 0) t = true →
      Tab.wf (fun _ => 0) ((List.range n).foldl (fun t i => t.set (fun _ => 0) (f i) (g i)) t) = true := fun n f g t ht =>
    Tab.wf_foldl (fun t i h => Tab.wf_set h) _ _ ht
  have h2 : ∀ (ks : List (Kind × Nat)) (a : Tab Nat × List Nat), Tab.wf (fun _ => 0) a.1 = true →
      Tab.wf (fun _ => 0) (ks.foldl (fun (a : Tab Nat × List Nat) k =>
        ((List.range k.2).foldl (fun t i => t.set (fun _ => 0) (k.1.key i) (a.2.getD i 0)) a.1, a.2.drop k.2)) a).1 = true := by
    intro ks
    induction ks with
    | nil => exact fun a h => h
    | cons k ks ih => exact fun a h => ih _ (h1 _ _ _ _ h)
  exact h2 _ _ rfl


@[simp] theorem loadCapture_keeps {s0 s : State} (h : Keeps s0 s) : Keeps s0 (State.loadCapture s) := by
  refine h.step rfl fun w => { w with staged := ?_ }
  refine Tab.wf_foldl (fun t e ht => ?_) _ _ w.staged
  split
  · exact Tab.wf_set ht
  · exact ht

@[simp] theorem fpRefuse_keeps {s0 s : State} (n : Nat) (h : Keeps s0 s) : Keeps s0 (State.fpRefuse s n) := by
  unfold State.fpRefuse
  repeat' first
    | (extract_lets +onlyGivenNames x
       try (have hx : Keeps s0 x := (by
         simp only [x]
         repeat' first
           | (simp (maxDischargeDepth := 60) +contextual only [setCapw_keeps, raise_keeps, keeps_mk, plain_keeps, keeps_ite, keeps_foldl, keeps_foldl_fst, apply_ite
      Prod.fst, apply_ite Prod.snd, implies_true, and_self, *]
              done)
           | refine keeps_foldl ?_ (fun s b hs => ?_)
           | refine keeps_foldl_fst ?_ (fun p b hp => ?_)
           | split))
       try (have hx : Keeps s0 x.1 := (by simp (maxDischargeDepth := 60) +contextual only [x, setCapw_keeps, raise_keeps, keeps_mk, plain_keeps, keeps_ite, keeps_foldl, keeps_foldl_fst, apply_ite
      Prod.fst, apply_ite Prod.snd, implies_true, and_self, *]))
       clear_value x)
    | (simp (maxDischargeDepth := 60) +contextual only [setCapw_keeps, raise_keeps, keeps_mk, plain_keeps, keeps_ite, keeps_foldl, keeps_foldl_fst, apply_ite
      Prod.fst, apply_ite Prod.snd, implies_true, and_self, *]
       done)
    | refine keeps_foldl ?_ (fun s b hs => ?_)
    | refine keeps_foldl_fst ?_ (fun p b hp => ?_)
    | refine each_keeps ?_ (fun s i hs => ?_)
    | (split
       all_goals try (rename_i heq
                      have hk := keeps_pair (s0 := s0) heq (by clear heq; simp (maxDischargeDepth := 60) +contextual only [setCapw_keeps, raise_keeps, keeps_mk, plain_keeps, keeps_ite, keeps_foldl, keeps_foldl_fst, apply_ite
      Prod.fst, apply_ite Prod.snd, implies_true, and_self, *])
                      clear heq))

@[simp] theorem stageClose_keeps {s0 s : State} (h : Keeps s0 s) : Keeps s0 (State.stageClose s) := by
  unfold State.stageClose
  repeat' first
    | (extract_lets +onlyGivenNames x
       try (have hx : Keeps s0 x := (by
         simp only [x]
         repeat' first
           | (simp (maxDischargeDepth := 60) +contextual only [modeStageClose_keeps, switchCapture_keeps, loadCapture_keeps, each_keeps, setQ_keeps, fpRefuse_keeps,
      capture_keeps, activate_keeps, owner_keeps, Tab.wf_mapValues, wf_ownerTable, keeps_mk, plain_keeps,
      keeps_ite, keeps_foldl, keeps_foldl_fst, apply_ite Prod.fst, apply_ite Prod.snd, implies_true, and_self,
      *]
              done)
           | refine keeps_foldl ?_ (fun s b hs => ?_)
           | refine keeps_foldl_fst ?_ (fun p b hp => ?_)
           | split))
       try (have hx : Keeps s0 x.1 := (by simp (maxDischargeDepth := 60) +contextual only [x, modeStageClose_keeps, switchCapture_keeps, loadCapture_keeps, each_keeps, setQ_keeps, fpRefuse_keeps,
      capture_keeps, activate_keeps, owner_keeps, Tab.wf_mapValues, wf_ownerTable, keeps_mk, plain_keeps,
      keeps_ite, keeps_foldl, keeps_foldl_fst, apply_ite Prod.fst, apply_ite Prod.snd, implies_true, and_self,
      *]))
       clear_value x)
    | (simp (maxDischargeDepth := 60) +contextual only [modeStageClose_keeps, switchCapture_keeps, loadCapture_keeps, each_keeps, setQ_keeps, fpRefuse_keeps,
      capture_keeps, activate_keeps, owner_keeps, Tab.wf_mapValues, wf_ownerTable, keeps_mk, plain_keeps,
      keeps_ite, keeps_foldl, keeps_foldl_fst, apply_ite Prod.fst, apply_ite Prod.snd, implies_true, and_self,
      *]
       done)
    | refine keeps_foldl ?_ (fun s b hs => ?_)
    | refine keeps_foldl_fst ?_ (fun p b hp => ?_)
    | refine each_keeps ?_ (fun s i hs => ?_)
    | (split
       all_goals try (rename_i heq
                      have hk := keeps_pair (s0 := s0) heq (by clear heq; simp (maxDischargeDepth := 60) +contextual only [modeStageClose_keeps, switchCapture_keeps, loadCapture_keeps, each_keeps, setQ_keeps, fpRefuse_keeps,
      capture_keeps, activate_keeps, owner_keeps, Tab.wf_mapValues, wf_ownerTable, keeps_mk, plain_keeps,
      keeps_ite, keeps_foldl, keeps_foldl_fst, apply_ite Prod.fst, apply_ite Prod.snd, implies_true, and_self,
      *])
                      clear heq))

@[simp] theorem execStageClose_keeps {s0 s : State} (h : Keeps s0 s) : OutKeeps s0 (execStageClose s) := by
  unfold execStageClose
  simp (maxDischargeDepth := 60) +contextual only [stageClose_keeps, outKeeps_next, outKeeps_ite, keeps_mk, plain_keeps, keeps_ite, keeps_foldl,
      keeps_foldl_fst, apply_ite Prod.fst, apply_ite Prod.snd, implies_true, and_self, *]

@[simp] theorem mapLive_keeps {s0 s : State} (ents : List RegEnt) (e : RegEnt) (h : Keeps s0 s) : Keeps s0 (State.mapLive ents s e) := by
  unfold State.mapLive
  repeat' first
    | (extract_lets +onlyGivenNames x
       try (have hx : Keeps s0 x := (by
         simp only [x]
         repeat' first
           | (simp (maxDischargeDepth := 60) +contextual only [wrCtrl_keeps, wrIncrLo_keeps, wrIncrHi_keeps, wrSrvCfg_keeps, wrDt_keeps, drcfgWrite_keeps, setReg_keeps,
      setFld_keeps, keeps_mk, plain_keeps, keeps_ite, keeps_foldl, keeps_foldl_fst, apply_ite Prod.fst,
      apply_ite Prod.snd, implies_true, and_self, *]
              done)
           | refine keeps_foldl ?_ (fun s b hs => ?_)
           | refine keeps_foldl_fst ?_ (fun p b hp => ?_)
           | split))
       try (have hx : Keeps s0 x.1 := (by simp (maxDischargeDepth := 60) +contextual only [x, wrCtrl_keeps, wrIncrLo_keeps, wrIncrHi_keeps, wrSrvCfg_keeps, wrDt_keeps, drcfgWrite_keeps, setReg_keeps,
      setFld_keeps, keeps_mk, plain_keeps, keeps_ite, keeps_foldl, keeps_foldl_fst, apply_ite Prod.fst,
      apply_ite Prod.snd, implies_true, and_self, *]))
       clear_value x)
    | (simp (maxDischargeDepth := 60) +contextual only [wrCtrl_keeps, wrIncrLo_keeps, wrIncrHi_keeps, wrSrvCfg_keeps, wrDt_keeps, drcfgWrite_keeps, setReg_keeps,
      setFld_keeps, keeps_mk, plain_keeps, keeps_ite, keeps_foldl, keeps_foldl_fst, apply_ite Prod.fst,
      apply_ite Prod.snd, implies_true, and_self, *]
       done)
    | refine keeps_foldl ?_ (fun s b hs => ?_)
    | refine keeps_foldl_fst ?_ (fun p b hp => ?_)
    | refine each_keeps ?_ (fun s i hs => ?_)
    | (split
       all_goals try (rename_i heq
                      have hk := keeps_pair (s0 := s0) heq (by clear heq; simp (maxDischargeDepth := 60) +contextual only [wrCtrl_keeps, wrIncrLo_keeps, wrIncrHi_keeps, wrSrvCfg_keeps, wrDt_keeps, drcfgWrite_keeps, setReg_keeps,
      setFld_keeps, keeps_mk, plain_keeps, keeps_ite, keeps_foldl, keeps_foldl_fst, apply_ite Prod.fst,
      apply_ite Prod.snd, implies_true, and_self, *])
                      clear heq))

@[simp] theorem mapTakes_keeps {s0 s : State} (h : Keeps s0 s) : Keeps s0 (State.mapTakes s) := by
  unfold State.mapTakes
  repeat' first
    | (extract_lets +onlyGivenNames x
       try (have hx : Keeps s0 x := (by
         simp only [x]
         repeat' first
           | (simp (maxDischargeDepth := 60) +contextual only [mapLive_keeps, each_keeps, setReg_keeps, arcQuota_keeps, setFld_keeps, raiseIf_keeps, tatWake_keeps,
      powerOff_keeps, setMode_keeps, wakeArm_keeps, thrStart_keeps, setThr_keeps, capture_keeps,
      activate_keeps, owner_keeps, Tab.wf_mapValues, wf_ownerTable, keeps_mk, plain_keeps, keeps_ite,
      keeps_foldl, keeps_foldl_fst, apply_ite Prod.fst, apply_ite Prod.snd, implies_true, and_self, *]
              done)
           | refine keeps_foldl ?_ (fun s b hs => ?_)
           | refine keeps_foldl_fst ?_ (fun p b hp => ?_)
           | split))
       try (have hx : Keeps s0 x.1 := (by simp (maxDischargeDepth := 60) +contextual only [x, mapLive_keeps, each_keeps, setReg_keeps, arcQuota_keeps, setFld_keeps, raiseIf_keeps, tatWake_keeps,
      powerOff_keeps, setMode_keeps, wakeArm_keeps, thrStart_keeps, setThr_keeps, capture_keeps,
      activate_keeps, owner_keeps, Tab.wf_mapValues, wf_ownerTable, keeps_mk, plain_keeps, keeps_ite,
      keeps_foldl, keeps_foldl_fst, apply_ite Prod.fst, apply_ite Prod.snd, implies_true, and_self, *]))
       clear_value x)
    | (simp (maxDischargeDepth := 60) +contextual only [mapLive_keeps, each_keeps, setReg_keeps, arcQuota_keeps, setFld_keeps, raiseIf_keeps, tatWake_keeps,
      powerOff_keeps, setMode_keeps, wakeArm_keeps, thrStart_keeps, setThr_keeps, capture_keeps,
      activate_keeps, owner_keeps, Tab.wf_mapValues, wf_ownerTable, keeps_mk, plain_keeps, keeps_ite,
      keeps_foldl, keeps_foldl_fst, apply_ite Prod.fst, apply_ite Prod.snd, implies_true, and_self, *]
       done)
    | refine keeps_foldl ?_ (fun s b hs => ?_)
    | refine keeps_foldl_fst ?_ (fun p b hp => ?_)
    | refine each_keeps ?_ (fun s i hs => ?_)
    | (split
       all_goals try (rename_i heq
                      have hk := keeps_pair (s0 := s0) heq (by clear heq; simp (maxDischargeDepth := 60) +contextual only [mapLive_keeps, each_keeps, setReg_keeps, arcQuota_keeps, setFld_keeps, raiseIf_keeps, tatWake_keeps,
      powerOff_keeps, setMode_keeps, wakeArm_keeps, thrStart_keeps, setThr_keeps, capture_keeps,
      activate_keeps, owner_keeps, Tab.wf_mapValues, wf_ownerTable, keeps_mk, plain_keeps, keeps_ite,
      keeps_foldl, keeps_foldl_fst, apply_ite Prod.fst, apply_ite Prod.snd, implies_true, and_self, *])
                      clear heq))

@[simp] theorem detTick_keeps {s0 s : State} (b : Nat) (h : Keeps s0 s) : Keeps s0 (State.detTick s b) := by
  unfold State.detTick
  repeat' first
    | (extract_lets +onlyGivenNames x
       try (have hx : Keeps s0 x := (by
         simp only [x]
         repeat' first
           | (simp (maxDischargeDepth := 60) +contextual only [setBlk_keeps, setThr_keeps, keeps_mk, plain_keeps, keeps_ite, keeps_foldl, keeps_foldl_fst, apply_ite
      Prod.fst, apply_ite Prod.snd, implies_true, and_self, *]
              done)
           | refine keeps_foldl ?_ (fun s b hs => ?_)
           | refine keeps_foldl_fst ?_ (fun p b hp => ?_)
           | split))
       try (have hx : Keeps s0 x.1 := (by simp (maxDischargeDepth := 60) +contextual only [x, setBlk_keeps, setThr_keeps, keeps_mk, plain_keeps, keeps_ite, keeps_foldl, keeps_foldl_fst, apply_ite
      Prod.fst, apply_ite Prod.snd, implies_true, and_self, *]))
       clear_value x)
    | (simp (maxDischargeDepth := 60) +contextual only [setBlk_keeps, setThr_keeps, keeps_mk, plain_keeps, keeps_ite, keeps_foldl, keeps_foldl_fst, apply_ite
      Prod.fst, apply_ite Prod.snd, implies_true, and_self, *]
       done)
    | refine keeps_foldl ?_ (fun s b hs => ?_)
    | refine keeps_foldl_fst ?_ (fun p b hp => ?_)
    | refine each_keeps ?_ (fun s i hs => ?_)
    | (split
       all_goals try (rename_i heq
                      have hk := keeps_pair (s0 := s0) heq (by clear heq; simp (maxDischargeDepth := 60) +contextual only [setBlk_keeps, setThr_keeps, keeps_mk, plain_keeps, keeps_ite, keeps_foldl, keeps_foldl_fst, apply_ite
      Prod.fst, apply_ite Prod.snd, implies_true, and_self, *])
                      clear heq))

@[simp] theorem arcTick_keeps {s0 s : State} (old : Tab Word) (a : Nat) (h : Keeps s0 s) : Keeps s0 (State.arcTick s old a) := by
  unfold State.arcTick
  repeat' first
    | (extract_lets +onlyGivenNames x
       try (have hx : Keeps s0 x := (by
         simp only [x]
         repeat' first
           | (simp (maxDischargeDepth := 60) +contextual only [fresh_keeps, arcEmpty_keeps, setArc_keeps, arcSettle_keeps, raiseIf_keeps, keeps_mk, plain_keeps,
      keeps_ite, keeps_foldl, keeps_foldl_fst, apply_ite Prod.fst, apply_ite Prod.snd, implies_true, and_self,
      *]
              done)
           | refine keeps_foldl ?_ (fun s b hs => ?_)
           | refine keeps_foldl_fst ?_ (fun p b hp => ?_)
           | split))
       try (have hx : Keeps s0 x.1 := (by simp (maxDischargeDepth := 60) +contextual only [x, fresh_keeps, arcEmpty_keeps, setArc_keeps, arcSettle_keeps, raiseIf_keeps, keeps_mk, plain_keeps,
      keeps_ite, keeps_foldl, keeps_foldl_fst, apply_ite Prod.fst, apply_ite Prod.snd, implies_true, and_self,
      *]))
       clear_value x)
    | (simp (maxDischargeDepth := 60) +contextual only [fresh_keeps, arcEmpty_keeps, setArc_keeps, arcSettle_keeps, raiseIf_keeps, keeps_mk, plain_keeps,
      keeps_ite, keeps_foldl, keeps_foldl_fst, apply_ite Prod.fst, apply_ite Prod.snd, implies_true, and_self,
      *]
       done)
    | refine keeps_foldl ?_ (fun s b hs => ?_)
    | refine keeps_foldl_fst ?_ (fun p b hp => ?_)
    | refine each_keeps ?_ (fun s i hs => ?_)
    | (split
       all_goals try (rename_i heq
                      have hk := keeps_pair (s0 := s0) heq (by clear heq; simp (maxDischargeDepth := 60) +contextual only [fresh_keeps, arcEmpty_keeps, setArc_keeps, arcSettle_keeps, raiseIf_keeps, keeps_mk, plain_keeps,
      keeps_ite, keeps_foldl, keeps_foldl_fst, apply_ite Prod.fst, apply_ite Prod.snd, implies_true, and_self,
      *])
                      clear heq))

@[simp] theorem freshTick_keeps {s0 s : State} (h : Keeps s0 s) : Keeps s0 (State.freshTick s) := by
  unfold State.freshTick
  simp (maxDischargeDepth := 60) +contextual only [each_keeps, setQ_keeps, keeps_mk, plain_keeps, keeps_ite, keeps_foldl, keeps_foldl_fst, apply_ite
      Prod.fst, apply_ite Prod.snd, implies_true, and_self, *]

@[simp] theorem tickAt_keeps {s0 s : State} (k : Int) (h : Keeps s0 s) : Keeps s0 (State.tickAt s k) := by
  unfold State.tickAt
  repeat' first
    | (extract_lets +onlyGivenNames x
       try (have hx : Keeps s0 x := (by
         simp only [x]
         repeat' first
           | (simp (maxDischargeDepth := 60) +contextual only [bump_keeps, raiseIf_keeps, mapTakes_keeps, switchEffect_keeps, modeTick_keeps, powerOff_keeps,
      stopUnits_keeps, raise_keeps, quarterReset_keeps, modeForget_keeps, each_keeps, detTick_keeps,
      freshTick_keeps, arcTick_keeps, fpTick_keeps, llTick_keeps, llConf_keeps, xcTick_keeps, pmTick_keeps,
      xSample_keeps, twTick_keeps, quarterLines_keeps, hlTick_keeps, rgTick_keeps, dmaTick_keeps,
      llCount_keeps, tickCmd_keeps, threadsTick_keeps, quarterHost_keeps, haltSettle_keeps, capture_keeps,
      activate_keeps, owner_keeps, Tab.wf_mapValues, wf_ownerTable, keeps_mk, plain_keeps, keeps_ite,
      keeps_foldl, keeps_foldl_fst, apply_ite Prod.fst, apply_ite Prod.snd, implies_true, and_self, *]
              done)
           | refine keeps_foldl ?_ (fun s b hs => ?_)
           | refine keeps_foldl_fst ?_ (fun p b hp => ?_)
           | split))
       try (have hx : Keeps s0 x.1 := (by simp (maxDischargeDepth := 60) +contextual only [x, bump_keeps, raiseIf_keeps, mapTakes_keeps, switchEffect_keeps, modeTick_keeps, powerOff_keeps,
      stopUnits_keeps, raise_keeps, quarterReset_keeps, modeForget_keeps, each_keeps, detTick_keeps,
      freshTick_keeps, arcTick_keeps, fpTick_keeps, llTick_keeps, llConf_keeps, xcTick_keeps, pmTick_keeps,
      xSample_keeps, twTick_keeps, quarterLines_keeps, hlTick_keeps, rgTick_keeps, dmaTick_keeps,
      llCount_keeps, tickCmd_keeps, threadsTick_keeps, quarterHost_keeps, haltSettle_keeps, capture_keeps,
      activate_keeps, owner_keeps, Tab.wf_mapValues, wf_ownerTable, keeps_mk, plain_keeps, keeps_ite,
      keeps_foldl, keeps_foldl_fst, apply_ite Prod.fst, apply_ite Prod.snd, implies_true, and_self, *]))
       clear_value x)
    | (simp (maxDischargeDepth := 60) +contextual only [bump_keeps, raiseIf_keeps, mapTakes_keeps, switchEffect_keeps, modeTick_keeps, powerOff_keeps,
      stopUnits_keeps, raise_keeps, quarterReset_keeps, modeForget_keeps, each_keeps, detTick_keeps,
      freshTick_keeps, arcTick_keeps, fpTick_keeps, llTick_keeps, llConf_keeps, xcTick_keeps, pmTick_keeps,
      xSample_keeps, twTick_keeps, quarterLines_keeps, hlTick_keeps, rgTick_keeps, dmaTick_keeps,
      llCount_keeps, tickCmd_keeps, threadsTick_keeps, quarterHost_keeps, haltSettle_keeps, capture_keeps,
      activate_keeps, owner_keeps, Tab.wf_mapValues, wf_ownerTable, keeps_mk, plain_keeps, keeps_ite,
      keeps_foldl, keeps_foldl_fst, apply_ite Prod.fst, apply_ite Prod.snd, implies_true, and_self, *]
       done)
    | refine keeps_foldl ?_ (fun s b hs => ?_)
    | refine keeps_foldl_fst ?_ (fun p b hp => ?_)
    | refine each_keeps ?_ (fun s i hs => ?_)
    | (split
       all_goals try (rename_i heq
                      have hk := keeps_pair (s0 := s0) heq (by clear heq; simp (maxDischargeDepth := 60) +contextual only [bump_keeps, raiseIf_keeps, mapTakes_keeps, switchEffect_keeps, modeTick_keeps, powerOff_keeps,
      stopUnits_keeps, raise_keeps, quarterReset_keeps, modeForget_keeps, each_keeps, detTick_keeps,
      freshTick_keeps, arcTick_keeps, fpTick_keeps, llTick_keeps, llConf_keeps, xcTick_keeps, pmTick_keeps,
      xSample_keeps, twTick_keeps, quarterLines_keeps, hlTick_keeps, rgTick_keeps, dmaTick_keeps,
      llCount_keeps, tickCmd_keeps, threadsTick_keeps, quarterHost_keeps, haltSettle_keeps, capture_keeps,
      activate_keeps, owner_keeps, Tab.wf_mapValues, wf_ownerTable, keeps_mk, plain_keeps, keeps_ite,
      keeps_foldl, keeps_foldl_fst, apply_ite Prod.fst, apply_ite Prod.snd, implies_true, and_self, *])
                      clear heq))

@[simp] theorem execTick_keeps {s0 s : State} (h : Keeps s0 s) : OutKeeps s0 (execTick s) := by
  unfold execTick
  repeat' first
    | (extract_lets +onlyGivenNames x
       try (have hx : Keeps s0 x := (by
         simp only [x]
         repeat' first
           | (simp (maxDischargeDepth := 60) +contextual only [stageClose_keeps, tickAt_keeps, outKeeps_next, outKeeps_ite, keeps_mk, plain_keeps, keeps_ite,
      keeps_foldl, keeps_foldl_fst, apply_ite Prod.fst, apply_ite Prod.snd, implies_true, and_self, *]
              done)
           | refine keeps_foldl ?_ (fun s b hs => ?_)
           | refine keeps_foldl_fst ?_ (fun p b hp => ?_)
           | split))
       try (have hx : Keeps s0 x.1 := (by simp (maxDischargeDepth := 60) +contextual only [x, stageClose_keeps, tickAt_keeps, outKeeps_next, outKeeps_ite, keeps_mk, plain_keeps, keeps_ite,
      keeps_foldl, keeps_foldl_fst, apply_ite Prod.fst, apply_ite Prod.snd, implies_true, and_self, *]))
       clear_value x)
    | (simp (maxDischargeDepth := 60) +contextual only [stageClose_keeps, tickAt_keeps, outKeeps_next, outKeeps_ite, keeps_mk, plain_keeps, keeps_ite,
      keeps_foldl, keeps_foldl_fst, apply_ite Prod.fst, apply_ite Prod.snd, implies_true, and_self, *]
       done)
    | refine keeps_foldl ?_ (fun s b hs => ?_)
    | refine keeps_foldl_fst ?_ (fun p b hp => ?_)
    | refine each_keeps ?_ (fun s i hs => ?_)
    | (split
       all_goals try (rename_i heq
                      have hk := keeps_pair (s0 := s0) heq (by clear heq; simp (maxDischargeDepth := 60) +contextual only [stageClose_keeps, tickAt_keeps, outKeeps_next, outKeeps_ite, keeps_mk, plain_keeps, keeps_ite,
      keeps_foldl, keeps_foldl_fst, apply_ite Prod.fst, apply_ite Prod.snd, implies_true, and_self, *])
                      clear heq))

@[simp] theorem parkIdle_keeps {s0 s : State} (h : Keeps s0 s) : Keeps s0 (State.parkIdle s) := by
  unfold State.parkIdle
  repeat' first
    | (extract_lets +onlyGivenNames x
       try (have hx : Keeps s0 x := (by
         simp only [x]
         repeat' first
           | (simp (maxDischargeDepth := 60) +contextual only [each_keeps, parkBill_keeps, keeps_mk, plain_keeps, keeps_ite, keeps_foldl, keeps_foldl_fst, apply_ite
      Prod.fst, apply_ite Prod.snd, implies_true, and_self, *]
              done)
           | refine keeps_foldl ?_ (fun s b hs => ?_)
           | refine keeps_foldl_fst ?_ (fun p b hp => ?_)
           | split))
       try (have hx : Keeps s0 x.1 := (by simp (maxDischargeDepth := 60) +contextual only [x, each_keeps, parkBill_keeps, keeps_mk, plain_keeps, keeps_ite, keeps_foldl, keeps_foldl_fst, apply_ite
      Prod.fst, apply_ite Prod.snd, implies_true, and_self, *]))
       clear_value x)
    | (simp (maxDischargeDepth := 60) +contextual only [each_keeps, parkBill_keeps, keeps_mk, plain_keeps, keeps_ite, keeps_foldl, keeps_foldl_fst, apply_ite
      Prod.fst, apply_ite Prod.snd, implies_true, and_self, *]
       done)
    | refine keeps_foldl ?_ (fun s b hs => ?_)
    | refine keeps_foldl_fst ?_ (fun p b hp => ?_)
    | refine each_keeps ?_ (fun s i hs => ?_)
    | (split
       all_goals try (rename_i heq
                      have hk := keeps_pair (s0 := s0) heq (by clear heq; simp (maxDischargeDepth := 60) +contextual only [each_keeps, parkBill_keeps, keeps_mk, plain_keeps, keeps_ite, keeps_foldl, keeps_foldl_fst, apply_ite
      Prod.fst, apply_ite Prod.snd, implies_true, and_self, *])
                      clear heq))

@[simp] theorem idle_keeps {s0 s : State} (h : Keeps s0 s) : Keeps s0 (State.idle s) := by
  unfold State.idle
  simp (maxDischargeDepth := 60) +contextual only [pinSample_keeps, ckTime_keeps, pmSettle_keeps, rgFlush_keeps, each_keeps, wdCycle_keeps, parkIdle_keeps,
      keeps_mk, plain_keeps, keeps_ite, keeps_foldl, keeps_foldl_fst, apply_ite Prod.fst, apply_ite Prod.snd,
      implies_true, and_self, *]

@[simp] theorem execSlewConverged_keeps {s0 s : State} (h : Keeps s0 s) : OutKeeps s0 (execSlewConverged s) := by
  unfold execSlewConverged
  simp (maxDischargeDepth := 60) +contextual only [ckTime_keeps, idle_keeps, outKeeps_next, outKeeps_ite, keeps_mk, plain_keeps, keeps_ite, keeps_foldl,
      keeps_foldl_fst, apply_ite Prod.fst, apply_ite Prod.snd, implies_true, and_self, *]

end Sys2Proof.Machine
end

