-- ==== Sys2Proof/Laws/Instr.lean ====
section
/-! SUPPORT. What fetch and issue of an instruction leave alone, and what an instruction that is ready does. -/

namespace Sys2Proof.Machine

theorem ctorIdx_inj {r r' : Reg} (h : r.ctorIdx = r'.ctorIdx) : r = r' := by
  rw [← Reg.ofNat_ctorIdx r, ← Reg.ofNat_ctorIdx r', h]

theorem key_ne {r r' : Reg} (h : r ≠ r') (i j : Nat) : r.key i ≠ r'.key j := by
  have : r.ctorIdx ≠ r'.ctorIdx := fun e => h (ctorIdx_inj e)
  unfold Reg.key; omega

/-- The registers that fetch and issue may change. -/
def issueRegs : List Reg := [.BK_TPC, .BK_USED, .BK_PAIRN, .BK_TSTAT, .MP_ECC_CNT, .MP_ECC_STAT, .MP_ECC_LASTADDR]

/-- What fetch and issue of thread t leave alone. -/
structure SameBut (t : Nat) (s s' : State) : Prop where
  rest : { s' with live := s.live, ecc := s.ecc, scrubQ := s.scrubQ, blk := s.blk, thr := s.thr } = s
  thr : ∀ k, k ≠ t → s'.thrOf k = s.thrOf k
  own : s.Wf → ∃ b, s'.thrOf t = { s.thrOf t with buf := b }
  reg : ∀ r i, r ∉ issueRegs → s'.reg r i = s.reg r i
  wf : s.Wf → s'.Wf

theorem SameBut.refl (t : Nat) (s : State) : SameBut t s s :=
  ⟨rfl, fun _ _ => rfl, fun _ => ⟨_, rfl⟩, fun _ _ _ => rfl, id⟩

theorem SameBut.trans {t : Nat} {a b c : State} (h : SameBut t a b) (g : SameBut t b c) : SameBut t a c where
  rest := by
    have e := congrArg (fun x : State => { x with live := a.live, ecc := a.ecc, scrubQ := a.scrubQ, blk := a.blk, thr := a.thr }) g.rest
    exact e.trans h.rest
  thr k hk := (g.thr k hk).trans (h.thr k hk)
  own w := by
    obtain ⟨x, hx⟩ := h.own w
    obtain ⟨y, hy⟩ := g.own (h.wf w)
    exact ⟨y, by rw [hy, hx]⟩
  reg r i hr := (g.reg r i hr).trans (h.reg r i hr)
  wf w := g.wf (h.wf w)

theorem sameBut_setReg (t : Nat) (s : State) {r : Reg} (hr : r ∈ issueRegs) (i : Nat) (w : Word) :
    SameBut t s (s.setReg r i w) where
  rest := rfl
  thr _ _ := rfl
  own _ := ⟨_, rfl⟩
  reg x j hx := Tab.get_set_ne (key_ne (fun e : x = r => hx (e ▸ hr)) j i)
  wf w := ((setReg_keeps r i _ (Keeps.refl s)).wf w)

theorem sameBut_setFld (t : Nat) (s : State) {f : Field} (hr : f.reg ∈ issueRegs) (i v : Nat) :
    SameBut t s (s.setFld f i v) := sameBut_setReg t s hr i _

theorem sameBut_bump (t : Nat) (s : State) {f : Field} (hr : f.reg ∈ issueRegs) (i n : Nat) :
    SameBut t s (s.bump f i n) := sameBut_setFld t s hr i _

theorem sameBut_raise (t : Nat) (s : State) {f : Field} (hr : f.reg ∈ issueRegs) (i : Nat) :
    SameBut t s (s.raise f i) := sameBut_setFld t s hr i _

theorem sameBut_setBlk (t : Nat) (s : State) (b : Nat) (u : Blk4) : SameBut t s (s.setBlk b u) :=
  ⟨rfl, fun _ _ => rfl, fun _ => ⟨_, rfl⟩, fun _ _ _ => rfl, (setBlk_keeps b u (Keeps.refl s)).wf⟩

theorem sameBut_buffer (t : Nat) (s : State) (a : Nat) : SameBut t s (s.buffer t a) where
  rest := rfl
  thr _ hk := Tab.get_set_ne hk
  own w := ⟨some (a / 8), Tab.get_set_eq w.thr⟩
  reg _ _ _ := rfl
  wf := (buffer_keeps t a (Keeps.refl s)).wf

theorem sameBut_setEcc (t : Nat) (s : State) (rg w : Nat) (e : Ecc) : SameBut t s (s.setEcc rg w e) :=
  ⟨rfl, fun _ _ => rfl, fun _ => ⟨_, rfl⟩, fun _ _ _ => rfl, (setEcc_keeps rg w e (Keeps.refl s)).wf⟩

theorem sameBut_scrubQ (t : Nat) (s : State) (q : List Nat) : SameBut t s { s with scrubQ := q } :=
  ⟨rfl, fun _ _ => rfl, fun _ => ⟨_, rfl⟩, fun _ _ _ => rfl, (keeps_mk.2 (plain_keeps (Keeps.refl s))).wf⟩

theorem sameBut_eccRead (t : Nat) (s : State) (rg w : Nat) : SameBut t s (s.eccRead rg w).1 := by
  unfold State.eccRead
  dsimp only
  have hr : ∀ f : Field, f.reg ∈ issueRegs → ∀ u : State, SameBut t u (u.bump f rg) := fun f hf u =>
    sameBut_bump t u hf rg 1
  have h0 : ∀ f : Field, f.reg ∈ issueRegs → ∀ (v : Nat) (u : State), SameBut t u (u.setFld f 0 v) := fun f hf v u =>
    sameBut_setFld t u hf 0 v
  split
  · exact hr _ (by decide) s
  · split
    · exact .refl t s
    · split
      · exact ((hr F.MP_ECC_CNT_CORR (by decide) s).trans (h0 F.MP_ECC_STAT_CORR (by decide) 1 _)).trans (sameBut_scrubQ t _ _)
      · exact ((((hr F.MP_ECC_CNT_UNC (by decide) s).trans (h0 F.MP_ECC_STAT_UNC (by decide) 1 _)).trans
          (h0 F.MP_ECC_STAT_LASTREG (by decide) rg _)).trans (h0 F.MP_ECC_LASTADDR_WIDX (by decide) w _)).trans
          (sameBut_setEcc t _ _ _ _)

theorem sameBut_icHit (t : Nat) (s : State) (b line way j : Nat) : SameBut t s (s.icHit b line way j).1 := by
  have he := sameBut_eccRead t s rgCache (icWord b way line j)
  unfold State.icHit
  split <;> rename_i heq <;> rw [heq] at he
  · exact he.trans (sameBut_setBlk _ _ _ _)
  · exact he.trans ((sameBut_setEcc _ _ _ _ _).trans (sameBut_setBlk _ _ _ _))

theorem sameBut_fetchGroup (s : State) (t : Fin 64) (a : Nat) : SameBut t s (s.fetchGroup t a).1 := by
  have he : ∀ w, SameBut t s (s.eccRead (rgCode (t.val / 16)) w).1 := fun w =>
    sameBut_eccRead t s _ w
  have hx : SameBut t s (s.raiseIf (s.avenue t) F.BK_TSTAT_TCM_EXIT t) := by
    unfold State.raiseIf
    split
    · exact sameBut_raise t s (by decide) _
    · exact .refl _ _
  have hb : ∀ (p : Prop) [Decidable p] (u : State), SameBut t s u →
      SameBut t s (if p then (u, Fetched.poison) else (u.buffer t a, Fetched.ok)).1 := fun p _ u h => by
    split
    · exact h
    · exact h.trans (sameBut_buffer _ _ _)
  unfold State.fetchGroup
  dsimp only
  split
  · split
    · exact .refl _ _
    · have h := he (by assumption / 8)
      split <;> rename_i heq <;> rw [heq] at h
      · exact h
      · exact h.trans (sameBut_buffer _ _ _)
  · exact hx
  · split
    · exact hx
    · split
      · exact .refl _ _
      · split
        · rename_i w _
          have h := hx.trans (sameBut_icHit t _ (t.val / 16) (a / 32) w (a % 32 / 8))
          split <;> rename_i heq <;> rw [heq] at h
          · exact hb _ _ h
          · exact h
        · split
          · exact hb _ _ hx
          · exact hx

theorem sameBut_fetchAll (t : Fin 64) (l : List Nat) : ∀ s : State, SameBut t s (s.fetchAll t l).1 := by
  induction l with
  | nil => exact fun s => .refl _ _
  | cons a l ih =>
    intro s
    have h := sameBut_fetchGroup s t a
    unfold State.fetchAll
    split
    · rename_i heq; rw [heq] at h; exact h.trans (ih _)
    · exact h

theorem sameBut_begun (s : State) (t : Fin 64) (r : Row) : SameBut t s (s.begun t r) := by
  have h1 : SameBut t s (s.fetch t r.len).1 := sameBut_fetchAll t _ s
  unfold State.begun State.issued
  generalize (s.fetch t r.len).1 = u at h1 ⊢
  dsimp only
  refine h1.trans ?_
  refine .trans (sameBut_setReg t u (r := .BK_TPC) (by decide) t (u.thrOf t).pc) ?_
  split
  · exact sameBut_bump t _ (by decide) _ 1
  · unfold State.charge
    exact sameBut_bump t _ (by decide) _ 1

theorem SameBut.avenue {s s' : State} {t : Fin 64} (h : SameBut t s s') (k : Nat) : s'.avenue k = s.avenue k := by
  unfold State.avenue State.flag State.fld
  rw [h.reg _ k (by decide)]

/-- An instruction that is ready does its body on the state in which it has begun. -/
theorem issueWith_ready {s : State} {t : Fin 64} {r : Row} (h : s.Ready t r) (chk : State → Option Nat) (body : State → State)
    (hc : chk (s.begun t r) = none) : s.issueWith t r chk body = body (s.begun t r) := by
  have hs := sameBut_begun s t r
  obtain ⟨b, hb⟩ := hs.own h.wf
  have hu : (s.begun t r).undefined t r = false := by
    simp only [State.undefined, h.good, hs.avenue t, Bool.not_true, Bool.false_or]
    cases hl : r.lane with
    | false => rfl
    | true => simp [h.cls hl]
  have hk : stackFault ((s.begun t r).thrOf t).ds ((s.begun t r).thrOf t).rs r = none := by rw [hb]; exact h.fits
  have hf : s.fetch t r.len = ((s.fetch t r.len).1, .ok) := by rw [← h.bytes]
  unfold State.issueWith
  rw [if_neg (by simp [h.issues]), hf]
  unfold State.begun at hu hk hc ⊢
  simp only [hu, hc, hk]
  rfl

theorem issue_ready {s : State} {t : Fin 64} {r : Row} (h : s.Ready t r) (body : State → State) :
    s.issue t r body = body (s.begun t r) := issueWith_ready h _ body rfl

end Sys2Proof.Machine
end

