-- ==== Sys2Proof/Laws/PerInstr.lean ====
section
/-! SUPPORT. Every command is one of the 359 rows of the table: the host's case split over the rows goes through these lemmas. -/

namespace Sys2Proof.Laws.Known

/-- The command is one of the table's rows. -/
def Statement (i : Instr) : Prop := i.ctorIdx < 359

theorem tick : Statement .tick := Nat.le_of_ble_eq_true rfl
theorem stageClose : Statement .stageClose := Nat.le_of_ble_eq_true rfl
theorem tickRelease  : ∀ x0, Statement (.tickRelease x0) := fun _ => Nat.le_of_ble_eq_true rfl
theorem wakeRelease  : ∀ x0, Statement (.wakeRelease x0) := fun _ => Nat.le_of_ble_eq_true rfl
theorem bollardSuspend  : ∀ x0 x1, Statement (.bollardSuspend x0 x1) := fun _ _ => Nat.le_of_ble_eq_true rfl
theorem ctIncrLoWrite  : ∀ x0 x1 x2, Statement (.ctIncrLoWrite x0 x1 x2) := fun _ _ _ => Nat.le_of_ble_eq_true rfl
theorem ctIncrHiWrite  : ∀ x0 x1 x2, Statement (.ctIncrHiWrite x0 x1 x2) := fun _ _ _ => Nat.le_of_ble_eq_true rfl
theorem ctDtWrite  : ∀ x0 x1 x2 x3, Statement (.ctDtWrite x0 x1 x2 x3) := fun _ _ _ _ => Nat.le_of_ble_eq_true rfl
theorem ctSrvCfgWrite  : ∀ x0 x1 x2, Statement (.ctSrvCfgWrite x0 x1 x2) := fun _ _ _ => Nat.le_of_ble_eq_true rfl
theorem offsetMeasurement  : ∀ x0, Statement (.offsetMeasurement x0) := fun _ => Nat.le_of_ble_eq_true rfl
theorem domainSilence  : ∀ x0, Statement (.domainSilence x0) := fun _ => Nat.le_of_ble_eq_true rfl
theorem domainSwitch  : ∀ x0 x1, Statement (.domainSwitch x0 x1) := fun _ _ => Nat.le_of_ble_eq_true rfl
theorem slewConverged : Statement .slewConverged := Nat.le_of_ble_eq_true rfl
theorem aonEdgeStamp : Statement .aonEdgeStamp := Nat.le_of_ble_eq_true rfl
theorem aonCalWindow : Statement .aonCalWindow := Nat.le_of_ble_eq_true rfl
theorem ltReconstruct : Statement .ltReconstruct := Nat.le_of_ble_eq_true rfl
theorem fpLaunch  : ∀ x0 x1, Statement (.fpLaunch x0 x1) := fun _ _ => Nat.le_of_ble_eq_true rfl
theorem fpFrameEnd  : ∀ x0 x1, Statement (.fpFrameEnd x0 x1) := fun _ _ => Nat.le_of_ble_eq_true rfl
theorem fpGo  : ∀ x0 x1, Statement (.fpGo x0 x1) := fun _ _ => Nat.le_of_ble_eq_true rfl
theorem fpPendingLaunch  : ∀ x0, Statement (.fpPendingLaunch x0) := fun _ => Nat.le_of_ble_eq_true rfl
theorem fpSelectRelease  : ∀ x0, Statement (.fpSelectRelease x0) := fun _ => Nat.le_of_ble_eq_true rfl
theorem fpArm  : ∀ x0 x1, Statement (.fpArm x0 x1) := fun _ _ => Nat.le_of_ble_eq_true rfl
theorem fpDiscard  : ∀ x0 x1, Statement (.fpDiscard x0 x1) := fun _ _ => Nat.le_of_ble_eq_true rfl
theorem fpSelectStart  : ∀ x0 x1, Statement (.fpSelectStart x0 x1) := fun _ _ => Nat.le_of_ble_eq_true rfl
theorem fpSelectEnd  : ∀ x0 x1, Statement (.fpSelectEnd x0 x1) := fun _ _ => Nat.le_of_ble_eq_true rfl
theorem twGo  : ∀ x0 x1, Statement (.twGo x0 x1) := fun _ _ => Nat.le_of_ble_eq_true rfl
theorem twTransactionStart  : ∀ x0, Statement (.twTransactionStart x0) := fun _ => Nat.le_of_ble_eq_true rfl
theorem twTransactionEnd  : ∀ x0 x1 x2, Statement (.twTransactionEnd x0 x1 x2) := fun _ _ _ => Nat.le_of_ble_eq_true rfl
theorem twArbitrationLoss  : ∀ x0 x1 x2, Statement (.twArbitrationLoss x0 x1 x2) := fun _ _ _ => Nat.le_of_ble_eq_true rfl
theorem twArbitrationRetry  : ∀ x0, Statement (.twArbitrationRetry x0) := fun _ => Nat.le_of_ble_eq_true rfl
theorem twBusFree  : ∀ x0, Statement (.twBusFree x0) := fun _ => Nat.le_of_ble_eq_true rfl
theorem inBandRequest  : ∀ x0 x1, Statement (.inBandRequest x0 x1) := fun _ _ => Nat.le_of_ble_eq_true rfl
theorem twHang  : ∀ x0, Statement (.twHang x0) := fun _ => Nat.le_of_ble_eq_true rfl
theorem rollCall  : ∀ x0, Statement (.rollCall x0) := fun _ => Nat.le_of_ble_eq_true rfl
theorem rollCallEnd  : ∀ x0 x1, Statement (.rollCallEnd x0 x1) := fun _ _ => Nat.le_of_ble_eq_true rfl
theorem twReq  : ∀ x0 x1, Statement (.twReq x0 x1) := fun _ _ => Nat.le_of_ble_eq_true rfl
theorem twRequestRelease  : ∀ x0, Statement (.twRequestRelease x0) := fun _ => Nat.le_of_ble_eq_true rfl
theorem twUnreq  : ∀ x0 x1, Statement (.twUnreq x0 x1) := fun _ _ => Nat.le_of_ble_eq_true rfl
theorem sclLowTimeout  : ∀ x0, Statement (.sclLowTimeout x0) := fun _ => Nat.le_of_ble_eq_true rfl
theorem sdaLowTimeout  : ∀ x0, Statement (.sdaLowTimeout x0) := fun _ => Nat.le_of_ble_eq_true rfl
theorem twClear  : ∀ x0 x1, Statement (.twClear x0 x1) := fun _ _ => Nat.le_of_ble_eq_true rfl
theorem busClearEnd  : ∀ x0 x1, Statement (.busClearEnd x0 x1) := fun _ _ => Nat.le_of_ble_eq_true rfl
theorem powerPulseEnd  : ∀ x0, Statement (.powerPulseEnd x0) := fun _ => Nat.le_of_ble_eq_true rfl
theorem powerWaitEnd  : ∀ x0, Statement (.powerWaitEnd x0) := fun _ => Nat.le_of_ble_eq_true rfl
theorem twPrst  : ∀ x0 x1, Statement (.twPrst x0 x1) := fun _ _ => Nat.le_of_ble_eq_true rfl
theorem twTargetWrite  : ∀ x0 x1, Statement (.twTargetWrite x0 x1) := fun _ _ => Nat.le_of_ble_eq_true rfl
theorem twTargetRead  : ∀ x0 x1, Statement (.twTargetRead x0 x1) := fun _ _ => Nat.le_of_ble_eq_true rfl
theorem hlSuperframe  : ∀ x0 x1 x2, Statement (.hlSuperframe x0 x1 x2) := fun _ _ _ => Nat.le_of_ble_eq_true rfl
theorem hlDownBurstRx  : ∀ x0 x1, Statement (.hlDownBurstRx x0 x1) := fun _ _ => Nat.le_of_ble_eq_true rfl
theorem hlUpBurstTx  : ∀ x0, Statement (.hlUpBurstTx x0) := fun _ => Nat.le_of_ble_eq_true rfl
theorem hlUpBurstRx  : ∀ x0 x1, Statement (.hlUpBurstRx x0 x1) := fun _ _ => Nat.le_of_ble_eq_true rfl
theorem hlLinkLoss  : ∀ x0, Statement (.hlLinkLoss x0) := fun _ => Nat.le_of_ble_eq_true rfl
theorem hlLrst  : ∀ x0 x1, Statement (.hlLrst x0 x1) := fun _ _ => Nat.le_of_ble_eq_true rfl
theorem hlBell  : ∀ x0 x1, Statement (.hlBell x0 x1) := fun _ _ => Nat.le_of_ble_eq_true rfl
theorem hlBellEnd  : ∀ x0, Statement (.hlBellEnd x0) := fun _ => Nat.le_of_ble_eq_true rfl
theorem hlPrbnow  : ∀ x0 x1, Statement (.hlPrbnow x0 x1) := fun _ _ => Nat.le_of_ble_eq_true rfl
theorem hlTblcmdGo  : ∀ x0 x1 x2 x3, Statement (.hlTblcmdGo x0 x1 x2 x3) := fun _ _ _ _ => Nat.le_of_ble_eq_true rfl
theorem hlTableLoadRetry  : ∀ x0, Statement (.hlTableLoadRetry x0) := fun _ => Nat.le_of_ble_eq_true rfl
theorem hlTableCommit  : ∀ x0, Statement (.hlTableCommit x0) := fun _ => Nat.le_of_ble_eq_true rfl
theorem packetRoute  : ∀ x0 x1, Statement (.packetRoute x0 x1) := fun _ _ => Nat.le_of_ble_eq_true rfl
theorem plazaTransferComplete  : ∀ x0 x1 x2 x3, Statement (.plazaTransferComplete x0 x1 x2 x3) := fun _ _ _ _ => Nat.le_of_ble_eq_true rfl
theorem crossingPass  : ∀ x0, Statement (.crossingPass x0) := fun _ => Nat.le_of_ble_eq_true rfl
theorem crossingDeadline  : ∀ x0, Statement (.crossingDeadline x0) := fun _ => Nat.le_of_ble_eq_true rfl
theorem xcReset  : ∀ x0 x1, Statement (.xcReset x0 x1) := fun _ _ => Nat.le_of_ble_eq_true rfl
theorem xcRearm  : ∀ x0 x1, Statement (.xcRearm x0 x1) := fun _ _ => Nat.le_of_ble_eq_true rfl
theorem pinEdge  : ∀ x0 x1 x2, Statement (.pinEdge x0 x1 x2) := fun _ _ _ => Nat.le_of_ble_eq_true rfl
theorem pinStuck  : ∀ x0, Statement (.pinStuck x0) := fun _ => Nat.le_of_ble_eq_true rfl
theorem arcadeIdleTimeout  : ∀ x0, Statement (.arcadeIdleTimeout x0) := fun _ => Nat.le_of_ble_eq_true rfl
theorem arcadeFlush  : ∀ x0 x1, Statement (.arcadeFlush x0 x1) := fun _ _ => Nat.le_of_ble_eq_true rfl
theorem inUnpark  : ∀ x0 x1, Statement (.inUnpark x0 x1) := fun _ _ => Nat.le_of_ble_eq_true rfl
theorem llCmdArm  : ∀ x0 x1, Statement (.llCmdArm x0 x1) := fun _ _ => Nat.le_of_ble_eq_true rfl
theorem llCancel  : ∀ x0 x1, Statement (.llCancel x0 x1) := fun _ _ => Nat.le_of_ble_eq_true rfl
theorem llCommit  : ∀ x0, Statement (.llCommit x0) := fun _ => Nat.le_of_ble_eq_true rfl
theorem llPulseRise  : ∀ x0, Statement (.llPulseRise x0) := fun _ => Nat.le_of_ble_eq_true rfl
theorem llPulseFall  : ∀ x0, Statement (.llPulseFall x0) := fun _ => Nat.le_of_ble_eq_true rfl
theorem gpOutsetWrite  : ∀ x0 x1 x2, Statement (.gpOutsetWrite x0 x1 x2) := fun _ _ _ => Nat.le_of_ble_eq_true rfl
theorem gpOutclrWrite  : ∀ x0 x1 x2, Statement (.gpOutclrWrite x0 x1 x2) := fun _ _ _ => Nat.le_of_ble_eq_true rfl
theorem divisionComplete  : ∀ x0 x1, Statement (.divisionComplete x0 x1) := fun _ _ => Nat.le_of_ble_eq_true rfl
theorem storeDrain  : ∀ x0 x1 x2, Statement (.storeDrain x0 x1 x2) := fun _ _ _ => Nat.le_of_ble_eq_true rfl
theorem icacheFillComplete  : ∀ x0 x1, Statement (.icacheFillComplete x0 x1) := fun _ _ => Nat.le_of_ble_eq_true rfl
theorem memoryLoadComplete  : ∀ x0 x1, Statement (.memoryLoadComplete x0 x1) := fun _ _ => Nat.le_of_ble_eq_true rfl
theorem yieldEnd  : ∀ x0, Statement (.yieldEnd x0) := fun _ => Nat.le_of_ble_eq_true rfl
theorem entryTaken  : ∀ x0 x1, Statement (.entryTaken x0 x1) := fun _ _ => Nat.le_of_ble_eq_true rfl
theorem bkBtbinv  : ∀ x0 x1, Statement (.bkBtbinv x0 x1) := fun _ _ => Nat.le_of_ble_eq_true rfl
theorem bkIcinv  : ∀ x0 x1, Statement (.bkIcinv x0 x1) := fun _ _ => Nat.le_of_ble_eq_true rfl
theorem undefinedOpcode  : ∀ x0 x1, Statement (.undefinedOpcode x0 x1) := fun _ _ => Nat.le_of_ble_eq_true rfl
theorem iNop  : ∀ x0, Statement (.iNop x0) := fun _ => Nat.le_of_ble_eq_true rfl
theorem iDup  : ∀ x0, Statement (.iDup x0) := fun _ => Nat.le_of_ble_eq_true rfl
theorem iDrop  : ∀ x0, Statement (.iDrop x0) := fun _ => Nat.le_of_ble_eq_true rfl
theorem iSwap  : ∀ x0, Statement (.iSwap x0) := fun _ => Nat.le_of_ble_eq_true rfl
theorem iOver  : ∀ x0, Statement (.iOver x0) := fun _ => Nat.le_of_ble_eq_true rfl
theorem iNip  : ∀ x0, Statement (.iNip x0) := fun _ => Nat.le_of_ble_eq_true rfl
theorem iTuck  : ∀ x0, Statement (.iTuck x0) := fun _ => Nat.le_of_ble_eq_true rfl
theorem iRot  : ∀ x0, Statement (.iRot x0) := fun _ => Nat.le_of_ble_eq_true rfl
theorem iMinusRot  : ∀ x0, Statement (.iMinusRot x0) := fun _ => Nat.le_of_ble_eq_true rfl
theorem iTwoDup  : ∀ x0, Statement (.iTwoDup x0) := fun _ => Nat.le_of_ble_eq_true rfl
theorem iTwoDrop  : ∀ x0, Statement (.iTwoDrop x0) := fun _ => Nat.le_of_ble_eq_true rfl
theorem iTwoSwap  : ∀ x0, Statement (.iTwoSwap x0) := fun _ => Nat.le_of_ble_eq_true rfl
theorem iTwoOver  : ∀ x0, Statement (.iTwoOver x0) := fun _ => Nat.le_of_ble_eq_true rfl
theorem iPick  : ∀ x0 x1, Statement (.iPick x0 x1) := fun _ _ => Nat.le_of_ble_eq_true rfl
theorem iRoll  : ∀ x0 x1, Statement (.iRoll x0 x1) := fun _ _ => Nat.le_of_ble_eq_true rfl
theorem iDepth  : ∀ x0, Statement (.iDepth x0) := fun _ => Nat.le_of_ble_eq_true rfl
theorem iToR  : ∀ x0, Statement (.iToR x0) := fun _ => Nat.le_of_ble_eq_true rfl
theorem iRFrom  : ∀ x0, Statement (.iRFrom x0) := fun _ => Nat.le_of_ble_eq_true rfl
theorem iRFetch  : ∀ x0, Statement (.iRFetch x0) := fun _ => Nat.le_of_ble_eq_true rfl
theorem iRdrop  : ∀ x0, Statement (.iRdrop x0) := fun _ => Nat.le_of_ble_eq_true rfl
theorem iAdd  : ∀ x0, Statement (.iAdd x0) := fun _ => Nat.le_of_ble_eq_true rfl
theorem iSub  : ∀ x0, Statement (.iSub x0) := fun _ => Nat.le_of_ble_eq_true rfl
theorem iNeg  : ∀ x0, Statement (.iNeg x0) := fun _ => Nat.le_of_ble_eq_true rfl
theorem iAdc  : ∀ x0, Statement (.iAdc x0) := fun _ => Nat.le_of_ble_eq_true rfl
theorem iSbc  : ∀ x0, Statement (.iSbc x0) := fun _ => Nat.le_of_ble_eq_true rfl
theorem iCmp  : ∀ x0, Statement (.iCmp x0) := fun _ => Nat.le_of_ble_eq_true rfl
theorem iMul  : ∀ x0, Statement (.iMul x0) := fun _ => Nat.le_of_ble_eq_true rfl
theorem iMulh  : ∀ x0, Statement (.iMulh x0) := fun _ => Nat.le_of_ble_eq_true rfl
theorem iMulhu  : ∀ x0, Statement (.iMulhu x0) := fun _ => Nat.le_of_ble_eq_true rfl
theorem iDiv  : ∀ x0, Statement (.iDiv x0) := fun _ => Nat.le_of_ble_eq_true rfl
theorem iDivu  : ∀ x0, Statement (.iDivu x0) := fun _ => Nat.le_of_ble_eq_true rfl
theorem iAnd  : ∀ x0, Statement (.iAnd x0) := fun _ => Nat.le_of_ble_eq_true rfl
theorem iOr  : ∀ x0, Statement (.iOr x0) := fun _ => Nat.le_of_ble_eq_true rfl
theorem iXor  : ∀ x0, Statement (.iXor x0) := fun _ => Nat.le_of_ble_eq_true rfl
theorem iNot  : ∀ x0, Statement (.iNot x0) := fun _ => Nat.le_of_ble_eq_true rfl
theorem iShl  : ∀ x0, Statement (.iShl x0) := fun _ => Nat.le_of_ble_eq_true rfl
theorem iShr  : ∀ x0, Statement (.iShr x0) := fun _ => Nat.le_of_ble_eq_true rfl
theorem iSar  : ∀ x0, Statement (.iSar x0) := fun _ => Nat.le_of_ble_eq_true rfl
theorem iRol  : ∀ x0, Statement (.iRol x0) := fun _ => Nat.le_of_ble_eq_true rfl
theorem iRor  : ∀ x0, Statement (.iRor x0) := fun _ => Nat.le_of_ble_eq_true rfl
theorem iAddi  : ∀ x0 x1, Statement (.iAddi x0 x1) := fun _ _ => Nat.le_of_ble_eq_true rfl
theorem iMin  : ∀ x0, Statement (.iMin x0) := fun _ => Nat.le_of_ble_eq_true rfl
theorem iMax  : ∀ x0, Statement (.iMax x0) := fun _ => Nat.le_of_ble_eq_true rfl
theorem iMinu  : ∀ x0, Statement (.iMinu x0) := fun _ => Nat.le_of_ble_eq_true rfl
theorem iMaxu  : ∀ x0, Statement (.iMaxu x0) := fun _ => Nat.le_of_ble_eq_true rfl
theorem iAbs  : ∀ x0, Statement (.iAbs x0) := fun _ => Nat.le_of_ble_eq_true rfl
theorem iSextb  : ∀ x0, Statement (.iSextb x0) := fun _ => Nat.le_of_ble_eq_true rfl
theorem iSexth  : ∀ x0, Statement (.iSexth x0) := fun _ => Nat.le_of_ble_eq_true rfl
theorem iBswap  : ∀ x0, Statement (.iBswap x0) := fun _ => Nat.le_of_ble_eq_true rfl
theorem iFlgFetch  : ∀ x0, Statement (.iFlgFetch x0) := fun _ => Nat.le_of_ble_eq_true rfl
theorem iFlgStore  : ∀ x0, Statement (.iFlgStore x0) := fun _ => Nat.le_of_ble_eq_true rfl
theorem iLdb  : ∀ x0, Statement (.iLdb x0) := fun _ => Nat.le_of_ble_eq_true rfl
theorem iLdbs  : ∀ x0, Statement (.iLdbs x0) := fun _ => Nat.le_of_ble_eq_true rfl
theorem iLdh  : ∀ x0, Statement (.iLdh x0) := fun _ => Nat.le_of_ble_eq_true rfl
theorem iLdhs  : ∀ x0, Statement (.iLdhs x0) := fun _ => Nat.le_of_ble_eq_true rfl
theorem iLdw  : ∀ x0, Statement (.iLdw x0) := fun _ => Nat.le_of_ble_eq_true rfl
theorem iStb  : ∀ x0, Statement (.iStb x0) := fun _ => Nat.le_of_ble_eq_true rfl
theorem iSth  : ∀ x0, Statement (.iSth x0) := fun _ => Nat.le_of_ble_eq_true rfl
theorem iStw  : ∀ x0, Statement (.iStw x0) := fun _ => Nat.le_of_ble_eq_true rfl
theorem iLdwo  : ∀ x0 x1, Statement (.iLdwo x0 x1) := fun _ _ => Nat.le_of_ble_eq_true rfl
theorem iStwo  : ∀ x0 x1, Statement (.iStwo x0 x1) := fun _ _ => Nat.le_of_ble_eq_true rfl
theorem iStPlus  : ∀ x0, Statement (.iStPlus x0) := fun _ => Nat.le_of_ble_eq_true rfl
theorem iStbPlus  : ∀ x0, Statement (.iStbPlus x0) := fun _ => Nat.le_of_ble_eq_true rfl
theorem iLdwPlus  : ∀ x0, Statement (.iLdwPlus x0) := fun _ => Nat.le_of_ble_eq_true rfl
theorem iMovw  : ∀ x0, Statement (.iMovw x0) := fun _ => Nat.le_of_ble_eq_true rfl
theorem iMovb  : ∀ x0, Statement (.iMovb x0) := fun _ => Nat.le_of_ble_eq_true rfl
theorem iXchg  : ∀ x0, Statement (.iXchg x0) := fun _ => Nat.le_of_ble_eq_true rfl
theorem iK  : ∀ x0 x1, Statement (.iK x0 x1) := fun _ _ => Nat.le_of_ble_eq_true rfl
theorem iKm1  : ∀ x0, Statement (.iKm1 x0) := fun _ => Nat.le_of_ble_eq_true rfl
theorem iLit  : ∀ x0 x1, Statement (.iLit x0 x1) := fun _ _ => Nat.le_of_ble_eq_true rfl
theorem iLitu  : ∀ x0 x1, Statement (.iLitu x0 x1) := fun _ _ => Nat.le_of_ble_eq_true rfl
theorem iLit16  : ∀ x0 x1, Statement (.iLit16 x0 x1) := fun _ _ => Nat.le_of_ble_eq_true rfl
theorem iLit32  : ∀ x0 x1, Statement (.iLit32 x0 x1) := fun _ _ => Nat.le_of_ble_eq_true rfl
theorem iLith  : ∀ x0 x1, Statement (.iLith x0 x1) := fun _ _ => Nat.le_of_ble_eq_true rfl
theorem iCrcB  : ∀ x0 x1, Statement (.iCrcB x0 x1) := fun _ _ => Nat.le_of_ble_eq_true rfl
theorem iCrcW  : ∀ x0 x1, Statement (.iCrcW x0 x1) := fun _ _ => Nat.le_of_ble_eq_true rfl
theorem iCrcm  : ∀ x0 x1, Statement (.iCrcm x0 x1) := fun _ _ => Nat.le_of_ble_eq_true rfl
theorem iPar  : ∀ x0, Statement (.iPar x0) := fun _ => Nat.le_of_ble_eq_true rfl
theorem iPopc  : ∀ x0, Statement (.iPopc x0) := fun _ => Nat.le_of_ble_eq_true rfl
theorem iClz  : ∀ x0, Statement (.iClz x0) := fun _ => Nat.le_of_ble_eq_true rfl
theorem iBrev  : ∀ x0 x1, Statement (.iBrev x0 x1) := fun _ _ => Nat.le_of_ble_eq_true rfl
theorem iIn  : ∀ x0 x1, Statement (.iIn x0 x1) := fun _ _ => Nat.le_of_ble_eq_true rfl
theorem iOut  : ∀ x0 x1, Statement (.iOut x0 x1) := fun _ _ => Nat.le_of_ble_eq_true rfl
theorem iInm  : ∀ x0 x1, Statement (.iInm x0 x1) := fun _ _ => Nat.le_of_ble_eq_true rfl
theorem iOutm  : ∀ x0 x1, Statement (.iOutm x0 x1) := fun _ _ => Nat.le_of_ble_eq_true rfl
theorem iGps  : ∀ x0 x1, Statement (.iGps x0 x1) := fun _ _ => Nat.le_of_ble_eq_true rfl
theorem iGpc  : ∀ x0 x1, Statement (.iGpc x0 x1) := fun _ _ => Nat.le_of_ble_eq_true rfl
theorem iMile  : ∀ x0, Statement (.iMile x0) := fun _ => Nat.le_of_ble_eq_true rfl
theorem iArm  : ∀ x0, Statement (.iArm x0) := fun _ => Nat.le_of_ble_eq_true rfl
theorem iWait  : ∀ x0, Statement (.iWait x0) := fun _ => Nat.le_of_ble_eq_true rfl
theorem iWaittick  : ∀ x0, Statement (.iWaittick x0) := fun _ => Nat.le_of_ble_eq_true rfl
theorem iYield  : ∀ x0, Statement (.iYield x0) := fun _ => Nat.le_of_ble_eq_true rfl
theorem iSynci  : ∀ x0, Statement (.iSynci x0) := fun _ => Nat.le_of_ble_eq_true rfl
theorem iFence  : ∀ x0, Statement (.iFence x0) := fun _ => Nat.le_of_ble_eq_true rfl
theorem iEvt  : ∀ x0, Statement (.iEvt x0) := fun _ => Nat.le_of_ble_eq_true rfl
theorem iEntry  : ∀ x0, Statement (.iEntry x0) := fun _ => Nat.le_of_ble_eq_true rfl
theorem iEntoff  : ∀ x0, Statement (.iEntoff x0) := fun _ => Nat.le_of_ble_eq_true rfl
theorem iRete  : ∀ x0, Statement (.iRete x0) := fun _ => Nat.le_of_ble_eq_true rfl
theorem iRep  : ∀ x0 x1, Statement (.iRep x0 x1) := fun _ _ => Nat.le_of_ble_eq_true rfl
theorem iRepx  : ∀ x0 x1, Statement (.iRepx x0 x1) := fun _ _ => Nat.le_of_ble_eq_true rfl
theorem iRptFetch  : ∀ x0, Statement (.iRptFetch x0) := fun _ => Nat.le_of_ble_eq_true rfl
theorem iRptStore  : ∀ x0, Statement (.iRptStore x0) := fun _ => Nat.le_of_ble_eq_true rfl
theorem iBra  : ∀ x0 x1, Statement (.iBra x0 x1) := fun _ _ => Nat.le_of_ble_eq_true rfl
theorem iBraW  : ∀ x0 x1, Statement (.iBraW x0 x1) := fun _ _ => Nat.le_of_ble_eq_true rfl
theorem iBz  : ∀ x0 x1, Statement (.iBz x0 x1) := fun _ _ => Nat.le_of_ble_eq_true rfl
theorem iBnz  : ∀ x0 x1, Statement (.iBnz x0 x1) := fun _ _ => Nat.le_of_ble_eq_true rfl
theorem iBzW  : ∀ x0 x1, Statement (.iBzW x0 x1) := fun _ _ => Nat.le_of_ble_eq_true rfl
theorem iBnzW  : ∀ x0 x1, Statement (.iBnzW x0 x1) := fun _ _ => Nat.le_of_ble_eq_true rfl
theorem iCall  : ∀ x0 x1, Statement (.iCall x0 x1) := fun _ _ => Nat.le_of_ble_eq_true rfl
theorem iCalli  : ∀ x0, Statement (.iCalli x0) := fun _ => Nat.le_of_ble_eq_true rfl
theorem iJmpi  : ∀ x0, Statement (.iJmpi x0) := fun _ => Nat.le_of_ble_eq_true rfl
theorem iRet  : ∀ x0, Statement (.iRet x0) := fun _ => Nat.le_of_ble_eq_true rfl
theorem iDjnz  : ∀ x0 x1, Statement (.iDjnz x0 x1) := fun _ _ => Nat.le_of_ble_eq_true rfl
theorem iAvenueBeq  : ∀ x0 x1, Statement (.iAvenueBeq x0 x1) := fun _ _ => Nat.le_of_ble_eq_true rfl
theorem iAvenueBne  : ∀ x0 x1, Statement (.iAvenueBne x0 x1) := fun _ _ => Nat.le_of_ble_eq_true rfl
theorem iAvenueBlt  : ∀ x0 x1, Statement (.iAvenueBlt x0 x1) := fun _ _ => Nat.le_of_ble_eq_true rfl
theorem iAvenueBge  : ∀ x0 x1, Statement (.iAvenueBge x0 x1) := fun _ _ => Nat.le_of_ble_eq_true rfl
theorem iAvenueBltu  : ∀ x0 x1, Statement (.iAvenueBltu x0 x1) := fun _ _ => Nat.le_of_ble_eq_true rfl
theorem iAvenueBgeu  : ∀ x0 x1, Statement (.iAvenueBgeu x0 x1) := fun _ _ => Nat.le_of_ble_eq_true rfl
theorem iAvenueBgt  : ∀ x0 x1, Statement (.iAvenueBgt x0 x1) := fun _ _ => Nat.le_of_ble_eq_true rfl
theorem iAvenueBle  : ∀ x0 x1, Statement (.iAvenueBle x0 x1) := fun _ _ => Nat.le_of_ble_eq_true rfl
theorem iAvenueBeqW  : ∀ x0 x1, Statement (.iAvenueBeqW x0 x1) := fun _ _ => Nat.le_of_ble_eq_true rfl
theorem iAvenueBneW  : ∀ x0 x1, Statement (.iAvenueBneW x0 x1) := fun _ _ => Nat.le_of_ble_eq_true rfl
theorem iAvenueBltW  : ∀ x0 x1, Statement (.iAvenueBltW x0 x1) := fun _ _ => Nat.le_of_ble_eq_true rfl
theorem iAvenueBgeW  : ∀ x0 x1, Statement (.iAvenueBgeW x0 x1) := fun _ _ => Nat.le_of_ble_eq_true rfl
theorem iAvenueBltuW  : ∀ x0 x1, Statement (.iAvenueBltuW x0 x1) := fun _ _ => Nat.le_of_ble_eq_true rfl
theorem iAvenueBgeuW  : ∀ x0 x1, Statement (.iAvenueBgeuW x0 x1) := fun _ _ => Nat.le_of_ble_eq_true rfl
theorem iAvenueBgtW  : ∀ x0 x1, Statement (.iAvenueBgtW x0 x1) := fun _ _ => Nat.le_of_ble_eq_true rfl
theorem iAvenueBleW  : ∀ x0 x1, Statement (.iAvenueBleW x0 x1) := fun _ _ => Nat.le_of_ble_eq_true rfl
theorem iLaneBeq  : ∀ x0 x1, Statement (.iLaneBeq x0 x1) := fun _ _ => Nat.le_of_ble_eq_true rfl
theorem iLaneBne  : ∀ x0 x1, Statement (.iLaneBne x0 x1) := fun _ _ => Nat.le_of_ble_eq_true rfl
theorem iLaneBcs  : ∀ x0 x1, Statement (.iLaneBcs x0 x1) := fun _ _ => Nat.le_of_ble_eq_true rfl
theorem iLaneBcc  : ∀ x0 x1, Statement (.iLaneBcc x0 x1) := fun _ _ => Nat.le_of_ble_eq_true rfl
theorem iLaneBmi  : ∀ x0 x1, Statement (.iLaneBmi x0 x1) := fun _ _ => Nat.le_of_ble_eq_true rfl
theorem iLaneBpl  : ∀ x0 x1, Statement (.iLaneBpl x0 x1) := fun _ _ => Nat.le_of_ble_eq_true rfl
theorem iLaneBvs  : ∀ x0 x1, Statement (.iLaneBvs x0 x1) := fun _ _ => Nat.le_of_ble_eq_true rfl
theorem iLaneBvc  : ∀ x0 x1, Statement (.iLaneBvc x0 x1) := fun _ _ => Nat.le_of_ble_eq_true rfl
theorem iLaneBhi  : ∀ x0 x1, Statement (.iLaneBhi x0 x1) := fun _ _ => Nat.le_of_ble_eq_true rfl
theorem iLaneBls  : ∀ x0 x1, Statement (.iLaneBls x0 x1) := fun _ _ => Nat.le_of_ble_eq_true rfl
theorem iLaneBge  : ∀ x0 x1, Statement (.iLaneBge x0 x1) := fun _ _ => Nat.le_of_ble_eq_true rfl
theorem iLaneBlt  : ∀ x0 x1, Statement (.iLaneBlt x0 x1) := fun _ _ => Nat.le_of_ble_eq_true rfl
theorem iLaneBgt  : ∀ x0 x1, Statement (.iLaneBgt x0 x1) := fun _ _ => Nat.le_of_ble_eq_true rfl
theorem iLaneBle  : ∀ x0 x1, Statement (.iLaneBle x0 x1) := fun _ _ => Nat.le_of_ble_eq_true rfl
theorem iLaneBeqW  : ∀ x0 x1, Statement (.iLaneBeqW x0 x1) := fun _ _ => Nat.le_of_ble_eq_true rfl
theorem iLaneBneW  : ∀ x0 x1, Statement (.iLaneBneW x0 x1) := fun _ _ => Nat.le_of_ble_eq_true rfl
theorem iTrap  : ∀ x0 x1, Statement (.iTrap x0 x1) := fun _ _ => Nat.le_of_ble_eq_true rfl
theorem iBreak  : ∀ x0, Statement (.iBreak x0) := fun _ => Nat.le_of_ble_eq_true rfl
theorem csmLaunch  : ∀ x0, Statement (.csmLaunch x0) := fun _ => Nat.le_of_ble_eq_true rfl
theorem csmReceive  : ∀ x0 x1 x2 x3, Statement (.csmReceive x0 x1 x2 x3) := fun _ _ _ _ => Nat.le_of_ble_eq_true rfl
theorem csmReturn  : ∀ x0 x1 x2, Statement (.csmReturn x0 x1 x2) := fun _ _ _ => Nat.le_of_ble_eq_true rfl
theorem echoReceive  : ∀ x0 x1, Statement (.echoReceive x0 x1) := fun _ _ => Nat.le_of_ble_eq_true rfl
theorem slotFrameSend  : ∀ x0, Statement (.slotFrameSend x0) := fun _ => Nat.le_of_ble_eq_true rfl
theorem rgPost  : ∀ x0 x1, Statement (.rgPost x0 x1) := fun _ _ => Nat.le_of_ble_eq_true rfl
theorem ringFrameReceive  : ∀ x0 x1 x2, Statement (.ringFrameReceive x0 x1 x2) := fun _ _ _ => Nat.le_of_ble_eq_true rfl
theorem csmMiss : Statement .csmMiss := Nat.le_of_ble_eq_true rfl
theorem rgRxLock  : ∀ x0 x1, Statement (.rgRxLock x0 x1) := fun _ _ => Nat.le_of_ble_eq_true rfl
theorem rgRxLockLost  : ∀ x0 x1, Statement (.rgRxLockLost x0 x1) := fun _ _ => Nat.le_of_ble_eq_true rfl
theorem transmitPllLoss : Statement .transmitPllLoss := Nat.le_of_ble_eq_true rfl
theorem kerbOpen : Statement .kerbOpen := Nat.le_of_ble_eq_true rfl
theorem kerbOpenComplete : Statement .kerbOpenComplete := Nat.le_of_ble_eq_true rfl
theorem kerbClose : Statement .kerbClose := Nat.le_of_ble_eq_true rfl
theorem kerbCloseComplete : Statement .kerbCloseComplete := Nat.le_of_ble_eq_true rfl
theorem rgKclose  : ∀ x0, Statement (.rgKclose x0) := fun _ => Nat.le_of_ble_eq_true rfl
theorem rgBell  : ∀ x0 x1, Statement (.rgBell x0 x1) := fun _ _ => Nat.le_of_ble_eq_true rfl
theorem rgBellEnd  : ∀ x0, Statement (.rgBellEnd x0) := fun _ => Nat.le_of_ble_eq_true rfl
theorem ethernetFrameReceive  : ∀ x0 x1 x2, Statement (.ethernetFrameReceive x0 x1 x2) := fun _ _ _ => Nat.le_of_ble_eq_true rfl
theorem ptpSyncReceive  : ∀ x0 x1 x2 x3 x4 x5 x6, Statement (.ptpSyncReceive x0 x1 x2 x3 x4 x5 x6) := fun _ _ _ _ _ _ _ => Nat.le_of_ble_eq_true rfl
theorem ptpFollowUpReceive  : ∀ x0 x1 x2 x3 x4, Statement (.ptpFollowUpReceive x0 x1 x2 x3 x4) := fun _ _ _ _ _ => Nat.le_of_ble_eq_true rfl
theorem followUpTimeout  : ∀ x0, Statement (.followUpTimeout x0) := fun _ => Nat.le_of_ble_eq_true rfl
theorem ptpSyncSend  : ∀ x0, Statement (.ptpSyncSend x0) := fun _ => Nat.le_of_ble_eq_true rfl
theorem ptpAnnounceSend  : ∀ x0, Statement (.ptpAnnounceSend x0) := fun _ => Nat.le_of_ble_eq_true rfl
theorem pdelayReqSend  : ∀ x0 x1, Statement (.pdelayReqSend x0 x1) := fun _ _ => Nat.le_of_ble_eq_true rfl
theorem pdelayReqReceive  : ∀ x0 x1 x2 x3 x4, Statement (.pdelayReqReceive x0 x1 x2 x3 x4) := fun _ _ _ _ _ => Nat.le_of_ble_eq_true rfl
theorem pdelayRespReceive  : ∀ x0 x1 x2 x3 x4, Statement (.pdelayRespReceive x0 x1 x2 x3 x4) := fun _ _ _ _ _ => Nat.le_of_ble_eq_true rfl
theorem pdelayTimeout  : ∀ x0, Statement (.pdelayTimeout x0) := fun _ => Nat.le_of_ble_eq_true rfl
theorem bar0ReadTimeout  : ∀ x0 x1 x2, Statement (.bar0ReadTimeout x0 x1 x2) := fun _ _ _ => Nat.le_of_ble_eq_true rfl
theorem pcieConfigRequest  : ∀ x0 x1, Statement (.pcieConfigRequest x0 x1) := fun _ _ => Nat.le_of_ble_eq_true rfl
theorem functionLevelReset  : ∀ x0, Statement (.functionLevelReset x0) := fun _ => Nat.le_of_ble_eq_true rfl
theorem perstRelease  : ∀ x0, Statement (.perstRelease x0) := fun _ => Nat.le_of_ble_eq_true rfl
theorem hostLinkL0  : ∀ x0, Statement (.hostLinkL0 x0) := fun _ => Nat.le_of_ble_eq_true rfl
theorem hpCpiWrite  : ∀ x0 x1 x2, Statement (.hpCpiWrite x0 x1 x2) := fun _ _ _ => Nat.le_of_ble_eq_true rfl
theorem reservedCommand  : ∀ x0, Statement (.reservedCommand x0) := fun _ => Nat.le_of_ble_eq_true rfl
theorem nopCommand  : ∀ x0, Statement (.nopCommand x0) := fun _ => Nat.le_of_ble_eq_true rfl
theorem quota  : ∀ x0, Statement (.quota x0) := fun _ => Nat.le_of_ble_eq_true rfl
theorem quarterReset  : ∀ x0, Statement (.quarterReset x0) := fun _ => Nat.le_of_ble_eq_true rfl
theorem threadRestart  : ∀ x0, Statement (.threadRestart x0) := fun _ => Nat.le_of_ble_eq_true rfl
theorem pinGet  : ∀ x0, Statement (.pinGet x0) := fun _ => Nat.le_of_ble_eq_true rfl
theorem pinSet  : ∀ x0, Statement (.pinSet x0) := fun _ => Nat.le_of_ble_eq_true rfl
theorem mode  : ∀ x0, Statement (.mode x0) := fun _ => Nat.le_of_ble_eq_true rfl
theorem deviceReset  : ∀ x0, Statement (.deviceReset x0) := fun _ => Nat.le_of_ble_eq_true rfl
theorem wake  : ∀ x0, Statement (.wake x0) := fun _ => Nat.le_of_ble_eq_true rfl
theorem userCommand  : ∀ x0, Statement (.userCommand x0) := fun _ => Nat.le_of_ble_eq_true rfl
theorem hpUdoneWrite  : ∀ x0 x1 x2, Statement (.hpUdoneWrite x0 x1 x2) := fun _ _ _ => Nat.le_of_ble_eq_true rfl
theorem userCommandTimeout  : ∀ x0, Statement (.userCommandTimeout x0) := fun _ => Nat.le_of_ble_eq_true rfl
theorem hpDrcfgWrite  : ∀ x0 x1 x2 x3, Statement (.hpDrcfgWrite x0 x1 x2 x3) := fun _ _ _ _ => Nat.le_of_ble_eq_true rfl
theorem hpDrpiWrite  : ∀ x0 x1 x2 x3, Statement (.hpDrpiWrite x0 x1 x2 x3) := fun _ _ _ _ => Nat.le_of_ble_eq_true rfl
theorem dmaTransfer  : ∀ x0 x1 x2, Statement (.dmaTransfer x0 x1 x2) := fun _ _ _ => Nat.le_of_ble_eq_true rfl
theorem dmaTransferComplete  : ∀ x0 x1, Statement (.dmaTransferComplete x0 x1) := fun _ _ => Nat.le_of_ble_eq_true rfl
theorem msixPendingSend  : ∀ x0 x1, Statement (.msixPendingSend x0 x1) := fun _ _ => Nat.le_of_ble_eq_true rfl
theorem hpWdkick  : ∀ x0 x1, Statement (.hpWdkick x0 x1) := fun _ _ => Nat.le_of_ble_eq_true rfl
theorem hpWdogWrite  : ∀ x0 x1 x2, Statement (.hpWdogWrite x0 x1 x2) := fun _ _ _ => Nat.le_of_ble_eq_true rfl
theorem watchdogExpiry  : ∀ x0, Statement (.watchdogExpiry x0) := fun _ => Nat.le_of_ble_eq_true rfl
theorem xipMissFill : Statement .xipMissFill := Nat.le_of_ble_eq_true rfl
theorem xipFillComplete  : ∀ x0, Statement (.xipFillComplete x0) := fun _ => Nat.le_of_ble_eq_true rfl
theorem mp0CtlHoldWrite  : ∀ x0 x1, Statement (.mp0CtlHoldWrite x0 x1) := fun _ _ => Nat.le_of_ble_eq_true rfl
theorem mp0Invpf  : ∀ x0 x1, Statement (.mp0Invpf x0 x1) := fun _ _ => Nat.le_of_ble_eq_true rfl
theorem mp0RawGo  : ∀ x0 x1, Statement (.mp0RawGo x0 x1) := fun _ _ => Nat.le_of_ble_eq_true rfl
theorem mp0RawComplete  : ∀ x0, Statement (.mp0RawComplete x0) := fun _ => Nat.le_of_ble_eq_true rfl
theorem scrubRead  : ∀ x0, Statement (.scrubRead x0) := fun _ => Nat.le_of_ble_eq_true rfl
theorem scrubWriteback : Statement .scrubWriteback := Nat.le_of_ble_eq_true rfl
theorem mpPsnclrWrite  : ∀ x0 x1, Statement (.mpPsnclrWrite x0 x1) := fun _ _ => Nat.le_of_ble_eq_true rfl
theorem mpEccInjArm  : ∀ x0 x1 x2, Statement (.mpEccInjArm x0 x1 x2) := fun _ _ _ => Nat.le_of_ble_eq_true rfl
theorem mp1Read  : ∀ x0 x1 x2, Statement (.mp1Read x0 x1 x2) := fun _ _ _ => Nat.le_of_ble_eq_true rfl
theorem mp1Readraw  : ∀ x0 x1 x2, Statement (.mp1Readraw x0 x1 x2) := fun _ _ _ => Nat.le_of_ble_eq_true rfl
theorem mp1Program  : ∀ x0 x1 x2, Statement (.mp1Program x0 x1 x2) := fun _ _ _ => Nat.le_of_ble_eq_true rfl
theorem mp1Erase  : ∀ x0 x1 x2, Statement (.mp1Erase x0 x1 x2) := fun _ _ _ => Nat.le_of_ble_eq_true rfl
theorem mp1Bbtscan  : ∀ x0 x1 x2, Statement (.mp1Bbtscan x0 x1 x2) := fun _ _ _ => Nat.le_of_ble_eq_true rfl
theorem mp1StatusPoll  : ∀ x0, Statement (.mp1StatusPoll x0) := fun _ => Nat.le_of_ble_eq_true rfl
theorem mp1OpComplete  : ∀ x0, Statement (.mp1OpComplete x0) := fun _ => Nat.le_of_ble_eq_true rfl
theorem mp1Timeout : Statement .mp1Timeout := Nat.le_of_ble_eq_true rfl
theorem patrolRead : Statement .patrolRead := Nat.le_of_ble_eq_true rfl
theorem mp1PatresRead  : ∀ x0, Statement (.mp1PatresRead x0) := fun _ => Nat.le_of_ble_eq_true rfl
theorem tatIntegrate : Statement .tatIntegrate := Nat.le_of_ble_eq_true rfl
theorem resetEnd  : ∀ x0 x1, Statement (.resetEnd x0 x1) := fun _ _ => Nat.le_of_ble_eq_true rfl
theorem mapLoadComplete : Statement .mapLoadComplete := Nat.le_of_ble_eq_true rfl
theorem pushGo  : ∀ x0 x1 x2, Statement (.pushGo x0 x1 x2) := fun _ _ _ => Nat.le_of_ble_eq_true rfl
theorem pushChunkTaken : Statement .pushChunkTaken := Nat.le_of_ble_eq_true rfl
theorem pushAbort  : ∀ x0, Statement (.pushAbort x0) := fun _ => Nat.le_of_ble_eq_true rfl
theorem pushTimeout : Statement .pushTimeout := Nat.le_of_ble_eq_true rfl
theorem sysProfcmd  : ∀ x0 x1, Statement (.sysProfcmd x0 x1) := fun _ _ => Nat.le_of_ble_eq_true rfl
theorem profileCopyComplete : Statement .profileCopyComplete := Nat.le_of_ble_eq_true rfl
theorem hostLinkWaitEnd  : ∀ x0 x1, Statement (.hostLinkWaitEnd x0 x1) := fun _ _ => Nat.le_of_ble_eq_true rfl
theorem modeEntryAccept : Statement .modeEntryAccept := Nat.le_of_ble_eq_true rfl
theorem isolationComplete  : ∀ x0 x1, Statement (.isolationComplete x0 x1) := fun _ _ => Nat.le_of_ble_eq_true rfl
theorem pmModereqWrite  : ∀ x0 x1, Statement (.pmModereqWrite x0 x1) := fun _ _ => Nat.le_of_ble_eq_true rfl
theorem wakeDetect  : ∀ x0, Statement (.wakeDetect x0) := fun _ => Nat.le_of_ble_eq_true rfl
theorem watchRestoreComplete : Statement .watchRestoreComplete := Nat.le_of_ble_eq_true rfl
theorem pmMonitorSample  : ∀ x0 x1 x2 x3 x4 x5 x6, Statement (.pmMonitorSample x0 x1 x2 x3 x4 x5 x6) := fun _ _ _ _ _ _ _ => Nat.le_of_ble_eq_true rfl
theorem pllLockLoss  : ∀ x0, Statement (.pllLockLoss x0) := fun _ => Nat.le_of_ble_eq_true rfl
theorem autoRestart : Statement .autoRestart := Nat.le_of_ble_eq_true rfl
theorem powerOn : Statement .powerOn := Nat.le_of_ble_eq_true rfl
theorem referenceDetect : Statement .referenceDetect := Nat.le_of_ble_eq_true rfl
theorem resetPin  : ∀ x0, Statement (.resetPin x0) := fun _ => Nat.le_of_ble_eq_true rfl
theorem brownOut  : ∀ x0 x1, Statement (.brownOut x0 x1) := fun _ _ => Nat.le_of_ble_eq_true rfl
theorem powerOff : Statement .powerOff := Nat.le_of_ble_eq_true rfl
theorem haltreq  : ∀ x0, Statement (.haltreq x0) := fun _ => Nat.le_of_ble_eq_true rfl
theorem resume  : ∀ x0, Statement (.resume x0) := fun _ => Nat.le_of_ble_eq_true rfl
theorem dbgacc  : ∀ x0 x1 x2, Statement (.dbgacc x0 x1 x2) := fun _ _ _ => Nat.le_of_ble_eq_true rfl
theorem idcode : Statement .idcode := Nat.le_of_ble_eq_true rfl
theorem extest : Statement .extest := Nat.le_of_ble_eq_true rfl
theorem samplePreload : Statement .samplePreload := Nat.le_of_ble_eq_true rfl
theorem bypass  : ∀ x0, Statement (.bypass x0) := fun _ => Nat.le_of_ble_eq_true rfl
theorem blankToMaker  : ∀ x0, Statement (.blankToMaker x0) := fun _ => Nat.le_of_ble_eq_true rfl
theorem makerToOpen  : ∀ x0, Statement (.makerToOpen x0) := fun _ => Nat.le_of_ble_eq_true rfl
theorem keyfuse  : ∀ x0, Statement (.keyfuse x0) := fun _ => Nat.le_of_ble_eq_true rfl
theorem openToSealed  : ∀ x0, Statement (.openToSealed x0) := fun _ => Nat.le_of_ble_eq_true rfl
theorem sealedToReturn  : ∀ x0, Statement (.sealedToReturn x0) := fun _ => Nat.le_of_ble_eq_true rfl
theorem topen  : ∀ x0, Statement (.topen x0) := fun _ => Nat.le_of_ble_eq_true rfl
theorem scrap  : ∀ x0, Statement (.scrap x0) := fun _ => Nat.le_of_ble_eq_true rfl
theorem scrapConfirmExpiry : Statement .scrapConfirmExpiry := Nat.le_of_ble_eq_true rfl
theorem lcProgramComplete  : ∀ x0 x1 x2, Statement (.lcProgramComplete x0 x1 x2) := fun _ _ _ => Nat.le_of_ble_eq_true rfl
theorem registerWrite  : ∀ x0 x1 x2 x3, Statement (.registerWrite x0 x1 x2 x3) := fun _ _ _ _ => Nat.le_of_ble_eq_true rfl
theorem registerRead  : ∀ x0 x1, Statement (.registerRead x0 x1) := fun _ _ => Nat.le_of_ble_eq_true rfl
theorem messageOfAnotherController  : ∀ x0 x1, Statement (.messageOfAnotherController x0 x1) := fun _ _ => Nat.le_of_ble_eq_true rfl
theorem aonCrystalFailure : Statement .aonCrystalFailure := Nat.le_of_ble_eq_true rfl
theorem aonCrystalStable : Statement .aonCrystalStable := Nat.le_of_ble_eq_true rfl
theorem transmitPllLock : Statement .transmitPllLock := Nat.le_of_ble_eq_true rfl
theorem hostLinkTrained  : ∀ x0 x1, Statement (.hostLinkTrained x0 x1) := fun _ _ => Nat.le_of_ble_eq_true rfl
theorem hostLinkDown  : ∀ x0, Statement (.hostLinkDown x0) := fun _ => Nat.le_of_ble_eq_true rfl
theorem hostLinkL1Entry  : ∀ x0, Statement (.hostLinkL1Entry x0) := fun _ => Nat.le_of_ble_eq_true rfl
theorem mapSectionRead  : ∀ x0, Statement (.mapSectionRead x0) := fun _ => Nat.le_of_ble_eq_true rfl
theorem patrolReadComplete  : ∀ x0, Statement (.patrolReadComplete x0) := fun _ => Nat.le_of_ble_eq_true rfl
theorem lcCommandComplete : Statement .lcCommandComplete := Nat.le_of_ble_eq_true rfl

end Sys2Proof.Laws.Known
end

