-- ==== Sys2Proof/Laws/State.lean ====
section
/-! SUPPORT. What each update of the state leaves alone, field by field, what the readers give after it, and the byte
memories. -/

namespace Sys2Proof.Machine

set_option Elab.async false

section
variable (s : State)

/-! ### setReg -/

@[simp] theorem setReg_pending (r : Reg) (i : Nat) (w : Word) : (s.setReg r i w).pending = s.pending :=
  (fun x => (rfl : ({ s with live := x } : State).pending = s.pending)) _
@[simp] theorem setReg_free (r : Reg) (i : Nat) (w : Word) : (s.setReg r i w).free = s.free :=
  (fun x => (rfl : ({ s with live := x } : State).free = s.free)) _
@[simp] theorem setReg_staged (r : Reg) (i : Nat) (w : Word) : (s.setReg r i w).staged = s.staged :=
  (fun x => (rfl : ({ s with live := x } : State).staged = s.staged)) _
@[simp] theorem setReg_captured (r : Reg) (i : Nat) (w : Word) : (s.setReg r i w).captured = s.captured :=
  (fun x => (rfl : ({ s with live := x } : State).captured = s.captured)) _
@[simp] theorem setReg_active (r : Reg) (i : Nat) (w : Word) : (s.setReg r i w).active = s.active :=
  (fun x => (rfl : ({ s with live := x } : State).active = s.active)) _
@[simp] theorem setReg_mapv (r : Reg) (i : Nat) (w : Word) : (s.setReg r i w).mapv = s.mapv :=
  (fun x => (rfl : ({ s with live := x } : State).mapv = s.mapv)) _
@[simp] theorem setReg_holdReg (r : Reg) (i : Nat) (w : Word) : (s.setReg r i w).holdReg = s.holdReg :=
  (fun x => (rfl : ({ s with live := x } : State).holdReg = s.holdReg)) _
@[simp] theorem setReg_holdMark (r : Reg) (i : Nat) (w : Word) : (s.setReg r i w).holdMark = s.holdMark :=
  (fun x => (rfl : ({ s with live := x } : State).holdMark = s.holdMark)) _
@[simp] theorem setReg_snap (r : Reg) (i : Nat) (w : Word) : (s.setReg r i w).snap = s.snap :=
  (fun x => (rfl : ({ s with live := x } : State).snap = s.snap)) _
@[simp] theorem setReg_owner (r : Reg) (i : Nat) (w : Word) : (s.setReg r i w).owner = s.owner :=
  (fun x => (rfl : ({ s with live := x } : State).owner = s.owner)) _
@[simp] theorem setReg_mem (r : Reg) (i : Nat) (w : Word) : (s.setReg r i w).mem = s.mem :=
  (fun x => (rfl : ({ s with live := x } : State).mem = s.mem)) _
@[simp] theorem setReg_ecc (r : Reg) (i : Nat) (w : Word) : (s.setReg r i w).ecc = s.ecc :=
  (fun x => (rfl : ({ s with live := x } : State).ecc = s.ecc)) _
@[simp] theorem setReg_scrubQ (r : Reg) (i : Nat) (w : Word) : (s.setReg r i w).scrubQ = s.scrubQ :=
  (fun x => (rfl : ({ s with live := x } : State).scrubQ = s.scrubQ)) _
@[simp] theorem setReg_ct (r : Reg) (i : Nat) (w : Word) : (s.setReg r i w).ct = s.ct :=
  (fun x => (rfl : ({ s with live := x } : State).ct = s.ct)) _
@[simp] theorem setReg_aon (r : Reg) (i : Nat) (w : Word) : (s.setReg r i w).aon = s.aon :=
  (fun x => (rfl : ({ s with live := x } : State).aon = s.aon)) _
@[simp] theorem setReg_blk (r : Reg) (i : Nat) (w : Word) : (s.setReg r i w).blk = s.blk :=
  (fun x => (rfl : ({ s with live := x } : State).blk = s.blk)) _
@[simp] theorem setReg_thr (r : Reg) (i : Nat) (w : Word) : (s.setReg r i w).thr = s.thr :=
  (fun x => (rfl : ({ s with live := x } : State).thr = s.thr)) _
@[simp] theorem setReg_fp (r : Reg) (i : Nat) (w : Word) : (s.setReg r i w).fp = s.fp :=
  (fun x => (rfl : ({ s with live := x } : State).fp = s.fp)) _
@[simp] theorem setReg_presented (r : Reg) (i : Nat) (w : Word) : (s.setReg r i w).presented = s.presented :=
  (fun x => (rfl : ({ s with live := x } : State).presented = s.presented)) _
@[simp] theorem setReg_arc (r : Reg) (i : Nat) (w : Word) : (s.setReg r i w).arc = s.arc :=
  (fun x => (rfl : ({ s with live := x } : State).arc = s.arc)) _
@[simp] theorem setReg_ll (r : Reg) (i : Nat) (w : Word) : (s.setReg r i w).ll = s.ll :=
  (fun x => (rfl : ({ s with live := x } : State).ll = s.ll)) _
@[simp] theorem setReg_pin (r : Reg) (i : Nat) (w : Word) : (s.setReg r i w).pin = s.pin :=
  (fun x => (rfl : ({ s with live := x } : State).pin = s.pin)) _
@[simp] theorem setReg_xq (r : Reg) (i : Nat) (w : Word) : (s.setReg r i w).xq = s.xq :=
  (fun x => (rfl : ({ s with live := x } : State).xq = s.xq)) _
@[simp] theorem setReg_xc (r : Reg) (i : Nat) (w : Word) : (s.setReg r i w).xc = s.xc :=
  (fun x => (rfl : ({ s with live := x } : State).xc = s.xc)) _
@[simp] theorem setReg_xcEv (r : Reg) (i : Nat) (w : Word) : (s.setReg r i w).xcEv = s.xcEv :=
  (fun x => (rfl : ({ s with live := x } : State).xcEv = s.xcEv)) _
@[simp] theorem setReg_hl (r : Reg) (i : Nat) (w : Word) : (s.setReg r i w).hl = s.hl :=
  (fun x => (rfl : ({ s with live := x } : State).hl = s.hl)) _
@[simp] theorem setReg_tw (r : Reg) (i : Nat) (w : Word) : (s.setReg r i w).tw = s.tw :=
  (fun x => (rfl : ({ s with live := x } : State).tw = s.tw)) _
@[simp] theorem setReg_ring (r : Reg) (i : Nat) (w : Word) : (s.setReg r i w).ring = s.ring :=
  (fun x => (rfl : ({ s with live := x } : State).ring = s.ring)) _
@[simp] theorem setReg_mp (r : Reg) (i : Nat) (w : Word) : (s.setReg r i w).mp = s.mp :=
  (fun x => (rfl : ({ s with live := x } : State).mp = s.mp)) _
@[simp] theorem setReg_ld (r : Reg) (i : Nat) (w : Word) : (s.setReg r i w).ld = s.ld :=
  (fun x => (rfl : ({ s with live := x } : State).ld = s.ld)) _
@[simp] theorem setReg_map (r : Reg) (i : Nat) (w : Word) : (s.setReg r i w).map = s.map :=
  (fun x => (rfl : ({ s with live := x } : State).map = s.map)) _
@[simp] theorem setReg_pm (r : Reg) (i : Nat) (w : Word) : (s.setReg r i w).pm = s.pm :=
  (fun x => (rfl : ({ s with live := x } : State).pm = s.pm)) _
@[simp] theorem setReg_lc (r : Reg) (i : Nat) (w : Word) : (s.setReg r i w).lc = s.lc :=
  (fun x => (rfl : ({ s with live := x } : State).lc = s.lc)) _
@[simp] theorem setReg_qtr (r : Reg) (i : Nat) (w : Word) : (s.setReg r i w).qtr = s.qtr :=
  (fun x => (rfl : ({ s with live := x } : State).qtr = s.qtr)) _
@[simp] theorem setReg_bar2 (r : Reg) (i : Nat) (w : Word) : (s.setReg r i w).bar2 = s.bar2 :=
  (fun x => (rfl : ({ s with live := x } : State).bar2 = s.bar2)) _
@[simp] theorem setReg_out (r : Reg) (i : Nat) (w : Word) : (s.setReg r i w).out = s.out :=
  (fun x => (rfl : ({ s with live := x } : State).out = s.out)) _

/-! ### setFld -/

@[simp] theorem setFld_pending (f : Field) (i v : Nat) : (s.setFld f i v).pending = s.pending :=
  (fun x => (rfl : ({ s with live := x } : State).pending = s.pending)) _
@[simp] theorem setFld_free (f : Field) (i v : Nat) : (s.setFld f i v).free = s.free :=
  (fun x => (rfl : ({ s with live := x } : State).free = s.free)) _
@[simp] theorem setFld_staged (f : Field) (i v : Nat) : (s.setFld f i v).staged = s.staged :=
  (fun x => (rfl : ({ s with live := x } : State).staged = s.staged)) _
@[simp] theorem setFld_captured (f : Field) (i v : Nat) : (s.setFld f i v).captured = s.captured :=
  (fun x => (rfl : ({ s with live := x } : State).captured = s.captured)) _
@[simp] theorem setFld_active (f : Field) (i v : Nat) : (s.setFld f i v).active = s.active :=
  (fun x => (rfl : ({ s with live := x } : State).active = s.active)) _
@[simp] theorem setFld_mapv (f : Field) (i v : Nat) : (s.setFld f i v).mapv = s.mapv :=
  (fun x => (rfl : ({ s with live := x } : State).mapv = s.mapv)) _
@[simp] theorem setFld_holdReg (f : Field) (i v : Nat) : (s.setFld f i v).holdReg = s.holdReg :=
  (fun x => (rfl : ({ s with live := x } : State).holdReg = s.holdReg)) _
@[simp] theorem setFld_holdMark (f : Field) (i v : Nat) : (s.setFld f i v).holdMark = s.holdMark :=
  (fun x => (rfl : ({ s with live := x } : State).holdMark = s.holdMark)) _
@[simp] theorem setFld_snap (f : Field) (i v : Nat) : (s.setFld f i v).snap = s.snap :=
  (fun x => (rfl : ({ s with live := x } : State).snap = s.snap)) _
@[simp] theorem setFld_owner (f : Field) (i v : Nat) : (s.setFld f i v).owner = s.owner :=
  (fun x => (rfl : ({ s with live := x } : State).owner = s.owner)) _
@[simp] theorem setFld_mem (f : Field) (i v : Nat) : (s.setFld f i v).mem = s.mem :=
  (fun x => (rfl : ({ s with live := x } : State).mem = s.mem)) _
@[simp] theorem setFld_ecc (f : Field) (i v : Nat) : (s.setFld f i v).ecc = s.ecc :=
  (fun x => (rfl : ({ s with live := x } : State).ecc = s.ecc)) _
@[simp] theorem setFld_scrubQ (f : Field) (i v : Nat) : (s.setFld f i v).scrubQ = s.scrubQ :=
  (fun x => (rfl : ({ s with live := x } : State).scrubQ = s.scrubQ)) _
@[simp] theorem setFld_ct (f : Field) (i v : Nat) : (s.setFld f i v).ct = s.ct :=
  (fun x => (rfl : ({ s with live := x } : State).ct = s.ct)) _
@[simp] theorem setFld_aon (f : Field) (i v : Nat) : (s.setFld f i v).aon = s.aon :=
  (fun x => (rfl : ({ s with live := x } : State).aon = s.aon)) _
@[simp] theorem setFld_blk (f : Field) (i v : Nat) : (s.setFld f i v).blk = s.blk :=
  (fun x => (rfl : ({ s with live := x } : State).blk = s.blk)) _
@[simp] theorem setFld_thr (f : Field) (i v : Nat) : (s.setFld f i v).thr = s.thr :=
  (fun x => (rfl : ({ s with live := x } : State).thr = s.thr)) _
@[simp] theorem setFld_fp (f : Field) (i v : Nat) : (s.setFld f i v).fp = s.fp :=
  (fun x => (rfl : ({ s with live := x } : State).fp = s.fp)) _
@[simp] theorem setFld_presented (f : Field) (i v : Nat) : (s.setFld f i v).presented = s.presented :=
  (fun x => (rfl : ({ s with live := x } : State).presented = s.presented)) _
@[simp] theorem setFld_arc (f : Field) (i v : Nat) : (s.setFld f i v).arc = s.arc :=
  (fun x => (rfl : ({ s with live := x } : State).arc = s.arc)) _
@[simp] theorem setFld_ll (f : Field) (i v : Nat) : (s.setFld f i v).ll = s.ll :=
  (fun x => (rfl : ({ s with live := x } : State).ll = s.ll)) _
@[simp] theorem setFld_pin (f : Field) (i v : Nat) : (s.setFld f i v).pin = s.pin :=
  (fun x => (rfl : ({ s with live := x } : State).pin = s.pin)) _
@[simp] theorem setFld_xq (f : Field) (i v : Nat) : (s.setFld f i v).xq = s.xq :=
  (fun x => (rfl : ({ s with live := x } : State).xq = s.xq)) _
@[simp] theorem setFld_xc (f : Field) (i v : Nat) : (s.setFld f i v).xc = s.xc :=
  (fun x => (rfl : ({ s with live := x } : State).xc = s.xc)) _
@[simp] theorem setFld_xcEv (f : Field) (i v : Nat) : (s.setFld f i v).xcEv = s.xcEv :=
  (fun x => (rfl : ({ s with live := x } : State).xcEv = s.xcEv)) _
@[simp] theorem setFld_hl (f : Field) (i v : Nat) : (s.setFld f i v).hl = s.hl :=
  (fun x => (rfl : ({ s with live := x } : State).hl = s.hl)) _
@[simp] theorem setFld_tw (f : Field) (i v : Nat) : (s.setFld f i v).tw = s.tw :=
  (fun x => (rfl : ({ s with live := x } : State).tw = s.tw)) _
@[simp] theorem setFld_ring (f : Field) (i v : Nat) : (s.setFld f i v).ring = s.ring :=
  (fun x => (rfl : ({ s with live := x } : State).ring = s.ring)) _
@[simp] theorem setFld_mp (f : Field) (i v : Nat) : (s.setFld f i v).mp = s.mp :=
  (fun x => (rfl : ({ s with live := x } : State).mp = s.mp)) _
@[simp] theorem setFld_ld (f : Field) (i v : Nat) : (s.setFld f i v).ld = s.ld :=
  (fun x => (rfl : ({ s with live := x } : State).ld = s.ld)) _
@[simp] theorem setFld_map (f : Field) (i v : Nat) : (s.setFld f i v).map = s.map :=
  (fun x => (rfl : ({ s with live := x } : State).map = s.map)) _
@[simp] theorem setFld_pm (f : Field) (i v : Nat) : (s.setFld f i v).pm = s.pm :=
  (fun x => (rfl : ({ s with live := x } : State).pm = s.pm)) _
@[simp] theorem setFld_lc (f : Field) (i v : Nat) : (s.setFld f i v).lc = s.lc :=
  (fun x => (rfl : ({ s with live := x } : State).lc = s.lc)) _
@[simp] theorem setFld_qtr (f : Field) (i v : Nat) : (s.setFld f i v).qtr = s.qtr :=
  (fun x => (rfl : ({ s with live := x } : State).qtr = s.qtr)) _
@[simp] theorem setFld_bar2 (f : Field) (i v : Nat) : (s.setFld f i v).bar2 = s.bar2 :=
  (fun x => (rfl : ({ s with live := x } : State).bar2 = s.bar2)) _
@[simp] theorem setFld_out (f : Field) (i v : Nat) : (s.setFld f i v).out = s.out :=
  (fun x => (rfl : ({ s with live := x } : State).out = s.out)) _

/-! ### raise -/

@[simp] theorem raise_pending (f : Field) (i : Nat) : (s.raise f i).pending = s.pending :=
  (fun x => (rfl : ({ s with live := x } : State).pending = s.pending)) _
@[simp] theorem raise_free (f : Field) (i : Nat) : (s.raise f i).free = s.free :=
  (fun x => (rfl : ({ s with live := x } : State).free = s.free)) _
@[simp] theorem raise_staged (f : Field) (i : Nat) : (s.raise f i).staged = s.staged :=
  (fun x => (rfl : ({ s with live := x } : State).staged = s.staged)) _
@[simp] theorem raise_captured (f : Field) (i : Nat) : (s.raise f i).captured = s.captured :=
  (fun x => (rfl : ({ s with live := x } : State).captured = s.captured)) _
@[simp] theorem raise_active (f : Field) (i : Nat) : (s.raise f i).active = s.active :=
  (fun x => (rfl : ({ s with live := x } : State).active = s.active)) _
@[simp] theorem raise_mapv (f : Field) (i : Nat) : (s.raise f i).mapv = s.mapv :=
  (fun x => (rfl : ({ s with live := x } : State).mapv = s.mapv)) _
@[simp] theorem raise_holdReg (f : Field) (i : Nat) : (s.raise f i).holdReg = s.holdReg :=
  (fun x => (rfl : ({ s with live := x } : State).holdReg = s.holdReg)) _
@[simp] theorem raise_holdMark (f : Field) (i : Nat) : (s.raise f i).holdMark = s.holdMark :=
  (fun x => (rfl : ({ s with live := x } : State).holdMark = s.holdMark)) _
@[simp] theorem raise_snap (f : Field) (i : Nat) : (s.raise f i).snap = s.snap :=
  (fun x => (rfl : ({ s with live := x } : State).snap = s.snap)) _
@[simp] theorem raise_owner (f : Field) (i : Nat) : (s.raise f i).owner = s.owner :=
  (fun x => (rfl : ({ s with live := x } : State).owner = s.owner)) _
@[simp] theorem raise_mem (f : Field) (i : Nat) : (s.raise f i).mem = s.mem :=
  (fun x => (rfl : ({ s with live := x } : State).mem = s.mem)) _
@[simp] theorem raise_ecc (f : Field) (i : Nat) : (s.raise f i).ecc = s.ecc :=
  (fun x => (rfl : ({ s with live := x } : State).ecc = s.ecc)) _
@[simp] theorem raise_scrubQ (f : Field) (i : Nat) : (s.raise f i).scrubQ = s.scrubQ :=
  (fun x => (rfl : ({ s with live := x } : State).scrubQ = s.scrubQ)) _
@[simp] theorem raise_ct (f : Field) (i : Nat) : (s.raise f i).ct = s.ct :=
  (fun x => (rfl : ({ s with live := x } : State).ct = s.ct)) _
@[simp] theorem raise_aon (f : Field) (i : Nat) : (s.raise f i).aon = s.aon :=
  (fun x => (rfl : ({ s with live := x } : State).aon = s.aon)) _
@[simp] theorem raise_blk (f : Field) (i : Nat) : (s.raise f i).blk = s.blk :=
  (fun x => (rfl : ({ s with live := x } : State).blk = s.blk)) _
@[simp] theorem raise_thr (f : Field) (i : Nat) : (s.raise f i).thr = s.thr :=
  (fun x => (rfl : ({ s with live := x } : State).thr = s.thr)) _
@[simp] theorem raise_fp (f : Field) (i : Nat) : (s.raise f i).fp = s.fp :=
  (fun x => (rfl : ({ s with live := x } : State).fp = s.fp)) _
@[simp] theorem raise_presented (f : Field) (i : Nat) : (s.raise f i).presented = s.presented :=
  (fun x => (rfl : ({ s with live := x } : State).presented = s.presented)) _
@[simp] theorem raise_arc (f : Field) (i : Nat) : (s.raise f i).arc = s.arc :=
  (fun x => (rfl : ({ s with live := x } : State).arc = s.arc)) _
@[simp] theorem raise_ll (f : Field) (i : Nat) : (s.raise f i).ll = s.ll :=
  (fun x => (rfl : ({ s with live := x } : State).ll = s.ll)) _
@[simp] theorem raise_pin (f : Field) (i : Nat) : (s.raise f i).pin = s.pin :=
  (fun x => (rfl : ({ s with live := x } : State).pin = s.pin)) _
@[simp] theorem raise_xq (f : Field) (i : Nat) : (s.raise f i).xq = s.xq :=
  (fun x => (rfl : ({ s with live := x } : State).xq = s.xq)) _
@[simp] theorem raise_xc (f : Field) (i : Nat) : (s.raise f i).xc = s.xc :=
  (fun x => (rfl : ({ s with live := x } : State).xc = s.xc)) _
@[simp] theorem raise_xcEv (f : Field) (i : Nat) : (s.raise f i).xcEv = s.xcEv :=
  (fun x => (rfl : ({ s with live := x } : State).xcEv = s.xcEv)) _
@[simp] theorem raise_hl (f : Field) (i : Nat) : (s.raise f i).hl = s.hl :=
  (fun x => (rfl : ({ s with live := x } : State).hl = s.hl)) _
@[simp] theorem raise_tw (f : Field) (i : Nat) : (s.raise f i).tw = s.tw :=
  (fun x => (rfl : ({ s with live := x } : State).tw = s.tw)) _
@[simp] theorem raise_ring (f : Field) (i : Nat) : (s.raise f i).ring = s.ring :=
  (fun x => (rfl : ({ s with live := x } : State).ring = s.ring)) _
@[simp] theorem raise_mp (f : Field) (i : Nat) : (s.raise f i).mp = s.mp :=
  (fun x => (rfl : ({ s with live := x } : State).mp = s.mp)) _
@[simp] theorem raise_ld (f : Field) (i : Nat) : (s.raise f i).ld = s.ld :=
  (fun x => (rfl : ({ s with live := x } : State).ld = s.ld)) _
@[simp] theorem raise_map (f : Field) (i : Nat) : (s.raise f i).map = s.map :=
  (fun x => (rfl : ({ s with live := x } : State).map = s.map)) _
@[simp] theorem raise_pm (f : Field) (i : Nat) : (s.raise f i).pm = s.pm :=
  (fun x => (rfl : ({ s with live := x } : State).pm = s.pm)) _
@[simp] theorem raise_lc (f : Field) (i : Nat) : (s.raise f i).lc = s.lc :=
  (fun x => (rfl : ({ s with live := x } : State).lc = s.lc)) _
@[simp] theorem raise_qtr (f : Field) (i : Nat) : (s.raise f i).qtr = s.qtr :=
  (fun x => (rfl : ({ s with live := x } : State).qtr = s.qtr)) _
@[simp] theorem raise_bar2 (f : Field) (i : Nat) : (s.raise f i).bar2 = s.bar2 :=
  (fun x => (rfl : ({ s with live := x } : State).bar2 = s.bar2)) _
@[simp] theorem raise_out (f : Field) (i : Nat) : (s.raise f i).out = s.out :=
  (fun x => (rfl : ({ s with live := x } : State).out = s.out)) _

/-! ### bump -/

@[simp] theorem bump_pending (f : Field) (i n : Nat) : (s.bump f i n).pending = s.pending :=
  (fun x => (rfl : ({ s with live := x } : State).pending = s.pending)) _
@[simp] theorem bump_free (f : Field) (i n : Nat) : (s.bump f i n).free = s.free :=
  (fun x => (rfl : ({ s with live := x } : State).free = s.free)) _
@[simp] theorem bump_staged (f : Field) (i n : Nat) : (s.bump f i n).staged = s.staged :=
  (fun x => (rfl : ({ s with live := x } : State).staged = s.staged)) _
@[simp] theorem bump_captured (f : Field) (i n : Nat) : (s.bump f i n).captured = s.captured :=
  (fun x => (rfl : ({ s with live := x } : State).captured = s.captured)) _
@[simp] theorem bump_active (f : Field) (i n : Nat) : (s.bump f i n).active = s.active :=
  (fun x => (rfl : ({ s with live := x } : State).active = s.active)) _
@[simp] theorem bump_mapv (f : Field) (i n : Nat) : (s.bump f i n).mapv = s.mapv :=
  (fun x => (rfl : ({ s with live := x } : State).mapv = s.mapv)) _
@[simp] theorem bump_holdReg (f : Field) (i n : Nat) : (s.bump f i n).holdReg = s.holdReg :=
  (fun x => (rfl : ({ s with live := x } : State).holdReg = s.holdReg)) _
@[simp] theorem bump_holdMark (f : Field) (i n : Nat) : (s.bump f i n).holdMark = s.holdMark :=
  (fun x => (rfl : ({ s with live := x } : State).holdMark = s.holdMark)) _
@[simp] theorem bump_snap (f : Field) (i n : Nat) : (s.bump f i n).snap = s.snap :=
  (fun x => (rfl : ({ s with live := x } : State).snap = s.snap)) _
@[simp] theorem bump_owner (f : Field) (i n : Nat) : (s.bump f i n).owner = s.owner :=
  (fun x => (rfl : ({ s with live := x } : State).owner = s.owner)) _
@[simp] theorem bump_mem (f : Field) (i n : Nat) : (s.bump f i n).mem = s.mem :=
  (fun x => (rfl : ({ s with live := x } : State).mem = s.mem)) _
@[simp] theorem bump_ecc (f : Field) (i n : Nat) : (s.bump f i n).ecc = s.ecc :=
  (fun x => (rfl : ({ s with live := x } : State).ecc = s.ecc)) _
@[simp] theorem bump_scrubQ (f : Field) (i n : Nat) : (s.bump f i n).scrubQ = s.scrubQ :=
  (fun x => (rfl : ({ s with live := x } : State).scrubQ = s.scrubQ)) _
@[simp] theorem bump_ct (f : Field) (i n : Nat) : (s.bump f i n).ct = s.ct :=
  (fun x => (rfl : ({ s with live := x } : State).ct = s.ct)) _
@[simp] theorem bump_aon (f : Field) (i n : Nat) : (s.bump f i n).aon = s.aon :=
  (fun x => (rfl : ({ s with live := x } : State).aon = s.aon)) _
@[simp] theorem bump_blk (f : Field) (i n : Nat) : (s.bump f i n).blk = s.blk :=
  (fun x => (rfl : ({ s with live := x } : State).blk = s.blk)) _
@[simp] theorem bump_thr (f : Field) (i n : Nat) : (s.bump f i n).thr = s.thr :=
  (fun x => (rfl : ({ s with live := x } : State).thr = s.thr)) _
@[simp] theorem bump_fp (f : Field) (i n : Nat) : (s.bump f i n).fp = s.fp :=
  (fun x => (rfl : ({ s with live := x } : State).fp = s.fp)) _
@[simp] theorem bump_presented (f : Field) (i n : Nat) : (s.bump f i n).presented = s.presented :=
  (fun x => (rfl : ({ s with live := x } : State).presented = s.presented)) _
@[simp] theorem bump_arc (f : Field) (i n : Nat) : (s.bump f i n).arc = s.arc :=
  (fun x => (rfl : ({ s with live := x } : State).arc = s.arc)) _
@[simp] theorem bump_ll (f : Field) (i n : Nat) : (s.bump f i n).ll = s.ll :=
  (fun x => (rfl : ({ s with live := x } : State).ll = s.ll)) _
@[simp] theorem bump_pin (f : Field) (i n : Nat) : (s.bump f i n).pin = s.pin :=
  (fun x => (rfl : ({ s with live := x } : State).pin = s.pin)) _
@[simp] theorem bump_xq (f : Field) (i n : Nat) : (s.bump f i n).xq = s.xq :=
  (fun x => (rfl : ({ s with live := x } : State).xq = s.xq)) _
@[simp] theorem bump_xc (f : Field) (i n : Nat) : (s.bump f i n).xc = s.xc :=
  (fun x => (rfl : ({ s with live := x } : State).xc = s.xc)) _
@[simp] theorem bump_xcEv (f : Field) (i n : Nat) : (s.bump f i n).xcEv = s.xcEv :=
  (fun x => (rfl : ({ s with live := x } : State).xcEv = s.xcEv)) _
@[simp] theorem bump_hl (f : Field) (i n : Nat) : (s.bump f i n).hl = s.hl :=
  (fun x => (rfl : ({ s with live := x } : State).hl = s.hl)) _
@[simp] theorem bump_tw (f : Field) (i n : Nat) : (s.bump f i n).tw = s.tw :=
  (fun x => (rfl : ({ s with live := x } : State).tw = s.tw)) _
@[simp] theorem bump_ring (f : Field) (i n : Nat) : (s.bump f i n).ring = s.ring :=
  (fun x => (rfl : ({ s with live := x } : State).ring = s.ring)) _
@[simp] theorem bump_mp (f : Field) (i n : Nat) : (s.bump f i n).mp = s.mp :=
  (fun x => (rfl : ({ s with live := x } : State).mp = s.mp)) _
@[simp] theorem bump_ld (f : Field) (i n : Nat) : (s.bump f i n).ld = s.ld :=
  (fun x => (rfl : ({ s with live := x } : State).ld = s.ld)) _
@[simp] theorem bump_map (f : Field) (i n : Nat) : (s.bump f i n).map = s.map :=
  (fun x => (rfl : ({ s with live := x } : State).map = s.map)) _
@[simp] theorem bump_pm (f : Field) (i n : Nat) : (s.bump f i n).pm = s.pm :=
  (fun x => (rfl : ({ s with live := x } : State).pm = s.pm)) _
@[simp] theorem bump_lc (f : Field) (i n : Nat) : (s.bump f i n).lc = s.lc :=
  (fun x => (rfl : ({ s with live := x } : State).lc = s.lc)) _
@[simp] theorem bump_qtr (f : Field) (i n : Nat) : (s.bump f i n).qtr = s.qtr :=
  (fun x => (rfl : ({ s with live := x } : State).qtr = s.qtr)) _
@[simp] theorem bump_bar2 (f : Field) (i n : Nat) : (s.bump f i n).bar2 = s.bar2 :=
  (fun x => (rfl : ({ s with live := x } : State).bar2 = s.bar2)) _
@[simp] theorem bump_out (f : Field) (i n : Nat) : (s.bump f i n).out = s.out :=
  (fun x => (rfl : ({ s with live := x } : State).out = s.out)) _

/-! ### setStg -/

@[simp] theorem setStg_pending (r : Reg) (i : Nat) (w : Word) : (s.setStg r i w).pending = s.pending :=
  (fun x => (rfl : ({ s with staged := x } : State).pending = s.pending)) _
@[simp] theorem setStg_free (r : Reg) (i : Nat) (w : Word) : (s.setStg r i w).free = s.free :=
  (fun x => (rfl : ({ s with staged := x } : State).free = s.free)) _
@[simp] theorem setStg_live (r : Reg) (i : Nat) (w : Word) : (s.setStg r i w).live = s.live :=
  (fun x => (rfl : ({ s with staged := x } : State).live = s.live)) _
@[simp] theorem setStg_captured (r : Reg) (i : Nat) (w : Word) : (s.setStg r i w).captured = s.captured :=
  (fun x => (rfl : ({ s with staged := x } : State).captured = s.captured)) _
@[simp] theorem setStg_active (r : Reg) (i : Nat) (w : Word) : (s.setStg r i w).active = s.active :=
  (fun x => (rfl : ({ s with staged := x } : State).active = s.active)) _
@[simp] theorem setStg_mapv (r : Reg) (i : Nat) (w : Word) : (s.setStg r i w).mapv = s.mapv :=
  (fun x => (rfl : ({ s with staged := x } : State).mapv = s.mapv)) _
@[simp] theorem setStg_holdReg (r : Reg) (i : Nat) (w : Word) : (s.setStg r i w).holdReg = s.holdReg :=
  (fun x => (rfl : ({ s with staged := x } : State).holdReg = s.holdReg)) _
@[simp] theorem setStg_holdMark (r : Reg) (i : Nat) (w : Word) : (s.setStg r i w).holdMark = s.holdMark :=
  (fun x => (rfl : ({ s with staged := x } : State).holdMark = s.holdMark)) _
@[simp] theorem setStg_snap (r : Reg) (i : Nat) (w : Word) : (s.setStg r i w).snap = s.snap :=
  (fun x => (rfl : ({ s with staged := x } : State).snap = s.snap)) _
@[simp] theorem setStg_owner (r : Reg) (i : Nat) (w : Word) : (s.setStg r i w).owner = s.owner :=
  (fun x => (rfl : ({ s with staged := x } : State).owner = s.owner)) _
@[simp] theorem setStg_mem (r : Reg) (i : Nat) (w : Word) : (s.setStg r i w).mem = s.mem :=
  (fun x => (rfl : ({ s with staged := x } : State).mem = s.mem)) _
@[simp] theorem setStg_ecc (r : Reg) (i : Nat) (w : Word) : (s.setStg r i w).ecc = s.ecc :=
  (fun x => (rfl : ({ s with staged := x } : State).ecc = s.ecc)) _
@[simp] theorem setStg_scrubQ (r : Reg) (i : Nat) (w : Word) : (s.setStg r i w).scrubQ = s.scrubQ :=
  (fun x => (rfl : ({ s with staged := x } : State).scrubQ = s.scrubQ)) _
@[simp] theorem setStg_ct (r : Reg) (i : Nat) (w : Word) : (s.setStg r i w).ct = s.ct :=
  (fun x => (rfl : ({ s with staged := x } : State).ct = s.ct)) _
@[simp] theorem setStg_aon (r : Reg) (i : Nat) (w : Word) : (s.setStg r i w).aon = s.aon :=
  (fun x => (rfl : ({ s with staged := x } : State).aon = s.aon)) _
@[simp] theorem setStg_blk (r : Reg) (i : Nat) (w : Word) : (s.setStg r i w).blk = s.blk :=
  (fun x => (rfl : ({ s with staged := x } : State).blk = s.blk)) _
@[simp] theorem setStg_thr (r : Reg) (i : Nat) (w : Word) : (s.setStg r i w).thr = s.thr :=
  (fun x => (rfl : ({ s with staged := x } : State).thr = s.thr)) _
@[simp] theorem setStg_fp (r : Reg) (i : Nat) (w : Word) : (s.setStg r i w).fp = s.fp :=
  (fun x => (rfl : ({ s with staged := x } : State).fp = s.fp)) _
@[simp] theorem setStg_presented (r : Reg) (i : Nat) (w : Word) : (s.setStg r i w).presented = s.presented :=
  (fun x => (rfl : ({ s with staged := x } : State).presented = s.presented)) _
@[simp] theorem setStg_arc (r : Reg) (i : Nat) (w : Word) : (s.setStg r i w).arc = s.arc :=
  (fun x => (rfl : ({ s with staged := x } : State).arc = s.arc)) _
@[simp] theorem setStg_ll (r : Reg) (i : Nat) (w : Word) : (s.setStg r i w).ll = s.ll :=
  (fun x => (rfl : ({ s with staged := x } : State).ll = s.ll)) _
@[simp] theorem setStg_pin (r : Reg) (i : Nat) (w : Word) : (s.setStg r i w).pin = s.pin :=
  (fun x => (rfl : ({ s with staged := x } : State).pin = s.pin)) _
@[simp] theorem setStg_xq (r : Reg) (i : Nat) (w : Word) : (s.setStg r i w).xq = s.xq :=
  (fun x => (rfl : ({ s with staged := x } : State).xq = s.xq)) _
@[simp] theorem setStg_xc (r : Reg) (i : Nat) (w : Word) : (s.setStg r i w).xc = s.xc :=
  (fun x => (rfl : ({ s with staged := x } : State).xc = s.xc)) _
@[simp] theorem setStg_xcEv (r : Reg) (i : Nat) (w : Word) : (s.setStg r i w).xcEv = s.xcEv :=
  (fun x => (rfl : ({ s with staged := x } : State).xcEv = s.xcEv)) _
@[simp] theorem setStg_hl (r : Reg) (i : Nat) (w : Word) : (s.setStg r i w).hl = s.hl :=
  (fun x => (rfl : ({ s with staged := x } : State).hl = s.hl)) _
@[simp] theorem setStg_tw (r : Reg) (i : Nat) (w : Word) : (s.setStg r i w).tw = s.tw :=
  (fun x => (rfl : ({ s with staged := x } : State).tw = s.tw)) _
@[simp] theorem setStg_ring (r : Reg) (i : Nat) (w : Word) : (s.setStg r i w).ring = s.ring :=
  (fun x => (rfl : ({ s with staged := x } : State).ring = s.ring)) _
@[simp] theorem setStg_mp (r : Reg) (i : Nat) (w : Word) : (s.setStg r i w).mp = s.mp :=
  (fun x => (rfl : ({ s with staged := x } : State).mp = s.mp)) _
@[simp] theorem setStg_ld (r : Reg) (i : Nat) (w : Word) : (s.setStg r i w).ld = s.ld :=
  (fun x => (rfl : ({ s with staged := x } : State).ld = s.ld)) _
@[simp] theorem setStg_map (r : Reg) (i : Nat) (w : Word) : (s.setStg r i w).map = s.map :=
  (fun x => (rfl : ({ s with staged := x } : State).map = s.map)) _
@[simp] theorem setStg_pm (r : Reg) (i : Nat) (w : Word) : (s.setStg r i w).pm = s.pm :=
  (fun x => (rfl : ({ s with staged := x } : State).pm = s.pm)) _
@[simp] theorem setStg_lc (r : Reg) (i : Nat) (w : Word) : (s.setStg r i w).lc = s.lc :=
  (fun x => (rfl : ({ s with staged := x } : State).lc = s.lc)) _
@[simp] theorem setStg_qtr (r : Reg) (i : Nat) (w : Word) : (s.setStg r i w).qtr = s.qtr :=
  (fun x => (rfl : ({ s with staged := x } : State).qtr = s.qtr)) _
@[simp] theorem setStg_bar2 (r : Reg) (i : Nat) (w : Word) : (s.setStg r i w).bar2 = s.bar2 :=
  (fun x => (rfl : ({ s with staged := x } : State).bar2 = s.bar2)) _
@[simp] theorem setStg_out (r : Reg) (i : Nat) (w : Word) : (s.setStg r i w).out = s.out :=
  (fun x => (rfl : ({ s with staged := x } : State).out = s.out)) _

/-! ### setActw -/

@[simp] theorem setActw_pending (r : Reg) (i : Nat) (w : Word) : (s.setActw r i w).pending = s.pending :=
  (fun x => (rfl : ({ s with active := x } : State).pending = s.pending)) _
@[simp] theorem setActw_free (r : Reg) (i : Nat) (w : Word) : (s.setActw r i w).free = s.free :=
  (fun x => (rfl : ({ s with active := x } : State).free = s.free)) _
@[simp] theorem setActw_live (r : Reg) (i : Nat) (w : Word) : (s.setActw r i w).live = s.live :=
  (fun x => (rfl : ({ s with active := x } : State).live = s.live)) _
@[simp] theorem setActw_staged (r : Reg) (i : Nat) (w : Word) : (s.setActw r i w).staged = s.staged :=
  (fun x => (rfl : ({ s with active := x } : State).staged = s.staged)) _
@[simp] theorem setActw_captured (r : Reg) (i : Nat) (w : Word) : (s.setActw r i w).captured = s.captured :=
  (fun x => (rfl : ({ s with active := x } : State).captured = s.captured)) _
@[simp] theorem setActw_mapv (r : Reg) (i : Nat) (w : Word) : (s.setActw r i w).mapv = s.mapv :=
  (fun x => (rfl : ({ s with active := x } : State).mapv = s.mapv)) _
@[simp] theorem setActw_holdReg (r : Reg) (i : Nat) (w : Word) : (s.setActw r i w).holdReg = s.holdReg :=
  (fun x => (rfl : ({ s with active := x } : State).holdReg = s.holdReg)) _
@[simp] theorem setActw_holdMark (r : Reg) (i : Nat) (w : Word) : (s.setActw r i w).holdMark = s.holdMark :=
  (fun x => (rfl : ({ s with active := x } : State).holdMark = s.holdMark)) _
@[simp] theorem setActw_snap (r : Reg) (i : Nat) (w : Word) : (s.setActw r i w).snap = s.snap :=
  (fun x => (rfl : ({ s with active := x } : State).snap = s.snap)) _
@[simp] theorem setActw_owner (r : Reg) (i : Nat) (w : Word) : (s.setActw r i w).owner = s.owner :=
  (fun x => (rfl : ({ s with active := x } : State).owner = s.owner)) _
@[simp] theorem setActw_mem (r : Reg) (i : Nat) (w : Word) : (s.setActw r i w).mem = s.mem :=
  (fun x => (rfl : ({ s with active := x } : State).mem = s.mem)) _
@[simp] theorem setActw_ecc (r : Reg) (i : Nat) (w : Word) : (s.setActw r i w).ecc = s.ecc :=
  (fun x => (rfl : ({ s with active := x } : State).ecc = s.ecc)) _
@[simp] theorem setActw_scrubQ (r : Reg) (i : Nat) (w : Word) : (s.setActw r i w).scrubQ = s.scrubQ :=
  (fun x => (rfl : ({ s with active := x } : State).scrubQ = s.scrubQ)) _
@[simp] theorem setActw_ct (r : Reg) (i : Nat) (w : Word) : (s.setActw r i w).ct = s.ct :=
  (fun x => (rfl : ({ s with active := x } : State).ct = s.ct)) _
@[simp] theorem setActw_aon (r : Reg) (i : Nat) (w : Word) : (s.setActw r i w).aon = s.aon :=
  (fun x => (rfl : ({ s with active := x } : State).aon = s.aon)) _
@[simp] theorem setActw_blk (r : Reg) (i : Nat) (w : Word) : (s.setActw r i w).blk = s.blk :=
  (fun x => (rfl : ({ s with active := x } : State).blk = s.blk)) _
@[simp] theorem setActw_thr (r : Reg) (i : Nat) (w : Word) : (s.setActw r i w).thr = s.thr :=
  (fun x => (rfl : ({ s with active := x } : State).thr = s.thr)) _
@[simp] theorem setActw_fp (r : Reg) (i : Nat) (w : Word) : (s.setActw r i w).fp = s.fp :=
  (fun x => (rfl : ({ s with active := x } : State).fp = s.fp)) _
@[simp] theorem setActw_presented (r : Reg) (i : Nat) (w : Word) : (s.setActw r i w).presented = s.presented :=
  (fun x => (rfl : ({ s with active := x } : State).presented = s.presented)) _
@[simp] theorem setActw_arc (r : Reg) (i : Nat) (w : Word) : (s.setActw r i w).arc = s.arc :=
  (fun x => (rfl : ({ s with active := x } : State).arc = s.arc)) _
@[simp] theorem setActw_ll (r : Reg) (i : Nat) (w : Word) : (s.setActw r i w).ll = s.ll :=
  (fun x => (rfl : ({ s with active := x } : State).ll = s.ll)) _
@[simp] theorem setActw_pin (r : Reg) (i : Nat) (w : Word) : (s.setActw r i w).pin = s.pin :=
  (fun x => (rfl : ({ s with active := x } : State).pin = s.pin)) _
@[simp] theorem setActw_xq (r : Reg) (i : Nat) (w : Word) : (s.setActw r i w).xq = s.xq :=
  (fun x => (rfl : ({ s with active := x } : State).xq = s.xq)) _
@[simp] theorem setActw_xc (r : Reg) (i : Nat) (w : Word) : (s.setActw r i w).xc = s.xc :=
  (fun x => (rfl : ({ s with active := x } : State).xc = s.xc)) _
@[simp] theorem setActw_xcEv (r : Reg) (i : Nat) (w : Word) : (s.setActw r i w).xcEv = s.xcEv :=
  (fun x => (rfl : ({ s with active := x } : State).xcEv = s.xcEv)) _
@[simp] theorem setActw_hl (r : Reg) (i : Nat) (w : Word) : (s.setActw r i w).hl = s.hl :=
  (fun x => (rfl : ({ s with active := x } : State).hl = s.hl)) _
@[simp] theorem setActw_tw (r : Reg) (i : Nat) (w : Word) : (s.setActw r i w).tw = s.tw :=
  (fun x => (rfl : ({ s with active := x } : State).tw = s.tw)) _
@[simp] theorem setActw_ring (r : Reg) (i : Nat) (w : Word) : (s.setActw r i w).ring = s.ring :=
  (fun x => (rfl : ({ s with active := x } : State).ring = s.ring)) _
@[simp] theorem setActw_mp (r : Reg) (i : Nat) (w : Word) : (s.setActw r i w).mp = s.mp :=
  (fun x => (rfl : ({ s with active := x } : State).mp = s.mp)) _
@[simp] theorem setActw_ld (r : Reg) (i : Nat) (w : Word) : (s.setActw r i w).ld = s.ld :=
  (fun x => (rfl : ({ s with active := x } : State).ld = s.ld)) _
@[simp] theorem setActw_map (r : Reg) (i : Nat) (w : Word) : (s.setActw r i w).map = s.map :=
  (fun x => (rfl : ({ s with active := x } : State).map = s.map)) _
@[simp] theorem setActw_pm (r : Reg) (i : Nat) (w : Word) : (s.setActw r i w).pm = s.pm :=
  (fun x => (rfl : ({ s with active := x } : State).pm = s.pm)) _
@[simp] theorem setActw_lc (r : Reg) (i : Nat) (w : Word) : (s.setActw r i w).lc = s.lc :=
  (fun x => (rfl : ({ s with active := x } : State).lc = s.lc)) _
@[simp] theorem setActw_qtr (r : Reg) (i : Nat) (w : Word) : (s.setActw r i w).qtr = s.qtr :=
  (fun x => (rfl : ({ s with active := x } : State).qtr = s.qtr)) _
@[simp] theorem setActw_bar2 (r : Reg) (i : Nat) (w : Word) : (s.setActw r i w).bar2 = s.bar2 :=
  (fun x => (rfl : ({ s with active := x } : State).bar2 = s.bar2)) _
@[simp] theorem setActw_out (r : Reg) (i : Nat) (w : Word) : (s.setActw r i w).out = s.out :=
  (fun x => (rfl : ({ s with active := x } : State).out = s.out)) _

/-! ### setCapw -/

@[simp] theorem setCapw_pending (r : Reg) (i : Nat) (w : Word) : (s.setCapw r i w).pending = s.pending :=
  (fun x => (rfl : ({ s with captured := x } : State).pending = s.pending)) _
@[simp] theorem setCapw_free (r : Reg) (i : Nat) (w : Word) : (s.setCapw r i w).free = s.free :=
  (fun x => (rfl : ({ s with captured := x } : State).free = s.free)) _
@[simp] theorem setCapw_live (r : Reg) (i : Nat) (w : Word) : (s.setCapw r i w).live = s.live :=
  (fun x => (rfl : ({ s with captured := x } : State).live = s.live)) _
@[simp] theorem setCapw_staged (r : Reg) (i : Nat) (w : Word) : (s.setCapw r i w).staged = s.staged :=
  (fun x => (rfl : ({ s with captured := x } : State).staged = s.staged)) _
@[simp] theorem setCapw_active (r : Reg) (i : Nat) (w : Word) : (s.setCapw r i w).active = s.active :=
  (fun x => (rfl : ({ s with captured := x } : State).active = s.active)) _
@[simp] theorem setCapw_mapv (r : Reg) (i : Nat) (w : Word) : (s.setCapw r i w).mapv = s.mapv :=
  (fun x => (rfl : ({ s with captured := x } : State).mapv = s.mapv)) _
@[simp] theorem setCapw_holdReg (r : Reg) (i : Nat) (w : Word) : (s.setCapw r i w).holdReg = s.holdReg :=
  (fun x => (rfl : ({ s with captured := x } : State).holdReg = s.holdReg)) _
@[simp] theorem setCapw_holdMark (r : Reg) (i : Nat) (w : Word) : (s.setCapw r i w).holdMark = s.holdMark :=
  (fun x => (rfl : ({ s with captured := x } : State).holdMark = s.holdMark)) _
@[simp] theorem setCapw_snap (r : Reg) (i : Nat) (w : Word) : (s.setCapw r i w).snap = s.snap :=
  (fun x => (rfl : ({ s with captured := x } : State).snap = s.snap)) _
@[simp] theorem setCapw_owner (r : Reg) (i : Nat) (w : Word) : (s.setCapw r i w).owner = s.owner :=
  (fun x => (rfl : ({ s with captured := x } : State).owner = s.owner)) _
@[simp] theorem setCapw_mem (r : Reg) (i : Nat) (w : Word) : (s.setCapw r i w).mem = s.mem :=
  (fun x => (rfl : ({ s with captured := x } : State).mem = s.mem)) _
@[simp] theorem setCapw_ecc (r : Reg) (i : Nat) (w : Word) : (s.setCapw r i w).ecc = s.ecc :=
  (fun x => (rfl : ({ s with captured := x } : State).ecc = s.ecc)) _
@[simp] theorem setCapw_scrubQ (r : Reg) (i : Nat) (w : Word) : (s.setCapw r i w).scrubQ = s.scrubQ :=
  (fun x => (rfl : ({ s with captured := x } : State).scrubQ = s.scrubQ)) _
@[simp] theorem setCapw_ct (r : Reg) (i : Nat) (w : Word) : (s.setCapw r i w).ct = s.ct :=
  (fun x => (rfl : ({ s with captured := x } : State).ct = s.ct)) _
@[simp] theorem setCapw_aon (r : Reg) (i : Nat) (w : Word) : (s.setCapw r i w).aon = s.aon :=
  (fun x => (rfl : ({ s with captured := x } : State).aon = s.aon)) _
@[simp] theorem setCapw_blk (r : Reg) (i : Nat) (w : Word) : (s.setCapw r i w).blk = s.blk :=
  (fun x => (rfl : ({ s with captured := x } : State).blk = s.blk)) _
@[simp] theorem setCapw_thr (r : Reg) (i : Nat) (w : Word) : (s.setCapw r i w).thr = s.thr :=
  (fun x => (rfl : ({ s with captured := x } : State).thr = s.thr)) _
@[simp] theorem setCapw_fp (r : Reg) (i : Nat) (w : Word) : (s.setCapw r i w).fp = s.fp :=
  (fun x => (rfl : ({ s with captured := x } : State).fp = s.fp)) _
@[simp] theorem setCapw_presented (r : Reg) (i : Nat) (w : Word) : (s.setCapw r i w).presented = s.presented :=
  (fun x => (rfl : ({ s with captured := x } : State).presented = s.presented)) _
@[simp] theorem setCapw_arc (r : Reg) (i : Nat) (w : Word) : (s.setCapw r i w).arc = s.arc :=
  (fun x => (rfl : ({ s with captured := x } : State).arc = s.arc)) _
@[simp] theorem setCapw_ll (r : Reg) (i : Nat) (w : Word) : (s.setCapw r i w).ll = s.ll :=
  (fun x => (rfl : ({ s with captured := x } : State).ll = s.ll)) _
@[simp] theorem setCapw_pin (r : Reg) (i : Nat) (w : Word) : (s.setCapw r i w).pin = s.pin :=
  (fun x => (rfl : ({ s with captured := x } : State).pin = s.pin)) _
@[simp] theorem setCapw_xq (r : Reg) (i : Nat) (w : Word) : (s.setCapw r i w).xq = s.xq :=
  (fun x => (rfl : ({ s with captured := x } : State).xq = s.xq)) _
@[simp] theorem setCapw_xc (r : Reg) (i : Nat) (w : Word) : (s.setCapw r i w).xc = s.xc :=
  (fun x => (rfl : ({ s with captured := x } : State).xc = s.xc)) _
@[simp] theorem setCapw_xcEv (r : Reg) (i : Nat) (w : Word) : (s.setCapw r i w).xcEv = s.xcEv :=
  (fun x => (rfl : ({ s with captured := x } : State).xcEv = s.xcEv)) _
@[simp] theorem setCapw_hl (r : Reg) (i : Nat) (w : Word) : (s.setCapw r i w).hl = s.hl :=
  (fun x => (rfl : ({ s with captured := x } : State).hl = s.hl)) _
@[simp] theorem setCapw_tw (r : Reg) (i : Nat) (w : Word) : (s.setCapw r i w).tw = s.tw :=
  (fun x => (rfl : ({ s with captured := x } : State).tw = s.tw)) _
@[simp] theorem setCapw_ring (r : Reg) (i : Nat) (w : Word) : (s.setCapw r i w).ring = s.ring :=
  (fun x => (rfl : ({ s with captured := x } : State).ring = s.ring)) _
@[simp] theorem setCapw_mp (r : Reg) (i : Nat) (w : Word) : (s.setCapw r i w).mp = s.mp :=
  (fun x => (rfl : ({ s with captured := x } : State).mp = s.mp)) _
@[simp] theorem setCapw_ld (r : Reg) (i : Nat) (w : Word) : (s.setCapw r i w).ld = s.ld :=
  (fun x => (rfl : ({ s with captured := x } : State).ld = s.ld)) _
@[simp] theorem setCapw_map (r : Reg) (i : Nat) (w : Word) : (s.setCapw r i w).map = s.map :=
  (fun x => (rfl : ({ s with captured := x } : State).map = s.map)) _
@[simp] theorem setCapw_pm (r : Reg) (i : Nat) (w : Word) : (s.setCapw r i w).pm = s.pm :=
  (fun x => (rfl : ({ s with captured := x } : State).pm = s.pm)) _
@[simp] theorem setCapw_lc (r : Reg) (i : Nat) (w : Word) : (s.setCapw r i w).lc = s.lc :=
  (fun x => (rfl : ({ s with captured := x } : State).lc = s.lc)) _
@[simp] theorem setCapw_qtr (r : Reg) (i : Nat) (w : Word) : (s.setCapw r i w).qtr = s.qtr :=
  (fun x => (rfl : ({ s with captured := x } : State).qtr = s.qtr)) _
@[simp] theorem setCapw_bar2 (r : Reg) (i : Nat) (w : Word) : (s.setCapw r i w).bar2 = s.bar2 :=
  (fun x => (rfl : ({ s with captured := x } : State).bar2 = s.bar2)) _
@[simp] theorem setCapw_out (r : Reg) (i : Nat) (w : Word) : (s.setCapw r i w).out = s.out :=
  (fun x => (rfl : ({ s with captured := x } : State).out = s.out)) _

/-! ### setBlk -/

@[simp] theorem setBlk_pending (b : Nat) (x : Blk4) : (s.setBlk b x).pending = s.pending :=
  (fun x => (rfl : ({ s with blk := x } : State).pending = s.pending)) _
@[simp] theorem setBlk_free (b : Nat) (x : Blk4) : (s.setBlk b x).free = s.free :=
  (fun x => (rfl : ({ s with blk := x } : State).free = s.free)) _
@[simp] theorem setBlk_live (b : Nat) (x : Blk4) : (s.setBlk b x).live = s.live :=
  (fun x => (rfl : ({ s with blk := x } : State).live = s.live)) _
@[simp] theorem setBlk_staged (b : Nat) (x : Blk4) : (s.setBlk b x).staged = s.staged :=
  (fun x => (rfl : ({ s with blk := x } : State).staged = s.staged)) _
@[simp] theorem setBlk_captured (b : Nat) (x : Blk4) : (s.setBlk b x).captured = s.captured :=
  (fun x => (rfl : ({ s with blk := x } : State).captured = s.captured)) _
@[simp] theorem setBlk_active (b : Nat) (x : Blk4) : (s.setBlk b x).active = s.active :=
  (fun x => (rfl : ({ s with blk := x } : State).active = s.active)) _
@[simp] theorem setBlk_mapv (b : Nat) (x : Blk4) : (s.setBlk b x).mapv = s.mapv :=
  (fun x => (rfl : ({ s with blk := x } : State).mapv = s.mapv)) _
@[simp] theorem setBlk_holdReg (b : Nat) (x : Blk4) : (s.setBlk b x).holdReg = s.holdReg :=
  (fun x => (rfl : ({ s with blk := x } : State).holdReg = s.holdReg)) _
@[simp] theorem setBlk_holdMark (b : Nat) (x : Blk4) : (s.setBlk b x).holdMark = s.holdMark :=
  (fun x => (rfl : ({ s with blk := x } : State).holdMark = s.holdMark)) _
@[simp] theorem setBlk_snap (b : Nat) (x : Blk4) : (s.setBlk b x).snap = s.snap :=
  (fun x => (rfl : ({ s with blk := x } : State).snap = s.snap)) _
@[simp] theorem setBlk_owner (b : Nat) (x : Blk4) : (s.setBlk b x).owner = s.owner :=
  (fun x => (rfl : ({ s with blk := x } : State).owner = s.owner)) _
@[simp] theorem setBlk_mem (b : Nat) (x : Blk4) : (s.setBlk b x).mem = s.mem :=
  (fun x => (rfl : ({ s with blk := x } : State).mem = s.mem)) _
@[simp] theorem setBlk_ecc (b : Nat) (x : Blk4) : (s.setBlk b x).ecc = s.ecc :=
  (fun x => (rfl : ({ s with blk := x } : State).ecc = s.ecc)) _
@[simp] theorem setBlk_scrubQ (b : Nat) (x : Blk4) : (s.setBlk b x).scrubQ = s.scrubQ :=
  (fun x => (rfl : ({ s with blk := x } : State).scrubQ = s.scrubQ)) _
@[simp] theorem setBlk_ct (b : Nat) (x : Blk4) : (s.setBlk b x).ct = s.ct :=
  (fun x => (rfl : ({ s with blk := x } : State).ct = s.ct)) _
@[simp] theorem setBlk_aon (b : Nat) (x : Blk4) : (s.setBlk b x).aon = s.aon :=
  (fun x => (rfl : ({ s with blk := x } : State).aon = s.aon)) _
@[simp] theorem setBlk_thr (b : Nat) (x : Blk4) : (s.setBlk b x).thr = s.thr :=
  (fun x => (rfl : ({ s with blk := x } : State).thr = s.thr)) _
@[simp] theorem setBlk_fp (b : Nat) (x : Blk4) : (s.setBlk b x).fp = s.fp :=
  (fun x => (rfl : ({ s with blk := x } : State).fp = s.fp)) _
@[simp] theorem setBlk_presented (b : Nat) (x : Blk4) : (s.setBlk b x).presented = s.presented :=
  (fun x => (rfl : ({ s with blk := x } : State).presented = s.presented)) _
@[simp] theorem setBlk_arc (b : Nat) (x : Blk4) : (s.setBlk b x).arc = s.arc :=
  (fun x => (rfl : ({ s with blk := x } : State).arc = s.arc)) _
@[simp] theorem setBlk_ll (b : Nat) (x : Blk4) : (s.setBlk b x).ll = s.ll :=
  (fun x => (rfl : ({ s with blk := x } : State).ll = s.ll)) _
@[simp] theorem setBlk_pin (b : Nat) (x : Blk4) : (s.setBlk b x).pin = s.pin :=
  (fun x => (rfl : ({ s with blk := x } : State).pin = s.pin)) _
@[simp] theorem setBlk_xq (b : Nat) (x : Blk4) : (s.setBlk b x).xq = s.xq :=
  (fun x => (rfl : ({ s with blk := x } : State).xq = s.xq)) _
@[simp] theorem setBlk_xc (b : Nat) (x : Blk4) : (s.setBlk b x).xc = s.xc :=
  (fun x => (rfl : ({ s with blk := x } : State).xc = s.xc)) _
@[simp] theorem setBlk_xcEv (b : Nat) (x : Blk4) : (s.setBlk b x).xcEv = s.xcEv :=
  (fun x => (rfl : ({ s with blk := x } : State).xcEv = s.xcEv)) _
@[simp] theorem setBlk_hl (b : Nat) (x : Blk4) : (s.setBlk b x).hl = s.hl :=
  (fun x => (rfl : ({ s with blk := x } : State).hl = s.hl)) _
@[simp] theorem setBlk_tw (b : Nat) (x : Blk4) : (s.setBlk b x).tw = s.tw :=
  (fun x => (rfl : ({ s with blk := x } : State).tw = s.tw)) _
@[simp] theorem setBlk_ring (b : Nat) (x : Blk4) : (s.setBlk b x).ring = s.ring :=
  (fun x => (rfl : ({ s with blk := x } : State).ring = s.ring)) _
@[simp] theorem setBlk_mp (b : Nat) (x : Blk4) : (s.setBlk b x).mp = s.mp :=
  (fun x => (rfl : ({ s with blk := x } : State).mp = s.mp)) _
@[simp] theorem setBlk_ld (b : Nat) (x : Blk4) : (s.setBlk b x).ld = s.ld :=
  (fun x => (rfl : ({ s with blk := x } : State).ld = s.ld)) _
@[simp] theorem setBlk_map (b : Nat) (x : Blk4) : (s.setBlk b x).map = s.map :=
  (fun x => (rfl : ({ s with blk := x } : State).map = s.map)) _
@[simp] theorem setBlk_pm (b : Nat) (x : Blk4) : (s.setBlk b x).pm = s.pm :=
  (fun x => (rfl : ({ s with blk := x } : State).pm = s.pm)) _
@[simp] theorem setBlk_lc (b : Nat) (x : Blk4) : (s.setBlk b x).lc = s.lc :=
  (fun x => (rfl : ({ s with blk := x } : State).lc = s.lc)) _
@[simp] theorem setBlk_qtr (b : Nat) (x : Blk4) : (s.setBlk b x).qtr = s.qtr :=
  (fun x => (rfl : ({ s with blk := x } : State).qtr = s.qtr)) _
@[simp] theorem setBlk_bar2 (b : Nat) (x : Blk4) : (s.setBlk b x).bar2 = s.bar2 :=
  (fun x => (rfl : ({ s with blk := x } : State).bar2 = s.bar2)) _
@[simp] theorem setBlk_out (b : Nat) (x : Blk4) : (s.setBlk b x).out = s.out :=
  (fun x => (rfl : ({ s with blk := x } : State).out = s.out)) _

/-! ### setThr -/

@[simp] theorem setThr_pending (t : Nat) (x : Thr) : (s.setThr t x).pending = s.pending :=
  (fun x => (rfl : ({ s with thr := x } : State).pending = s.pending)) _
@[simp] theorem setThr_free (t : Nat) (x : Thr) : (s.setThr t x).free = s.free :=
  (fun x => (rfl : ({ s with thr := x } : State).free = s.free)) _
@[simp] theorem setThr_live (t : Nat) (x : Thr) : (s.setThr t x).live = s.live :=
  (fun x => (rfl : ({ s with thr := x } : State).live = s.live)) _
@[simp] theorem setThr_staged (t : Nat) (x : Thr) : (s.setThr t x).staged = s.staged :=
  (fun x => (rfl : ({ s with thr := x } : State).staged = s.staged)) _
@[simp] theorem setThr_captured (t : Nat) (x : Thr) : (s.setThr t x).captured = s.captured :=
  (fun x => (rfl : ({ s with thr := x } : State).captured = s.captured)) _
@[simp] theorem setThr_active (t : Nat) (x : Thr) : (s.setThr t x).active = s.active :=
  (fun x => (rfl : ({ s with thr := x } : State).active = s.active)) _
@[simp] theorem setThr_mapv (t : Nat) (x : Thr) : (s.setThr t x).mapv = s.mapv :=
  (fun x => (rfl : ({ s with thr := x } : State).mapv = s.mapv)) _
@[simp] theorem setThr_holdReg (t : Nat) (x : Thr) : (s.setThr t x).holdReg = s.holdReg :=
  (fun x => (rfl : ({ s with thr := x } : State).holdReg = s.holdReg)) _
@[simp] theorem setThr_holdMark (t : Nat) (x : Thr) : (s.setThr t x).holdMark = s.holdMark :=
  (fun x => (rfl : ({ s with thr := x } : State).holdMark = s.holdMark)) _
@[simp] theorem setThr_snap (t : Nat) (x : Thr) : (s.setThr t x).snap = s.snap :=
  (fun x => (rfl : ({ s with thr := x } : State).snap = s.snap)) _
@[simp] theorem setThr_owner (t : Nat) (x : Thr) : (s.setThr t x).owner = s.owner :=
  (fun x => (rfl : ({ s with thr := x } : State).owner = s.owner)) _
@[simp] theorem setThr_mem (t : Nat) (x : Thr) : (s.setThr t x).mem = s.mem :=
  (fun x => (rfl : ({ s with thr := x } : State).mem = s.mem)) _
@[simp] theorem setThr_ecc (t : Nat) (x : Thr) : (s.setThr t x).ecc = s.ecc :=
  (fun x => (rfl : ({ s with thr := x } : State).ecc = s.ecc)) _
@[simp] theorem setThr_scrubQ (t : Nat) (x : Thr) : (s.setThr t x).scrubQ = s.scrubQ :=
  (fun x => (rfl : ({ s with thr := x } : State).scrubQ = s.scrubQ)) _
@[simp] theorem setThr_ct (t : Nat) (x : Thr) : (s.setThr t x).ct = s.ct :=
  (fun x => (rfl : ({ s with thr := x } : State).ct = s.ct)) _
@[simp] theorem setThr_aon (t : Nat) (x : Thr) : (s.setThr t x).aon = s.aon :=
  (fun x => (rfl : ({ s with thr := x } : State).aon = s.aon)) _
@[simp] theorem setThr_blk (t : Nat) (x : Thr) : (s.setThr t x).blk = s.blk :=
  (fun x => (rfl : ({ s with thr := x } : State).blk = s.blk)) _
@[simp] theorem setThr_fp (t : Nat) (x : Thr) : (s.setThr t x).fp = s.fp :=
  (fun x => (rfl : ({ s with thr := x } : State).fp = s.fp)) _
@[simp] theorem setThr_presented (t : Nat) (x : Thr) : (s.setThr t x).presented = s.presented :=
  (fun x => (rfl : ({ s with thr := x } : State).presented = s.presented)) _
@[simp] theorem setThr_arc (t : Nat) (x : Thr) : (s.setThr t x).arc = s.arc :=
  (fun x => (rfl : ({ s with thr := x } : State).arc = s.arc)) _
@[simp] theorem setThr_ll (t : Nat) (x : Thr) : (s.setThr t x).ll = s.ll :=
  (fun x => (rfl : ({ s with thr := x } : State).ll = s.ll)) _
@[simp] theorem setThr_pin (t : Nat) (x : Thr) : (s.setThr t x).pin = s.pin :=
  (fun x => (rfl : ({ s with thr := x } : State).pin = s.pin)) _
@[simp] theorem setThr_xq (t : Nat) (x : Thr) : (s.setThr t x).xq = s.xq :=
  (fun x => (rfl : ({ s with thr := x } : State).xq = s.xq)) _
@[simp] theorem setThr_xc (t : Nat) (x : Thr) : (s.setThr t x).xc = s.xc :=
  (fun x => (rfl : ({ s with thr := x } : State).xc = s.xc)) _
@[simp] theorem setThr_xcEv (t : Nat) (x : Thr) : (s.setThr t x).xcEv = s.xcEv :=
  (fun x => (rfl : ({ s with thr := x } : State).xcEv = s.xcEv)) _
@[simp] theorem setThr_hl (t : Nat) (x : Thr) : (s.setThr t x).hl = s.hl :=
  (fun x => (rfl : ({ s with thr := x } : State).hl = s.hl)) _
@[simp] theorem setThr_tw (t : Nat) (x : Thr) : (s.setThr t x).tw = s.tw :=
  (fun x => (rfl : ({ s with thr := x } : State).tw = s.tw)) _
@[simp] theorem setThr_ring (t : Nat) (x : Thr) : (s.setThr t x).ring = s.ring :=
  (fun x => (rfl : ({ s with thr := x } : State).ring = s.ring)) _
@[simp] theorem setThr_mp (t : Nat) (x : Thr) : (s.setThr t x).mp = s.mp :=
  (fun x => (rfl : ({ s with thr := x } : State).mp = s.mp)) _
@[simp] theorem setThr_ld (t : Nat) (x : Thr) : (s.setThr t x).ld = s.ld :=
  (fun x => (rfl : ({ s with thr := x } : State).ld = s.ld)) _
@[simp] theorem setThr_map (t : Nat) (x : Thr) : (s.setThr t x).map = s.map :=
  (fun x => (rfl : ({ s with thr := x } : State).map = s.map)) _
@[simp] theorem setThr_pm (t : Nat) (x : Thr) : (s.setThr t x).pm = s.pm :=
  (fun x => (rfl : ({ s with thr := x } : State).pm = s.pm)) _
@[simp] theorem setThr_lc (t : Nat) (x : Thr) : (s.setThr t x).lc = s.lc :=
  (fun x => (rfl : ({ s with thr := x } : State).lc = s.lc)) _
@[simp] theorem setThr_qtr (t : Nat) (x : Thr) : (s.setThr t x).qtr = s.qtr :=
  (fun x => (rfl : ({ s with thr := x } : State).qtr = s.qtr)) _
@[simp] theorem setThr_bar2 (t : Nat) (x : Thr) : (s.setThr t x).bar2 = s.bar2 :=
  (fun x => (rfl : ({ s with thr := x } : State).bar2 = s.bar2)) _
@[simp] theorem setThr_out (t : Nat) (x : Thr) : (s.setThr t x).out = s.out :=
  (fun x => (rfl : ({ s with thr := x } : State).out = s.out)) _

/-! ### setFp -/

@[simp] theorem setFp_pending (n : Nat) (x : FpUnit) : (s.setFp n x).pending = s.pending :=
  (fun x => (rfl : ({ s with fp := x } : State).pending = s.pending)) _
@[simp] theorem setFp_free (n : Nat) (x : FpUnit) : (s.setFp n x).free = s.free :=
  (fun x => (rfl : ({ s with fp := x } : State).free = s.free)) _
@[simp] theorem setFp_live (n : Nat) (x : FpUnit) : (s.setFp n x).live = s.live :=
  (fun x => (rfl : ({ s with fp := x } : State).live = s.live)) _
@[simp] theorem setFp_staged (n : Nat) (x : FpUnit) : (s.setFp n x).staged = s.staged :=
  (fun x => (rfl : ({ s with fp := x } : State).staged = s.staged)) _
@[simp] theorem setFp_captured (n : Nat) (x : FpUnit) : (s.setFp n x).captured = s.captured :=
  (fun x => (rfl : ({ s with fp := x } : State).captured = s.captured)) _
@[simp] theorem setFp_active (n : Nat) (x : FpUnit) : (s.setFp n x).active = s.active :=
  (fun x => (rfl : ({ s with fp := x } : State).active = s.active)) _
@[simp] theorem setFp_mapv (n : Nat) (x : FpUnit) : (s.setFp n x).mapv = s.mapv :=
  (fun x => (rfl : ({ s with fp := x } : State).mapv = s.mapv)) _
@[simp] theorem setFp_holdReg (n : Nat) (x : FpUnit) : (s.setFp n x).holdReg = s.holdReg :=
  (fun x => (rfl : ({ s with fp := x } : State).holdReg = s.holdReg)) _
@[simp] theorem setFp_holdMark (n : Nat) (x : FpUnit) : (s.setFp n x).holdMark = s.holdMark :=
  (fun x => (rfl : ({ s with fp := x } : State).holdMark = s.holdMark)) _
@[simp] theorem setFp_snap (n : Nat) (x : FpUnit) : (s.setFp n x).snap = s.snap :=
  (fun x => (rfl : ({ s with fp := x } : State).snap = s.snap)) _
@[simp] theorem setFp_owner (n : Nat) (x : FpUnit) : (s.setFp n x).owner = s.owner :=
  (fun x => (rfl : ({ s with fp := x } : State).owner = s.owner)) _
@[simp] theorem setFp_mem (n : Nat) (x : FpUnit) : (s.setFp n x).mem = s.mem :=
  (fun x => (rfl : ({ s with fp := x } : State).mem = s.mem)) _
@[simp] theorem setFp_ecc (n : Nat) (x : FpUnit) : (s.setFp n x).ecc = s.ecc :=
  (fun x => (rfl : ({ s with fp := x } : State).ecc = s.ecc)) _
@[simp] theorem setFp_scrubQ (n : Nat) (x : FpUnit) : (s.setFp n x).scrubQ = s.scrubQ :=
  (fun x => (rfl : ({ s with fp := x } : State).scrubQ = s.scrubQ)) _
@[simp] theorem setFp_ct (n : Nat) (x : FpUnit) : (s.setFp n x).ct = s.ct :=
  (fun x => (rfl : ({ s with fp := x } : State).ct = s.ct)) _
@[simp] theorem setFp_aon (n : Nat) (x : FpUnit) : (s.setFp n x).aon = s.aon :=
  (fun x => (rfl : ({ s with fp := x } : State).aon = s.aon)) _
@[simp] theorem setFp_blk (n : Nat) (x : FpUnit) : (s.setFp n x).blk = s.blk :=
  (fun x => (rfl : ({ s with fp := x } : State).blk = s.blk)) _
@[simp] theorem setFp_thr (n : Nat) (x : FpUnit) : (s.setFp n x).thr = s.thr :=
  (fun x => (rfl : ({ s with fp := x } : State).thr = s.thr)) _
@[simp] theorem setFp_presented (n : Nat) (x : FpUnit) : (s.setFp n x).presented = s.presented :=
  (fun x => (rfl : ({ s with fp := x } : State).presented = s.presented)) _
@[simp] theorem setFp_arc (n : Nat) (x : FpUnit) : (s.setFp n x).arc = s.arc :=
  (fun x => (rfl : ({ s with fp := x } : State).arc = s.arc)) _
@[simp] theorem setFp_ll (n : Nat) (x : FpUnit) : (s.setFp n x).ll = s.ll :=
  (fun x => (rfl : ({ s with fp := x } : State).ll = s.ll)) _
@[simp] theorem setFp_pin (n : Nat) (x : FpUnit) : (s.setFp n x).pin = s.pin :=
  (fun x => (rfl : ({ s with fp := x } : State).pin = s.pin)) _
@[simp] theorem setFp_xq (n : Nat) (x : FpUnit) : (s.setFp n x).xq = s.xq :=
  (fun x => (rfl : ({ s with fp := x } : State).xq = s.xq)) _
@[simp] theorem setFp_xc (n : Nat) (x : FpUnit) : (s.setFp n x).xc = s.xc :=
  (fun x => (rfl : ({ s with fp := x } : State).xc = s.xc)) _
@[simp] theorem setFp_xcEv (n : Nat) (x : FpUnit) : (s.setFp n x).xcEv = s.xcEv :=
  (fun x => (rfl : ({ s with fp := x } : State).xcEv = s.xcEv)) _
@[simp] theorem setFp_hl (n : Nat) (x : FpUnit) : (s.setFp n x).hl = s.hl :=
  (fun x => (rfl : ({ s with fp := x } : State).hl = s.hl)) _
@[simp] theorem setFp_tw (n : Nat) (x : FpUnit) : (s.setFp n x).tw = s.tw :=
  (fun x => (rfl : ({ s with fp := x } : State).tw = s.tw)) _
@[simp] theorem setFp_ring (n : Nat) (x : FpUnit) : (s.setFp n x).ring = s.ring :=
  (fun x => (rfl : ({ s with fp := x } : State).ring = s.ring)) _
@[simp] theorem setFp_mp (n : Nat) (x : FpUnit) : (s.setFp n x).mp = s.mp :=
  (fun x => (rfl : ({ s with fp := x } : State).mp = s.mp)) _
@[simp] theorem setFp_ld (n : Nat) (x : FpUnit) : (s.setFp n x).ld = s.ld :=
  (fun x => (rfl : ({ s with fp := x } : State).ld = s.ld)) _
@[simp] theorem setFp_map (n : Nat) (x : FpUnit) : (s.setFp n x).map = s.map :=
  (fun x => (rfl : ({ s with fp := x } : State).map = s.map)) _
@[simp] theorem setFp_pm (n : Nat) (x : FpUnit) : (s.setFp n x).pm = s.pm :=
  (fun x => (rfl : ({ s with fp := x } : State).pm = s.pm)) _
@[simp] theorem setFp_lc (n : Nat) (x : FpUnit) : (s.setFp n x).lc = s.lc :=
  (fun x => (rfl : ({ s with fp := x } : State).lc = s.lc)) _
@[simp] theorem setFp_qtr (n : Nat) (x : FpUnit) : (s.setFp n x).qtr = s.qtr :=
  (fun x => (rfl : ({ s with fp := x } : State).qtr = s.qtr)) _
@[simp] theorem setFp_bar2 (n : Nat) (x : FpUnit) : (s.setFp n x).bar2 = s.bar2 :=
  (fun x => (rfl : ({ s with fp := x } : State).bar2 = s.bar2)) _
@[simp] theorem setFp_out (n : Nat) (x : FpUnit) : (s.setFp n x).out = s.out :=
  (fun x => (rfl : ({ s with fp := x } : State).out = s.out)) _

/-! ### setArc -/

@[simp] theorem setArc_pending (a : Nat) (x : Arc) : (s.setArc a x).pending = s.pending :=
  (fun x => (rfl : ({ s with arc := x } : State).pending = s.pending)) _
@[simp] theorem setArc_free (a : Nat) (x : Arc) : (s.setArc a x).free = s.free :=
  (fun x => (rfl : ({ s with arc := x } : State).free = s.free)) _
@[simp] theorem setArc_live (a : Nat) (x : Arc) : (s.setArc a x).live = s.live :=
  (fun x => (rfl : ({ s with arc := x } : State).live = s.live)) _
@[simp] theorem setArc_staged (a : Nat) (x : Arc) : (s.setArc a x).staged = s.staged :=
  (fun x => (rfl : ({ s with arc := x } : State).staged = s.staged)) _
@[simp] theorem setArc_captured (a : Nat) (x : Arc) : (s.setArc a x).captured = s.captured :=
  (fun x => (rfl : ({ s with arc := x } : State).captured = s.captured)) _
@[simp] theorem setArc_active (a : Nat) (x : Arc) : (s.setArc a x).active = s.active :=
  (fun x => (rfl : ({ s with arc := x } : State).active = s.active)) _
@[simp] theorem setArc_mapv (a : Nat) (x : Arc) : (s.setArc a x).mapv = s.mapv :=
  (fun x => (rfl : ({ s with arc := x } : State).mapv = s.mapv)) _
@[simp] theorem setArc_holdReg (a : Nat) (x : Arc) : (s.setArc a x).holdReg = s.holdReg :=
  (fun x => (rfl : ({ s with arc := x } : State).holdReg = s.holdReg)) _
@[simp] theorem setArc_holdMark (a : Nat) (x : Arc) : (s.setArc a x).holdMark = s.holdMark :=
  (fun x => (rfl : ({ s with arc := x } : State).holdMark = s.holdMark)) _
@[simp] theorem setArc_snap (a : Nat) (x : Arc) : (s.setArc a x).snap = s.snap :=
  (fun x => (rfl : ({ s with arc := x } : State).snap = s.snap)) _
@[simp] theorem setArc_owner (a : Nat) (x : Arc) : (s.setArc a x).owner = s.owner :=
  (fun x => (rfl : ({ s with arc := x } : State).owner = s.owner)) _
@[simp] theorem setArc_mem (a : Nat) (x : Arc) : (s.setArc a x).mem = s.mem :=
  (fun x => (rfl : ({ s with arc := x } : State).mem = s.mem)) _
@[simp] theorem setArc_ecc (a : Nat) (x : Arc) : (s.setArc a x).ecc = s.ecc :=
  (fun x => (rfl : ({ s with arc := x } : State).ecc = s.ecc)) _
@[simp] theorem setArc_scrubQ (a : Nat) (x : Arc) : (s.setArc a x).scrubQ = s.scrubQ :=
  (fun x => (rfl : ({ s with arc := x } : State).scrubQ = s.scrubQ)) _
@[simp] theorem setArc_ct (a : Nat) (x : Arc) : (s.setArc a x).ct = s.ct :=
  (fun x => (rfl : ({ s with arc := x } : State).ct = s.ct)) _
@[simp] theorem setArc_aon (a : Nat) (x : Arc) : (s.setArc a x).aon = s.aon :=
  (fun x => (rfl : ({ s with arc := x } : State).aon = s.aon)) _
@[simp] theorem setArc_blk (a : Nat) (x : Arc) : (s.setArc a x).blk = s.blk :=
  (fun x => (rfl : ({ s with arc := x } : State).blk = s.blk)) _
@[simp] theorem setArc_thr (a : Nat) (x : Arc) : (s.setArc a x).thr = s.thr :=
  (fun x => (rfl : ({ s with arc := x } : State).thr = s.thr)) _
@[simp] theorem setArc_fp (a : Nat) (x : Arc) : (s.setArc a x).fp = s.fp :=
  (fun x => (rfl : ({ s with arc := x } : State).fp = s.fp)) _
@[simp] theorem setArc_presented (a : Nat) (x : Arc) : (s.setArc a x).presented = s.presented :=
  (fun x => (rfl : ({ s with arc := x } : State).presented = s.presented)) _
@[simp] theorem setArc_ll (a : Nat) (x : Arc) : (s.setArc a x).ll = s.ll :=
  (fun x => (rfl : ({ s with arc := x } : State).ll = s.ll)) _
@[simp] theorem setArc_pin (a : Nat) (x : Arc) : (s.setArc a x).pin = s.pin :=
  (fun x => (rfl : ({ s with arc := x } : State).pin = s.pin)) _
@[simp] theorem setArc_xq (a : Nat) (x : Arc) : (s.setArc a x).xq = s.xq :=
  (fun x => (rfl : ({ s with arc := x } : State).xq = s.xq)) _
@[simp] theorem setArc_xc (a : Nat) (x : Arc) : (s.setArc a x).xc = s.xc :=
  (fun x => (rfl : ({ s with arc := x } : State).xc = s.xc)) _
@[simp] theorem setArc_xcEv (a : Nat) (x : Arc) : (s.setArc a x).xcEv = s.xcEv :=
  (fun x => (rfl : ({ s with arc := x } : State).xcEv = s.xcEv)) _
@[simp] theorem setArc_hl (a : Nat) (x : Arc) : (s.setArc a x).hl = s.hl :=
  (fun x => (rfl : ({ s with arc := x } : State).hl = s.hl)) _
@[simp] theorem setArc_tw (a : Nat) (x : Arc) : (s.setArc a x).tw = s.tw :=
  (fun x => (rfl : ({ s with arc := x } : State).tw = s.tw)) _
@[simp] theorem setArc_ring (a : Nat) (x : Arc) : (s.setArc a x).ring = s.ring :=
  (fun x => (rfl : ({ s with arc := x } : State).ring = s.ring)) _
@[simp] theorem setArc_mp (a : Nat) (x : Arc) : (s.setArc a x).mp = s.mp :=
  (fun x => (rfl : ({ s with arc := x } : State).mp = s.mp)) _
@[simp] theorem setArc_ld (a : Nat) (x : Arc) : (s.setArc a x).ld = s.ld :=
  (fun x => (rfl : ({ s with arc := x } : State).ld = s.ld)) _
@[simp] theorem setArc_map (a : Nat) (x : Arc) : (s.setArc a x).map = s.map :=
  (fun x => (rfl : ({ s with arc := x } : State).map = s.map)) _
@[simp] theorem setArc_pm (a : Nat) (x : Arc) : (s.setArc a x).pm = s.pm :=
  (fun x => (rfl : ({ s with arc := x } : State).pm = s.pm)) _
@[simp] theorem setArc_lc (a : Nat) (x : Arc) : (s.setArc a x).lc = s.lc :=
  (fun x => (rfl : ({ s with arc := x } : State).lc = s.lc)) _
@[simp] theorem setArc_qtr (a : Nat) (x : Arc) : (s.setArc a x).qtr = s.qtr :=
  (fun x => (rfl : ({ s with arc := x } : State).qtr = s.qtr)) _
@[simp] theorem setArc_bar2 (a : Nat) (x : Arc) : (s.setArc a x).bar2 = s.bar2 :=
  (fun x => (rfl : ({ s with arc := x } : State).bar2 = s.bar2)) _
@[simp] theorem setArc_out (a : Nat) (x : Arc) : (s.setArc a x).out = s.out :=
  (fun x => (rfl : ({ s with arc := x } : State).out = s.out)) _

/-! ### setLl -/

@[simp] theorem setLl_pending (n : Nat) (x : LlUnit) : (s.setLl n x).pending = s.pending :=
  (fun x => (rfl : ({ s with ll := x } : State).pending = s.pending)) _
@[simp] theorem setLl_free (n : Nat) (x : LlUnit) : (s.setLl n x).free = s.free :=
  (fun x => (rfl : ({ s with ll := x } : State).free = s.free)) _
@[simp] theorem setLl_live (n : Nat) (x : LlUnit) : (s.setLl n x).live = s.live :=
  (fun x => (rfl : ({ s with ll := x } : State).live = s.live)) _
@[simp] theorem setLl_staged (n : Nat) (x : LlUnit) : (s.setLl n x).staged = s.staged :=
  (fun x => (rfl : ({ s with ll := x } : State).staged = s.staged)) _
@[simp] theorem setLl_captured (n : Nat) (x : LlUnit) : (s.setLl n x).captured = s.captured :=
  (fun x => (rfl : ({ s with ll := x } : State).captured = s.captured)) _
@[simp] theorem setLl_active (n : Nat) (x : LlUnit) : (s.setLl n x).active = s.active :=
  (fun x => (rfl : ({ s with ll := x } : State).active = s.active)) _
@[simp] theorem setLl_mapv (n : Nat) (x : LlUnit) : (s.setLl n x).mapv = s.mapv :=
  (fun x => (rfl : ({ s with ll := x } : State).mapv = s.mapv)) _
@[simp] theorem setLl_holdReg (n : Nat) (x : LlUnit) : (s.setLl n x).holdReg = s.holdReg :=
  (fun x => (rfl : ({ s with ll := x } : State).holdReg = s.holdReg)) _
@[simp] theorem setLl_holdMark (n : Nat) (x : LlUnit) : (s.setLl n x).holdMark = s.holdMark :=
  (fun x => (rfl : ({ s with ll := x } : State).holdMark = s.holdMark)) _
@[simp] theorem setLl_snap (n : Nat) (x : LlUnit) : (s.setLl n x).snap = s.snap :=
  (fun x => (rfl : ({ s with ll := x } : State).snap = s.snap)) _
@[simp] theorem setLl_owner (n : Nat) (x : LlUnit) : (s.setLl n x).owner = s.owner :=
  (fun x => (rfl : ({ s with ll := x } : State).owner = s.owner)) _
@[simp] theorem setLl_mem (n : Nat) (x : LlUnit) : (s.setLl n x).mem = s.mem :=
  (fun x => (rfl : ({ s with ll := x } : State).mem = s.mem)) _
@[simp] theorem setLl_ecc (n : Nat) (x : LlUnit) : (s.setLl n x).ecc = s.ecc :=
  (fun x => (rfl : ({ s with ll := x } : State).ecc = s.ecc)) _
@[simp] theorem setLl_scrubQ (n : Nat) (x : LlUnit) : (s.setLl n x).scrubQ = s.scrubQ :=
  (fun x => (rfl : ({ s with ll := x } : State).scrubQ = s.scrubQ)) _
@[simp] theorem setLl_ct (n : Nat) (x : LlUnit) : (s.setLl n x).ct = s.ct :=
  (fun x => (rfl : ({ s with ll := x } : State).ct = s.ct)) _
@[simp] theorem setLl_aon (n : Nat) (x : LlUnit) : (s.setLl n x).aon = s.aon :=
  (fun x => (rfl : ({ s with ll := x } : State).aon = s.aon)) _
@[simp] theorem setLl_blk (n : Nat) (x : LlUnit) : (s.setLl n x).blk = s.blk :=
  (fun x => (rfl : ({ s with ll := x } : State).blk = s.blk)) _
@[simp] theorem setLl_thr (n : Nat) (x : LlUnit) : (s.setLl n x).thr = s.thr :=
  (fun x => (rfl : ({ s with ll := x } : State).thr = s.thr)) _
@[simp] theorem setLl_fp (n : Nat) (x : LlUnit) : (s.setLl n x).fp = s.fp :=
  (fun x => (rfl : ({ s with ll := x } : State).fp = s.fp)) _
@[simp] theorem setLl_presented (n : Nat) (x : LlUnit) : (s.setLl n x).presented = s.presented :=
  (fun x => (rfl : ({ s with ll := x } : State).presented = s.presented)) _
@[simp] theorem setLl_arc (n : Nat) (x : LlUnit) : (s.setLl n x).arc = s.arc :=
  (fun x => (rfl : ({ s with ll := x } : State).arc = s.arc)) _
@[simp] theorem setLl_pin (n : Nat) (x : LlUnit) : (s.setLl n x).pin = s.pin :=
  (fun x => (rfl : ({ s with ll := x } : State).pin = s.pin)) _
@[simp] theorem setLl_xq (n : Nat) (x : LlUnit) : (s.setLl n x).xq = s.xq :=
  (fun x => (rfl : ({ s with ll := x } : State).xq = s.xq)) _
@[simp] theorem setLl_xc (n : Nat) (x : LlUnit) : (s.setLl n x).xc = s.xc :=
  (fun x => (rfl : ({ s with ll := x } : State).xc = s.xc)) _
@[simp] theorem setLl_xcEv (n : Nat) (x : LlUnit) : (s.setLl n x).xcEv = s.xcEv :=
  (fun x => (rfl : ({ s with ll := x } : State).xcEv = s.xcEv)) _
@[simp] theorem setLl_hl (n : Nat) (x : LlUnit) : (s.setLl n x).hl = s.hl :=
  (fun x => (rfl : ({ s with ll := x } : State).hl = s.hl)) _
@[simp] theorem setLl_tw (n : Nat) (x : LlUnit) : (s.setLl n x).tw = s.tw :=
  (fun x => (rfl : ({ s with ll := x } : State).tw = s.tw)) _
@[simp] theorem setLl_ring (n : Nat) (x : LlUnit) : (s.setLl n x).ring = s.ring :=
  (fun x => (rfl : ({ s with ll := x } : State).ring = s.ring)) _
@[simp] theorem setLl_mp (n : Nat) (x : LlUnit) : (s.setLl n x).mp = s.mp :=
  (fun x => (rfl : ({ s with ll := x } : State).mp = s.mp)) _
@[simp] theorem setLl_ld (n : Nat) (x : LlUnit) : (s.setLl n x).ld = s.ld :=
  (fun x => (rfl : ({ s with ll := x } : State).ld = s.ld)) _
@[simp] theorem setLl_map (n : Nat) (x : LlUnit) : (s.setLl n x).map = s.map :=
  (fun x => (rfl : ({ s with ll := x } : State).map = s.map)) _
@[simp] theorem setLl_pm (n : Nat) (x : LlUnit) : (s.setLl n x).pm = s.pm :=
  (fun x => (rfl : ({ s with ll := x } : State).pm = s.pm)) _
@[simp] theorem setLl_lc (n : Nat) (x : LlUnit) : (s.setLl n x).lc = s.lc :=
  (fun x => (rfl : ({ s with ll := x } : State).lc = s.lc)) _
@[simp] theorem setLl_qtr (n : Nat) (x : LlUnit) : (s.setLl n x).qtr = s.qtr :=
  (fun x => (rfl : ({ s with ll := x } : State).qtr = s.qtr)) _
@[simp] theorem setLl_bar2 (n : Nat) (x : LlUnit) : (s.setLl n x).bar2 = s.bar2 :=
  (fun x => (rfl : ({ s with ll := x } : State).bar2 = s.bar2)) _
@[simp] theorem setLl_out (n : Nat) (x : LlUnit) : (s.setLl n x).out = s.out :=
  (fun x => (rfl : ({ s with ll := x } : State).out = s.out)) _

/-! ### setPin -/

@[simp] theorem setPin_pending (n : Nat) (x : Pin) : (s.setPin n x).pending = s.pending :=
  (fun x => (rfl : ({ s with pin := x } : State).pending = s.pending)) _
@[simp] theorem setPin_free (n : Nat) (x : Pin) : (s.setPin n x).free = s.free :=
  (fun x => (rfl : ({ s with pin := x } : State).free = s.free)) _
@[simp] theorem setPin_live (n : Nat) (x : Pin) : (s.setPin n x).live = s.live :=
  (fun x => (rfl : ({ s with pin := x } : State).live = s.live)) _
@[simp] theorem setPin_staged (n : Nat) (x : Pin) : (s.setPin n x).staged = s.staged :=
  (fun x => (rfl : ({ s with pin := x } : State).staged = s.staged)) _
@[simp] theorem setPin_captured (n : Nat) (x : Pin) : (s.setPin n x).captured = s.captured :=
  (fun x => (rfl : ({ s with pin := x } : State).captured = s.captured)) _
@[simp] theorem setPin_active (n : Nat) (x : Pin) : (s.setPin n x).active = s.active :=
  (fun x => (rfl : ({ s with pin := x } : State).active = s.active)) _
@[simp] theorem setPin_mapv (n : Nat) (x : Pin) : (s.setPin n x).mapv = s.mapv :=
  (fun x => (rfl : ({ s with pin := x } : State).mapv = s.mapv)) _
@[simp] theorem setPin_holdReg (n : Nat) (x : Pin) : (s.setPin n x).holdReg = s.holdReg :=
  (fun x => (rfl : ({ s with pin := x } : State).holdReg = s.holdReg)) _
@[simp] theorem setPin_holdMark (n : Nat) (x : Pin) : (s.setPin n x).holdMark = s.holdMark :=
  (fun x => (rfl : ({ s with pin := x } : State).holdMark = s.holdMark)) _
@[simp] theorem setPin_snap (n : Nat) (x : Pin) : (s.setPin n x).snap = s.snap :=
  (fun x => (rfl : ({ s with pin := x } : State).snap = s.snap)) _
@[simp] theorem setPin_owner (n : Nat) (x : Pin) : (s.setPin n x).owner = s.owner :=
  (fun x => (rfl : ({ s with pin := x } : State).owner = s.owner)) _
@[simp] theorem setPin_mem (n : Nat) (x : Pin) : (s.setPin n x).mem = s.mem :=
  (fun x => (rfl : ({ s with pin := x } : State).mem = s.mem)) _
@[simp] theorem setPin_ecc (n : Nat) (x : Pin) : (s.setPin n x).ecc = s.ecc :=
  (fun x => (rfl : ({ s with pin := x } : State).ecc = s.ecc)) _
@[simp] theorem setPin_scrubQ (n : Nat) (x : Pin) : (s.setPin n x).scrubQ = s.scrubQ :=
  (fun x => (rfl : ({ s with pin := x } : State).scrubQ = s.scrubQ)) _
@[simp] theorem setPin_ct (n : Nat) (x : Pin) : (s.setPin n x).ct = s.ct :=
  (fun x => (rfl : ({ s with pin := x } : State).ct = s.ct)) _
@[simp] theorem setPin_aon (n : Nat) (x : Pin) : (s.setPin n x).aon = s.aon :=
  (fun x => (rfl : ({ s with pin := x } : State).aon = s.aon)) _
@[simp] theorem setPin_blk (n : Nat) (x : Pin) : (s.setPin n x).blk = s.blk :=
  (fun x => (rfl : ({ s with pin := x } : State).blk = s.blk)) _
@[simp] theorem setPin_thr (n : Nat) (x : Pin) : (s.setPin n x).thr = s.thr :=
  (fun x => (rfl : ({ s with pin := x } : State).thr = s.thr)) _
@[simp] theorem setPin_fp (n : Nat) (x : Pin) : (s.setPin n x).fp = s.fp :=
  (fun x => (rfl : ({ s with pin := x } : State).fp = s.fp)) _
@[simp] theorem setPin_presented (n : Nat) (x : Pin) : (s.setPin n x).presented = s.presented :=
  (fun x => (rfl : ({ s with pin := x } : State).presented = s.presented)) _
@[simp] theorem setPin_arc (n : Nat) (x : Pin) : (s.setPin n x).arc = s.arc :=
  (fun x => (rfl : ({ s with pin := x } : State).arc = s.arc)) _
@[simp] theorem setPin_ll (n : Nat) (x : Pin) : (s.setPin n x).ll = s.ll :=
  (fun x => (rfl : ({ s with pin := x } : State).ll = s.ll)) _
@[simp] theorem setPin_xq (n : Nat) (x : Pin) : (s.setPin n x).xq = s.xq :=
  (fun x => (rfl : ({ s with pin := x } : State).xq = s.xq)) _
@[simp] theorem setPin_xc (n : Nat) (x : Pin) : (s.setPin n x).xc = s.xc :=
  (fun x => (rfl : ({ s with pin := x } : State).xc = s.xc)) _
@[simp] theorem setPin_xcEv (n : Nat) (x : Pin) : (s.setPin n x).xcEv = s.xcEv :=
  (fun x => (rfl : ({ s with pin := x } : State).xcEv = s.xcEv)) _
@[simp] theorem setPin_hl (n : Nat) (x : Pin) : (s.setPin n x).hl = s.hl :=
  (fun x => (rfl : ({ s with pin := x } : State).hl = s.hl)) _
@[simp] theorem setPin_tw (n : Nat) (x : Pin) : (s.setPin n x).tw = s.tw :=
  (fun x => (rfl : ({ s with pin := x } : State).tw = s.tw)) _
@[simp] theorem setPin_ring (n : Nat) (x : Pin) : (s.setPin n x).ring = s.ring :=
  (fun x => (rfl : ({ s with pin := x } : State).ring = s.ring)) _
@[simp] theorem setPin_mp (n : Nat) (x : Pin) : (s.setPin n x).mp = s.mp :=
  (fun x => (rfl : ({ s with pin := x } : State).mp = s.mp)) _
@[simp] theorem setPin_ld (n : Nat) (x : Pin) : (s.setPin n x).ld = s.ld :=
  (fun x => (rfl : ({ s with pin := x } : State).ld = s.ld)) _
@[simp] theorem setPin_map (n : Nat) (x : Pin) : (s.setPin n x).map = s.map :=
  (fun x => (rfl : ({ s with pin := x } : State).map = s.map)) _
@[simp] theorem setPin_pm (n : Nat) (x : Pin) : (s.setPin n x).pm = s.pm :=
  (fun x => (rfl : ({ s with pin := x } : State).pm = s.pm)) _
@[simp] theorem setPin_lc (n : Nat) (x : Pin) : (s.setPin n x).lc = s.lc :=
  (fun x => (rfl : ({ s with pin := x } : State).lc = s.lc)) _
@[simp] theorem setPin_qtr (n : Nat) (x : Pin) : (s.setPin n x).qtr = s.qtr :=
  (fun x => (rfl : ({ s with pin := x } : State).qtr = s.qtr)) _
@[simp] theorem setPin_bar2 (n : Nat) (x : Pin) : (s.setPin n x).bar2 = s.bar2 :=
  (fun x => (rfl : ({ s with pin := x } : State).bar2 = s.bar2)) _
@[simp] theorem setPin_out (n : Nat) (x : Pin) : (s.setPin n x).out = s.out :=
  (fun x => (rfl : ({ s with pin := x } : State).out = s.out)) _

/-! ### setCell -/

@[simp] theorem setCell_pending (c : Nat) (x : XCell) : (s.setCell c x).pending = s.pending :=
  (fun x => (rfl : ({ s with xc := x } : State).pending = s.pending)) _
@[simp] theorem setCell_free (c : Nat) (x : XCell) : (s.setCell c x).free = s.free :=
  (fun x => (rfl : ({ s with xc := x } : State).free = s.free)) _
@[simp] theorem setCell_live (c : Nat) (x : XCell) : (s.setCell c x).live = s.live :=
  (fun x => (rfl : ({ s with xc := x } : State).live = s.live)) _
@[simp] theorem setCell_staged (c : Nat) (x : XCell) : (s.setCell c x).staged = s.staged :=
  (fun x => (rfl : ({ s with xc := x } : State).staged = s.staged)) _
@[simp] theorem setCell_captured (c : Nat) (x : XCell) : (s.setCell c x).captured = s.captured :=
  (fun x => (rfl : ({ s with xc := x } : State).captured = s.captured)) _
@[simp] theorem setCell_active (c : Nat) (x : XCell) : (s.setCell c x).active = s.active :=
  (fun x => (rfl : ({ s with xc := x } : State).active = s.active)) _
@[simp] theorem setCell_mapv (c : Nat) (x : XCell) : (s.setCell c x).mapv = s.mapv :=
  (fun x => (rfl : ({ s with xc := x } : State).mapv = s.mapv)) _
@[simp] theorem setCell_holdReg (c : Nat) (x : XCell) : (s.setCell c x).holdReg = s.holdReg :=
  (fun x => (rfl : ({ s with xc := x } : State).holdReg = s.holdReg)) _
@[simp] theorem setCell_holdMark (c : Nat) (x : XCell) : (s.setCell c x).holdMark = s.holdMark :=
  (fun x => (rfl : ({ s with xc := x } : State).holdMark = s.holdMark)) _
@[simp] theorem setCell_snap (c : Nat) (x : XCell) : (s.setCell c x).snap = s.snap :=
  (fun x => (rfl : ({ s with xc := x } : State).snap = s.snap)) _
@[simp] theorem setCell_owner (c : Nat) (x : XCell) : (s.setCell c x).owner = s.owner :=
  (fun x => (rfl : ({ s with xc := x } : State).owner = s.owner)) _
@[simp] theorem setCell_mem (c : Nat) (x : XCell) : (s.setCell c x).mem = s.mem :=
  (fun x => (rfl : ({ s with xc := x } : State).mem = s.mem)) _
@[simp] theorem setCell_ecc (c : Nat) (x : XCell) : (s.setCell c x).ecc = s.ecc :=
  (fun x => (rfl : ({ s with xc := x } : State).ecc = s.ecc)) _
@[simp] theorem setCell_scrubQ (c : Nat) (x : XCell) : (s.setCell c x).scrubQ = s.scrubQ :=
  (fun x => (rfl : ({ s with xc := x } : State).scrubQ = s.scrubQ)) _
@[simp] theorem setCell_ct (c : Nat) (x : XCell) : (s.setCell c x).ct = s.ct :=
  (fun x => (rfl : ({ s with xc := x } : State).ct = s.ct)) _
@[simp] theorem setCell_aon (c : Nat) (x : XCell) : (s.setCell c x).aon = s.aon :=
  (fun x => (rfl : ({ s with xc := x } : State).aon = s.aon)) _
@[simp] theorem setCell_blk (c : Nat) (x : XCell) : (s.setCell c x).blk = s.blk :=
  (fun x => (rfl : ({ s with xc := x } : State).blk = s.blk)) _
@[simp] theorem setCell_thr (c : Nat) (x : XCell) : (s.setCell c x).thr = s.thr :=
  (fun x => (rfl : ({ s with xc := x } : State).thr = s.thr)) _
@[simp] theorem setCell_fp (c : Nat) (x : XCell) : (s.setCell c x).fp = s.fp :=
  (fun x => (rfl : ({ s with xc := x } : State).fp = s.fp)) _
@[simp] theorem setCell_presented (c : Nat) (x : XCell) : (s.setCell c x).presented = s.presented :=
  (fun x => (rfl : ({ s with xc := x } : State).presented = s.presented)) _
@[simp] theorem setCell_arc (c : Nat) (x : XCell) : (s.setCell c x).arc = s.arc :=
  (fun x => (rfl : ({ s with xc := x } : State).arc = s.arc)) _
@[simp] theorem setCell_ll (c : Nat) (x : XCell) : (s.setCell c x).ll = s.ll :=
  (fun x => (rfl : ({ s with xc := x } : State).ll = s.ll)) _
@[simp] theorem setCell_pin (c : Nat) (x : XCell) : (s.setCell c x).pin = s.pin :=
  (fun x => (rfl : ({ s with xc := x } : State).pin = s.pin)) _
@[simp] theorem setCell_xq (c : Nat) (x : XCell) : (s.setCell c x).xq = s.xq :=
  (fun x => (rfl : ({ s with xc := x } : State).xq = s.xq)) _
@[simp] theorem setCell_xcEv (c : Nat) (x : XCell) : (s.setCell c x).xcEv = s.xcEv :=
  (fun x => (rfl : ({ s with xc := x } : State).xcEv = s.xcEv)) _
@[simp] theorem setCell_hl (c : Nat) (x : XCell) : (s.setCell c x).hl = s.hl :=
  (fun x => (rfl : ({ s with xc := x } : State).hl = s.hl)) _
@[simp] theorem setCell_tw (c : Nat) (x : XCell) : (s.setCell c x).tw = s.tw :=
  (fun x => (rfl : ({ s with xc := x } : State).tw = s.tw)) _
@[simp] theorem setCell_ring (c : Nat) (x : XCell) : (s.setCell c x).ring = s.ring :=
  (fun x => (rfl : ({ s with xc := x } : State).ring = s.ring)) _
@[simp] theorem setCell_mp (c : Nat) (x : XCell) : (s.setCell c x).mp = s.mp :=
  (fun x => (rfl : ({ s with xc := x } : State).mp = s.mp)) _
@[simp] theorem setCell_ld (c : Nat) (x : XCell) : (s.setCell c x).ld = s.ld :=
  (fun x => (rfl : ({ s with xc := x } : State).ld = s.ld)) _
@[simp] theorem setCell_map (c : Nat) (x : XCell) : (s.setCell c x).map = s.map :=
  (fun x => (rfl : ({ s with xc := x } : State).map = s.map)) _
@[simp] theorem setCell_pm (c : Nat) (x : XCell) : (s.setCell c x).pm = s.pm :=
  (fun x => (rfl : ({ s with xc := x } : State).pm = s.pm)) _
@[simp] theorem setCell_lc (c : Nat) (x : XCell) : (s.setCell c x).lc = s.lc :=
  (fun x => (rfl : ({ s with xc := x } : State).lc = s.lc)) _
@[simp] theorem setCell_qtr (c : Nat) (x : XCell) : (s.setCell c x).qtr = s.qtr :=
  (fun x => (rfl : ({ s with xc := x } : State).qtr = s.qtr)) _
@[simp] theorem setCell_bar2 (c : Nat) (x : XCell) : (s.setCell c x).bar2 = s.bar2 :=
  (fun x => (rfl : ({ s with xc := x } : State).bar2 = s.bar2)) _
@[simp] theorem setCell_out (c : Nat) (x : XCell) : (s.setCell c x).out = s.out :=
  (fun x => (rfl : ({ s with xc := x } : State).out = s.out)) _

/-! ### setQ -/

@[simp] theorem setQ_pending (q : Nat) (x : Qtr) : (s.setQ q x).pending = s.pending :=
  (fun x => (rfl : ({ s with qtr := x } : State).pending = s.pending)) _
@[simp] theorem setQ_free (q : Nat) (x : Qtr) : (s.setQ q x).free = s.free :=
  (fun x => (rfl : ({ s with qtr := x } : State).free = s.free)) _
@[simp] theorem setQ_live (q : Nat) (x : Qtr) : (s.setQ q x).live = s.live :=
  (fun x => (rfl : ({ s with qtr := x } : State).live = s.live)) _
@[simp] theorem setQ_staged (q : Nat) (x : Qtr) : (s.setQ q x).staged = s.staged :=
  (fun x => (rfl : ({ s with qtr := x } : State).staged = s.staged)) _
@[simp] theorem setQ_captured (q : Nat) (x : Qtr) : (s.setQ q x).captured = s.captured :=
  (fun x => (rfl : ({ s with qtr := x } : State).captured = s.captured)) _
@[simp] theorem setQ_active (q : Nat) (x : Qtr) : (s.setQ q x).active = s.active :=
  (fun x => (rfl : ({ s with qtr := x } : State).active = s.active)) _
@[simp] theorem setQ_mapv (q : Nat) (x : Qtr) : (s.setQ q x).mapv = s.mapv :=
  (fun x => (rfl : ({ s with qtr := x } : State).mapv = s.mapv)) _
@[simp] theorem setQ_holdReg (q : Nat) (x : Qtr) : (s.setQ q x).holdReg = s.holdReg :=
  (fun x => (rfl : ({ s with qtr := x } : State).holdReg = s.holdReg)) _
@[simp] theorem setQ_holdMark (q : Nat) (x : Qtr) : (s.setQ q x).holdMark = s.holdMark :=
  (fun x => (rfl : ({ s with qtr := x } : State).holdMark = s.holdMark)) _
@[simp] theorem setQ_snap (q : Nat) (x : Qtr) : (s.setQ q x).snap = s.snap :=
  (fun x => (rfl : ({ s with qtr := x } : State).snap = s.snap)) _
@[simp] theorem setQ_owner (q : Nat) (x : Qtr) : (s.setQ q x).owner = s.owner :=
  (fun x => (rfl : ({ s with qtr := x } : State).owner = s.owner)) _
@[simp] theorem setQ_mem (q : Nat) (x : Qtr) : (s.setQ q x).mem = s.mem :=
  (fun x => (rfl : ({ s with qtr := x } : State).mem = s.mem)) _
@[simp] theorem setQ_ecc (q : Nat) (x : Qtr) : (s.setQ q x).ecc = s.ecc :=
  (fun x => (rfl : ({ s with qtr := x } : State).ecc = s.ecc)) _
@[simp] theorem setQ_scrubQ (q : Nat) (x : Qtr) : (s.setQ q x).scrubQ = s.scrubQ :=
  (fun x => (rfl : ({ s with qtr := x } : State).scrubQ = s.scrubQ)) _
@[simp] theorem setQ_ct (q : Nat) (x : Qtr) : (s.setQ q x).ct = s.ct :=
  (fun x => (rfl : ({ s with qtr := x } : State).ct = s.ct)) _
@[simp] theorem setQ_aon (q : Nat) (x : Qtr) : (s.setQ q x).aon = s.aon :=
  (fun x => (rfl : ({ s with qtr := x } : State).aon = s.aon)) _
@[simp] theorem setQ_blk (q : Nat) (x : Qtr) : (s.setQ q x).blk = s.blk :=
  (fun x => (rfl : ({ s with qtr := x } : State).blk = s.blk)) _
@[simp] theorem setQ_thr (q : Nat) (x : Qtr) : (s.setQ q x).thr = s.thr :=
  (fun x => (rfl : ({ s with qtr := x } : State).thr = s.thr)) _
@[simp] theorem setQ_fp (q : Nat) (x : Qtr) : (s.setQ q x).fp = s.fp :=
  (fun x => (rfl : ({ s with qtr := x } : State).fp = s.fp)) _
@[simp] theorem setQ_presented (q : Nat) (x : Qtr) : (s.setQ q x).presented = s.presented :=
  (fun x => (rfl : ({ s with qtr := x } : State).presented = s.presented)) _
@[simp] theorem setQ_arc (q : Nat) (x : Qtr) : (s.setQ q x).arc = s.arc :=
  (fun x => (rfl : ({ s with qtr := x } : State).arc = s.arc)) _
@[simp] theorem setQ_ll (q : Nat) (x : Qtr) : (s.setQ q x).ll = s.ll :=
  (fun x => (rfl : ({ s with qtr := x } : State).ll = s.ll)) _
@[simp] theorem setQ_pin (q : Nat) (x : Qtr) : (s.setQ q x).pin = s.pin :=
  (fun x => (rfl : ({ s with qtr := x } : State).pin = s.pin)) _
@[simp] theorem setQ_xq (q : Nat) (x : Qtr) : (s.setQ q x).xq = s.xq :=
  (fun x => (rfl : ({ s with qtr := x } : State).xq = s.xq)) _
@[simp] theorem setQ_xc (q : Nat) (x : Qtr) : (s.setQ q x).xc = s.xc :=
  (fun x => (rfl : ({ s with qtr := x } : State).xc = s.xc)) _
@[simp] theorem setQ_xcEv (q : Nat) (x : Qtr) : (s.setQ q x).xcEv = s.xcEv :=
  (fun x => (rfl : ({ s with qtr := x } : State).xcEv = s.xcEv)) _
@[simp] theorem setQ_hl (q : Nat) (x : Qtr) : (s.setQ q x).hl = s.hl :=
  (fun x => (rfl : ({ s with qtr := x } : State).hl = s.hl)) _
@[simp] theorem setQ_tw (q : Nat) (x : Qtr) : (s.setQ q x).tw = s.tw :=
  (fun x => (rfl : ({ s with qtr := x } : State).tw = s.tw)) _
@[simp] theorem setQ_ring (q : Nat) (x : Qtr) : (s.setQ q x).ring = s.ring :=
  (fun x => (rfl : ({ s with qtr := x } : State).ring = s.ring)) _
@[simp] theorem setQ_mp (q : Nat) (x : Qtr) : (s.setQ q x).mp = s.mp :=
  (fun x => (rfl : ({ s with qtr := x } : State).mp = s.mp)) _
@[simp] theorem setQ_ld (q : Nat) (x : Qtr) : (s.setQ q x).ld = s.ld :=
  (fun x => (rfl : ({ s with qtr := x } : State).ld = s.ld)) _
@[simp] theorem setQ_map (q : Nat) (x : Qtr) : (s.setQ q x).map = s.map :=
  (fun x => (rfl : ({ s with qtr := x } : State).map = s.map)) _
@[simp] theorem setQ_pm (q : Nat) (x : Qtr) : (s.setQ q x).pm = s.pm :=
  (fun x => (rfl : ({ s with qtr := x } : State).pm = s.pm)) _
@[simp] theorem setQ_lc (q : Nat) (x : Qtr) : (s.setQ q x).lc = s.lc :=
  (fun x => (rfl : ({ s with qtr := x } : State).lc = s.lc)) _
@[simp] theorem setQ_bar2 (q : Nat) (x : Qtr) : (s.setQ q x).bar2 = s.bar2 :=
  (fun x => (rfl : ({ s with qtr := x } : State).bar2 = s.bar2)) _
@[simp] theorem setQ_out (q : Nat) (x : Qtr) : (s.setQ q x).out = s.out :=
  (fun x => (rfl : ({ s with qtr := x } : State).out = s.out)) _

/-! ### setHl -/

@[simp] theorem setHl_pending (n : Nat) (x : HlUnit) : (s.setHl n x).pending = s.pending :=
  (fun x => (rfl : ({ s with hl := x } : State).pending = s.pending)) _
@[simp] theorem setHl_free (n : Nat) (x : HlUnit) : (s.setHl n x).free = s.free :=
  (fun x => (rfl : ({ s with hl := x } : State).free = s.free)) _
@[simp] theorem setHl_live (n : Nat) (x : HlUnit) : (s.setHl n x).live = s.live :=
  (fun x => (rfl : ({ s with hl := x } : State).live = s.live)) _
@[simp] theorem setHl_staged (n : Nat) (x : HlUnit) : (s.setHl n x).staged = s.staged :=
  (fun x => (rfl : ({ s with hl := x } : State).staged = s.staged)) _
@[simp] theorem setHl_captured (n : Nat) (x : HlUnit) : (s.setHl n x).captured = s.captured :=
  (fun x => (rfl : ({ s with hl := x } : State).captured = s.captured)) _
@[simp] theorem setHl_active (n : Nat) (x : HlUnit) : (s.setHl n x).active = s.active :=
  (fun x => (rfl : ({ s with hl := x } : State).active = s.active)) _
@[simp] theorem setHl_mapv (n : Nat) (x : HlUnit) : (s.setHl n x).mapv = s.mapv :=
  (fun x => (rfl : ({ s with hl := x } : State).mapv = s.mapv)) _
@[simp] theorem setHl_holdReg (n : Nat) (x : HlUnit) : (s.setHl n x).holdReg = s.holdReg :=
  (fun x => (rfl : ({ s with hl := x } : State).holdReg = s.holdReg)) _
@[simp] theorem setHl_holdMark (n : Nat) (x : HlUnit) : (s.setHl n x).holdMark = s.holdMark :=
  (fun x => (rfl : ({ s with hl := x } : State).holdMark = s.holdMark)) _
@[simp] theorem setHl_snap (n : Nat) (x : HlUnit) : (s.setHl n x).snap = s.snap :=
  (fun x => (rfl : ({ s with hl := x } : State).snap = s.snap)) _
@[simp] theorem setHl_owner (n : Nat) (x : HlUnit) : (s.setHl n x).owner = s.owner :=
  (fun x => (rfl : ({ s with hl := x } : State).owner = s.owner)) _
@[simp] theorem setHl_mem (n : Nat) (x : HlUnit) : (s.setHl n x).mem = s.mem :=
  (fun x => (rfl : ({ s with hl := x } : State).mem = s.mem)) _
@[simp] theorem setHl_ecc (n : Nat) (x : HlUnit) : (s.setHl n x).ecc = s.ecc :=
  (fun x => (rfl : ({ s with hl := x } : State).ecc = s.ecc)) _
@[simp] theorem setHl_scrubQ (n : Nat) (x : HlUnit) : (s.setHl n x).scrubQ = s.scrubQ :=
  (fun x => (rfl : ({ s with hl := x } : State).scrubQ = s.scrubQ)) _
@[simp] theorem setHl_ct (n : Nat) (x : HlUnit) : (s.setHl n x).ct = s.ct :=
  (fun x => (rfl : ({ s with hl := x } : State).ct = s.ct)) _
@[simp] theorem setHl_aon (n : Nat) (x : HlUnit) : (s.setHl n x).aon = s.aon :=
  (fun x => (rfl : ({ s with hl := x } : State).aon = s.aon)) _
@[simp] theorem setHl_blk (n : Nat) (x : HlUnit) : (s.setHl n x).blk = s.blk :=
  (fun x => (rfl : ({ s with hl := x } : State).blk = s.blk)) _
@[simp] theorem setHl_thr (n : Nat) (x : HlUnit) : (s.setHl n x).thr = s.thr :=
  (fun x => (rfl : ({ s with hl := x } : State).thr = s.thr)) _
@[simp] theorem setHl_fp (n : Nat) (x : HlUnit) : (s.setHl n x).fp = s.fp :=
  (fun x => (rfl : ({ s with hl := x } : State).fp = s.fp)) _
@[simp] theorem setHl_presented (n : Nat) (x : HlUnit) : (s.setHl n x).presented = s.presented :=
  (fun x => (rfl : ({ s with hl := x } : State).presented = s.presented)) _
@[simp] theorem setHl_arc (n : Nat) (x : HlUnit) : (s.setHl n x).arc = s.arc :=
  (fun x => (rfl : ({ s with hl := x } : State).arc = s.arc)) _
@[simp] theorem setHl_ll (n : Nat) (x : HlUnit) : (s.setHl n x).ll = s.ll :=
  (fun x => (rfl : ({ s with hl := x } : State).ll = s.ll)) _
@[simp] theorem setHl_pin (n : Nat) (x : HlUnit) : (s.setHl n x).pin = s.pin :=
  (fun x => (rfl : ({ s with hl := x } : State).pin = s.pin)) _
@[simp] theorem setHl_xq (n : Nat) (x : HlUnit) : (s.setHl n x).xq = s.xq :=
  (fun x => (rfl : ({ s with hl := x } : State).xq = s.xq)) _
@[simp] theorem setHl_xc (n : Nat) (x : HlUnit) : (s.setHl n x).xc = s.xc :=
  (fun x => (rfl : ({ s with hl := x } : State).xc = s.xc)) _
@[simp] theorem setHl_xcEv (n : Nat) (x : HlUnit) : (s.setHl n x).xcEv = s.xcEv :=
  (fun x => (rfl : ({ s with hl := x } : State).xcEv = s.xcEv)) _
@[simp] theorem setHl_tw (n : Nat) (x : HlUnit) : (s.setHl n x).tw = s.tw :=
  (fun x => (rfl : ({ s with hl := x } : State).tw = s.tw)) _
@[simp] theorem setHl_ring (n : Nat) (x : HlUnit) : (s.setHl n x).ring = s.ring :=
  (fun x => (rfl : ({ s with hl := x } : State).ring = s.ring)) _
@[simp] theorem setHl_mp (n : Nat) (x : HlUnit) : (s.setHl n x).mp = s.mp :=
  (fun x => (rfl : ({ s with hl := x } : State).mp = s.mp)) _
@[simp] theorem setHl_ld (n : Nat) (x : HlUnit) : (s.setHl n x).ld = s.ld :=
  (fun x => (rfl : ({ s with hl := x } : State).ld = s.ld)) _
@[simp] theorem setHl_map (n : Nat) (x : HlUnit) : (s.setHl n x).map = s.map :=
  (fun x => (rfl : ({ s with hl := x } : State).map = s.map)) _
@[simp] theorem setHl_pm (n : Nat) (x : HlUnit) : (s.setHl n x).pm = s.pm :=
  (fun x => (rfl : ({ s with hl := x } : State).pm = s.pm)) _
@[simp] theorem setHl_lc (n : Nat) (x : HlUnit) : (s.setHl n x).lc = s.lc :=
  (fun x => (rfl : ({ s with hl := x } : State).lc = s.lc)) _
@[simp] theorem setHl_qtr (n : Nat) (x : HlUnit) : (s.setHl n x).qtr = s.qtr :=
  (fun x => (rfl : ({ s with hl := x } : State).qtr = s.qtr)) _
@[simp] theorem setHl_bar2 (n : Nat) (x : HlUnit) : (s.setHl n x).bar2 = s.bar2 :=
  (fun x => (rfl : ({ s with hl := x } : State).bar2 = s.bar2)) _
@[simp] theorem setHl_out (n : Nat) (x : HlUnit) : (s.setHl n x).out = s.out :=
  (fun x => (rfl : ({ s with hl := x } : State).out = s.out)) _

/-! ### setTw -/

@[simp] theorem setTw_pending (n : Nat) (x : TwUnit) : (s.setTw n x).pending = s.pending :=
  (fun x => (rfl : ({ s with tw := x } : State).pending = s.pending)) _
@[simp] theorem setTw_free (n : Nat) (x : TwUnit) : (s.setTw n x).free = s.free :=
  (fun x => (rfl : ({ s with tw := x } : State).free = s.free)) _
@[simp] theorem setTw_live (n : Nat) (x : TwUnit) : (s.setTw n x).live = s.live :=
  (fun x => (rfl : ({ s with tw := x } : State).live = s.live)) _
@[simp] theorem setTw_staged (n : Nat) (x : TwUnit) : (s.setTw n x).staged = s.staged :=
  (fun x => (rfl : ({ s with tw := x } : State).staged = s.staged)) _
@[simp] theorem setTw_captured (n : Nat) (x : TwUnit) : (s.setTw n x).captured = s.captured :=
  (fun x => (rfl : ({ s with tw := x } : State).captured = s.captured)) _
@[simp] theorem setTw_active (n : Nat) (x : TwUnit) : (s.setTw n x).active = s.active :=
  (fun x => (rfl : ({ s with tw := x } : State).active = s.active)) _
@[simp] theorem setTw_mapv (n : Nat) (x : TwUnit) : (s.setTw n x).mapv = s.mapv :=
  (fun x => (rfl : ({ s with tw := x } : State).mapv = s.mapv)) _
@[simp] theorem setTw_holdReg (n : Nat) (x : TwUnit) : (s.setTw n x).holdReg = s.holdReg :=
  (fun x => (rfl : ({ s with tw := x } : State).holdReg = s.holdReg)) _
@[simp] theorem setTw_holdMark (n : Nat) (x : TwUnit) : (s.setTw n x).holdMark = s.holdMark :=
  (fun x => (rfl : ({ s with tw := x } : State).holdMark = s.holdMark)) _
@[simp] theorem setTw_snap (n : Nat) (x : TwUnit) : (s.setTw n x).snap = s.snap :=
  (fun x => (rfl : ({ s with tw := x } : State).snap = s.snap)) _
@[simp] theorem setTw_owner (n : Nat) (x : TwUnit) : (s.setTw n x).owner = s.owner :=
  (fun x => (rfl : ({ s with tw := x } : State).owner = s.owner)) _
@[simp] theorem setTw_mem (n : Nat) (x : TwUnit) : (s.setTw n x).mem = s.mem :=
  (fun x => (rfl : ({ s with tw := x } : State).mem = s.mem)) _
@[simp] theorem setTw_ecc (n : Nat) (x : TwUnit) : (s.setTw n x).ecc = s.ecc :=
  (fun x => (rfl : ({ s with tw := x } : State).ecc = s.ecc)) _
@[simp] theorem setTw_scrubQ (n : Nat) (x : TwUnit) : (s.setTw n x).scrubQ = s.scrubQ :=
  (fun x => (rfl : ({ s with tw := x } : State).scrubQ = s.scrubQ)) _
@[simp] theorem setTw_ct (n : Nat) (x : TwUnit) : (s.setTw n x).ct = s.ct :=
  (fun x => (rfl : ({ s with tw := x } : State).ct = s.ct)) _
@[simp] theorem setTw_aon (n : Nat) (x : TwUnit) : (s.setTw n x).aon = s.aon :=
  (fun x => (rfl : ({ s with tw := x } : State).aon = s.aon)) _
@[simp] theorem setTw_blk (n : Nat) (x : TwUnit) : (s.setTw n x).blk = s.blk :=
  (fun x => (rfl : ({ s with tw := x } : State).blk = s.blk)) _
@[simp] theorem setTw_thr (n : Nat) (x : TwUnit) : (s.setTw n x).thr = s.thr :=
  (fun x => (rfl : ({ s with tw := x } : State).thr = s.thr)) _
@[simp] theorem setTw_fp (n : Nat) (x : TwUnit) : (s.setTw n x).fp = s.fp :=
  (fun x => (rfl : ({ s with tw := x } : State).fp = s.fp)) _
@[simp] theorem setTw_presented (n : Nat) (x : TwUnit) : (s.setTw n x).presented = s.presented :=
  (fun x => (rfl : ({ s with tw := x } : State).presented = s.presented)) _
@[simp] theorem setTw_arc (n : Nat) (x : TwUnit) : (s.setTw n x).arc = s.arc :=
  (fun x => (rfl : ({ s with tw := x } : State).arc = s.arc)) _
@[simp] theorem setTw_ll (n : Nat) (x : TwUnit) : (s.setTw n x).ll = s.ll :=
  (fun x => (rfl : ({ s with tw := x } : State).ll = s.ll)) _
@[simp] theorem setTw_pin (n : Nat) (x : TwUnit) : (s.setTw n x).pin = s.pin :=
  (fun x => (rfl : ({ s with tw := x } : State).pin = s.pin)) _
@[simp] theorem setTw_xq (n : Nat) (x : TwUnit) : (s.setTw n x).xq = s.xq :=
  (fun x => (rfl : ({ s with tw := x } : State).xq = s.xq)) _
@[simp] theorem setTw_xc (n : Nat) (x : TwUnit) : (s.setTw n x).xc = s.xc :=
  (fun x => (rfl : ({ s with tw := x } : State).xc = s.xc)) _
@[simp] theorem setTw_xcEv (n : Nat) (x : TwUnit) : (s.setTw n x).xcEv = s.xcEv :=
  (fun x => (rfl : ({ s with tw := x } : State).xcEv = s.xcEv)) _
@[simp] theorem setTw_hl (n : Nat) (x : TwUnit) : (s.setTw n x).hl = s.hl :=
  (fun x => (rfl : ({ s with tw := x } : State).hl = s.hl)) _
@[simp] theorem setTw_ring (n : Nat) (x : TwUnit) : (s.setTw n x).ring = s.ring :=
  (fun x => (rfl : ({ s with tw := x } : State).ring = s.ring)) _
@[simp] theorem setTw_mp (n : Nat) (x : TwUnit) : (s.setTw n x).mp = s.mp :=
  (fun x => (rfl : ({ s with tw := x } : State).mp = s.mp)) _
@[simp] theorem setTw_ld (n : Nat) (x : TwUnit) : (s.setTw n x).ld = s.ld :=
  (fun x => (rfl : ({ s with tw := x } : State).ld = s.ld)) _
@[simp] theorem setTw_map (n : Nat) (x : TwUnit) : (s.setTw n x).map = s.map :=
  (fun x => (rfl : ({ s with tw := x } : State).map = s.map)) _
@[simp] theorem setTw_pm (n : Nat) (x : TwUnit) : (s.setTw n x).pm = s.pm :=
  (fun x => (rfl : ({ s with tw := x } : State).pm = s.pm)) _
@[simp] theorem setTw_lc (n : Nat) (x : TwUnit) : (s.setTw n x).lc = s.lc :=
  (fun x => (rfl : ({ s with tw := x } : State).lc = s.lc)) _
@[simp] theorem setTw_qtr (n : Nat) (x : TwUnit) : (s.setTw n x).qtr = s.qtr :=
  (fun x => (rfl : ({ s with tw := x } : State).qtr = s.qtr)) _
@[simp] theorem setTw_bar2 (n : Nat) (x : TwUnit) : (s.setTw n x).bar2 = s.bar2 :=
  (fun x => (rfl : ({ s with tw := x } : State).bar2 = s.bar2)) _
@[simp] theorem setTw_out (n : Nat) (x : TwUnit) : (s.setTw n x).out = s.out :=
  (fun x => (rfl : ({ s with tw := x } : State).out = s.out)) _

/-! ### emit -/

@[simp] theorem emit_pending (o : Out) : (s.emit o).pending = s.pending :=
  (fun x => (rfl : ({ s with out := x } : State).pending = s.pending)) _
@[simp] theorem emit_free (o : Out) : (s.emit o).free = s.free :=
  (fun x => (rfl : ({ s with out := x } : State).free = s.free)) _
@[simp] theorem emit_live (o : Out) : (s.emit o).live = s.live :=
  (fun x => (rfl : ({ s with out := x } : State).live = s.live)) _
@[simp] theorem emit_staged (o : Out) : (s.emit o).staged = s.staged :=
  (fun x => (rfl : ({ s with out := x } : State).staged = s.staged)) _
@[simp] theorem emit_captured (o : Out) : (s.emit o).captured = s.captured :=
  (fun x => (rfl : ({ s with out := x } : State).captured = s.captured)) _
@[simp] theorem emit_active (o : Out) : (s.emit o).active = s.active :=
  (fun x => (rfl : ({ s with out := x } : State).active = s.active)) _
@[simp] theorem emit_mapv (o : Out) : (s.emit o).mapv = s.mapv :=
  (fun x => (rfl : ({ s with out := x } : State).mapv = s.mapv)) _
@[simp] theorem emit_holdReg (o : Out) : (s.emit o).holdReg = s.holdReg :=
  (fun x => (rfl : ({ s with out := x } : State).holdReg = s.holdReg)) _
@[simp] theorem emit_holdMark (o : Out) : (s.emit o).holdMark = s.holdMark :=
  (fun x => (rfl : ({ s with out := x } : State).holdMark = s.holdMark)) _
@[simp] theorem emit_snap (o : Out) : (s.emit o).snap = s.snap :=
  (fun x => (rfl : ({ s with out := x } : State).snap = s.snap)) _
@[simp] theorem emit_owner (o : Out) : (s.emit o).owner = s.owner :=
  (fun x => (rfl : ({ s with out := x } : State).owner = s.owner)) _
@[simp] theorem emit_mem (o : Out) : (s.emit o).mem = s.mem :=
  (fun x => (rfl : ({ s with out := x } : State).mem = s.mem)) _
@[simp] theorem emit_ecc (o : Out) : (s.emit o).ecc = s.ecc :=
  (fun x => (rfl : ({ s with out := x } : State).ecc = s.ecc)) _
@[simp] theorem emit_scrubQ (o : Out) : (s.emit o).scrubQ = s.scrubQ :=
  (fun x => (rfl : ({ s with out := x } : State).scrubQ = s.scrubQ)) _
@[simp] theorem emit_ct (o : Out) : (s.emit o).ct = s.ct :=
  (fun x => (rfl : ({ s with out := x } : State).ct = s.ct)) _
@[simp] theorem emit_aon (o : Out) : (s.emit o).aon = s.aon :=
  (fun x => (rfl : ({ s with out := x } : State).aon = s.aon)) _
@[simp] theorem emit_blk (o : Out) : (s.emit o).blk = s.blk :=
  (fun x => (rfl : ({ s with out := x } : State).blk = s.blk)) _
@[simp] theorem emit_thr (o : Out) : (s.emit o).thr = s.thr :=
  (fun x => (rfl : ({ s with out := x } : State).thr = s.thr)) _
@[simp] theorem emit_fp (o : Out) : (s.emit o).fp = s.fp :=
  (fun x => (rfl : ({ s with out := x } : State).fp = s.fp)) _
@[simp] theorem emit_presented (o : Out) : (s.emit o).presented = s.presented :=
  (fun x => (rfl : ({ s with out := x } : State).presented = s.presented)) _
@[simp] theorem emit_arc (o : Out) : (s.emit o).arc = s.arc :=
  (fun x => (rfl : ({ s with out := x } : State).arc = s.arc)) _
@[simp] theorem emit_ll (o : Out) : (s.emit o).ll = s.ll :=
  (fun x => (rfl : ({ s with out := x } : State).ll = s.ll)) _
@[simp] theorem emit_pin (o : Out) : (s.emit o).pin = s.pin :=
  (fun x => (rfl : ({ s with out := x } : State).pin = s.pin)) _
@[simp] theorem emit_xq (o : Out) : (s.emit o).xq = s.xq :=
  (fun x => (rfl : ({ s with out := x } : State).xq = s.xq)) _
@[simp] theorem emit_xc (o : Out) : (s.emit o).xc = s.xc :=
  (fun x => (rfl : ({ s with out := x } : State).xc = s.xc)) _
@[simp] theorem emit_xcEv (o : Out) : (s.emit o).xcEv = s.xcEv :=
  (fun x => (rfl : ({ s with out := x } : State).xcEv = s.xcEv)) _
@[simp] theorem emit_hl (o : Out) : (s.emit o).hl = s.hl :=
  (fun x => (rfl : ({ s with out := x } : State).hl = s.hl)) _
@[simp] theorem emit_tw (o : Out) : (s.emit o).tw = s.tw :=
  (fun x => (rfl : ({ s with out := x } : State).tw = s.tw)) _
@[simp] theorem emit_ring (o : Out) : (s.emit o).ring = s.ring :=
  (fun x => (rfl : ({ s with out := x } : State).ring = s.ring)) _
@[simp] theorem emit_mp (o : Out) : (s.emit o).mp = s.mp :=
  (fun x => (rfl : ({ s with out := x } : State).mp = s.mp)) _
@[simp] theorem emit_ld (o : Out) : (s.emit o).ld = s.ld :=
  (fun x => (rfl : ({ s with out := x } : State).ld = s.ld)) _
@[simp] theorem emit_map (o : Out) : (s.emit o).map = s.map :=
  (fun x => (rfl : ({ s with out := x } : State).map = s.map)) _
@[simp] theorem emit_pm (o : Out) : (s.emit o).pm = s.pm :=
  (fun x => (rfl : ({ s with out := x } : State).pm = s.pm)) _
@[simp] theorem emit_lc (o : Out) : (s.emit o).lc = s.lc :=
  (fun x => (rfl : ({ s with out := x } : State).lc = s.lc)) _
@[simp] theorem emit_qtr (o : Out) : (s.emit o).qtr = s.qtr :=
  (fun x => (rfl : ({ s with out := x } : State).qtr = s.qtr)) _
@[simp] theorem emit_bar2 (o : Out) : (s.emit o).bar2 = s.bar2 :=
  (fun x => (rfl : ({ s with out := x } : State).bar2 = s.bar2)) _

/-! ### setEcc -/

@[simp] theorem setEcc_pending (rg w : Nat) (e : Ecc) : (s.setEcc rg w e).pending = s.pending :=
  (fun x => (rfl : ({ s with ecc := x } : State).pending = s.pending)) _
@[simp] theorem setEcc_free (rg w : Nat) (e : Ecc) : (s.setEcc rg w e).free = s.free :=
  (fun x => (rfl : ({ s with ecc := x } : State).free = s.free)) _
@[simp] theorem setEcc_live (rg w : Nat) (e : Ecc) : (s.setEcc rg w e).live = s.live :=
  (fun x => (rfl : ({ s with ecc := x } : State).live = s.live)) _
@[simp] theorem setEcc_staged (rg w : Nat) (e : Ecc) : (s.setEcc rg w e).staged = s.staged :=
  (fun x => (rfl : ({ s with ecc := x } : State).staged = s.staged)) _
@[simp] theorem setEcc_captured (rg w : Nat) (e : Ecc) : (s.setEcc rg w e).captured = s.captured :=
  (fun x => (rfl : ({ s with ecc := x } : State).captured = s.captured)) _
@[simp] theorem setEcc_active (rg w : Nat) (e : Ecc) : (s.setEcc rg w e).active = s.active :=
  (fun x => (rfl : ({ s with ecc := x } : State).active = s.active)) _
@[simp] theorem setEcc_mapv (rg w : Nat) (e : Ecc) : (s.setEcc rg w e).mapv = s.mapv :=
  (fun x => (rfl : ({ s with ecc := x } : State).mapv = s.mapv)) _
@[simp] theorem setEcc_holdReg (rg w : Nat) (e : Ecc) : (s.setEcc rg w e).holdReg = s.holdReg :=
  (fun x => (rfl : ({ s with ecc := x } : State).holdReg = s.holdReg)) _
@[simp] theorem setEcc_holdMark (rg w : Nat) (e : Ecc) : (s.setEcc rg w e).holdMark = s.holdMark :=
  (fun x => (rfl : ({ s with ecc := x } : State).holdMark = s.holdMark)) _
@[simp] theorem setEcc_snap (rg w : Nat) (e : Ecc) : (s.setEcc rg w e).snap = s.snap :=
  (fun x => (rfl : ({ s with ecc := x } : State).snap = s.snap)) _
@[simp] theorem setEcc_owner (rg w : Nat) (e : Ecc) : (s.setEcc rg w e).owner = s.owner :=
  (fun x => (rfl : ({ s with ecc := x } : State).owner = s.owner)) _
@[simp] theorem setEcc_mem (rg w : Nat) (e : Ecc) : (s.setEcc rg w e).mem = s.mem :=
  (fun x => (rfl : ({ s with ecc := x } : State).mem = s.mem)) _
@[simp] theorem setEcc_scrubQ (rg w : Nat) (e : Ecc) : (s.setEcc rg w e).scrubQ = s.scrubQ :=
  (fun x => (rfl : ({ s with ecc := x } : State).scrubQ = s.scrubQ)) _
@[simp] theorem setEcc_ct (rg w : Nat) (e : Ecc) : (s.setEcc rg w e).ct = s.ct :=
  (fun x => (rfl : ({ s with ecc := x } : State).ct = s.ct)) _
@[simp] theorem setEcc_aon (rg w : Nat) (e : Ecc) : (s.setEcc rg w e).aon = s.aon :=
  (fun x => (rfl : ({ s with ecc := x } : State).aon = s.aon)) _
@[simp] theorem setEcc_blk (rg w : Nat) (e : Ecc) : (s.setEcc rg w e).blk = s.blk :=
  (fun x => (rfl : ({ s with ecc := x } : State).blk = s.blk)) _
@[simp] theorem setEcc_thr (rg w : Nat) (e : Ecc) : (s.setEcc rg w e).thr = s.thr :=
  (fun x => (rfl : ({ s with ecc := x } : State).thr = s.thr)) _
@[simp] theorem setEcc_fp (rg w : Nat) (e : Ecc) : (s.setEcc rg w e).fp = s.fp :=
  (fun x => (rfl : ({ s with ecc := x } : State).fp = s.fp)) _
@[simp] theorem setEcc_presented (rg w : Nat) (e : Ecc) : (s.setEcc rg w e).presented = s.presented :=
  (fun x => (rfl : ({ s with ecc := x } : State).presented = s.presented)) _
@[simp] theorem setEcc_arc (rg w : Nat) (e : Ecc) : (s.setEcc rg w e).arc = s.arc :=
  (fun x => (rfl : ({ s with ecc := x } : State).arc = s.arc)) _
@[simp] theorem setEcc_ll (rg w : Nat) (e : Ecc) : (s.setEcc rg w e).ll = s.ll :=
  (fun x => (rfl : ({ s with ecc := x } : State).ll = s.ll)) _
@[simp] theorem setEcc_pin (rg w : Nat) (e : Ecc) : (s.setEcc rg w e).pin = s.pin :=
  (fun x => (rfl : ({ s with ecc := x } : State).pin = s.pin)) _
@[simp] theorem setEcc_xq (rg w : Nat) (e : Ecc) : (s.setEcc rg w e).xq = s.xq :=
  (fun x => (rfl : ({ s with ecc := x } : State).xq = s.xq)) _
@[simp] theorem setEcc_xc (rg w : Nat) (e : Ecc) : (s.setEcc rg w e).xc = s.xc :=
  (fun x => (rfl : ({ s with ecc := x } : State).xc = s.xc)) _
@[simp] theorem setEcc_xcEv (rg w : Nat) (e : Ecc) : (s.setEcc rg w e).xcEv = s.xcEv :=
  (fun x => (rfl : ({ s with ecc := x } : State).xcEv = s.xcEv)) _
@[simp] theorem setEcc_hl (rg w : Nat) (e : Ecc) : (s.setEcc rg w e).hl = s.hl :=
  (fun x => (rfl : ({ s with ecc := x } : State).hl = s.hl)) _
@[simp] theorem setEcc_tw (rg w : Nat) (e : Ecc) : (s.setEcc rg w e).tw = s.tw :=
  (fun x => (rfl : ({ s with ecc := x } : State).tw = s.tw)) _
@[simp] theorem setEcc_ring (rg w : Nat) (e : Ecc) : (s.setEcc rg w e).ring = s.ring :=
  (fun x => (rfl : ({ s with ecc := x } : State).ring = s.ring)) _
@[simp] theorem setEcc_mp (rg w : Nat) (e : Ecc) : (s.setEcc rg w e).mp = s.mp :=
  (fun x => (rfl : ({ s with ecc := x } : State).mp = s.mp)) _
@[simp] theorem setEcc_ld (rg w : Nat) (e : Ecc) : (s.setEcc rg w e).ld = s.ld :=
  (fun x => (rfl : ({ s with ecc := x } : State).ld = s.ld)) _
@[simp] theorem setEcc_map (rg w : Nat) (e : Ecc) : (s.setEcc rg w e).map = s.map :=
  (fun x => (rfl : ({ s with ecc := x } : State).map = s.map)) _
@[simp] theorem setEcc_pm (rg w : Nat) (e : Ecc) : (s.setEcc rg w e).pm = s.pm :=
  (fun x => (rfl : ({ s with ecc := x } : State).pm = s.pm)) _
@[simp] theorem setEcc_lc (rg w : Nat) (e : Ecc) : (s.setEcc rg w e).lc = s.lc :=
  (fun x => (rfl : ({ s with ecc := x } : State).lc = s.lc)) _
@[simp] theorem setEcc_qtr (rg w : Nat) (e : Ecc) : (s.setEcc rg w e).qtr = s.qtr :=
  (fun x => (rfl : ({ s with ecc := x } : State).qtr = s.qtr)) _
@[simp] theorem setEcc_bar2 (rg w : Nat) (e : Ecc) : (s.setEcc rg w e).bar2 = s.bar2 :=
  (fun x => (rfl : ({ s with ecc := x } : State).bar2 = s.bar2)) _
@[simp] theorem setEcc_out (rg w : Nat) (e : Ecc) : (s.setEcc rg w e).out = s.out :=
  (fun x => (rfl : ({ s with ecc := x } : State).out = s.out)) _

/-! ### setByte -/

@[simp] theorem setByte_pending (rg off : Nat) (b : Byte) : (s.setByte rg off b).pending = s.pending :=
  (fun x => (rfl : ({ s with mem := x } : State).pending = s.pending)) _
@[simp] theorem setByte_free (rg off : Nat) (b : Byte) : (s.setByte rg off b).free = s.free :=
  (fun x => (rfl : ({ s with mem := x } : State).free = s.free)) _
@[simp] theorem setByte_live (rg off : Nat) (b : Byte) : (s.setByte rg off b).live = s.live :=
  (fun x => (rfl : ({ s with mem := x } : State).live = s.live)) _
@[simp] theorem setByte_staged (rg off : Nat) (b : Byte) : (s.setByte rg off b).staged = s.staged :=
  (fun x => (rfl : ({ s with mem := x } : State).staged = s.staged)) _
@[simp] theorem setByte_captured (rg off : Nat) (b : Byte) : (s.setByte rg off b).captured = s.captured :=
  (fun x => (rfl : ({ s with mem := x } : State).captured = s.captured)) _
@[simp] theorem setByte_active (rg off : Nat) (b : Byte) : (s.setByte rg off b).active = s.active :=
  (fun x => (rfl : ({ s with mem := x } : State).active = s.active)) _
@[simp] theorem setByte_mapv (rg off : Nat) (b : Byte) : (s.setByte rg off b).mapv = s.mapv :=
  (fun x => (rfl : ({ s with mem := x } : State).mapv = s.mapv)) _
@[simp] theorem setByte_holdReg (rg off : Nat) (b : Byte) : (s.setByte rg off b).holdReg = s.holdReg :=
  (fun x => (rfl : ({ s with mem := x } : State).holdReg = s.holdReg)) _
@[simp] theorem setByte_holdMark (rg off : Nat) (b : Byte) : (s.setByte rg off b).holdMark = s.holdMark :=
  (fun x => (rfl : ({ s with mem := x } : State).holdMark = s.holdMark)) _
@[simp] theorem setByte_snap (rg off : Nat) (b : Byte) : (s.setByte rg off b).snap = s.snap :=
  (fun x => (rfl : ({ s with mem := x } : State).snap = s.snap)) _
@[simp] theorem setByte_owner (rg off : Nat) (b : Byte) : (s.setByte rg off b).owner = s.owner :=
  (fun x => (rfl : ({ s with mem := x } : State).owner = s.owner)) _
@[simp] theorem setByte_ecc (rg off : Nat) (b : Byte) : (s.setByte rg off b).ecc = s.ecc :=
  (fun x => (rfl : ({ s with mem := x } : State).ecc = s.ecc)) _
@[simp] theorem setByte_scrubQ (rg off : Nat) (b : Byte) : (s.setByte rg off b).scrubQ = s.scrubQ :=
  (fun x => (rfl : ({ s with mem := x } : State).scrubQ = s.scrubQ)) _
@[simp] theorem setByte_ct (rg off : Nat) (b : Byte) : (s.setByte rg off b).ct = s.ct :=
  (fun x => (rfl : ({ s with mem := x } : State).ct = s.ct)) _
@[simp] theorem setByte_aon (rg off : Nat) (b : Byte) : (s.setByte rg off b).aon = s.aon :=
  (fun x => (rfl : ({ s with mem := x } : State).aon = s.aon)) _
@[simp] theorem setByte_blk (rg off : Nat) (b : Byte) : (s.setByte rg off b).blk = s.blk :=
  (fun x => (rfl : ({ s with mem := x } : State).blk = s.blk)) _
@[simp] theorem setByte_thr (rg off : Nat) (b : Byte) : (s.setByte rg off b).thr = s.thr :=
  (fun x => (rfl : ({ s with mem := x } : State).thr = s.thr)) _
@[simp] theorem setByte_fp (rg off : Nat) (b : Byte) : (s.setByte rg off b).fp = s.fp :=
  (fun x => (rfl : ({ s with mem := x } : State).fp = s.fp)) _
@[simp] theorem setByte_presented (rg off : Nat) (b : Byte) : (s.setByte rg off b).presented = s.presented :=
  (fun x => (rfl : ({ s with mem := x } : State).presented = s.presented)) _
@[simp] theorem setByte_arc (rg off : Nat) (b : Byte) : (s.setByte rg off b).arc = s.arc :=
  (fun x => (rfl : ({ s with mem := x } : State).arc = s.arc)) _
@[simp] theorem setByte_ll (rg off : Nat) (b : Byte) : (s.setByte rg off b).ll = s.ll :=
  (fun x => (rfl : ({ s with mem := x } : State).ll = s.ll)) _
@[simp] theorem setByte_pin (rg off : Nat) (b : Byte) : (s.setByte rg off b).pin = s.pin :=
  (fun x => (rfl : ({ s with mem := x } : State).pin = s.pin)) _
@[simp] theorem setByte_xq (rg off : Nat) (b : Byte) : (s.setByte rg off b).xq = s.xq :=
  (fun x => (rfl : ({ s with mem := x } : State).xq = s.xq)) _
@[simp] theorem setByte_xc (rg off : Nat) (b : Byte) : (s.setByte rg off b).xc = s.xc :=
  (fun x => (rfl : ({ s with mem := x } : State).xc = s.xc)) _
@[simp] theorem setByte_xcEv (rg off : Nat) (b : Byte) : (s.setByte rg off b).xcEv = s.xcEv :=
  (fun x => (rfl : ({ s with mem := x } : State).xcEv = s.xcEv)) _
@[simp] theorem setByte_hl (rg off : Nat) (b : Byte) : (s.setByte rg off b).hl = s.hl :=
  (fun x => (rfl : ({ s with mem := x } : State).hl = s.hl)) _
@[simp] theorem setByte_tw (rg off : Nat) (b : Byte) : (s.setByte rg off b).tw = s.tw :=
  (fun x => (rfl : ({ s with mem := x } : State).tw = s.tw)) _
@[simp] theorem setByte_ring (rg off : Nat) (b : Byte) : (s.setByte rg off b).ring = s.ring :=
  (fun x => (rfl : ({ s with mem := x } : State).ring = s.ring)) _
@[simp] theorem setByte_mp (rg off : Nat) (b : Byte) : (s.setByte rg off b).mp = s.mp :=
  (fun x => (rfl : ({ s with mem := x } : State).mp = s.mp)) _
@[simp] theorem setByte_ld (rg off : Nat) (b : Byte) : (s.setByte rg off b).ld = s.ld :=
  (fun x => (rfl : ({ s with mem := x } : State).ld = s.ld)) _
@[simp] theorem setByte_map (rg off : Nat) (b : Byte) : (s.setByte rg off b).map = s.map :=
  (fun x => (rfl : ({ s with mem := x } : State).map = s.map)) _
@[simp] theorem setByte_pm (rg off : Nat) (b : Byte) : (s.setByte rg off b).pm = s.pm :=
  (fun x => (rfl : ({ s with mem := x } : State).pm = s.pm)) _
@[simp] theorem setByte_lc (rg off : Nat) (b : Byte) : (s.setByte rg off b).lc = s.lc :=
  (fun x => (rfl : ({ s with mem := x } : State).lc = s.lc)) _
@[simp] theorem setByte_qtr (rg off : Nat) (b : Byte) : (s.setByte rg off b).qtr = s.qtr :=
  (fun x => (rfl : ({ s with mem := x } : State).qtr = s.qtr)) _
@[simp] theorem setByte_bar2 (rg off : Nat) (b : Byte) : (s.setByte rg off b).bar2 = s.bar2 :=
  (fun x => (rfl : ({ s with mem := x } : State).bar2 = s.bar2)) _
@[simp] theorem setByte_out (rg off : Nat) (b : Byte) : (s.setByte rg off b).out = s.out :=
  (fun x => (rfl : ({ s with mem := x } : State).out = s.out)) _

/-! ### setBar2 -/

@[simp] theorem setBar2_pending (q off : Nat) (w : Word) : (s.setBar2 q off w).pending = s.pending :=
  (fun x => (rfl : ({ s with bar2 := x } : State).pending = s.pending)) _
@[simp] theorem setBar2_free (q off : Nat) (w : Word) : (s.setBar2 q off w).free = s.free :=
  (fun x => (rfl : ({ s with bar2 := x } : State).free = s.free)) _
@[simp] theorem setBar2_live (q off : Nat) (w : Word) : (s.setBar2 q off w).live = s.live :=
  (fun x => (rfl : ({ s with bar2 := x } : State).live = s.live)) _
@[simp] theorem setBar2_staged (q off : Nat) (w : Word) : (s.setBar2 q off w).staged = s.staged :=
  (fun x => (rfl : ({ s with bar2 := x } : State).staged = s.staged)) _
@[simp] theorem setBar2_captured (q off : Nat) (w : Word) : (s.setBar2 q off w).captured = s.captured :=
  (fun x => (rfl : ({ s with bar2 := x } : State).captured = s.captured)) _
@[simp] theorem setBar2_active (q off : Nat) (w : Word) : (s.setBar2 q off w).active = s.active :=
  (fun x => (rfl : ({ s with bar2 := x } : State).active = s.active)) _
@[simp] theorem setBar2_mapv (q off : Nat) (w : Word) : (s.setBar2 q off w).mapv = s.mapv :=
  (fun x => (rfl : ({ s with bar2 := x } : State).mapv = s.mapv)) _
@[simp] theorem setBar2_holdReg (q off : Nat) (w : Word) : (s.setBar2 q off w).holdReg = s.holdReg :=
  (fun x => (rfl : ({ s with bar2 := x } : State).holdReg = s.holdReg)) _
@[simp] theorem setBar2_holdMark (q off : Nat) (w : Word) : (s.setBar2 q off w).holdMark = s.holdMark :=
  (fun x => (rfl : ({ s with bar2 := x } : State).holdMark = s.holdMark)) _
@[simp] theorem setBar2_snap (q off : Nat) (w : Word) : (s.setBar2 q off w).snap = s.snap :=
  (fun x => (rfl : ({ s with bar2 := x } : State).snap = s.snap)) _
@[simp] theorem setBar2_owner (q off : Nat) (w : Word) : (s.setBar2 q off w).owner = s.owner :=
  (fun x => (rfl : ({ s with bar2 := x } : State).owner = s.owner)) _
@[simp] theorem setBar2_mem (q off : Nat) (w : Word) : (s.setBar2 q off w).mem = s.mem :=
  (fun x => (rfl : ({ s with bar2 := x } : State).mem = s.mem)) _
@[simp] theorem setBar2_ecc (q off : Nat) (w : Word) : (s.setBar2 q off w).ecc = s.ecc :=
  (fun x => (rfl : ({ s with bar2 := x } : State).ecc = s.ecc)) _
@[simp] theorem setBar2_scrubQ (q off : Nat) (w : Word) : (s.setBar2 q off w).scrubQ = s.scrubQ :=
  (fun x => (rfl : ({ s with bar2 := x } : State).scrubQ = s.scrubQ)) _
@[simp] theorem setBar2_ct (q off : Nat) (w : Word) : (s.setBar2 q off w).ct = s.ct :=
  (fun x => (rfl : ({ s with bar2 := x } : State).ct = s.ct)) _
@[simp] theorem setBar2_aon (q off : Nat) (w : Word) : (s.setBar2 q off w).aon = s.aon :=
  (fun x => (rfl : ({ s with bar2 := x } : State).aon = s.aon)) _
@[simp] theorem setBar2_blk (q off : Nat) (w : Word) : (s.setBar2 q off w).blk = s.blk :=
  (fun x => (rfl : ({ s with bar2 := x } : State).blk = s.blk)) _
@[simp] theorem setBar2_thr (q off : Nat) (w : Word) : (s.setBar2 q off w).thr = s.thr :=
  (fun x => (rfl : ({ s with bar2 := x } : State).thr = s.thr)) _
@[simp] theorem setBar2_fp (q off : Nat) (w : Word) : (s.setBar2 q off w).fp = s.fp :=
  (fun x => (rfl : ({ s with bar2 := x } : State).fp = s.fp)) _
@[simp] theorem setBar2_presented (q off : Nat) (w : Word) : (s.setBar2 q off w).presented = s.presented :=
  (fun x => (rfl : ({ s with bar2 := x } : State).presented = s.presented)) _
@[simp] theorem setBar2_arc (q off : Nat) (w : Word) : (s.setBar2 q off w).arc = s.arc :=
  (fun x => (rfl : ({ s with bar2 := x } : State).arc = s.arc)) _
@[simp] theorem setBar2_ll (q off : Nat) (w : Word) : (s.setBar2 q off w).ll = s.ll :=
  (fun x => (rfl : ({ s with bar2 := x } : State).ll = s.ll)) _
@[simp] theorem setBar2_pin (q off : Nat) (w : Word) : (s.setBar2 q off w).pin = s.pin :=
  (fun x => (rfl : ({ s with bar2 := x } : State).pin = s.pin)) _
@[simp] theorem setBar2_xq (q off : Nat) (w : Word) : (s.setBar2 q off w).xq = s.xq :=
  (fun x => (rfl : ({ s with bar2 := x } : State).xq = s.xq)) _
@[simp] theorem setBar2_xc (q off : Nat) (w : Word) : (s.setBar2 q off w).xc = s.xc :=
  (fun x => (rfl : ({ s with bar2 := x } : State).xc = s.xc)) _
@[simp] theorem setBar2_xcEv (q off : Nat) (w : Word) : (s.setBar2 q off w).xcEv = s.xcEv :=
  (fun x => (rfl : ({ s with bar2 := x } : State).xcEv = s.xcEv)) _
@[simp] theorem setBar2_hl (q off : Nat) (w : Word) : (s.setBar2 q off w).hl = s.hl :=
  (fun x => (rfl : ({ s with bar2 := x } : State).hl = s.hl)) _
@[simp] theorem setBar2_tw (q off : Nat) (w : Word) : (s.setBar2 q off w).tw = s.tw :=
  (fun x => (rfl : ({ s with bar2 := x } : State).tw = s.tw)) _
@[simp] theorem setBar2_ring (q off : Nat) (w : Word) : (s.setBar2 q off w).ring = s.ring :=
  (fun x => (rfl : ({ s with bar2 := x } : State).ring = s.ring)) _
@[simp] theorem setBar2_mp (q off : Nat) (w : Word) : (s.setBar2 q off w).mp = s.mp :=
  (fun x => (rfl : ({ s with bar2 := x } : State).mp = s.mp)) _
@[simp] theorem setBar2_ld (q off : Nat) (w : Word) : (s.setBar2 q off w).ld = s.ld :=
  (fun x => (rfl : ({ s with bar2 := x } : State).ld = s.ld)) _
@[simp] theorem setBar2_map (q off : Nat) (w : Word) : (s.setBar2 q off w).map = s.map :=
  (fun x => (rfl : ({ s with bar2 := x } : State).map = s.map)) _
@[simp] theorem setBar2_pm (q off : Nat) (w : Word) : (s.setBar2 q off w).pm = s.pm :=
  (fun x => (rfl : ({ s with bar2 := x } : State).pm = s.pm)) _
@[simp] theorem setBar2_lc (q off : Nat) (w : Word) : (s.setBar2 q off w).lc = s.lc :=
  (fun x => (rfl : ({ s with bar2 := x } : State).lc = s.lc)) _
@[simp] theorem setBar2_qtr (q off : Nat) (w : Word) : (s.setBar2 q off w).qtr = s.qtr :=
  (fun x => (rfl : ({ s with bar2 := x } : State).qtr = s.qtr)) _
@[simp] theorem setBar2_out (q off : Nat) (w : Word) : (s.setBar2 q off w).out = s.out :=
  (fun x => (rfl : ({ s with bar2 := x } : State).out = s.out)) _

/-! ### Readers of other tables -/

@[simp] theorem setReg_stg (r : Reg) (i : Nat) (w : Word) (r₁ : Reg) (i₁ : Nat) :
    (s.setReg r i w).stg r₁ i₁ = s.stg r₁ i₁ :=
  congrArg (fun t => Tab.get _ t _) (setReg_staged s r i w)
@[simp] theorem setReg_actw (r : Reg) (i : Nat) (w : Word) (r₁ : Reg) (i₁ : Nat) :
    (s.setReg r i w).actw r₁ i₁ = s.actw r₁ i₁ :=
  congrArg (fun t => Tab.get _ t _) (setReg_active s r i w)
@[simp] theorem setReg_capw (r : Reg) (i : Nat) (w : Word) (r₁ : Reg) (i₁ : Nat) :
    (s.setReg r i w).capw r₁ i₁ = s.capw r₁ i₁ :=
  congrArg (fun t => Tab.get _ t _) (setReg_captured s r i w)
@[simp] theorem setReg_blkOf (r : Reg) (i : Nat) (w : Word) (k : Nat) :
    (s.setReg r i w).blkOf k = s.blkOf k :=
  congrArg (fun t => Tab.get _ t _) (setReg_blk s r i w)
@[simp] theorem setReg_thrOf (r : Reg) (i : Nat) (w : Word) (k : Nat) :
    (s.setReg r i w).thrOf k = s.thrOf k :=
  congrArg (fun t => Tab.get _ t _) (setReg_thr s r i w)
@[simp] theorem setReg_fpOf (r : Reg) (i : Nat) (w : Word) (k : Nat) :
    (s.setReg r i w).fpOf k = s.fpOf k :=
  congrArg (fun t => Tab.get _ t _) (setReg_fp s r i w)
@[simp] theorem setReg_arcOf (r : Reg) (i : Nat) (w : Word) (k : Nat) :
    (s.setReg r i w).arcOf k = s.arcOf k :=
  congrArg (fun t => Tab.get _ t _) (setReg_arc s r i w)
@[simp] theorem setReg_llOf (r : Reg) (i : Nat) (w : Word) (k : Nat) :
    (s.setReg r i w).llOf k = s.llOf k :=
  congrArg (fun t => Tab.get _ t _) (setReg_ll s r i w)
@[simp] theorem setReg_pinOf (r : Reg) (i : Nat) (w : Word) (k : Nat) :
    (s.setReg r i w).pinOf k = s.pinOf k :=
  congrArg (fun t => Tab.get _ t _) (setReg_pin s r i w)
@[simp] theorem setReg_cellOf (r : Reg) (i : Nat) (w : Word) (k : Nat) :
    (s.setReg r i w).cellOf k = s.cellOf k :=
  congrArg (fun t => Tab.get _ t _) (setReg_xc s r i w)
@[simp] theorem setReg_qOf (r : Reg) (i : Nat) (w : Word) (k : Nat) :
    (s.setReg r i w).qOf k = s.qOf k :=
  congrArg (fun t => Tab.get _ t _) (setReg_qtr s r i w)
@[simp] theorem setReg_hlOf (r : Reg) (i : Nat) (w : Word) (k : Nat) :
    (s.setReg r i w).hlOf k = s.hlOf k :=
  congrArg (fun t => Tab.get _ t _) (setReg_hl s r i w)
@[simp] theorem setReg_twOf (r : Reg) (i : Nat) (w : Word) (k : Nat) :
    (s.setReg r i w).twOf k = s.twOf k :=
  congrArg (fun t => Tab.get _ t _) (setReg_tw s r i w)
@[simp] theorem setReg_eccOf (r : Reg) (i : Nat) (w : Word) (k j : Nat) :
    (s.setReg r i w).eccOf k j = s.eccOf k j :=
  congrArg (fun t => Tab.get _ t _) (setReg_ecc s r i w)
@[simp] theorem setReg_byte (r : Reg) (i : Nat) (w : Word) (k j : Nat) :
    (s.setReg r i w).byte k j = s.byte k j :=
  congrArg (fun t => Tab.get _ t _) (setReg_mem s r i w)
@[simp] theorem setReg_bar2Word (r : Reg) (i : Nat) (w : Word) (k j : Nat) :
    (s.setReg r i w).bar2Word k j = s.bar2Word k j :=
  congrArg (fun t => Tab.get _ t _) (setReg_bar2 s r i w)
@[simp] theorem setFld_stg (f : Field) (i v : Nat) (r₁ : Reg) (i₁ : Nat) :
    (s.setFld f i v).stg r₁ i₁ = s.stg r₁ i₁ :=
  congrArg (fun t => Tab.get _ t _) (setFld_staged s f i v)
@[simp] theorem setFld_actw (f : Field) (i v : Nat) (r₁ : Reg) (i₁ : Nat) :
    (s.setFld f i v).actw r₁ i₁ = s.actw r₁ i₁ :=
  congrArg (fun t => Tab.get _ t _) (setFld_active s f i v)
@[simp] theorem setFld_capw (f : Field) (i v : Nat) (r₁ : Reg) (i₁ : Nat) :
    (s.setFld f i v).capw r₁ i₁ = s.capw r₁ i₁ :=
  congrArg (fun t => Tab.get _ t _) (setFld_captured s f i v)
@[simp] theorem setFld_blkOf (f : Field) (i v : Nat) (k : Nat) :
    (s.setFld f i v).blkOf k = s.blkOf k :=
  congrArg (fun t => Tab.get _ t _) (setFld_blk s f i v)
@[simp] theorem setFld_thrOf (f : Field) (i v : Nat) (k : Nat) :
    (s.setFld f i v).thrOf k = s.thrOf k :=
  congrArg (fun t => Tab.get _ t _) (setFld_thr s f i v)
@[simp] theorem setFld_fpOf (f : Field) (i v : Nat) (k : Nat) :
    (s.setFld f i v).fpOf k = s.fpOf k :=
  congrArg (fun t => Tab.get _ t _) (setFld_fp s f i v)
@[simp] theorem setFld_arcOf (f : Field) (i v : Nat) (k : Nat) :
    (s.setFld f i v).arcOf k = s.arcOf k :=
  congrArg (fun t => Tab.get _ t _) (setFld_arc s f i v)
@[simp] theorem setFld_llOf (f : Field) (i v : Nat) (k : Nat) :
    (s.setFld f i v).llOf k = s.llOf k :=
  congrArg (fun t => Tab.get _ t _) (setFld_ll s f i v)
@[simp] theorem setFld_pinOf (f : Field) (i v : Nat) (k : Nat) :
    (s.setFld f i v).pinOf k = s.pinOf k :=
  congrArg (fun t => Tab.get _ t _) (setFld_pin s f i v)
@[simp] theorem setFld_cellOf (f : Field) (i v : Nat) (k : Nat) :
    (s.setFld f i v).cellOf k = s.cellOf k :=
  congrArg (fun t => Tab.get _ t _) (setFld_xc s f i v)
@[simp] theorem setFld_qOf (f : Field) (i v : Nat) (k : Nat) :
    (s.setFld f i v).qOf k = s.qOf k :=
  congrArg (fun t => Tab.get _ t _) (setFld_qtr s f i v)
@[simp] theorem setFld_hlOf (f : Field) (i v : Nat) (k : Nat) :
    (s.setFld f i v).hlOf k = s.hlOf k :=
  congrArg (fun t => Tab.get _ t _) (setFld_hl s f i v)
@[simp] theorem setFld_twOf (f : Field) (i v : Nat) (k : Nat) :
    (s.setFld f i v).twOf k = s.twOf k :=
  congrArg (fun t => Tab.get _ t _) (setFld_tw s f i v)
@[simp] theorem setFld_eccOf (f : Field) (i v : Nat) (k j : Nat) :
    (s.setFld f i v).eccOf k j = s.eccOf k j :=
  congrArg (fun t => Tab.get _ t _) (setFld_ecc s f i v)
@[simp] theorem setFld_byte (f : Field) (i v : Nat) (k j : Nat) :
    (s.setFld f i v).byte k j = s.byte k j :=
  congrArg (fun t => Tab.get _ t _) (setFld_mem s f i v)
@[simp] theorem setFld_bar2Word (f : Field) (i v : Nat) (k j : Nat) :
    (s.setFld f i v).bar2Word k j = s.bar2Word k j :=
  congrArg (fun t => Tab.get _ t _) (setFld_bar2 s f i v)
@[simp] theorem raise_stg (f : Field) (i : Nat) (r₁ : Reg) (i₁ : Nat) :
    (s.raise f i).stg r₁ i₁ = s.stg r₁ i₁ :=
  congrArg (fun t => Tab.get _ t _) (raise_staged s f i)
@[simp] theorem raise_actw (f : Field) (i : Nat) (r₁ : Reg) (i₁ : Nat) :
    (s.raise f i).actw r₁ i₁ = s.actw r₁ i₁ :=
  congrArg (fun t => Tab.get _ t _) (raise_active s f i)
@[simp] theorem raise_capw (f : Field) (i : Nat) (r₁ : Reg) (i₁ : Nat) :
    (s.raise f i).capw r₁ i₁ = s.capw r₁ i₁ :=
  congrArg (fun t => Tab.get _ t _) (raise_captured s f i)
@[simp] theorem raise_blkOf (f : Field) (i : Nat) (k : Nat) :
    (s.raise f i).blkOf k = s.blkOf k :=
  congrArg (fun t => Tab.get _ t _) (raise_blk s f i)
@[simp] theorem raise_thrOf (f : Field) (i : Nat) (k : Nat) :
    (s.raise f i).thrOf k = s.thrOf k :=
  congrArg (fun t => Tab.get _ t _) (raise_thr s f i)
@[simp] theorem raise_fpOf (f : Field) (i : Nat) (k : Nat) :
    (s.raise f i).fpOf k = s.fpOf k :=
  congrArg (fun t => Tab.get _ t _) (raise_fp s f i)
@[simp] theorem raise_arcOf (f : Field) (i : Nat) (k : Nat) :
    (s.raise f i).arcOf k = s.arcOf k :=
  congrArg (fun t => Tab.get _ t _) (raise_arc s f i)
@[simp] theorem raise_llOf (f : Field) (i : Nat) (k : Nat) :
    (s.raise f i).llOf k = s.llOf k :=
  congrArg (fun t => Tab.get _ t _) (raise_ll s f i)
@[simp] theorem raise_pinOf (f : Field) (i : Nat) (k : Nat) :
    (s.raise f i).pinOf k = s.pinOf k :=
  congrArg (fun t => Tab.get _ t _) (raise_pin s f i)
@[simp] theorem raise_cellOf (f : Field) (i : Nat) (k : Nat) :
    (s.raise f i).cellOf k = s.cellOf k :=
  congrArg (fun t => Tab.get _ t _) (raise_xc s f i)
@[simp] theorem raise_qOf (f : Field) (i : Nat) (k : Nat) :
    (s.raise f i).qOf k = s.qOf k :=
  congrArg (fun t => Tab.get _ t _) (raise_qtr s f i)
@[simp] theorem raise_hlOf (f : Field) (i : Nat) (k : Nat) :
    (s.raise f i).hlOf k = s.hlOf k :=
  congrArg (fun t => Tab.get _ t _) (raise_hl s f i)
@[simp] theorem raise_twOf (f : Field) (i : Nat) (k : Nat) :
    (s.raise f i).twOf k = s.twOf k :=
  congrArg (fun t => Tab.get _ t _) (raise_tw s f i)
@[simp] theorem raise_eccOf (f : Field) (i : Nat) (k j : Nat) :
    (s.raise f i).eccOf k j = s.eccOf k j :=
  congrArg (fun t => Tab.get _ t _) (raise_ecc s f i)
@[simp] theorem raise_byte (f : Field) (i : Nat) (k j : Nat) :
    (s.raise f i).byte k j = s.byte k j :=
  congrArg (fun t => Tab.get _ t _) (raise_mem s f i)
@[simp] theorem raise_bar2Word (f : Field) (i : Nat) (k j : Nat) :
    (s.raise f i).bar2Word k j = s.bar2Word k j :=
  congrArg (fun t => Tab.get _ t _) (raise_bar2 s f i)
@[simp] theorem bump_stg (f : Field) (i n : Nat) (r₁ : Reg) (i₁ : Nat) :
    (s.bump f i n).stg r₁ i₁ = s.stg r₁ i₁ :=
  congrArg (fun t => Tab.get _ t _) (bump_staged s f i n)
@[simp] theorem bump_actw (f : Field) (i n : Nat) (r₁ : Reg) (i₁ : Nat) :
    (s.bump f i n).actw r₁ i₁ = s.actw r₁ i₁ :=
  congrArg (fun t => Tab.get _ t _) (bump_active s f i n)
@[simp] theorem bump_capw (f : Field) (i n : Nat) (r₁ : Reg) (i₁ : Nat) :
    (s.bump f i n).capw r₁ i₁ = s.capw r₁ i₁ :=
  congrArg (fun t => Tab.get _ t _) (bump_captured s f i n)
@[simp] theorem bump_blkOf (f : Field) (i n : Nat) (k : Nat) :
    (s.bump f i n).blkOf k = s.blkOf k :=
  congrArg (fun t => Tab.get _ t _) (bump_blk s f i n)
@[simp] theorem bump_thrOf (f : Field) (i n : Nat) (k : Nat) :
    (s.bump f i n).thrOf k = s.thrOf k :=
  congrArg (fun t => Tab.get _ t _) (bump_thr s f i n)
@[simp] theorem bump_fpOf (f : Field) (i n : Nat) (k : Nat) :
    (s.bump f i n).fpOf k = s.fpOf k :=
  congrArg (fun t => Tab.get _ t _) (bump_fp s f i n)
@[simp] theorem bump_arcOf (f : Field) (i n : Nat) (k : Nat) :
    (s.bump f i n).arcOf k = s.arcOf k :=
  congrArg (fun t => Tab.get _ t _) (bump_arc s f i n)
@[simp] theorem bump_llOf (f : Field) (i n : Nat) (k : Nat) :
    (s.bump f i n).llOf k = s.llOf k :=
  congrArg (fun t => Tab.get _ t _) (bump_ll s f i n)
@[simp] theorem bump_pinOf (f : Field) (i n : Nat) (k : Nat) :
    (s.bump f i n).pinOf k = s.pinOf k :=
  congrArg (fun t => Tab.get _ t _) (bump_pin s f i n)
@[simp] theorem bump_cellOf (f : Field) (i n : Nat) (k : Nat) :
    (s.bump f i n).cellOf k = s.cellOf k :=
  congrArg (fun t => Tab.get _ t _) (bump_xc s f i n)
@[simp] theorem bump_qOf (f : Field) (i n : Nat) (k : Nat) :
    (s.bump f i n).qOf k = s.qOf k :=
  congrArg (fun t => Tab.get _ t _) (bump_qtr s f i n)
@[simp] theorem bump_hlOf (f : Field) (i n : Nat) (k : Nat) :
    (s.bump f i n).hlOf k = s.hlOf k :=
  congrArg (fun t => Tab.get _ t _) (bump_hl s f i n)
@[simp] theorem bump_twOf (f : Field) (i n : Nat) (k : Nat) :
    (s.bump f i n).twOf k = s.twOf k :=
  congrArg (fun t => Tab.get _ t _) (bump_tw s f i n)
@[simp] theorem bump_eccOf (f : Field) (i n : Nat) (k j : Nat) :
    (s.bump f i n).eccOf k j = s.eccOf k j :=
  congrArg (fun t => Tab.get _ t _) (bump_ecc s f i n)
@[simp] theorem bump_byte (f : Field) (i n : Nat) (k j : Nat) :
    (s.bump f i n).byte k j = s.byte k j :=
  congrArg (fun t => Tab.get _ t _) (bump_mem s f i n)
@[simp] theorem bump_bar2Word (f : Field) (i n : Nat) (k j : Nat) :
    (s.bump f i n).bar2Word k j = s.bar2Word k j :=
  congrArg (fun t => Tab.get _ t _) (bump_bar2 s f i n)
@[simp] theorem setStg_reg (r : Reg) (i : Nat) (w : Word) (r₁ : Reg) (i₁ : Nat) :
    (s.setStg r i w).reg r₁ i₁ = s.reg r₁ i₁ :=
  congrArg (fun t => Tab.get _ t _) (setStg_live s r i w)
@[simp] theorem setStg_actw (r : Reg) (i : Nat) (w : Word) (r₁ : Reg) (i₁ : Nat) :
    (s.setStg r i w).actw r₁ i₁ = s.actw r₁ i₁ :=
  congrArg (fun t => Tab.get _ t _) (setStg_active s r i w)
@[simp] theorem setStg_capw (r : Reg) (i : Nat) (w : Word) (r₁ : Reg) (i₁ : Nat) :
    (s.setStg r i w).capw r₁ i₁ = s.capw r₁ i₁ :=
  congrArg (fun t => Tab.get _ t _) (setStg_captured s r i w)
@[simp] theorem setStg_blkOf (r : Reg) (i : Nat) (w : Word) (k : Nat) :
    (s.setStg r i w).blkOf k = s.blkOf k :=
  congrArg (fun t => Tab.get _ t _) (setStg_blk s r i w)
@[simp] theorem setStg_thrOf (r : Reg) (i : Nat) (w : Word) (k : Nat) :
    (s.setStg r i w).thrOf k = s.thrOf k :=
  congrArg (fun t => Tab.get _ t _) (setStg_thr s r i w)
@[simp] theorem setStg_fpOf (r : Reg) (i : Nat) (w : Word) (k : Nat) :
    (s.setStg r i w).fpOf k = s.fpOf k :=
  congrArg (fun t => Tab.get _ t _) (setStg_fp s r i w)
@[simp] theorem setStg_arcOf (r : Reg) (i : Nat) (w : Word) (k : Nat) :
    (s.setStg r i w).arcOf k = s.arcOf k :=
  congrArg (fun t => Tab.get _ t _) (setStg_arc s r i w)
@[simp] theorem setStg_llOf (r : Reg) (i : Nat) (w : Word) (k : Nat) :
    (s.setStg r i w).llOf k = s.llOf k :=
  congrArg (fun t => Tab.get _ t _) (setStg_ll s r i w)
@[simp] theorem setStg_pinOf (r : Reg) (i : Nat) (w : Word) (k : Nat) :
    (s.setStg r i w).pinOf k = s.pinOf k :=
  congrArg (fun t => Tab.get _ t _) (setStg_pin s r i w)
@[simp] theorem setStg_cellOf (r : Reg) (i : Nat) (w : Word) (k : Nat) :
    (s.setStg r i w).cellOf k = s.cellOf k :=
  congrArg (fun t => Tab.get _ t _) (setStg_xc s r i w)
@[simp] theorem setStg_qOf (r : Reg) (i : Nat) (w : Word) (k : Nat) :
    (s.setStg r i w).qOf k = s.qOf k :=
  congrArg (fun t => Tab.get _ t _) (setStg_qtr s r i w)
@[simp] theorem setStg_hlOf (r : Reg) (i : Nat) (w : Word) (k : Nat) :
    (s.setStg r i w).hlOf k = s.hlOf k :=
  congrArg (fun t => Tab.get _ t _) (setStg_hl s r i w)
@[simp] theorem setStg_twOf (r : Reg) (i : Nat) (w : Word) (k : Nat) :
    (s.setStg r i w).twOf k = s.twOf k :=
  congrArg (fun t => Tab.get _ t _) (setStg_tw s r i w)
@[simp] theorem setStg_eccOf (r : Reg) (i : Nat) (w : Word) (k j : Nat) :
    (s.setStg r i w).eccOf k j = s.eccOf k j :=
  congrArg (fun t => Tab.get _ t _) (setStg_ecc s r i w)
@[simp] theorem setStg_byte (r : Reg) (i : Nat) (w : Word) (k j : Nat) :
    (s.setStg r i w).byte k j = s.byte k j :=
  congrArg (fun t => Tab.get _ t _) (setStg_mem s r i w)
@[simp] theorem setStg_bar2Word (r : Reg) (i : Nat) (w : Word) (k j : Nat) :
    (s.setStg r i w).bar2Word k j = s.bar2Word k j :=
  congrArg (fun t => Tab.get _ t _) (setStg_bar2 s r i w)
@[simp] theorem setActw_reg (r : Reg) (i : Nat) (w : Word) (r₁ : Reg) (i₁ : Nat) :
    (s.setActw r i w).reg r₁ i₁ = s.reg r₁ i₁ :=
  congrArg (fun t => Tab.get _ t _) (setActw_live s r i w)
@[simp] theorem setActw_stg (r : Reg) (i : Nat) (w : Word) (r₁ : Reg) (i₁ : Nat) :
    (s.setActw r i w).stg r₁ i₁ = s.stg r₁ i₁ :=
  congrArg (fun t => Tab.get _ t _) (setActw_staged s r i w)
@[simp] theorem setActw_capw (r : Reg) (i : Nat) (w : Word) (r₁ : Reg) (i₁ : Nat) :
    (s.setActw r i w).capw r₁ i₁ = s.capw r₁ i₁ :=
  congrArg (fun t => Tab.get _ t _) (setActw_captured s r i w)
@[simp] theorem setActw_blkOf (r : Reg) (i : Nat) (w : Word) (k : Nat) :
    (s.setActw r i w).blkOf k = s.blkOf k :=
  congrArg (fun t => Tab.get _ t _) (setActw_blk s r i w)
@[simp] theorem setActw_thrOf (r : Reg) (i : Nat) (w : Word) (k : Nat) :
    (s.setActw r i w).thrOf k = s.thrOf k :=
  congrArg (fun t => Tab.get _ t _) (setActw_thr s r i w)
@[simp] theorem setActw_fpOf (r : Reg) (i : Nat) (w : Word) (k : Nat) :
    (s.setActw r i w).fpOf k = s.fpOf k :=
  congrArg (fun t => Tab.get _ t _) (setActw_fp s r i w)
@[simp] theorem setActw_arcOf (r : Reg) (i : Nat) (w : Word) (k : Nat) :
    (s.setActw r i w).arcOf k = s.arcOf k :=
  congrArg (fun t => Tab.get _ t _) (setActw_arc s r i w)
@[simp] theorem setActw_llOf (r : Reg) (i : Nat) (w : Word) (k : Nat) :
    (s.setActw r i w).llOf k = s.llOf k :=
  congrArg (fun t => Tab.get _ t _) (setActw_ll s r i w)
@[simp] theorem setActw_pinOf (r : Reg) (i : Nat) (w : Word) (k : Nat) :
    (s.setActw r i w).pinOf k = s.pinOf k :=
  congrArg (fun t => Tab.get _ t _) (setActw_pin s r i w)
@[simp] theorem setActw_cellOf (r : Reg) (i : Nat) (w : Word) (k : Nat) :
    (s.setActw r i w).cellOf k = s.cellOf k :=
  congrArg (fun t => Tab.get _ t _) (setActw_xc s r i w)
@[simp] theorem setActw_qOf (r : Reg) (i : Nat) (w : Word) (k : Nat) :
    (s.setActw r i w).qOf k = s.qOf k :=
  congrArg (fun t => Tab.get _ t _) (setActw_qtr s r i w)
@[simp] theorem setActw_hlOf (r : Reg) (i : Nat) (w : Word) (k : Nat) :
    (s.setActw r i w).hlOf k = s.hlOf k :=
  congrArg (fun t => Tab.get _ t _) (setActw_hl s r i w)
@[simp] theorem setActw_twOf (r : Reg) (i : Nat) (w : Word) (k : Nat) :
    (s.setActw r i w).twOf k = s.twOf k :=
  congrArg (fun t => Tab.get _ t _) (setActw_tw s r i w)
@[simp] theorem setActw_eccOf (r : Reg) (i : Nat) (w : Word) (k j : Nat) :
    (s.setActw r i w).eccOf k j = s.eccOf k j :=
  congrArg (fun t => Tab.get _ t _) (setActw_ecc s r i w)
@[simp] theorem setActw_byte (r : Reg) (i : Nat) (w : Word) (k j : Nat) :
    (s.setActw r i w).byte k j = s.byte k j :=
  congrArg (fun t => Tab.get _ t _) (setActw_mem s r i w)
@[simp] theorem setActw_bar2Word (r : Reg) (i : Nat) (w : Word) (k j : Nat) :
    (s.setActw r i w).bar2Word k j = s.bar2Word k j :=
  congrArg (fun t => Tab.get _ t _) (setActw_bar2 s r i w)
@[simp] theorem setCapw_reg (r : Reg) (i : Nat) (w : Word) (r₁ : Reg) (i₁ : Nat) :
    (s.setCapw r i w).reg r₁ i₁ = s.reg r₁ i₁ :=
  congrArg (fun t => Tab.get _ t _) (setCapw_live s r i w)
@[simp] theorem setCapw_stg (r : Reg) (i : Nat) (w : Word) (r₁ : Reg) (i₁ : Nat) :
    (s.setCapw r i w).stg r₁ i₁ = s.stg r₁ i₁ :=
  congrArg (fun t => Tab.get _ t _) (setCapw_staged s r i w)
@[simp] theorem setCapw_actw (r : Reg) (i : Nat) (w : Word) (r₁ : Reg) (i₁ : Nat) :
    (s.setCapw r i w).actw r₁ i₁ = s.actw r₁ i₁ :=
  congrArg (fun t => Tab.get _ t _) (setCapw_active s r i w)
@[simp] theorem setCapw_blkOf (r : Reg) (i : Nat) (w : Word) (k : Nat) :
    (s.setCapw r i w).blkOf k = s.blkOf k :=
  congrArg (fun t => Tab.get _ t _) (setCapw_blk s r i w)
@[simp] theorem setCapw_thrOf (r : Reg) (i : Nat) (w : Word) (k : Nat) :
    (s.setCapw r i w).thrOf k = s.thrOf k :=
  congrArg (fun t => Tab.get _ t _) (setCapw_thr s r i w)
@[simp] theorem setCapw_fpOf (r : Reg) (i : Nat) (w : Word) (k : Nat) :
    (s.setCapw r i w).fpOf k = s.fpOf k :=
  congrArg (fun t => Tab.get _ t _) (setCapw_fp s r i w)
@[simp] theorem setCapw_arcOf (r : Reg) (i : Nat) (w : Word) (k : Nat) :
    (s.setCapw r i w).arcOf k = s.arcOf k :=
  congrArg (fun t => Tab.get _ t _) (setCapw_arc s r i w)
@[simp] theorem setCapw_llOf (r : Reg) (i : Nat) (w : Word) (k : Nat) :
    (s.setCapw r i w).llOf k = s.llOf k :=
  congrArg (fun t => Tab.get _ t _) (setCapw_ll s r i w)
@[simp] theorem setCapw_pinOf (r : Reg) (i : Nat) (w : Word) (k : Nat) :
    (s.setCapw r i w).pinOf k = s.pinOf k :=
  congrArg (fun t => Tab.get _ t _) (setCapw_pin s r i w)
@[simp] theorem setCapw_cellOf (r : Reg) (i : Nat) (w : Word) (k : Nat) :
    (s.setCapw r i w).cellOf k = s.cellOf k :=
  congrArg (fun t => Tab.get _ t _) (setCapw_xc s r i w)
@[simp] theorem setCapw_qOf (r : Reg) (i : Nat) (w : Word) (k : Nat) :
    (s.setCapw r i w).qOf k = s.qOf k :=
  congrArg (fun t => Tab.get _ t _) (setCapw_qtr s r i w)
@[simp] theorem setCapw_hlOf (r : Reg) (i : Nat) (w : Word) (k : Nat) :
    (s.setCapw r i w).hlOf k = s.hlOf k :=
  congrArg (fun t => Tab.get _ t _) (setCapw_hl s r i w)
@[simp] theorem setCapw_twOf (r : Reg) (i : Nat) (w : Word) (k : Nat) :
    (s.setCapw r i w).twOf k = s.twOf k :=
  congrArg (fun t => Tab.get _ t _) (setCapw_tw s r i w)
@[simp] theorem setCapw_eccOf (r : Reg) (i : Nat) (w : Word) (k j : Nat) :
    (s.setCapw r i w).eccOf k j = s.eccOf k j :=
  congrArg (fun t => Tab.get _ t _) (setCapw_ecc s r i w)
@[simp] theorem setCapw_byte (r : Reg) (i : Nat) (w : Word) (k j : Nat) :
    (s.setCapw r i w).byte k j = s.byte k j :=
  congrArg (fun t => Tab.get _ t _) (setCapw_mem s r i w)
@[simp] theorem setCapw_bar2Word (r : Reg) (i : Nat) (w : Word) (k j : Nat) :
    (s.setCapw r i w).bar2Word k j = s.bar2Word k j :=
  congrArg (fun t => Tab.get _ t _) (setCapw_bar2 s r i w)
@[simp] theorem setBlk_reg (b : Nat) (x : Blk4) (r₁ : Reg) (i₁ : Nat) :
    (s.setBlk b x).reg r₁ i₁ = s.reg r₁ i₁ :=
  congrArg (fun t => Tab.get _ t _) (setBlk_live s b x)
@[simp] theorem setBlk_stg (b : Nat) (x : Blk4) (r₁ : Reg) (i₁ : Nat) :
    (s.setBlk b x).stg r₁ i₁ = s.stg r₁ i₁ :=
  congrArg (fun t => Tab.get _ t _) (setBlk_staged s b x)
@[simp] theorem setBlk_actw (b : Nat) (x : Blk4) (r₁ : Reg) (i₁ : Nat) :
    (s.setBlk b x).actw r₁ i₁ = s.actw r₁ i₁ :=
  congrArg (fun t => Tab.get _ t _) (setBlk_active s b x)
@[simp] theorem setBlk_capw (b : Nat) (x : Blk4) (r₁ : Reg) (i₁ : Nat) :
    (s.setBlk b x).capw r₁ i₁ = s.capw r₁ i₁ :=
  congrArg (fun t => Tab.get _ t _) (setBlk_captured s b x)
@[simp] theorem setBlk_thrOf (b : Nat) (x : Blk4) (k : Nat) :
    (s.setBlk b x).thrOf k = s.thrOf k :=
  congrArg (fun t => Tab.get _ t _) (setBlk_thr s b x)
@[simp] theorem setBlk_fpOf (b : Nat) (x : Blk4) (k : Nat) :
    (s.setBlk b x).fpOf k = s.fpOf k :=
  congrArg (fun t => Tab.get _ t _) (setBlk_fp s b x)
@[simp] theorem setBlk_arcOf (b : Nat) (x : Blk4) (k : Nat) :
    (s.setBlk b x).arcOf k = s.arcOf k :=
  congrArg (fun t => Tab.get _ t _) (setBlk_arc s b x)
@[simp] theorem setBlk_llOf (b : Nat) (x : Blk4) (k : Nat) :
    (s.setBlk b x).llOf k = s.llOf k :=
  congrArg (fun t => Tab.get _ t _) (setBlk_ll s b x)
@[simp] theorem setBlk_pinOf (b : Nat) (x : Blk4) (k : Nat) :
    (s.setBlk b x).pinOf k = s.pinOf k :=
  congrArg (fun t => Tab.get _ t _) (setBlk_pin s b x)
@[simp] theorem setBlk_cellOf (b : Nat) (x : Blk4) (k : Nat) :
    (s.setBlk b x).cellOf k = s.cellOf k :=
  congrArg (fun t => Tab.get _ t _) (setBlk_xc s b x)
@[simp] theorem setBlk_qOf (b : Nat) (x : Blk4) (k : Nat) :
    (s.setBlk b x).qOf k = s.qOf k :=
  congrArg (fun t => Tab.get _ t _) (setBlk_qtr s b x)
@[simp] theorem setBlk_hlOf (b : Nat) (x : Blk4) (k : Nat) :
    (s.setBlk b x).hlOf k = s.hlOf k :=
  congrArg (fun t => Tab.get _ t _) (setBlk_hl s b x)
@[simp] theorem setBlk_twOf (b : Nat) (x : Blk4) (k : Nat) :
    (s.setBlk b x).twOf k = s.twOf k :=
  congrArg (fun t => Tab.get _ t _) (setBlk_tw s b x)
@[simp] theorem setBlk_eccOf (b : Nat) (x : Blk4) (k j : Nat) :
    (s.setBlk b x).eccOf k j = s.eccOf k j :=
  congrArg (fun t => Tab.get _ t _) (setBlk_ecc s b x)
@[simp] theorem setBlk_byte (b : Nat) (x : Blk4) (k j : Nat) :
    (s.setBlk b x).byte k j = s.byte k j :=
  congrArg (fun t => Tab.get _ t _) (setBlk_mem s b x)
@[simp] theorem setBlk_bar2Word (b : Nat) (x : Blk4) (k j : Nat) :
    (s.setBlk b x).bar2Word k j = s.bar2Word k j :=
  congrArg (fun t => Tab.get _ t _) (setBlk_bar2 s b x)
@[simp] theorem setThr_reg (t : Nat) (x : Thr) (r₁ : Reg) (i₁ : Nat) :
    (s.setThr t x).reg r₁ i₁ = s.reg r₁ i₁ :=
  congrArg (fun t => Tab.get _ t _) (setThr_live s t x)
@[simp] theorem setThr_stg (t : Nat) (x : Thr) (r₁ : Reg) (i₁ : Nat) :
    (s.setThr t x).stg r₁ i₁ = s.stg r₁ i₁ :=
  congrArg (fun t => Tab.get _ t _) (setThr_staged s t x)
@[simp] theorem setThr_actw (t : Nat) (x : Thr) (r₁ : Reg) (i₁ : Nat) :
    (s.setThr t x).actw r₁ i₁ = s.actw r₁ i₁ :=
  congrArg (fun t => Tab.get _ t _) (setThr_active s t x)
@[simp] theorem setThr_capw (t : Nat) (x : Thr) (r₁ : Reg) (i₁ : Nat) :
    (s.setThr t x).capw r₁ i₁ = s.capw r₁ i₁ :=
  congrArg (fun t => Tab.get _ t _) (setThr_captured s t x)
@[simp] theorem setThr_blkOf (t : Nat) (x : Thr) (k : Nat) :
    (s.setThr t x).blkOf k = s.blkOf k :=
  congrArg (fun t => Tab.get _ t _) (setThr_blk s t x)
@[simp] theorem setThr_fpOf (t : Nat) (x : Thr) (k : Nat) :
    (s.setThr t x).fpOf k = s.fpOf k :=
  congrArg (fun t => Tab.get _ t _) (setThr_fp s t x)
@[simp] theorem setThr_arcOf (t : Nat) (x : Thr) (k : Nat) :
    (s.setThr t x).arcOf k = s.arcOf k :=
  congrArg (fun t => Tab.get _ t _) (setThr_arc s t x)
@[simp] theorem setThr_llOf (t : Nat) (x : Thr) (k : Nat) :
    (s.setThr t x).llOf k = s.llOf k :=
  congrArg (fun t => Tab.get _ t _) (setThr_ll s t x)
@[simp] theorem setThr_pinOf (t : Nat) (x : Thr) (k : Nat) :
    (s.setThr t x).pinOf k = s.pinOf k :=
  congrArg (fun t => Tab.get _ t _) (setThr_pin s t x)
@[simp] theorem setThr_cellOf (t : Nat) (x : Thr) (k : Nat) :
    (s.setThr t x).cellOf k = s.cellOf k :=
  congrArg (fun t => Tab.get _ t _) (setThr_xc s t x)
@[simp] theorem setThr_qOf (t : Nat) (x : Thr) (k : Nat) :
    (s.setThr t x).qOf k = s.qOf k :=
  congrArg (fun t => Tab.get _ t _) (setThr_qtr s t x)
@[simp] theorem setThr_hlOf (t : Nat) (x : Thr) (k : Nat) :
    (s.setThr t x).hlOf k = s.hlOf k :=
  congrArg (fun t => Tab.get _ t _) (setThr_hl s t x)
@[simp] theorem setThr_twOf (t : Nat) (x : Thr) (k : Nat) :
    (s.setThr t x).twOf k = s.twOf k :=
  congrArg (fun t => Tab.get _ t _) (setThr_tw s t x)
@[simp] theorem setThr_eccOf (t : Nat) (x : Thr) (k j : Nat) :
    (s.setThr t x).eccOf k j = s.eccOf k j :=
  congrArg (fun t => Tab.get _ t _) (setThr_ecc s t x)
@[simp] theorem setThr_byte (t : Nat) (x : Thr) (k j : Nat) :
    (s.setThr t x).byte k j = s.byte k j :=
  congrArg (fun t => Tab.get _ t _) (setThr_mem s t x)
@[simp] theorem setThr_bar2Word (t : Nat) (x : Thr) (k j : Nat) :
    (s.setThr t x).bar2Word k j = s.bar2Word k j :=
  congrArg (fun t => Tab.get _ t _) (setThr_bar2 s t x)
@[simp] theorem setFp_reg (n : Nat) (x : FpUnit) (r₁ : Reg) (i₁ : Nat) :
    (s.setFp n x).reg r₁ i₁ = s.reg r₁ i₁ :=
  congrArg (fun t => Tab.get _ t _) (setFp_live s n x)
@[simp] theorem setFp_stg (n : Nat) (x : FpUnit) (r₁ : Reg) (i₁ : Nat) :
    (s.setFp n x).stg r₁ i₁ = s.stg r₁ i₁ :=
  congrArg (fun t => Tab.get _ t _) (setFp_staged s n x)
@[simp] theorem setFp_actw (n : Nat) (x : FpUnit) (r₁ : Reg) (i₁ : Nat) :
    (s.setFp n x).actw r₁ i₁ = s.actw r₁ i₁ :=
  congrArg (fun t => Tab.get _ t _) (setFp_active s n x)
@[simp] theorem setFp_capw (n : Nat) (x : FpUnit) (r₁ : Reg) (i₁ : Nat) :
    (s.setFp n x).capw r₁ i₁ = s.capw r₁ i₁ :=
  congrArg (fun t => Tab.get _ t _) (setFp_captured s n x)
@[simp] theorem setFp_blkOf (n : Nat) (x : FpUnit) (k : Nat) :
    (s.setFp n x).blkOf k = s.blkOf k :=
  congrArg (fun t => Tab.get _ t _) (setFp_blk s n x)
@[simp] theorem setFp_thrOf (n : Nat) (x : FpUnit) (k : Nat) :
    (s.setFp n x).thrOf k = s.thrOf k :=
  congrArg (fun t => Tab.get _ t _) (setFp_thr s n x)
@[simp] theorem setFp_arcOf (n : Nat) (x : FpUnit) (k : Nat) :
    (s.setFp n x).arcOf k = s.arcOf k :=
  congrArg (fun t => Tab.get _ t _) (setFp_arc s n x)
@[simp] theorem setFp_llOf (n : Nat) (x : FpUnit) (k : Nat) :
    (s.setFp n x).llOf k = s.llOf k :=
  congrArg (fun t => Tab.get _ t _) (setFp_ll s n x)
@[simp] theorem setFp_pinOf (n : Nat) (x : FpUnit) (k : Nat) :
    (s.setFp n x).pinOf k = s.pinOf k :=
  congrArg (fun t => Tab.get _ t _) (setFp_pin s n x)
@[simp] theorem setFp_cellOf (n : Nat) (x : FpUnit) (k : Nat) :
    (s.setFp n x).cellOf k = s.cellOf k :=
  congrArg (fun t => Tab.get _ t _) (setFp_xc s n x)
@[simp] theorem setFp_qOf (n : Nat) (x : FpUnit) (k : Nat) :
    (s.setFp n x).qOf k = s.qOf k :=
  congrArg (fun t => Tab.get _ t _) (setFp_qtr s n x)
@[simp] theorem setFp_hlOf (n : Nat) (x : FpUnit) (k : Nat) :
    (s.setFp n x).hlOf k = s.hlOf k :=
  congrArg (fun t => Tab.get _ t _) (setFp_hl s n x)
@[simp] theorem setFp_twOf (n : Nat) (x : FpUnit) (k : Nat) :
    (s.setFp n x).twOf k = s.twOf k :=
  congrArg (fun t => Tab.get _ t _) (setFp_tw s n x)
@[simp] theorem setFp_eccOf (n : Nat) (x : FpUnit) (k j : Nat) :
    (s.setFp n x).eccOf k j = s.eccOf k j :=
  congrArg (fun t => Tab.get _ t _) (setFp_ecc s n x)
@[simp] theorem setFp_byte (n : Nat) (x : FpUnit) (k j : Nat) :
    (s.setFp n x).byte k j = s.byte k j :=
  congrArg (fun t => Tab.get _ t _) (setFp_mem s n x)
@[simp] theorem setFp_bar2Word (n : Nat) (x : FpUnit) (k j : Nat) :
    (s.setFp n x).bar2Word k j = s.bar2Word k j :=
  congrArg (fun t => Tab.get _ t _) (setFp_bar2 s n x)
@[simp] theorem setArc_reg (a : Nat) (x : Arc) (r₁ : Reg) (i₁ : Nat) :
    (s.setArc a x).reg r₁ i₁ = s.reg r₁ i₁ :=
  congrArg (fun t => Tab.get _ t _) (setArc_live s a x)
@[simp] theorem setArc_stg (a : Nat) (x : Arc) (r₁ : Reg) (i₁ : Nat) :
    (s.setArc a x).stg r₁ i₁ = s.stg r₁ i₁ :=
  congrArg (fun t => Tab.get _ t _) (setArc_staged s a x)
@[simp] theorem setArc_actw (a : Nat) (x : Arc) (r₁ : Reg) (i₁ : Nat) :
    (s.setArc a x).actw r₁ i₁ = s.actw r₁ i₁ :=
  congrArg (fun t => Tab.get _ t _) (setArc_active s a x)
@[simp] theorem setArc_capw (a : Nat) (x : Arc) (r₁ : Reg) (i₁ : Nat) :
    (s.setArc a x).capw r₁ i₁ = s.capw r₁ i₁ :=
  congrArg (fun t => Tab.get _ t _) (setArc_captured s a x)
@[simp] theorem setArc_blkOf (a : Nat) (x : Arc) (k : Nat) :
    (s.setArc a x).blkOf k = s.blkOf k :=
  congrArg (fun t => Tab.get _ t _) (setArc_blk s a x)
@[simp] theorem setArc_thrOf (a : Nat) (x : Arc) (k : Nat) :
    (s.setArc a x).thrOf k = s.thrOf k :=
  congrArg (fun t => Tab.get _ t _) (setArc_thr s a x)
@[simp] theorem setArc_fpOf (a : Nat) (x : Arc) (k : Nat) :
    (s.setArc a x).fpOf k = s.fpOf k :=
  congrArg (fun t => Tab.get _ t _) (setArc_fp s a x)
@[simp] theorem setArc_llOf (a : Nat) (x : Arc) (k : Nat) :
    (s.setArc a x).llOf k = s.llOf k :=
  congrArg (fun t => Tab.get _ t _) (setArc_ll s a x)
@[simp] theorem setArc_pinOf (a : Nat) (x : Arc) (k : Nat) :
    (s.setArc a x).pinOf k = s.pinOf k :=
  congrArg (fun t => Tab.get _ t _) (setArc_pin s a x)
@[simp] theorem setArc_cellOf (a : Nat) (x : Arc) (k : Nat) :
    (s.setArc a x).cellOf k = s.cellOf k :=
  congrArg (fun t => Tab.get _ t _) (setArc_xc s a x)
@[simp] theorem setArc_qOf (a : Nat) (x : Arc) (k : Nat) :
    (s.setArc a x).qOf k = s.qOf k :=
  congrArg (fun t => Tab.get _ t _) (setArc_qtr s a x)
@[simp] theorem setArc_hlOf (a : Nat) (x : Arc) (k : Nat) :
    (s.setArc a x).hlOf k = s.hlOf k :=
  congrArg (fun t => Tab.get _ t _) (setArc_hl s a x)
@[simp] theorem setArc_twOf (a : Nat) (x : Arc) (k : Nat) :
    (s.setArc a x).twOf k = s.twOf k :=
  congrArg (fun t => Tab.get _ t _) (setArc_tw s a x)
@[simp] theorem setArc_eccOf (a : Nat) (x : Arc) (k j : Nat) :
    (s.setArc a x).eccOf k j = s.eccOf k j :=
  congrArg (fun t => Tab.get _ t _) (setArc_ecc s a x)
@[simp] theorem setArc_byte (a : Nat) (x : Arc) (k j : Nat) :
    (s.setArc a x).byte k j = s.byte k j :=
  congrArg (fun t => Tab.get _ t _) (setArc_mem s a x)
@[simp] theorem setArc_bar2Word (a : Nat) (x : Arc) (k j : Nat) :
    (s.setArc a x).bar2Word k j = s.bar2Word k j :=
  congrArg (fun t => Tab.get _ t _) (setArc_bar2 s a x)
@[simp] theorem setLl_reg (n : Nat) (x : LlUnit) (r₁ : Reg) (i₁ : Nat) :
    (s.setLl n x).reg r₁ i₁ = s.reg r₁ i₁ :=
  congrArg (fun t => Tab.get _ t _) (setLl_live s n x)
@[simp] theorem setLl_stg (n : Nat) (x : LlUnit) (r₁ : Reg) (i₁ : Nat) :
    (s.setLl n x).stg r₁ i₁ = s.stg r₁ i₁ :=
  congrArg (fun t => Tab.get _ t _) (setLl_staged s n x)
@[simp] theorem setLl_actw (n : Nat) (x : LlUnit) (r₁ : Reg) (i₁ : Nat) :
    (s.setLl n x).actw r₁ i₁ = s.actw r₁ i₁ :=
  congrArg (fun t => Tab.get _ t _) (setLl_active s n x)
@[simp] theorem setLl_capw (n : Nat) (x : LlUnit) (r₁ : Reg) (i₁ : Nat) :
    (s.setLl n x).capw r₁ i₁ = s.capw r₁ i₁ :=
  congrArg (fun t => Tab.get _ t _) (setLl_captured s n x)
@[simp] theorem setLl_blkOf (n : Nat) (x : LlUnit) (k : Nat) :
    (s.setLl n x).blkOf k = s.blkOf k :=
  congrArg (fun t => Tab.get _ t _) (setLl_blk s n x)
@[simp] theorem setLl_thrOf (n : Nat) (x : LlUnit) (k : Nat) :
    (s.setLl n x).thrOf k = s.thrOf k :=
  congrArg (fun t => Tab.get _ t _) (setLl_thr s n x)
@[simp] theorem setLl_fpOf (n : Nat) (x : LlUnit) (k : Nat) :
    (s.setLl n x).fpOf k = s.fpOf k :=
  congrArg (fun t => Tab.get _ t _) (setLl_fp s n x)
@[simp] theorem setLl_arcOf (n : Nat) (x : LlUnit) (k : Nat) :
    (s.setLl n x).arcOf k = s.arcOf k :=
  congrArg (fun t => Tab.get _ t _) (setLl_arc s n x)
@[simp] theorem setLl_pinOf (n : Nat) (x : LlUnit) (k : Nat) :
    (s.setLl n x).pinOf k = s.pinOf k :=
  congrArg (fun t => Tab.get _ t _) (setLl_pin s n x)
@[simp] theorem setLl_cellOf (n : Nat) (x : LlUnit) (k : Nat) :
    (s.setLl n x).cellOf k = s.cellOf k :=
  congrArg (fun t => Tab.get _ t _) (setLl_xc s n x)
@[simp] theorem setLl_qOf (n : Nat) (x : LlUnit) (k : Nat) :
    (s.setLl n x).qOf k = s.qOf k :=
  congrArg (fun t => Tab.get _ t _) (setLl_qtr s n x)
@[simp] theorem setLl_hlOf (n : Nat) (x : LlUnit) (k : Nat) :
    (s.setLl n x).hlOf k = s.hlOf k :=
  congrArg (fun t => Tab.get _ t _) (setLl_hl s n x)
@[simp] theorem setLl_twOf (n : Nat) (x : LlUnit) (k : Nat) :
    (s.setLl n x).twOf k = s.twOf k :=
  congrArg (fun t => Tab.get _ t _) (setLl_tw s n x)
@[simp] theorem setLl_eccOf (n : Nat) (x : LlUnit) (k j : Nat) :
    (s.setLl n x).eccOf k j = s.eccOf k j :=
  congrArg (fun t => Tab.get _ t _) (setLl_ecc s n x)
@[simp] theorem setLl_byte (n : Nat) (x : LlUnit) (k j : Nat) :
    (s.setLl n x).byte k j = s.byte k j :=
  congrArg (fun t => Tab.get _ t _) (setLl_mem s n x)
@[simp] theorem setLl_bar2Word (n : Nat) (x : LlUnit) (k j : Nat) :
    (s.setLl n x).bar2Word k j = s.bar2Word k j :=
  congrArg (fun t => Tab.get _ t _) (setLl_bar2 s n x)
@[simp] theorem setPin_reg (n : Nat) (x : Pin) (r₁ : Reg) (i₁ : Nat) :
    (s.setPin n x).reg r₁ i₁ = s.reg r₁ i₁ :=
  congrArg (fun t => Tab.get _ t _) (setPin_live s n x)
@[simp] theorem setPin_stg (n : Nat) (x : Pin) (r₁ : Reg) (i₁ : Nat) :
    (s.setPin n x).stg r₁ i₁ = s.stg r₁ i₁ :=
  congrArg (fun t => Tab.get _ t _) (setPin_staged s n x)
@[simp] theorem setPin_actw (n : Nat) (x : Pin) (r₁ : Reg) (i₁ : Nat) :
    (s.setPin n x).actw r₁ i₁ = s.actw r₁ i₁ :=
  congrArg (fun t => Tab.get _ t _) (setPin_active s n x)
@[simp] theorem setPin_capw (n : Nat) (x : Pin) (r₁ : Reg) (i₁ : Nat) :
    (s.setPin n x).capw r₁ i₁ = s.capw r₁ i₁ :=
  congrArg (fun t => Tab.get _ t _) (setPin_captured s n x)
@[simp] theorem setPin_blkOf (n : Nat) (x : Pin) (k : Nat) :
    (s.setPin n x).blkOf k = s.blkOf k :=
  congrArg (fun t => Tab.get _ t _) (setPin_blk s n x)
@[simp] theorem setPin_thrOf (n : Nat) (x : Pin) (k : Nat) :
    (s.setPin n x).thrOf k = s.thrOf k :=
  congrArg (fun t => Tab.get _ t _) (setPin_thr s n x)
@[simp] theorem setPin_fpOf (n : Nat) (x : Pin) (k : Nat) :
    (s.setPin n x).fpOf k = s.fpOf k :=
  congrArg (fun t => Tab.get _ t _) (setPin_fp s n x)
@[simp] theorem setPin_arcOf (n : Nat) (x : Pin) (k : Nat) :
    (s.setPin n x).arcOf k = s.arcOf k :=
  congrArg (fun t => Tab.get _ t _) (setPin_arc s n x)
@[simp] theorem setPin_llOf (n : Nat) (x : Pin) (k : Nat) :
    (s.setPin n x).llOf k = s.llOf k :=
  congrArg (fun t => Tab.get _ t _) (setPin_ll s n x)
@[simp] theorem setPin_cellOf (n : Nat) (x : Pin) (k : Nat) :
    (s.setPin n x).cellOf k = s.cellOf k :=
  congrArg (fun t => Tab.get _ t _) (setPin_xc s n x)
@[simp] theorem setPin_qOf (n : Nat) (x : Pin) (k : Nat) :
    (s.setPin n x).qOf k = s.qOf k :=
  congrArg (fun t => Tab.get _ t _) (setPin_qtr s n x)
@[simp] theorem setPin_hlOf (n : Nat) (x : Pin) (k : Nat) :
    (s.setPin n x).hlOf k = s.hlOf k :=
  congrArg (fun t => Tab.get _ t _) (setPin_hl s n x)
@[simp] theorem setPin_twOf (n : Nat) (x : Pin) (k : Nat) :
    (s.setPin n x).twOf k = s.twOf k :=
  congrArg (fun t => Tab.get _ t _) (setPin_tw s n x)
@[simp] theorem setPin_eccOf (n : Nat) (x : Pin) (k j : Nat) :
    (s.setPin n x).eccOf k j = s.eccOf k j :=
  congrArg (fun t => Tab.get _ t _) (setPin_ecc s n x)
@[simp] theorem setPin_byte (n : Nat) (x : Pin) (k j : Nat) :
    (s.setPin n x).byte k j = s.byte k j :=
  congrArg (fun t => Tab.get _ t _) (setPin_mem s n x)
@[simp] theorem setPin_bar2Word (n : Nat) (x : Pin) (k j : Nat) :
    (s.setPin n x).bar2Word k j = s.bar2Word k j :=
  congrArg (fun t => Tab.get _ t _) (setPin_bar2 s n x)
@[simp] theorem setCell_reg (c : Nat) (x : XCell) (r₁ : Reg) (i₁ : Nat) :
    (s.setCell c x).reg r₁ i₁ = s.reg r₁ i₁ :=
  congrArg (fun t => Tab.get _ t _) (setCell_live s c x)
@[simp] theorem setCell_stg (c : Nat) (x : XCell) (r₁ : Reg) (i₁ : Nat) :
    (s.setCell c x).stg r₁ i₁ = s.stg r₁ i₁ :=
  congrArg (fun t => Tab.get _ t _) (setCell_staged s c x)
@[simp] theorem setCell_actw (c : Nat) (x : XCell) (r₁ : Reg) (i₁ : Nat) :
    (s.setCell c x).actw r₁ i₁ = s.actw r₁ i₁ :=
  congrArg (fun t => Tab.get _ t _) (setCell_active s c x)
@[simp] theorem setCell_capw (c : Nat) (x : XCell) (r₁ : Reg) (i₁ : Nat) :
    (s.setCell c x).capw r₁ i₁ = s.capw r₁ i₁ :=
  congrArg (fun t => Tab.get _ t _) (setCell_captured s c x)
@[simp] theorem setCell_blkOf (c : Nat) (x : XCell) (k : Nat) :
    (s.setCell c x).blkOf k = s.blkOf k :=
  congrArg (fun t => Tab.get _ t _) (setCell_blk s c x)
@[simp] theorem setCell_thrOf (c : Nat) (x : XCell) (k : Nat) :
    (s.setCell c x).thrOf k = s.thrOf k :=
  congrArg (fun t => Tab.get _ t _) (setCell_thr s c x)
@[simp] theorem setCell_fpOf (c : Nat) (x : XCell) (k : Nat) :
    (s.setCell c x).fpOf k = s.fpOf k :=
  congrArg (fun t => Tab.get _ t _) (setCell_fp s c x)
@[simp] theorem setCell_arcOf (c : Nat) (x : XCell) (k : Nat) :
    (s.setCell c x).arcOf k = s.arcOf k :=
  congrArg (fun t => Tab.get _ t _) (setCell_arc s c x)
@[simp] theorem setCell_llOf (c : Nat) (x : XCell) (k : Nat) :
    (s.setCell c x).llOf k = s.llOf k :=
  congrArg (fun t => Tab.get _ t _) (setCell_ll s c x)
@[simp] theorem setCell_pinOf (c : Nat) (x : XCell) (k : Nat) :
    (s.setCell c x).pinOf k = s.pinOf k :=
  congrArg (fun t => Tab.get _ t _) (setCell_pin s c x)
@[simp] theorem setCell_qOf (c : Nat) (x : XCell) (k : Nat) :
    (s.setCell c x).qOf k = s.qOf k :=
  congrArg (fun t => Tab.get _ t _) (setCell_qtr s c x)
@[simp] theorem setCell_hlOf (c : Nat) (x : XCell) (k : Nat) :
    (s.setCell c x).hlOf k = s.hlOf k :=
  congrArg (fun t => Tab.get _ t _) (setCell_hl s c x)
@[simp] theorem setCell_twOf (c : Nat) (x : XCell) (k : Nat) :
    (s.setCell c x).twOf k = s.twOf k :=
  congrArg (fun t => Tab.get _ t _) (setCell_tw s c x)
@[simp] theorem setCell_eccOf (c : Nat) (x : XCell) (k j : Nat) :
    (s.setCell c x).eccOf k j = s.eccOf k j :=
  congrArg (fun t => Tab.get _ t _) (setCell_ecc s c x)
@[simp] theorem setCell_byte (c : Nat) (x : XCell) (k j : Nat) :
    (s.setCell c x).byte k j = s.byte k j :=
  congrArg (fun t => Tab.get _ t _) (setCell_mem s c x)
@[simp] theorem setCell_bar2Word (c : Nat) (x : XCell) (k j : Nat) :
    (s.setCell c x).bar2Word k j = s.bar2Word k j :=
  congrArg (fun t => Tab.get _ t _) (setCell_bar2 s c x)
@[simp] theorem setQ_reg (q : Nat) (x : Qtr) (r₁ : Reg) (i₁ : Nat) :
    (s.setQ q x).reg r₁ i₁ = s.reg r₁ i₁ :=
  congrArg (fun t => Tab.get _ t _) (setQ_live s q x)
@[simp] theorem setQ_stg (q : Nat) (x : Qtr) (r₁ : Reg) (i₁ : Nat) :
    (s.setQ q x).stg r₁ i₁ = s.stg r₁ i₁ :=
  congrArg (fun t => Tab.get _ t _) (setQ_staged s q x)
@[simp] theorem setQ_actw (q : Nat) (x : Qtr) (r₁ : Reg) (i₁ : Nat) :
    (s.setQ q x).actw r₁ i₁ = s.actw r₁ i₁ :=
  congrArg (fun t => Tab.get _ t _) (setQ_active s q x)
@[simp] theorem setQ_capw (q : Nat) (x : Qtr) (r₁ : Reg) (i₁ : Nat) :
    (s.setQ q x).capw r₁ i₁ = s.capw r₁ i₁ :=
  congrArg (fun t => Tab.get _ t _) (setQ_captured s q x)
@[simp] theorem setQ_blkOf (q : Nat) (x : Qtr) (k : Nat) :
    (s.setQ q x).blkOf k = s.blkOf k :=
  congrArg (fun t => Tab.get _ t _) (setQ_blk s q x)
@[simp] theorem setQ_thrOf (q : Nat) (x : Qtr) (k : Nat) :
    (s.setQ q x).thrOf k = s.thrOf k :=
  congrArg (fun t => Tab.get _ t _) (setQ_thr s q x)
@[simp] theorem setQ_fpOf (q : Nat) (x : Qtr) (k : Nat) :
    (s.setQ q x).fpOf k = s.fpOf k :=
  congrArg (fun t => Tab.get _ t _) (setQ_fp s q x)
@[simp] theorem setQ_arcOf (q : Nat) (x : Qtr) (k : Nat) :
    (s.setQ q x).arcOf k = s.arcOf k :=
  congrArg (fun t => Tab.get _ t _) (setQ_arc s q x)
@[simp] theorem setQ_llOf (q : Nat) (x : Qtr) (k : Nat) :
    (s.setQ q x).llOf k = s.llOf k :=
  congrArg (fun t => Tab.get _ t _) (setQ_ll s q x)
@[simp] theorem setQ_pinOf (q : Nat) (x : Qtr) (k : Nat) :
    (s.setQ q x).pinOf k = s.pinOf k :=
  congrArg (fun t => Tab.get _ t _) (setQ_pin s q x)
@[simp] theorem setQ_cellOf (q : Nat) (x : Qtr) (k : Nat) :
    (s.setQ q x).cellOf k = s.cellOf k :=
  congrArg (fun t => Tab.get _ t _) (setQ_xc s q x)
@[simp] theorem setQ_hlOf (q : Nat) (x : Qtr) (k : Nat) :
    (s.setQ q x).hlOf k = s.hlOf k :=
  congrArg (fun t => Tab.get _ t _) (setQ_hl s q x)
@[simp] theorem setQ_twOf (q : Nat) (x : Qtr) (k : Nat) :
    (s.setQ q x).twOf k = s.twOf k :=
  congrArg (fun t => Tab.get _ t _) (setQ_tw s q x)
@[simp] theorem setQ_eccOf (q : Nat) (x : Qtr) (k j : Nat) :
    (s.setQ q x).eccOf k j = s.eccOf k j :=
  congrArg (fun t => Tab.get _ t _) (setQ_ecc s q x)
@[simp] theorem setQ_byte (q : Nat) (x : Qtr) (k j : Nat) :
    (s.setQ q x).byte k j = s.byte k j :=
  congrArg (fun t => Tab.get _ t _) (setQ_mem s q x)
@[simp] theorem setQ_bar2Word (q : Nat) (x : Qtr) (k j : Nat) :
    (s.setQ q x).bar2Word k j = s.bar2Word k j :=
  congrArg (fun t => Tab.get _ t _) (setQ_bar2 s q x)
@[simp] theorem setHl_reg (n : Nat) (x : HlUnit) (r₁ : Reg) (i₁ : Nat) :
    (s.setHl n x).reg r₁ i₁ = s.reg r₁ i₁ :=
  congrArg (fun t => Tab.get _ t _) (setHl_live s n x)
@[simp] theorem setHl_stg (n : Nat) (x : HlUnit) (r₁ : Reg) (i₁ : Nat) :
    (s.setHl n x).stg r₁ i₁ = s.stg r₁ i₁ :=
  congrArg (fun t => Tab.get _ t _) (setHl_staged s n x)
@[simp] theorem setHl_actw (n : Nat) (x : HlUnit) (r₁ : Reg) (i₁ : Nat) :
    (s.setHl n x).actw r₁ i₁ = s.actw r₁ i₁ :=
  congrArg (fun t => Tab.get _ t _) (setHl_active s n x)
@[simp] theorem setHl_capw (n : Nat) (x : HlUnit) (r₁ : Reg) (i₁ : Nat) :
    (s.setHl n x).capw r₁ i₁ = s.capw r₁ i₁ :=
  congrArg (fun t => Tab.get _ t _) (setHl_captured s n x)
@[simp] theorem setHl_blkOf (n : Nat) (x : HlUnit) (k : Nat) :
    (s.setHl n x).blkOf k = s.blkOf k :=
  congrArg (fun t => Tab.get _ t _) (setHl_blk s n x)
@[simp] theorem setHl_thrOf (n : Nat) (x : HlUnit) (k : Nat) :
    (s.setHl n x).thrOf k = s.thrOf k :=
  congrArg (fun t => Tab.get _ t _) (setHl_thr s n x)
@[simp] theorem setHl_fpOf (n : Nat) (x : HlUnit) (k : Nat) :
    (s.setHl n x).fpOf k = s.fpOf k :=
  congrArg (fun t => Tab.get _ t _) (setHl_fp s n x)
@[simp] theorem setHl_arcOf (n : Nat) (x : HlUnit) (k : Nat) :
    (s.setHl n x).arcOf k = s.arcOf k :=
  congrArg (fun t => Tab.get _ t _) (setHl_arc s n x)
@[simp] theorem setHl_llOf (n : Nat) (x : HlUnit) (k : Nat) :
    (s.setHl n x).llOf k = s.llOf k :=
  congrArg (fun t => Tab.get _ t _) (setHl_ll s n x)
@[simp] theorem setHl_pinOf (n : Nat) (x : HlUnit) (k : Nat) :
    (s.setHl n x).pinOf k = s.pinOf k :=
  congrArg (fun t => Tab.get _ t _) (setHl_pin s n x)
@[simp] theorem setHl_cellOf (n : Nat) (x : HlUnit) (k : Nat) :
    (s.setHl n x).cellOf k = s.cellOf k :=
  congrArg (fun t => Tab.get _ t _) (setHl_xc s n x)
@[simp] theorem setHl_qOf (n : Nat) (x : HlUnit) (k : Nat) :
    (s.setHl n x).qOf k = s.qOf k :=
  congrArg (fun t => Tab.get _ t _) (setHl_qtr s n x)
@[simp] theorem setHl_twOf (n : Nat) (x : HlUnit) (k : Nat) :
    (s.setHl n x).twOf k = s.twOf k :=
  congrArg (fun t => Tab.get _ t _) (setHl_tw s n x)
@[simp] theorem setHl_eccOf (n : Nat) (x : HlUnit) (k j : Nat) :
    (s.setHl n x).eccOf k j = s.eccOf k j :=
  congrArg (fun t => Tab.get _ t _) (setHl_ecc s n x)
@[simp] theorem setHl_byte (n : Nat) (x : HlUnit) (k j : Nat) :
    (s.setHl n x).byte k j = s.byte k j :=
  congrArg (fun t => Tab.get _ t _) (setHl_mem s n x)
@[simp] theorem setHl_bar2Word (n : Nat) (x : HlUnit) (k j : Nat) :
    (s.setHl n x).bar2Word k j = s.bar2Word k j :=
  congrArg (fun t => Tab.get _ t _) (setHl_bar2 s n x)
@[simp] theorem setTw_reg (n : Nat) (x : TwUnit) (r₁ : Reg) (i₁ : Nat) :
    (s.setTw n x).reg r₁ i₁ = s.reg r₁ i₁ :=
  congrArg (fun t => Tab.get _ t _) (setTw_live s n x)
@[simp] theorem setTw_stg (n : Nat) (x : TwUnit) (r₁ : Reg) (i₁ : Nat) :
    (s.setTw n x).stg r₁ i₁ = s.stg r₁ i₁ :=
  congrArg (fun t => Tab.get _ t _) (setTw_staged s n x)
@[simp] theorem setTw_actw (n : Nat) (x : TwUnit) (r₁ : Reg) (i₁ : Nat) :
    (s.setTw n x).actw r₁ i₁ = s.actw r₁ i₁ :=
  congrArg (fun t => Tab.get _ t _) (setTw_active s n x)
@[simp] theorem setTw_capw (n : Nat) (x : TwUnit) (r₁ : Reg) (i₁ : Nat) :
    (s.setTw n x).capw r₁ i₁ = s.capw r₁ i₁ :=
  congrArg (fun t => Tab.get _ t _) (setTw_captured s n x)
@[simp] theorem setTw_blkOf (n : Nat) (x : TwUnit) (k : Nat) :
    (s.setTw n x).blkOf k = s.blkOf k :=
  congrArg (fun t => Tab.get _ t _) (setTw_blk s n x)
@[simp] theorem setTw_thrOf (n : Nat) (x : TwUnit) (k : Nat) :
    (s.setTw n x).thrOf k = s.thrOf k :=
  congrArg (fun t => Tab.get _ t _) (setTw_thr s n x)
@[simp] theorem setTw_fpOf (n : Nat) (x : TwUnit) (k : Nat) :
    (s.setTw n x).fpOf k = s.fpOf k :=
  congrArg (fun t => Tab.get _ t _) (setTw_fp s n x)
@[simp] theorem setTw_arcOf (n : Nat) (x : TwUnit) (k : Nat) :
    (s.setTw n x).arcOf k = s.arcOf k :=
  congrArg (fun t => Tab.get _ t _) (setTw_arc s n x)
@[simp] theorem setTw_llOf (n : Nat) (x : TwUnit) (k : Nat) :
    (s.setTw n x).llOf k = s.llOf k :=
  congrArg (fun t => Tab.get _ t _) (setTw_ll s n x)
@[simp] theorem setTw_pinOf (n : Nat) (x : TwUnit) (k : Nat) :
    (s.setTw n x).pinOf k = s.pinOf k :=
  congrArg (fun t => Tab.get _ t _) (setTw_pin s n x)
@[simp] theorem setTw_cellOf (n : Nat) (x : TwUnit) (k : Nat) :
    (s.setTw n x).cellOf k = s.cellOf k :=
  congrArg (fun t => Tab.get _ t _) (setTw_xc s n x)
@[simp] theorem setTw_qOf (n : Nat) (x : TwUnit) (k : Nat) :
    (s.setTw n x).qOf k = s.qOf k :=
  congrArg (fun t => Tab.get _ t _) (setTw_qtr s n x)
@[simp] theorem setTw_hlOf (n : Nat) (x : TwUnit) (k : Nat) :
    (s.setTw n x).hlOf k = s.hlOf k :=
  congrArg (fun t => Tab.get _ t _) (setTw_hl s n x)
@[simp] theorem setTw_eccOf (n : Nat) (x : TwUnit) (k j : Nat) :
    (s.setTw n x).eccOf k j = s.eccOf k j :=
  congrArg (fun t => Tab.get _ t _) (setTw_ecc s n x)
@[simp] theorem setTw_byte (n : Nat) (x : TwUnit) (k j : Nat) :
    (s.setTw n x).byte k j = s.byte k j :=
  congrArg (fun t => Tab.get _ t _) (setTw_mem s n x)
@[simp] theorem setTw_bar2Word (n : Nat) (x : TwUnit) (k j : Nat) :
    (s.setTw n x).bar2Word k j = s.bar2Word k j :=
  congrArg (fun t => Tab.get _ t _) (setTw_bar2 s n x)
@[simp] theorem emit_reg (o : Out) (r₁ : Reg) (i₁ : Nat) :
    (s.emit o).reg r₁ i₁ = s.reg r₁ i₁ :=
  congrArg (fun t => Tab.get _ t _) (emit_live s o)
@[simp] theorem emit_stg (o : Out) (r₁ : Reg) (i₁ : Nat) :
    (s.emit o).stg r₁ i₁ = s.stg r₁ i₁ :=
  congrArg (fun t => Tab.get _ t _) (emit_staged s o)
@[simp] theorem emit_actw (o : Out) (r₁ : Reg) (i₁ : Nat) :
    (s.emit o).actw r₁ i₁ = s.actw r₁ i₁ :=
  congrArg (fun t => Tab.get _ t _) (emit_active s o)
@[simp] theorem emit_capw (o : Out) (r₁ : Reg) (i₁ : Nat) :
    (s.emit o).capw r₁ i₁ = s.capw r₁ i₁ :=
  congrArg (fun t => Tab.get _ t _) (emit_captured s o)
@[simp] theorem emit_blkOf (o : Out) (k : Nat) :
    (s.emit o).blkOf k = s.blkOf k :=
  congrArg (fun t => Tab.get _ t _) (emit_blk s o)
@[simp] theorem emit_thrOf (o : Out) (k : Nat) :
    (s.emit o).thrOf k = s.thrOf k :=
  congrArg (fun t => Tab.get _ t _) (emit_thr s o)
@[simp] theorem emit_fpOf (o : Out) (k : Nat) :
    (s.emit o).fpOf k = s.fpOf k :=
  congrArg (fun t => Tab.get _ t _) (emit_fp s o)
@[simp] theorem emit_arcOf (o : Out) (k : Nat) :
    (s.emit o).arcOf k = s.arcOf k :=
  congrArg (fun t => Tab.get _ t _) (emit_arc s o)
@[simp] theorem emit_llOf (o : Out) (k : Nat) :
    (s.emit o).llOf k = s.llOf k :=
  congrArg (fun t => Tab.get _ t _) (emit_ll s o)
@[simp] theorem emit_pinOf (o : Out) (k : Nat) :
    (s.emit o).pinOf k = s.pinOf k :=
  congrArg (fun t => Tab.get _ t _) (emit_pin s o)
@[simp] theorem emit_cellOf (o : Out) (k : Nat) :
    (s.emit o).cellOf k = s.cellOf k :=
  congrArg (fun t => Tab.get _ t _) (emit_xc s o)
@[simp] theorem emit_qOf (o : Out) (k : Nat) :
    (s.emit o).qOf k = s.qOf k :=
  congrArg (fun t => Tab.get _ t _) (emit_qtr s o)
@[simp] theorem emit_hlOf (o : Out) (k : Nat) :
    (s.emit o).hlOf k = s.hlOf k :=
  congrArg (fun t => Tab.get _ t _) (emit_hl s o)
@[simp] theorem emit_twOf (o : Out) (k : Nat) :
    (s.emit o).twOf k = s.twOf k :=
  congrArg (fun t => Tab.get _ t _) (emit_tw s o)
@[simp] theorem emit_eccOf (o : Out) (k j : Nat) :
    (s.emit o).eccOf k j = s.eccOf k j :=
  congrArg (fun t => Tab.get _ t _) (emit_ecc s o)
@[simp] theorem emit_byte (o : Out) (k j : Nat) :
    (s.emit o).byte k j = s.byte k j :=
  congrArg (fun t => Tab.get _ t _) (emit_mem s o)
@[simp] theorem emit_bar2Word (o : Out) (k j : Nat) :
    (s.emit o).bar2Word k j = s.bar2Word k j :=
  congrArg (fun t => Tab.get _ t _) (emit_bar2 s o)
@[simp] theorem setEcc_reg (rg w : Nat) (e : Ecc) (r₁ : Reg) (i₁ : Nat) :
    (s.setEcc rg w e).reg r₁ i₁ = s.reg r₁ i₁ :=
  congrArg (fun t => Tab.get _ t _) (setEcc_live s rg w e)
@[simp] theorem setEcc_stg (rg w : Nat) (e : Ecc) (r₁ : Reg) (i₁ : Nat) :
    (s.setEcc rg w e).stg r₁ i₁ = s.stg r₁ i₁ :=
  congrArg (fun t => Tab.get _ t _) (setEcc_staged s rg w e)
@[simp] theorem setEcc_actw (rg w : Nat) (e : Ecc) (r₁ : Reg) (i₁ : Nat) :
    (s.setEcc rg w e).actw r₁ i₁ = s.actw r₁ i₁ :=
  congrArg (fun t => Tab.get _ t _) (setEcc_active s rg w e)
@[simp] theorem setEcc_capw (rg w : Nat) (e : Ecc) (r₁ : Reg) (i₁ : Nat) :
    (s.setEcc rg w e).capw r₁ i₁ = s.capw r₁ i₁ :=
  congrArg (fun t => Tab.get _ t _) (setEcc_captured s rg w e)
@[simp] theorem setEcc_blkOf (rg w : Nat) (e : Ecc) (k : Nat) :
    (s.setEcc rg w e).blkOf k = s.blkOf k :=
  congrArg (fun t => Tab.get _ t _) (setEcc_blk s rg w e)
@[simp] theorem setEcc_thrOf (rg w : Nat) (e : Ecc) (k : Nat) :
    (s.setEcc rg w e).thrOf k = s.thrOf k :=
  congrArg (fun t => Tab.get _ t _) (setEcc_thr s rg w e)
@[simp] theorem setEcc_fpOf (rg w : Nat) (e : Ecc) (k : Nat) :
    (s.setEcc rg w e).fpOf k = s.fpOf k :=
  congrArg (fun t => Tab.get _ t _) (setEcc_fp s rg w e)
@[simp] theorem setEcc_arcOf (rg w : Nat) (e : Ecc) (k : Nat) :
    (s.setEcc rg w e).arcOf k = s.arcOf k :=
  congrArg (fun t => Tab.get _ t _) (setEcc_arc s rg w e)
@[simp] theorem setEcc_llOf (rg w : Nat) (e : Ecc) (k : Nat) :
    (s.setEcc rg w e).llOf k = s.llOf k :=
  congrArg (fun t => Tab.get _ t _) (setEcc_ll s rg w e)
@[simp] theorem setEcc_pinOf (rg w : Nat) (e : Ecc) (k : Nat) :
    (s.setEcc rg w e).pinOf k = s.pinOf k :=
  congrArg (fun t => Tab.get _ t _) (setEcc_pin s rg w e)
@[simp] theorem setEcc_cellOf (rg w : Nat) (e : Ecc) (k : Nat) :
    (s.setEcc rg w e).cellOf k = s.cellOf k :=
  congrArg (fun t => Tab.get _ t _) (setEcc_xc s rg w e)
@[simp] theorem setEcc_qOf (rg w : Nat) (e : Ecc) (k : Nat) :
    (s.setEcc rg w e).qOf k = s.qOf k :=
  congrArg (fun t => Tab.get _ t _) (setEcc_qtr s rg w e)
@[simp] theorem setEcc_hlOf (rg w : Nat) (e : Ecc) (k : Nat) :
    (s.setEcc rg w e).hlOf k = s.hlOf k :=
  congrArg (fun t => Tab.get _ t _) (setEcc_hl s rg w e)
@[simp] theorem setEcc_twOf (rg w : Nat) (e : Ecc) (k : Nat) :
    (s.setEcc rg w e).twOf k = s.twOf k :=
  congrArg (fun t => Tab.get _ t _) (setEcc_tw s rg w e)
@[simp] theorem setEcc_byte (rg w : Nat) (e : Ecc) (k j : Nat) :
    (s.setEcc rg w e).byte k j = s.byte k j :=
  congrArg (fun t => Tab.get _ t _) (setEcc_mem s rg w e)
@[simp] theorem setEcc_bar2Word (rg w : Nat) (e : Ecc) (k j : Nat) :
    (s.setEcc rg w e).bar2Word k j = s.bar2Word k j :=
  congrArg (fun t => Tab.get _ t _) (setEcc_bar2 s rg w e)
@[simp] theorem setByte_reg (rg off : Nat) (b : Byte) (r₁ : Reg) (i₁ : Nat) :
    (s.setByte rg off b).reg r₁ i₁ = s.reg r₁ i₁ :=
  congrArg (fun t => Tab.get _ t _) (setByte_live s rg off b)
@[simp] theorem setByte_stg (rg off : Nat) (b : Byte) (r₁ : Reg) (i₁ : Nat) :
    (s.setByte rg off b).stg r₁ i₁ = s.stg r₁ i₁ :=
  congrArg (fun t => Tab.get _ t _) (setByte_staged s rg off b)
@[simp] theorem setByte_actw (rg off : Nat) (b : Byte) (r₁ : Reg) (i₁ : Nat) :
    (s.setByte rg off b).actw r₁ i₁ = s.actw r₁ i₁ :=
  congrArg (fun t => Tab.get _ t _) (setByte_active s rg off b)
@[simp] theorem setByte_capw (rg off : Nat) (b : Byte) (r₁ : Reg) (i₁ : Nat) :
    (s.setByte rg off b).capw r₁ i₁ = s.capw r₁ i₁ :=
  congrArg (fun t => Tab.get _ t _) (setByte_captured s rg off b)
@[simp] theorem setByte_blkOf (rg off : Nat) (b : Byte) (k : Nat) :
    (s.setByte rg off b).blkOf k = s.blkOf k :=
  congrArg (fun t => Tab.get _ t _) (setByte_blk s rg off b)
@[simp] theorem setByte_thrOf (rg off : Nat) (b : Byte) (k : Nat) :
    (s.setByte rg off b).thrOf k = s.thrOf k :=
  congrArg (fun t => Tab.get _ t _) (setByte_thr s rg off b)
@[simp] theorem setByte_fpOf (rg off : Nat) (b : Byte) (k : Nat) :
    (s.setByte rg off b).fpOf k = s.fpOf k :=
  congrArg (fun t => Tab.get _ t _) (setByte_fp s rg off b)
@[simp] theorem setByte_arcOf (rg off : Nat) (b : Byte) (k : Nat) :
    (s.setByte rg off b).arcOf k = s.arcOf k :=
  congrArg (fun t => Tab.get _ t _) (setByte_arc s rg off b)
@[simp] theorem setByte_llOf (rg off : Nat) (b : Byte) (k : Nat) :
    (s.setByte rg off b).llOf k = s.llOf k :=
  congrArg (fun t => Tab.get _ t _) (setByte_ll s rg off b)
@[simp] theorem setByte_pinOf (rg off : Nat) (b : Byte) (k : Nat) :
    (s.setByte rg off b).pinOf k = s.pinOf k :=
  congrArg (fun t => Tab.get _ t _) (setByte_pin s rg off b)
@[simp] theorem setByte_cellOf (rg off : Nat) (b : Byte) (k : Nat) :
    (s.setByte rg off b).cellOf k = s.cellOf k :=
  congrArg (fun t => Tab.get _ t _) (setByte_xc s rg off b)
@[simp] theorem setByte_qOf (rg off : Nat) (b : Byte) (k : Nat) :
    (s.setByte rg off b).qOf k = s.qOf k :=
  congrArg (fun t => Tab.get _ t _) (setByte_qtr s rg off b)
@[simp] theorem setByte_hlOf (rg off : Nat) (b : Byte) (k : Nat) :
    (s.setByte rg off b).hlOf k = s.hlOf k :=
  congrArg (fun t => Tab.get _ t _) (setByte_hl s rg off b)
@[simp] theorem setByte_twOf (rg off : Nat) (b : Byte) (k : Nat) :
    (s.setByte rg off b).twOf k = s.twOf k :=
  congrArg (fun t => Tab.get _ t _) (setByte_tw s rg off b)
@[simp] theorem setByte_eccOf (rg off : Nat) (b : Byte) (k j : Nat) :
    (s.setByte rg off b).eccOf k j = s.eccOf k j :=
  congrArg (fun t => Tab.get _ t _) (setByte_ecc s rg off b)
@[simp] theorem setByte_bar2Word (rg off : Nat) (b : Byte) (k j : Nat) :
    (s.setByte rg off b).bar2Word k j = s.bar2Word k j :=
  congrArg (fun t => Tab.get _ t _) (setByte_bar2 s rg off b)
@[simp] theorem setBar2_reg (q off : Nat) (w : Word) (r₁ : Reg) (i₁ : Nat) :
    (s.setBar2 q off w).reg r₁ i₁ = s.reg r₁ i₁ :=
  congrArg (fun t => Tab.get _ t _) (setBar2_live s q off w)
@[simp] theorem setBar2_stg (q off : Nat) (w : Word) (r₁ : Reg) (i₁ : Nat) :
    (s.setBar2 q off w).stg r₁ i₁ = s.stg r₁ i₁ :=
  congrArg (fun t => Tab.get _ t _) (setBar2_staged s q off w)
@[simp] theorem setBar2_actw (q off : Nat) (w : Word) (r₁ : Reg) (i₁ : Nat) :
    (s.setBar2 q off w).actw r₁ i₁ = s.actw r₁ i₁ :=
  congrArg (fun t => Tab.get _ t _) (setBar2_active s q off w)
@[simp] theorem setBar2_capw (q off : Nat) (w : Word) (r₁ : Reg) (i₁ : Nat) :
    (s.setBar2 q off w).capw r₁ i₁ = s.capw r₁ i₁ :=
  congrArg (fun t => Tab.get _ t _) (setBar2_captured s q off w)
@[simp] theorem setBar2_blkOf (q off : Nat) (w : Word) (k : Nat) :
    (s.setBar2 q off w).blkOf k = s.blkOf k :=
  congrArg (fun t => Tab.get _ t _) (setBar2_blk s q off w)
@[simp] theorem setBar2_thrOf (q off : Nat) (w : Word) (k : Nat) :
    (s.setBar2 q off w).thrOf k = s.thrOf k :=
  congrArg (fun t => Tab.get _ t _) (setBar2_thr s q off w)
@[simp] theorem setBar2_fpOf (q off : Nat) (w : Word) (k : Nat) :
    (s.setBar2 q off w).fpOf k = s.fpOf k :=
  congrArg (fun t => Tab.get _ t _) (setBar2_fp s q off w)
@[simp] theorem setBar2_arcOf (q off : Nat) (w : Word) (k : Nat) :
    (s.setBar2 q off w).arcOf k = s.arcOf k :=
  congrArg (fun t => Tab.get _ t _) (setBar2_arc s q off w)
@[simp] theorem setBar2_llOf (q off : Nat) (w : Word) (k : Nat) :
    (s.setBar2 q off w).llOf k = s.llOf k :=
  congrArg (fun t => Tab.get _ t _) (setBar2_ll s q off w)
@[simp] theorem setBar2_pinOf (q off : Nat) (w : Word) (k : Nat) :
    (s.setBar2 q off w).pinOf k = s.pinOf k :=
  congrArg (fun t => Tab.get _ t _) (setBar2_pin s q off w)
@[simp] theorem setBar2_cellOf (q off : Nat) (w : Word) (k : Nat) :
    (s.setBar2 q off w).cellOf k = s.cellOf k :=
  congrArg (fun t => Tab.get _ t _) (setBar2_xc s q off w)
@[simp] theorem setBar2_qOf (q off : Nat) (w : Word) (k : Nat) :
    (s.setBar2 q off w).qOf k = s.qOf k :=
  congrArg (fun t => Tab.get _ t _) (setBar2_qtr s q off w)
@[simp] theorem setBar2_hlOf (q off : Nat) (w : Word) (k : Nat) :
    (s.setBar2 q off w).hlOf k = s.hlOf k :=
  congrArg (fun t => Tab.get _ t _) (setBar2_hl s q off w)
@[simp] theorem setBar2_twOf (q off : Nat) (w : Word) (k : Nat) :
    (s.setBar2 q off w).twOf k = s.twOf k :=
  congrArg (fun t => Tab.get _ t _) (setBar2_tw s q off w)
@[simp] theorem setBar2_eccOf (q off : Nat) (w : Word) (k j : Nat) :
    (s.setBar2 q off w).eccOf k j = s.eccOf k j :=
  congrArg (fun t => Tab.get _ t _) (setBar2_ecc s q off w)
@[simp] theorem setBar2_byte (q off : Nat) (w : Word) (k j : Nat) :
    (s.setBar2 q off w).byte k j = s.byte k j :=
  congrArg (fun t => Tab.get _ t _) (setBar2_mem s q off w)

end

/-! ### Reading what was written -/

section
variable {s : State} (h : s.Wf)
include h

@[simp] theorem reg_setReg_self (r : Reg) (i : Nat) (w : Word) : (s.setReg r i w).reg r i = w := Tab.get_set_eq h.live
@[simp] theorem stg_setStg_self (r : Reg) (i : Nat) (w : Word) : (s.setStg r i w).stg r i = w := Tab.get_set_eq h.staged
@[simp] theorem actw_setActw_self (r : Reg) (i : Nat) (w : Word) : (s.setActw r i w).actw r i = w := Tab.get_set_eq h.active
@[simp] theorem capw_setCapw_self (r : Reg) (i : Nat) (w : Word) : (s.setCapw r i w).capw r i = w := Tab.get_set_eq h.captured
@[simp] theorem blkOf_setBlk_self (k : Nat) (w : Blk4) : (s.setBlk k w).blkOf k = w := Tab.get_set_eq h.blk
@[simp] theorem thrOf_setThr_self (k : Nat) (w : Thr) : (s.setThr k w).thrOf k = w := Tab.get_set_eq h.thr
@[simp] theorem fpOf_setFp_self (k : Nat) (w : FpUnit) : (s.setFp k w).fpOf k = w := Tab.get_set_eq h.fp
@[simp] theorem arcOf_setArc_self (k : Nat) (w : Arc) : (s.setArc k w).arcOf k = w := Tab.get_set_eq h.arc
@[simp] theorem llOf_setLl_self (k : Nat) (w : LlUnit) : (s.setLl k w).llOf k = w := Tab.get_set_eq h.ll
@[simp] theorem pinOf_setPin_self (k : Nat) (w : Pin) : (s.setPin k w).pinOf k = w := Tab.get_set_eq h.pin
@[simp] theorem cellOf_setCell_self (k : Nat) (w : XCell) : (s.setCell k w).cellOf k = w := Tab.get_set_eq h.xc
@[simp] theorem qOf_setQ_self (k : Nat) (w : Qtr) : (s.setQ k w).qOf k = w := Tab.get_set_eq h.qtr
@[simp] theorem hlOf_setHl_self (k : Nat) (w : HlUnit) : (s.setHl k w).hlOf k = w := Tab.get_set_eq h.hl
@[simp] theorem twOf_setTw_self (k : Nat) (w : TwUnit) : (s.setTw k w).twOf k = w := Tab.get_set_eq h.tw
@[simp] theorem eccOf_setEcc_self (k j : Nat) (w : Ecc) : (s.setEcc k j w).eccOf k j = w := Tab.get_set_eq h.ecc
@[simp] theorem byte_setByte_self (k j : Nat) (w : Byte) : (s.setByte k j w).byte k j = w := Tab.get_set_eq h.mem
@[simp] theorem bar2Word_setBar2_self (k j : Nat) (w : Word) : (s.setBar2 k j w).bar2Word k j = w := Tab.get_set_eq h.bar2

end

section
variable (s : State)

theorem blkOf_setBlk_ne {k j : Nat} (e : j ≠ k) (w : Blk4) : (s.setBlk k w).blkOf j = s.blkOf j := Tab.get_set_ne e
theorem thrOf_setThr_ne {k j : Nat} (e : j ≠ k) (w : Thr) : (s.setThr k w).thrOf j = s.thrOf j := Tab.get_set_ne e
theorem fpOf_setFp_ne {k j : Nat} (e : j ≠ k) (w : FpUnit) : (s.setFp k w).fpOf j = s.fpOf j := Tab.get_set_ne e
theorem arcOf_setArc_ne {k j : Nat} (e : j ≠ k) (w : Arc) : (s.setArc k w).arcOf j = s.arcOf j := Tab.get_set_ne e
theorem llOf_setLl_ne {k j : Nat} (e : j ≠ k) (w : LlUnit) : (s.setLl k w).llOf j = s.llOf j := Tab.get_set_ne e
theorem pinOf_setPin_ne {k j : Nat} (e : j ≠ k) (w : Pin) : (s.setPin k w).pinOf j = s.pinOf j := Tab.get_set_ne e
theorem cellOf_setCell_ne {k j : Nat} (e : j ≠ k) (w : XCell) : (s.setCell k w).cellOf j = s.cellOf j := Tab.get_set_ne e
theorem qOf_setQ_ne {k j : Nat} (e : j ≠ k) (w : Qtr) : (s.setQ k w).qOf j = s.qOf j := Tab.get_set_ne e
theorem hlOf_setHl_ne {k j : Nat} (e : j ≠ k) (w : HlUnit) : (s.setHl k w).hlOf j = s.hlOf j := Tab.get_set_ne e
theorem twOf_setTw_ne {k j : Nat} (e : j ≠ k) (w : TwUnit) : (s.setTw k w).twOf j = s.twOf j := Tab.get_set_ne e
theorem reg_setReg_ne {r r' : Reg} (e : r' ≠ r) (i j : Nat) (w : Word) : (s.setReg r i w).reg r' j = s.reg r' j :=
  Tab.get_set_ne (key_ne e j i)
theorem reg_setReg_el {i j : Nat} (r : Reg) (e : j % 16384 ≠ i % 16384) (w : Word) :
    (s.setReg r i w).reg r j = s.reg r j := Tab.get_set_ne (by unfold Reg.key; omega)
theorem stg_setStg_ne {r r' : Reg} (e : r' ≠ r) (i j : Nat) (w : Word) : (s.setStg r i w).stg r' j = s.stg r' j :=
  Tab.get_set_ne (key_ne e j i)
theorem stg_setStg_el {i j : Nat} (r : Reg) (e : j % 16384 ≠ i % 16384) (w : Word) :
    (s.setStg r i w).stg r j = s.stg r j := Tab.get_set_ne (by unfold Reg.key; omega)
theorem actw_setActw_ne {r r' : Reg} (e : r' ≠ r) (i j : Nat) (w : Word) : (s.setActw r i w).actw r' j = s.actw r' j :=
  Tab.get_set_ne (key_ne e j i)
theorem actw_setActw_el {i j : Nat} (r : Reg) (e : j % 16384 ≠ i % 16384) (w : Word) :
    (s.setActw r i w).actw r j = s.actw r j := Tab.get_set_ne (by unfold Reg.key; omega)
theorem capw_setCapw_ne {r r' : Reg} (e : r' ≠ r) (i j : Nat) (w : Word) : (s.setCapw r i w).capw r' j = s.capw r' j :=
  Tab.get_set_ne (key_ne e j i)
theorem capw_setCapw_el {i j : Nat} (r : Reg) (e : j % 16384 ≠ i % 16384) (w : Word) :
    (s.setCapw r i w).capw r j = s.capw r j := Tab.get_set_ne (by unfold Reg.key; omega)

end

/-! ### The byte memories (R392, R398) -/

/-- Two bytes of the memories have one key only where they are one byte; no region has 2^24 bytes. -/
theorem memKey_ne {rg rg' off off' : Nat} (ho : off < 2 ^ 24) (ho' : off' < 2 ^ 24) (e : (rg', off') ≠ (rg, off)) :
    memKey rg' off' ≠ memKey rg off := by
  have : ¬(rg' = rg ∧ off' = off) := fun h => e (Prod.ext h.1 h.2)
  unfold memKey; omega

theorem byte_setByte_ne (s : State) {rg rg' off off' : Nat} (ho : off < 2 ^ 24) (ho' : off' < 2 ^ 24)
    (e : (rg', off') ≠ (rg, off)) (b : Byte) : (s.setByte rg off b).byte rg' off' = s.byte rg' off' :=
  Tab.get_set_ne (memKey_ne ho ho' e)

/-- Writing n bytes leaves every other byte alone. -/
theorem poke_byte_other {rg rg' off' : Nat} (ho' : off' < 2 ^ 24) : ∀ (n off v : Nat) (s : State), off + n ≤ 2 ^ 24 →
    ¬(rg' = rg ∧ off ≤ off' ∧ off' < off + n) → (s.poke rg off n v).byte rg' off' = s.byte rg' off'
  | 0, _, _, _, _, _ => rfl
  | n + 1, off, v, s, hb, e => by
    unfold State.poke
    rw [poke_byte_other ho' n (off + 1) (v / 256) _ (by omega) (by omega)]
    exact byte_setByte_ne s (by omega) ho' (fun h => e (by cases h; omega)) _

/-- Byte j of the n that are written is byte j of the number. -/
theorem poke_byte_in {rg j : Nat} : ∀ (n off v : Nat) (s : State), s.Wf → off + n ≤ 2 ^ 24 → j < n →
    (s.poke rg off n v).byte rg (off + j) = BitVec.ofNat 8 (v / 256 ^ j)
  | 0, _, _, _, _, _, h => absurd h (by omega)
  | n + 1, off, v, s, hw, hb, hj => by
    have hw' : (s.setByte rg off (BitVec.ofNat 8 v)).Wf := (setByte_keeps rg off _ (Keeps.refl s)).wf hw
    unfold State.poke
    cases j with
    | zero =>
      rw [Nat.add_zero, poke_byte_other (by omega) n (off + 1) (v / 256) _ (by omega) (by omega)]
      simp [byte_setByte_self hw]
    | succ j =>
      have := poke_byte_in (rg := rg) (j := j) n (off + 1) (v / 256) _ hw' (by omega) (by omega)
      rw [show off + (j + 1) = off + 1 + j by omega, this, Nat.div_div_eq_div_mul, Nat.pow_succ']

/-- Every write of memory keeps the canonical form. -/
theorem setByte_wf {s : State} (h : s.Wf) (rg off : Nat) (b : Byte) : (s.setByte rg off b).Wf :=
  (setByte_keeps rg off b (Keeps.refl s)).wf h

theorem poke_wf {s : State} (h : s.Wf) (rg off n v : Nat) : (s.poke rg off n v).Wf :=
  (poke_keeps rg off n v (Keeps.refl s)).wf h

theorem memWrite_wf {s : State} (h : s.Wf) (rg off n v : Nat) : (s.memWrite rg off n v).Wf :=
  (memWrite_keeps rg off n v (Keeps.refl s)).wf h

end Sys2Proof.Machine
end

