-- ==== Sys2Proof/Tests/Slice0.lean ====
section
/-! SUPPORT. The smoke test of well-formed commands, one step of chosen commands, and for every statement a state and
operands that meet its hypotheses. -/

open Sys2Proof Sys2Proof.Machine

namespace Sys2Proof.Tests

set_option Elab.async false

/-! ### States to test on -/

/-- The device in RUN with every domain powered and thread 0 enabled. -/
def base : State := ((State.reset.setFld F.SYS_MODE_MODE 0 3).setFld F.PM_STATUS_DOM 0 0xFFF).setFld F.BK_TCFG_EN 0 1

/-- The device in RUN, thread 0 a Lane thread that is about to issue. -/
def lane (th : Thr) : State := base.setThr 0 { th with st := .active, pc := 0x100 }

/-- The same with an Avenue thread. -/
def aven (th : Thr) : State := (base.setFld F.BK_TCFG_CLASS 0 1).setThr 0 { th with st := .active, pc := 0x100 }

theorem base_wf : base.Wf :=
  (setFld_keeps _ _ _ (setFld_keeps _ _ _ (setFld_keeps _ _ _ (Keeps.refl _)))).wf reset_wf

theorem lane_wf (th : Thr) : (lane th).Wf := (setThr_keeps _ _ (Keeps.refl _)).wf base_wf

theorem aven_wf (th : Thr) : (aven th).Wf :=
  (setThr_keeps _ _ (setFld_keeps _ _ _ (Keeps.refl _))).wf base_wf

/-- The conditions of `Ready` beside the canonical form. -/
def readyB (s : State) (r : Row) : Bool :=
  s.canIssue 0 r && decide ((s.fetch 0 r.len).2 = .ok) && r.good && (!r.lane || !s.avenue 0) &&
    decide (stackFault (s.thrOf 0).ds (s.thrOf 0).rs r = none)

theorem ready_of {s : State} {r : Row} (w : s.Wf) (h : readyB s r = true) : s.Ready 0 r := by
  simp only [readyB, Bool.and_eq_true, decide_eq_true_eq, Bool.or_eq_true, Bool.not_eq_true'] at h
  obtain ⟨⟨⟨⟨h1, h2⟩, h3⟩, h4⟩, h5⟩ := h
  exact ⟨w, h1, h2, h3, fun hl => h4.resolve_left (by simp [hl]), h5⟩

theorem ready_all {s : State} {l : List Row} (w : s.Wf) (h : l.all (readyB s) = true) : ∀ r ∈ l, s.Ready 0 r :=
  fun r hr => ready_of w (List.all_eq_true.1 h r hr)

/-! ### Well-formed commands: each check refuses a term -/

theorem test_wf_refuses : ([
    .twTransactionEnd 0 none (List.replicate 65 0), .twTargetWrite 0 (List.replicate 257 0),
    .plazaTransferComplete .bar0 .mp 0 false, .storeDrain 0 0 (List.replicate 17 0),
    .icacheFillComplete 0 (List.replicate 17 0), .undefinedOpcode 0 0x01, .csmReceive 0 0 0 [], .csmReturn 0 0 [],
    .echoReceive 0 [], .rgRxLock 0 [], .rgRxLockLost 0 [], .bar0ReadTimeout 0 2 0, .dmaTransfer 0 0 0,
    .xipFillComplete (List.replicate 63 0), .mp0RawComplete (List.replicate 257 0), .registerWrite .dbg (.ctl 1) 0 15,
    .registerRead (.fn 0) (.bar2 2), .mapSectionRead (some [1])] :
      List Instr).all (fun i => !i.wf) = true := by decide +kernel

theorem test_wf_takes : ([
    .twTransactionEnd 0 none (List.replicate 64 0), .twTargetWrite 0 (List.replicate 256 0),
    .plazaTransferComplete .bar0 .mp 1 false, .storeDrain 0 0 (List.replicate 16 0),
    .icacheFillComplete 0 (List.replicate 16 0), .undefinedOpcode 0 0xFF, .csmReceive 0 0 0 [1], .csmReturn 0 0 [1],
    .echoReceive 0 [1], .rgRxLock 0 [1], .rgRxLockLost 0 [1], .bar0ReadTimeout 0 4 0, .dmaTransfer 0 0 1,
    .xipFillComplete (List.replicate 64 0), .mp0RawComplete (List.replicate 256 0), .registerWrite .dbg (.ctl 4) 0 15,
    .registerRead (.fn 0) (.bar2 4), .mapSectionRead none] :
      List Instr).all (fun i => i.wf) = true := by decide +kernel

/-! ### One step of chosen commands, against values that the spec or a published standard gives -/

/-- The next state of a command, or the state itself where it has none. -/
def after (c : Instr) (s : State) : State :=
  match exec c s with
  | .next t => t
  | _ => s

/-- SYS_ID reads 0x486400B0 (00_scope.md). -/
theorem test_sys_id : (after (.registerRead (.fn 0) (.ctl 0)) base).out.head? = some (.bar 0 0 0x486400B0 false) := by
  decide +kernel

/-- ADD wraps, sets Z and C and leaves N and V clear (R287). -/
theorem test_add_wraps : let th := (after (.iAdd 0) (lane { ds := [1, 0xFFFFFFFF] })).thrOf 0
    th.ds = [0] ∧ th.flags = { z := true, c := true } := by decide +kernel

/-- SUB takes TOS from NOS, and C is set where there is no borrow (R287). -/
theorem test_sub_order : let th := (after (.iSub 0) (lane { ds := [5, 3] })).thrOf 0
    th.ds = [0xFFFFFFFE] ∧ th.flags = { n := true } := by decide +kernel

/-- DIV by zero raises DIV0 (R266, R310). -/
theorem test_div_zero : let t := after (.iDiv 0) (lane { ds := [0, 3] })
    (t.thrOf 0).st = .stopped ∧ t.fld F.BK_FCODE_CODE 0 = 0x0A := by decide +kernel

/-- STW and then STORE_DRAIN leave the bytes with the least significant first (R17, R268). -/
theorem test_store_bytes : let t := after (.storeDrain 0 0 []) (after (.iStw 0) (lane { ds := [0x10010, 0x44332211] }))
    (List.range 4).map (fun i => t.byte (rgData 0) (0x10 + i)) = [0x11, 0x22, 0x33, 0x44] := by decide +kernel

/-- LDB of a byte above 127 does not extend its sign, and LDBS does (R317). -/
theorem test_load_extends : let s := (lane { ds := [0x10010] }).setByte (rgData 0) 0x10 0x80
    ((after (.iLdb 0) s).thrOf 0).ds = [0x80] ∧ ((after (.iLdbs 0) s).thrOf 0).ds = [0xFFFFFF80] := by decide +kernel

/-- A staged register changes at its tick, not at its write (R27). -/
theorem test_staged_write : let t := after (.registerWrite (.fn 0) (.ctl ⟨Reg.offset .ARC_TIDLE 63, by decide +kernel⟩) 7 15) base
    t.fld F.ARC_TIDLE_TIDLE 63 = base.fld F.ARC_TIDLE_TIDLE 63 ∧ t.act F.ARC_TIDLE_TIDLE 63 = 0 ∧
      F.ARC_TIDLE_TIDLE.get (t.stg .ARC_TIDLE 63) = 7 := by decide +kernel

/-- IDCODE shifts out 0xB48643A5 (R462). -/
theorem test_idcode : (after .idcode base).out.head? = some (.tdo 0xB48643A5) := by decide +kernel

/-- The check value of CRC-32 over the digits 1 to 9 is 0xCBF43926. -/
theorem test_crc32 : crc32 [0x31, 0x32, 0x33, 0x34, 0x35, 0x36, 0x37, 0x38, 0x39] = 0xCBF43926 := by decide +kernel

/-- The digest of "abc" of FIPS 180-4. -/
theorem test_sha256 : sha256 [0x61, 0x62, 0x63] =
    0xba7816bf8f01cfea414140de5dae2223b00361a396177a9cb410ff61f20015ad := by decide +kernel

/-- The substitution of 0x53 in FIPS 197, 5.1.1. -/
theorem test_sbox : sbox 0x53 = 0xed := by decide +kernel

/-- A reset keeps nothing of the RAM (R398, R453). -/
theorem test_reset_memory : (after (.resetPin 1000) (base.setByte (rgData 0) 0 7)).mem = [] := by decide +kernel

/-- With no command waiting a step is a cycle of CK_TIME. -/
theorem test_idle_step : (match step base with
    | .next t => decide (t.ct.a.t = 4398046511104)
    | _ => false) = true := by decide +kernel

/-! ### Witnesses: the frame of the device -/

theorem witness_StepRunsFront : ({ State.reset with pending := [.tick] } : State).pending = .tick :: [] := rfl

theorem witness_StepIdle : base.pending = [] ∧ base.timeRuns = true ∧ (base.setFld F.SYS_MODE_MODE 0 0).pending = [] ∧
    (base.setFld F.SYS_MODE_MODE 0 0).timeRuns = false := by decide +kernel

theorem witness_ResetState : Reg.SYS_MODE ≠ .LC_STATE ∧ F.SYS_MODE_MODE ∈ Reg.SYS_MODE.desc.fields := by decide +kernel

theorem witness_StepKeepsCanonicalForm : State.reset.Wf ∧ State.reset.queueWf = true ∧ ∃ t, step State.reset = .next t :=
  ⟨reset_wf, rfl, _, rfl⟩

theorem witness_StepKeepsAonPowered : base.AonOn ∧ ∃ t, step base = .next t :=
  ⟨⟨.inl (by decide +kernel), by decide +kernel, by decide +kernel, by decide +kernel⟩, _, rfl⟩

theorem witness_RegisterMap : 63 < dimCount Reg.BK_TCFG.desc.dims ∧
    regAt (Reg.offset .BK_TCFG 63) = some (.BK_TCFG, 63) := by decide +kernel

theorem witness_ReservedEncodings : (∀ f ∈ Reg.CT_CTRL.desc.fields, ¬(f.lo ≤ 31 ∧ 31 ≤ f.hi)) ∧
    regAt (Reg.offset .CT_CTRL 0) = some (.CT_CTRL, 0) ∧ Reg.offset .CT_CTRL 0 % 4 = 0 ∧
    Reg.isHigh .CT_CTRL = false ∧ base.out = [] := by decide +kernel

/-! ### Witnesses: register accesses -/

theorem witness_ReservedEncodings_access :
    base.hostOn = true ∧ base.bar0Sees 3 (Reg.offset .CT_CTRL 0) false = true ∧
    (match exec (.registerRead (.fn 3) (.ctl ⟨Reg.offset .CT_CTRL 0, by decide +kernel⟩)) base with
      | .next t => decide (t.out.head? = some (.bar 3 (Reg.offset .CT_CTRL 0) 0 false))
      | _ => false) = true ∧
    (∀ p ∈ [(Req.fn 0, F.CT_INCR_HI_INCRH, 1022), (.dbg, F.CT_INCR_HI_INCRH, 1025), (.thr 0, F.HP_UDONE_ST, 1), (.fn 0, F.CT_SRV_CFG_LOSSN, 0)],
      base.reaches p.1 p.2.1.reg 0 (p.2.1.put 0 p.2.2) = true ∧ p.2.1 ∈ p.2.1.reg.desc.fields ∧ p.2.1.acc.writable = true ∧
      inRanges p.2.1.bad (p.2.1.get (p.2.1.put 0 p.2.2)) = true) := by decide +kernel

theorem witness_HostAccessRules : base.hostOn = true ∧ 458752 % 4 = 0 ∧ 458752 < 1048576 ∧ blkAt 458752 = none ∧
    base.bar0Sees 3 458752 false = true ∧ base.bar0Sees 3 458752 true = true ∧ (14 : Fin 16) ≠ 15 ∧
    458752 / 65536 = 7 ∧ (let r := Reg.MP1_BBT; let s := base.setEcc (bufRegion r) (portEcc r 2047) { psn := true }
     regAt (r.offset 2047) = some (r, 2047) ∧ r.offset 2047 % 4 = 0 ∧ r.isBuf = true ∧ s.regOn r 2047 = true ∧
      s.readDenied 0 r 2047 = false ∧ (s.eccOf (bufRegion r) (portEcc r 2047)).psn = true) := by decide +kernel

theorem witness_RegisterAccessResults :
    (∀ p ∈ [(Reg.ARC_TIDLE, 63, true), (.SYS_MODE, 0, false)],
      regAt (p.1.offset p.2.1) = some (p.1, p.2.1) ∧ p.1.offset p.2.1 % 4 = 0 ∧ p.1.held = false ∧ p.1.acts = false ∧
      base.writes (.fn 0) p.1 p.2.1 0 = true ∧ p.1.desc.staged = p.2.2) ∧
    (base.hostOn = true ∧ base.bar0Sees 0 12 true = true ∧ blkAt 12 ≠ none ∧ regAt 12 = none) ∧
    (blkAt 0x88000 = none ∧ base.bar0Sees 0 0x88000 true = true) ∧
    (base.setFld F.PM_STATUS_DOM 0 0x401).regOn .FP_CFG 0 = false ∧ base.regOn .CT_CTRL 0 = true ∧
    base.writeDenied (.fn 3) .CT_CTRL 0 = true ∧ base.readDenied 3 .HP_CPI 0 = true ∧
    (base.bar2Sees 3 0xFFFC = false ∧ base.bar2Sees 3 0x7FFC = true ∧ base.bar2Sees 3 0 = true) ∧
    base.flag F.MP_ECC_INJ_ARM = false ∧ base.eccOf rgBar2 (bar2Ecc 3 0x7FFC) = {} ∧
    (Reg.CT_LT_W1.isHigh = true ∧ Reg.CT_LT_W0.isHigh = false ∧ Reg.CT_LT_W1 ∈ Reg.CT_LT_W0.wide.tail) ∧
    (F.ARC_CNT_FLUSHN ∈ Reg.ARC_CNT.desc.fields ∧ F.ARC_CNT_FLUSHN.acc = .rc) := by decide +kernel

/-! ### Witnesses: instructions -/

theorem witness_StackResults : ∀ r ∈ ([
    { code := 0x01 }, { code := 0x02, pr := .feeder, di := 1, dout := 2 }, { code := 0x03, pr := .feeder, di := 1 },
    { code := 0x04, pr := .feeder, di := 2, dout := 2 }, { code := 0x05, pr := .feeder, di := 2, dout := 3 },
    { code := 0x06, pr := .feeder, di := 2, dout := 1 }, { code := 0x07, di := 2, dout := 3 },
    { code := 0x08, di := 3, dout := 3 }, { code := 0x09, di := 3, dout := 3 }, { code := 0x0A, di := 2, dout := 4 },
    { code := 0x0B, di := 2 }, { code := 0x0C, di := 4, dout := 4 }, { code := 0x0D, di := 4, dout := 6 },
    { code := 0x0E, imm := 1, pr := .feeder, di := 1, dout := 2 }, { code := 0x0E, imm := 1, di := 14, dout := 15 },
    { code := 0x0F, imm := 1, di := 14, dout := 14 }, { code := 0x10, dout := 1 }, { code := 0x11, di := 1, rout := 1 },
    { code := 0x12, dout := 1, ri := 1 }, { code := 0x13, dout := 1, ri := 1, rout := 1 }, { code := 0x14, ri := 1 }] : List Row),
    (lane { ds := List.replicate 14 7, rs := [5] }).Ready 0 r := ready_all (lane_wf _) (by decide +kernel)

theorem witness_StackResults_deepest : (lane { ds := List.replicate 15 7 }).Ready 0 { code := 0x0E, imm := 1, di := 15, dout := 16 } ∧
    (lane { ds := List.replicate 16 7 }).Ready 0 { code := 0x0F, imm := 1, di := 16, dout := 16 } :=
  ⟨ready_of (lane_wf _) (by decide +kernel), ready_of (lane_wf _) (by decide +kernel)⟩

theorem witness_InstructionFrame : Does (.iNop 0) 0 { code := 0x01 } id ∧ (lane {}).Ready 0 { code := 0x01 } :=
  ⟨fun _ h => congrArg Host.Outcome.next (issue_ready h _), ready_of (lane_wf _) (by decide +kernel)⟩

theorem witness_ArithmeticResults : ∀ r ∈ ([
    { code := 0x60, pr := .feeder, dout := 1 }, { code := 0x71, pr := .feeder, dout := 1 },
    { code := 0x72, imm := 1, pr := .feeder, dout := 1 }, { code := 0x73, imm := 1, pr := .feeder, dout := 1 },
    { code := 0x74, imm := 2, dout := 1 }, { code := 0x75, imm := 4, dout := 1 }, { code := 0x76, imm := 2, dout := 1 },
    { code := 0x20, pr := .worker, di := 2, dout := 1 }, { code := 0x21, pr := .worker, di := 2, dout := 1 },
    { code := 0x22, pr := .worker, di := 1, dout := 1 }, { code := 0x23, lane := true, pr := .worker, di := 2, dout := 1 },
    { code := 0x24, lane := true, pr := .worker, di := 2, dout := 1 }, { code := 0x25, pr := .worker, di := 2 },
    { code := 0x26, di := 2, dout := 1 }, { code := 0x28, di := 2, dout := 1 },
    { code := 0x34, imm := 1, pr := .worker, di := 1, dout := 1 }, { code := 0x39, pr := .worker, di := 1, dout := 1 },
    { code := 0x29, di := 2, dout := 2 }, { code := 0x2A, di := 2, dout := 2 }] : List Row),
    (lane { ds := [3, 17, 5] }).Ready 0 r := ready_all (lane_wf _) (by decide +kernel)

/-- A thread that waits for the divider. -/
def dividing : State :=
  ((lane { ds := [3, 17, 5] }).setThr 0 { (lane { ds := [3, 17, 5] }).thrOf 0 with st := .parked, park := some (.div true) }).divAsk 0

theorem witness_ArithmeticResults_divider : (dividing.blkOf (0 : Fin 4)).divOwn = some (0 : Fin 64).val ∧
    dividing.parkedOn 0 = some (.div true) ∧ (dividing.thrOf 0).ds = 3 :: 17 :: [5] ∧ (3 : Word) ≠ 0 := by decide +kernel

theorem witness_LogicShiftResults : ∀ r ∈ ([{ code := 0x2B, pr := .worker, di := 2, dout := 1 },
    { code := 0x2E, pr := .worker, di := 1, dout := 1 }, { code := 0x2F, pr := .worker, di := 2, dout := 1 },
    { code := 0x3C, pr := .worker, di := 1, dout := 1 }, { code := 0x3D, lane := true, dout := 1 },
    { code := 0x3E, lane := true, di := 1 }] : List Row),
    (lane { ds := [0xFFFFFFFF, 17, 5] }).Ready 0 r := ready_all (lane_wf _) (by decide +kernel)

theorem witness_CheckAndBitResults : ∀ r ∈ ([{ code := 0x80, pr := .worker, di := 2, dout := 1 },
    { code := 0x83, pr := .worker, di := 2, dout := 1 }, { code := 0x84, di := 2, dout := 1 },
    { code := 0x87, di := 2, dout := 1 }, { code := 0x8C, pr := .worker, di := 1, dout := 1 },
    { code := 0x8D, di := 1, dout := 1 }, { code := 0x8E, di := 1, dout := 1 },
    { code := 0x8F, imm := 1, pr := .worker, di := 1, dout := 1 }] : List Row),
    (lane { ds := [0xFFFFFFFF, 17, 5] }).Ready 0 r := ready_all (lane_wf _) (by decide +kernel)

/-- A thread with a TCM address, a Market address or anything else on top. -/
def at_ (a : Word) : State := lane { ds := [a, 0xAABBCCDD, 5] }

/-- The row of a load or a store. -/
def accRow (code imm di dout : Nat) : Row := { code := code, imm := imm, pr := .worker, di := di, dout := dout }

/-- The first and the last bytes of both TCMs, and a split access between them. -/
theorem witness_LoadResults : ∀ a ∈ ([0, 0xFFFC, 0x10000, 0x2FFFC, 0x10013] : List Nat),
    (at_ (BitVec.ofNat 32 a)).Ready 0 (accRow 0x44 0 1 1) ∧ ((at_ (BitVec.ofNat 32 a)).begun 0 (accRow 0x44 0 1 1)).TcmClean 0 a 4 := by
  intro a ha
  refine ⟨ready_of (lane_wf _) ?_, ?_⟩
  · revert a; decide +kernel
  · unfold State.TcmClean; revert a; decide +kernel

theorem witness_LoadResults_market :
    (let s := at_ 0x10000000
     let u := s.begun 0 (accRow 0x44 0 1 1)
     readyB s (accRow 0x44 0 1 1) = true ∧ u.denied 0 false (0x10000000, 4) = false ∧ u.overlapped 0 0x10000000 4 = false) ∧
    (let s := (at_ 0x101FFFFC).setThr 0 { (at_ 0x101FFFFC).thrOf 0 with st := .parked, park := some (.load (.ld 4 false)) }
     s.parkedOn 0 = some (.load (.ld 4 false)) ∧ s.denied 0 false (0x101FFFFC, 4) = false ∧
       s.eccOf rgMarket ((0x101FFFFC - 0x10000000) / 8) = {}) ∧
    State.reset.detOf 0 = false := by decide +kernel

theorem witness_StoreResults : ∀ p ∈ ([(0, 1), (0x2FFFF, 1), (0x2FFFE, 2), (0x101FFFFC, 4), (0x10000000, 2)] : List (Nat × Nat)),
    (at_ (BitVec.ofNat 32 p.1)).Ready 0 (accRow 0x45 0 2 0) ∧
      ((at_ (BitVec.ofNat 32 p.1)).begun 0 (accRow 0x45 0 2 0)).Buffers 0 p.1 p.2 := by
  intro p hp
  refine ⟨ready_of (lane_wf _) ?_, ?_, ?_, ?_, ?_, ?_⟩ <;> revert p <;> decide +kernel

theorem witness_StoreResults_ways :
    (let s := (at_ 0x10010).setBlk 0 { det := true }
     readyB s (accRow 0x47 0 2 0) = true ∧ (s.begun 0 (accRow 0x47 0 2 0)).detOf 0 = true) ∧
    (let u := (at_ 0x2FFFB).begun 0 (accRow 0x47 0 2 0)
     u.detOf 0 = false ∧ (u.thrOf 0).first = false ∧ u.sbRoom 0 = true ∧
       (u.sbPush 0 { thr := 0, addr := 0x2FFFB, size := 1, data := 0xDD }).sbRoom 0 = true) ∧
    (let s := lane { ds := [0x10020, 0x2FFFC] }
     (∀ r ∈ ([{ code := 0x4D, di := 2, dout := 2 }, { code := 0x4E, di := 2, dout := 2 }, { code := 0x4F, di := 2, dout := 1 },
       { code := 0x88, di := 2, dout := 2 }, { code := 0x8B, di := 2, dout := 2 }] : List Row), readyB s r = true) ∧
     inDataTcm 0x10000 = true ∧ inDataTcm 0x2FFFC = true) := by decide +kernel

/-- A Block with a store of the data TCM and one of the Market in its buffer, and a fill in progress. -/
def buffered : State := base.setBlk 0 {
  sb := [{ thr := 0, addr := 0x10010, size := 4, data := 7 }, { thr := 0, addr := 0x10000010, size := 4, data := 7 },
    { thr := 1, addr := 0, size := 0, data := 7, arc := some 3 }], fill := some 0x800000 }

theorem witness_BlockMemoryResults :
    (buffered.blkOf 0).sb[0]? = some { thr := 0, addr := 0x10010, size := 4, data := 7 } ∧
    (buffered.blkOf 0).sb[2]? = some { thr := 1, addr := 0, size := 0, data := 7, arc := some 3 } ∧
    ((buffered.blkOf 0).sb.take 0).all (fun x => x.thr != 0) = true ∧
    ((buffered.blkOf 0).sb.take 1).all (fun x => x.thr != 0) = false ∧
    ((buffered.blkOf 0).sb.take 2).all (fun x => x.thr != 1) = true ∧
    base.writes (.fn 0) .BK_CMD 0 2 = true ∧ base.writes (.fn 0) .BK_CMD 3 1 = true ∧
    (buffered.blkOf 0).fill = some 0x800000 ∧
    (∀ j < 4, buffered.eccOf rgMarket ((32 * 0x800000 - 0x10000000) / 8 + j) = {}) ∧
    (∀ j < 16, (buffered.thrOf j).park = none) := by decide +kernel

/-- Arcade 3 with thread 0 as its producer and its consumer. -/
def arcade (th : Thr) : State :=
  (((lane th).setActw .ARC_CFG 3 (F.ARC_CFG_PROD.put (F.ARC_CFG_EN.put ((lane th).actw .ARC_CFG 3) 1) 1)).setActw
    .ARC_REGION 3 (F.ARC_REGION_SIZE.put 0 16)).setArc 3 { lim := 16, act := true }

/-- The same with two items to read. -/
def arcadeFull (th : Thr) : State := ((arcade th).arcOut 3 0 1).arcOut 3 0 0x77

theorem witness_ArcadeAccessResults :
    (let s := arcadeFull { ds := [0x10000] }
     let u := s.begun 0 { code := 0x90, imm := 1, dout := 1 }
     readyB s { code := 0x90, imm := 1, dout := 1 } = true ∧ readyB s { code := 0x92, imm := 1, di := 1 } = true ∧
     u.mayIn 0 3 = true ∧ (u.thrOf 0).heldFor 3 = none ∧ (match (u.arcGet 3).2 with | .item _ => true | _ => false) = true ∧
     inDataTcm 0x10000 = true) ∧
    (let s := arcade { ds := [0x10000] }
     readyB s { code := 0x91, imm := 1, di := 1 } = true ∧ readyB s { code := 0x93, imm := 1, di := 1, dout := 1 } = true ∧
     (s.begun 0 { code := 0x91, imm := 1, di := 1 }).mayOut 0 3 = true ∧
     (s.begun 0 { code := 0x91, imm := 1, di := 1 }).sbRoom 0 = true) ∧
    (let s := (arcade {}).setThr 0 { st := .parked, park := some (.load (.arcIn 3)), held := [⟨0, 3, false, 7⟩] }
     s.parkedOn 0 = some (.load (.arcIn 3)) ∧ (s.thrOf 0).heldFor 3 = some 7 ∧ s.budget 0 = 0) ∧
    (let s := (arcadeFull {}).setThr 0 { st := .parked, park := some (.arc (.arcIn 3)) }
     s.parkedOn 0 = some (.arc (.arcIn 3)) ∧ 0 < (s.arcOf 3).readable) ∧
    (let s := (arcade {}).setThr 0 { st := .parked, park := some (.arc (.arcIn 3)) }
     s.parkedOn 0 = some (.arc (.arcIn 3)) ∧ (s.arcOf 3).readable = 0 ∧ s.mayIn 0 3 = true) := by decide +kernel

theorem witness_PinMileArmResults : (∀ r ∈ ([{ code := 0x94, imm := 1 }, { code := 0x95, imm := 1 }, { code := 0x96, dout := 1 },
      { code := 0x97, di := 2, dout := 1 }] : List Row), readyB (lane { ds := [15, 3] }) r = true) ∧
    base.ownerOf .pin 95 = base.ownerOf .thread 0 ∧ base.ownerOf .lamplighter 15 = base.ownerOf .thread 0 := by decide +kernel

theorem witness_WaitingResults : (∀ r ∈ ([{ code := 0xA0 }, { code := 0xA1 }, { code := 0xA2, lane := true }, { code := 0xA3, di := 2 },
      { code := 0xA4 }] : List Row), readyB (lane { ds := [4, 0x100], pend := true }) r = true) ∧
    ((lane { ds := [4, 0x100] }).thrOf 0).pend = false ∧
    (base.setThr 0 { st := .parked, park := some .yield }).parkedOn 0 = some .yield ∧
    base.ownStores 0 = [] ∧ buffered.ownStores 0 ≠ [] ∧
    (∀ r ∈ ([{ code := 0xA3, di := 2 }, { code := 0xA4 }] : List Row), readyB ((lane { ds := [4, 0x100] }).setBlk 0
      { sb := [{ thr := 0, addr := 0x10010, size := 4, data := 7 }] }) r = true) ∧
    (let line := 8; 32 * line < 0x100 + 4 ∧ 0x100 < 32 * (line + 1)) := by decide +kernel

/-- What RETE returns to. -/
def saved (rep : Option RepSt) : SaveReg := { pc := 0x55, rep := rep, flags := { z := true } }

theorem witness_EventEntryResults :
    (∀ r ∈ ([{ code := 0xA5, di := 1 }, { code := 0xA6, lane := true, di := 1 }, { code := 0xA7, lane := true },
      { code := 0xA8, lane := true }] : List Row), ∀ v ∈ [none, some (saved none), some (saved (some ⟨0x4D, false, 1⟩))],
      readyB (lane { ds := [4], save := v }) r = true ∧ readyB (lane { ds := [4], save := v, rpt := 3 }) r = true) ∧
    (evtBad 256 || base.evtDenied (base.ownerOf .thread 0) 256) = false ∧
    (evtBad 0xFFFFFFFF || base.evtDenied (base.ownerOf .thread 0) 0xFFFFFFFF) = true ∧
    (lane { vec := 0x44, entEn := true, entPend := true }).entryOpen 0 = true ∧
    (lane { vec := 0x44, entEn := false, entPend := true }).entryOpen 0 = false := by decide +kernel

theorem witness_RepeatResults : (∀ r ∈ ([{ code := 0xB0, imm := 1, di := 1 }, { code := 0xB1, imm := 1, di := 1 },
      { code := 0xB2, dout := 1 }, { code := 0xB3, di := 1 }] : List Row),
      readyB (lane { ds := [0, 9] }) r = true ∧ readyB (lane { ds := [255, 9] }) r = true) ∧ repLen 0x4D = some 1 ∧ (255 : Word).toNat ≤ 255 := by decide +kernel

theorem witness_BranchResults : ∀ r ∈ ([{ code := 0xC0, imm := 1 }, { code := 0xC1, imm := 2 },
    { code := 0xC2, imm := 1, pr := .worker, di := 1 }, { code := 0xC5, imm := 2, pr := .worker, di := 1 },
    { code := 0xC6, imm := 2, rout := 1 }, { code := 0xC7, di := 1, rout := 1 }, { code := 0xC8, di := 1 },
    { code := 0xC9, ri := 1 }, { code := 0xCA, imm := 1, di := 1, dout := 1 }] : List Row),
    (lane { ds := [0, 9], rs := [0x300] }).Ready 0 r := ready_all (lane_wf _) (by decide +kernel)

theorem witness_BranchConditions : (aven { ds := [1, 0xFFFFFFFF] }).avenue 0 = true ∧ (lane {}).avenue 0 = false ∧
    (∀ r ∈ ([{ code := 0xE0, imm := 1, pr := .worker, di := 2 }, { code := 0xE7, imm := 1, pr := .worker, di := 2 },
      { code := 0xE8, imm := 2, pr := .worker, di := 2 }, { code := 0xEF, imm := 2, pr := .worker, di := 2 }] : List Row),
      readyB (aven { ds := [1, 0xFFFFFFFF] }) r = true) ∧
    (∀ r ∈ ([{ code := 0xE0, imm := 1, pr := .worker }, { code := 0xED, imm := 1, pr := .worker },
      { code := 0xEE, imm := 2, pr := .worker }, { code := 0xEF, imm := 2, pr := .worker }] : List Row),
      readyB (lane {}) r = true) := by decide +kernel

theorem witness_TrapAndFaultResults : readyB (lane {}) { code := 0xF0, imm := 1 } = true ∧ readyB (lane {}) { code := 0xF1 } = true ∧
    ((lane {}).debugOpen && (lane {}).flag F.LC_DBGCTL_BKEN) = false ∧
    (((lane {}).raise F.LC_DBGCTL_BKEN).debugOpen && ((lane {}).raise F.LC_DBGCTL_BKEN).flag F.LC_DBGCTL_BKEN) = true ∧
    readyB ((lane {}).raise F.LC_DBGCTL_BKEN) { code := 0xF1 } = true ∧
    (∀ op ∈ [0, 0x15, 0xFF], (lane {}).canIssue 0 { code := op, good := false } = true) ∧ ((lane {}).fetch 0 1).2 = .ok := by
  decide +kernel

/-! ### Witnesses: the Clocktower -/

/-- The state with a step, or a change of SEL, that waits for the next CK_TIME cycle. -/
def steps (l : List (Bool × CtStep)) (x : Option Bool) : State := { base with ct := { base.ct with steps := l, selNext := x } }

theorem witness_ClockWriteResults_cycle : (steps [(true, .to 1 (some 2))] none).ct.autoDue = false ∧
    (∀ x : Bool, (steps [(x, .to 1 (some 2))] none).ct.steps = [(x, .to 1 (some 2))] ∧
      (steps [(x, .to 1 (some 2))] none).servo x = false) ∧
    (∀ x : Bool, (steps [] (some x)).ct.selNext = some x) ∧ (steps [] (some true)).flag F.CT_CTRL_SEL = false ∧
    (steps [] (some true)).fld F.CT_CTRL_STEPLT = 0 := by decide +kernel

theorem witness_ClockWriteResults : ∀ x : Bool,
    base.writes (.fn 0) .CT_INCR_LO (domIx x) 5 = true ∧ base.writes (.fn 0) .CT_INCR_HI (domIx x) 0x400 = true ∧
    base.writes (.fn 0) .CT_DT_W0 (domIx x) 5 = true ∧ base.writes (.fn 0) .CT_DT_W1 (domIx x) 5 = true ∧
    (({ base with holdMark := base.holdMark.set (fun _ => false) (snapKey (.fn 0) .CT_DT_W0 (domIx x)) true } : State).holdMark.get
      (fun _ => false) (snapKey (.fn 0) .CT_DT_W0 (domIx x)) = true) ∧
    base.servo x = false ∧ base.flag F.CT_CTRL_SEL = false ∧ base.fld F.CT_CTRL_STEPLT = 0 ∧
    base.writes (.fn 0) .CT_SRV_CFG (domIx x) 0x10800 = true ∧ base.writes (.fn 0) .CT_SRV_CFG (domIx x) 0x10803 = true ∧
    (base.setReg .CT_SRV_CFG (domIx x) 0x10803).servo x = true ∧
    base.writes (.fn 0) .CT_CTRL 0 0 = true ∧ base.writes (.fn 0) .CT_CTRL 0 1 = true := by decide +kernel

/-- Both servos are on, and each has a measurement of 600 ns. -/
def measured : State := { (base.setReg .CT_SRV_CFG 0 0x10803).setReg .CT_SRV_CFG 1 0x10803 with
  ct := { base.ct with meas := [(false, 153600), (true, 153600)], d := 1, winOpen := true,
                       a := { silence := 2 ^ 60 }, b := { silence := 2 ^ 60 } } }

theorem witness_ClockEventResults : (∀ x : Bool, ∃ rest, takeMeas x measured.ct.meas = some (153600, rest)) ∧
    (∀ x : Bool, measured.servo x = true ∧ (measured.setFld F.CT_SRV_STEP_STEP (domIx x) 0).fld F.CT_SRV_STEP_STEP (domIx x) = 0 ∧
      256 * measured.fld F.CT_SRV_LOCK_LOCKTH (domIx x) ≤ 153600 ∧
      (measured.dom x).lostDone = false ∧ measured.lossAt x ≤ (measured.dom x).silence ∧
      measured.domSt x ≠ 0 ∧ (measured.setDomSt x 0).domSt x = 0) ∧
    measured.timeRuns = true ∧ measured.ct.d ≠ 0 ∧ measured.ct.d.natAbs ≤ measured.slew ∧ measured.ct.steps = [] ∧
    measured.ct.selNext = none ∧ measured.ct.autoDue = false ∧
    measured.ct.winOpen = true ∧ measured.ct.winCnt < 2 ^ measured.ct.winW ∧ measured.ct.winBad = false := by
  refine ⟨fun x => ?_, ?_⟩
  · cases x <;> exact ⟨_, rfl⟩
  · decide +kernel

/-- The first AON edge after CURFEW has come. -/
def woken : State := { base with aon := { base.aon with reconDue := true, rcSeen := false, latch := { calv := true } } }

theorem witness_ClockEventResults_wake : woken.timePowered = true ∧ woken.aon.reconDue = true ∧ woken.aon.prev = false ∧
    woken.aon.latch.calv = true ∧ woken.aon.rcSeen = false ∧ woken.aon.supplyBad = false ∧ woken.aon.latch.stA < 4 ∧
    woken.aon.latch.stB < 4 := by decide +kernel

/-- The state with a field of an active copy replaced. -/
def actFld (s : State) (f : Field) (i v : Nat) : State := s.setActw f.reg i (f.put (s.actw f.reg i) v)

/-- One second of LT has passed. -/
def later (s : State) : State := { s with ct := { s.ct with a := { s.ct.a with t := 10 ^ 9 * 2 ^ 40 } } }

theorem witness_TickOccurs : (later base).timeRuns = true ∧
    (later base).ct.kMax < (((later base).ltNs : Int) - (later base).tickPhase) / (later base).tickPeriod ∧
    ((base.ltNs : Int) - base.tickPhase) / base.tickPeriod ≤ base.ct.kMax ∧ (later base).ct.sc = false ∧
    ((later base).ct.kMax + 1) * (later base).tickPeriod + (later base).tickPhase - 160 ≤ ((later base).ltNs : Int) ∧
    ({ base with ct := { base.ct with sc := true } } : State).ct.sc = true := by decide +kernel

/-- Thread 0 with a tick release and a budget of 40 slots. -/
def released (th : Thr) (used : Nat) : State :=
  ((((later base).setFld F.BK_TCFG_RELEN 0 1).setFld F.BK_BUDGET_BUDGET 0 40).setFld F.BK_USED_USED 0 used).setThr 0 th

theorem witness_ReleaseResults :
    (∀ st ∈ [ThrSt.waiting, .active, .parked], let s := released { st := st } 0
      s.thrUsed 0 = true ∧ s.modeRuns 0 = true ∧ s.blockOn 0 = true ∧ s.flag F.BK_TCFG_RELEN 0 = true ∧
      (s.thrOf 0).st = st ∧ s.ct.tickNom + 4 * s.fld F.BK_TCFG_RELOFS 0 ≤ s.ltNs) ∧
    (((released { st := .suspended, ripe := true } 0).setFld F.BK_TCFG_CLASS 0 1).avenue 0 = true) ∧
    ThrSt.inAct .parked = true ∧ (released {} 0).budget 0 = 40 ∧
    (released { st := .active } 40).budget 0 ≤ (released { st := .active } 40).fld F.BK_USED_USED 0 ∧
    (released { st := .parked } 39).budget 0 ≤ (released { st := .parked } 39).fld F.BK_USED_USED 0 + (4 + 3) / 4 ∧
    (released { st := .active } 39).fld F.BK_USED_USED 0 < (released { st := .active } 39).budget 0 := by decide +kernel

/-! ### Witnesses: field ports and two-wire ports -/

/-- Field port 31, an enabled controller or target, in the given state. -/
def port (target : Nat) (u : FpUnit) : State :=
  (actFld (actFld (actFld (actFld base F.FP_CFG_EN 31 1) F.FP_CFG_ROLE 31 target) F.FP_LAUNCH_EN 255 1) F.FP_RPL_RPLOFS 31 1).setFp 31 u

/-- A frame that is out. -/
def outFrame : FpFrame := { at_ := 256, entry := some 7, sent := [7] }

/-- Field port 31 after a tick at LT 100, when much later the CK_FIELD edge of its entry 7 has come. -/
def due (u : FpUnit) : State := later { port 0 u with ct := { base.ct with tickNom := 100 } }

theorem witness_FieldPortControllerResults :
    (∀ s ∈ [later (port 0 {}), due {}, due { frame := some outFrame }], s.timeRuns = true ∧ s.fpCtl 31 = true ∧
      s.fpDue 31 s.fieldEdge 7 = true ∧ (∀ j < 8, j ≠ 7 → s.fpDue 31 (s.fpNominal 31 7) j = false)) ∧
    (later (port 0 {})).fpNominal 31 7 ≤ (later (port 0 {})).ct.tickPrev ∧
    ((due {}).ct.tickPrev < (due {}).fpNominal 31 7 ∧ ((due {}).fpOf 31).frame = none ∧ (due {}).actB F.FP_SEL_SELCHK 31 = false) ∧
    (let s := actFld (due {}) F.FP_SEL_SELCHK 31 1; s.actB F.FP_SEL_SELCHK 31 = true ∧
      (actFld s F.FP_SEL_SELPIN 31 127).fpSelected 31 = false) ∧
    (due { done := [7] }).fpDue 31 (due { done := [7] }).fieldEdge 7 = false ∧
    (∀ f ∈ [none, some outFrame], let s := later (port 0 { pend := true, frame := f, done := [7] }); s.timeRuns = true ∧ s.fpCtl 31 = true ∧
      (s.fpOf 31).pend = true ∧ (∀ j < 8, s.fpDue 31 s.fieldEdge j = false) ∧ (s.fpOf 31).frame = f) ∧
    (∀ s ∈ [base, port 0 { pend := true }, port 0 { frame := some outFrame }, port 0 {}], s.writes (.fn 0) .FP_CMD 31 1 = true) ∧
    base.fpCtl 31 = false := by decide +kernel

theorem witness_FieldPortControllerResults_end :
    (∀ s ∈ [port 0 { frame := some outFrame, launched := 1 }, later (port 0 { frame := some outFrame, launched := 1 })],
      s.timeRuns = true ∧ (s.fpOf 31).frame = some outFrame ∧ (s.fpOf 31).launched ≤ s.act F.FP_RPL_RPLOFS 31 ∧
      (s.presented.filter fun (k : Packet) => k.typ == 1 && k.idx == 31).length < 2) ∧
    (let e (s : State) := outFrame.at_ + s.fpF 31 * s.fpW 31 * (s.fpT 31 * 2 ^ 40)
     (port 0 {}).lt40 < e (port 0 {}) ∧ e (later (port 0 {})) ≤ (later (port 0 {})).lt40) ∧
    (let s : State := { port 0 { frame := some outFrame, launched := 2 } with
       presented := [{ typ := 1, idx := 31, ms := 0, payload := [] }, { typ := 1, idx := 31, ms := 0, payload := [] }] }
     s.act F.FP_RPL_RPLOFS 31 < (s.fpOf 31).launched ∧ 2 ≤ (s.presented.filter fun (k : Packet) => k.typ == 1 && k.idx == 31).length) ∧
    ((port 0 { rel := [7] }).fpOf 31).rel = 7 :: [] ∧ (port 0 { rel := [7] }).lt40 < 7 ∧ 7 ≤ (later (port 0 { rel := [7] })).lt40 ∧
    (∃ g, (actFld (port 0 { rel := [7] }) F.FP_SEL_SELPIN 31 95).fpPin 31 = some g) ∧
    (actFld (port 0 { rel := [7] }) F.FP_SEL_SELPIN 31 127).fpPin 31 = none :=
  ⟨by decide +kernel, by decide +kernel, by decide +kernel, by decide +kernel, by decide +kernel, by decide +kernel,
    ⟨95, by decide +kernel⟩, by decide +kernel⟩

/-- A select period. -/
def period (ignore : Bool) : FpSel := { ms := 256, reply := .idle, sent := [7], tag := some 3, ignore := ignore }

/-- The same port with its select on GP95, whose ball has the given level. -/
def selAt (target : Nat) (u : FpUnit) (b : Bool) : State := (actFld (port target u) F.FP_SEL_SELPIN 31 95).setPin 95 { ball := b }

theorem witness_FieldPortTargetResults :
    (∀ s ∈ [port 1 {}, port 0 {}], s.writes (.fn 0) .FP_CMD 31 2 = true ∧ s.writes (.fn 0) .FP_CMD 31 4 = true) ∧
    (port 1 {}).fpTarget 31 = true ∧ (port 0 {}).fpTarget 31 = false ∧
    (∀ b : Bool, (selAt 1 {} b).fpBall 31 = (b == (selAt 1 {} b).fpPol 31)) ∧
    (let s := selAt 1 {} ((port 1 {}).fpPol 31); s.timeRuns = true ∧ s.fpEn 31 = true ∧ s.fpTarget 31 = true ∧ s.fpBall 31 = true ∧
      (s.fpOf 31).sel = none ∧ (s.fpOf 31).first = true) ∧
    (∀ b : Bool, ((selAt 1 { sel := some (period b) } true).fpOf 31).sel = some (period b) ∧ (period b).ignore = b) ∧
    (let w := (port 1 {}).fpW 31
     256 * w < (List.replicate (256 * w + 1) true).length ∧ (List.replicate (w + 1) true).length % w ≠ 0 ∧
      (List.replicate (256 * w) true).length ≤ 256 * w ∧ (List.replicate (256 * w) true).length % w = 0 ∧
      List.replicate (w + 1) true ≠ []) := by
  decide +kernel

/-- Two-wire port 7, enabled, in the given role and state. -/
def bus (role : Nat) (u : TwUnit) : State := (actFld (actFld base F.TW_CFG_EN 7 1) F.TW_CFG_ROLE 7 role).setTw 7 u

/-- A transaction of a controller. -/
def xact (wait : Bool) (losses : Nat) : TwXact :=
  { addr := 0x50, a10 := false, wlen := 1, rlen := 1, retry := 2, bytes := [7], start := 256, wait := wait, losses := losses }

theorem witness_TwoWireBusResults :
    (∀ s ∈ [base, bus 1 {}, bus 0 { pend := true }, bus 0 { free := true }, bus 0 {}], s.writes (.fn 0) .TW_CMD 7 1 = true) ∧
    base.twEn 7 = false ∧ (bus 1 {}).twCtl 7 = false ∧ base.twNames 7 = false ∧ (base.setFld F.TW_XCFG_ADDR 7 0x77).twNames 7 = true ∧
    ((bus 0 {}).twEn 7 = true ∧ (bus 0 {}).twCtl 7 = true ∧ (bus 0 {}).twStuck 7 = false ∧
      ((bus 0 {}).raise F.TW_STATUS_STUCK 7).twStuck 7 = true) ∧
    ((bus 0 { pend := true, free := true }).twOf 7).mayStart = true ∧ ((bus 0 {}).twOf 7).mayStart = false ∧
    (∀ b : Bool, ((bus 0 { xact := some (xact b 0) }).twOf 7).xact = some (xact b 0) ∧ (xact b 0).wait = b) ∧
    (xact false 0).byteKind 0 ≠ 0 ∧ (xact false 0).sends 0 7 = some true ∧ (xact false 0).sends 3 8 = some true ∧
    (xact true 3).retry < (xact true 3).losses ∧ (xact true 2).losses ≤ (xact true 2).retry ∧
    ((bus 0 { xact := some (xact true 2), free := true }).twOf 7).open_ = true := by decide +kernel

theorem witness_TwoWireBusResults_events :
    (∀ r ∈ [TwReq.none, .waiting, .holding, .released], let s := later (bus 2 { req := r })
      (s.twOf 7).req = r ∧ (s.twOf 7).talks = false ∧ (s.twOf 7).busy = false ∧ (s.twOf 7).quiet + s.twBuf 7 ≤ s.lt40) ∧
    (let s := actFld (bus 2 { req := .released, busy := true, follows := true }) F.TW_CFG_OWNADDR 7 0x50
     s.twAnswer 7 = some 0x50 ∧ (s.twOf 7).busy = true ∧ (s.twOf 7).follows = true) ∧
    ((bus 0 { free := true }).twOf 7).free = true ∧
    (let s := actFld (bus 0 { free := true }) F.TW_CFG_IBREN 7 1; s.act F.TW_CFG_IBREN 7 = 1 ∧ s.twCtl 7 = true ∧ s.twStuck 7 = false) ∧
    (∀ v ∈ [0, 1], (actFld (bus 0 { free := true }) F.TW_TO_AUTOCLR 7 v).actB F.TW_TO_AUTOCLR 7 = (v == 1)) := by decide +kernel

theorem witness_TwoWireRecoveryResults :
    (let s := bus 0 { rollDue := some 256, free := true }; let u := s.twOf 7
     u.rollDue = some 256 ∧ u.open_ = true ∧ u.talks = false ∧ s.twEn 7 = true ∧ s.twStuck 7 = false) ∧
    ((bus 0 { roll := some 256 }).twOf 7).roll = some 256 ∧
    (let s := bus 0 { roll := some 256 }; lowestAns (s.twAnswer 7) (some 0x50) = some 0x50 ∧ lowestAns (s.twAnswer 7) none = none) ∧
    (∀ w ∈ [8, 16, 2, 4], (bus 2 {}).writes (.fn 0) .TW_CMD 7 (w32 w) = true) ∧
    (bus 2 {}).twTgt 7 = true ∧ (bus 0 {}).twTgt 7 = false ∧ (bus 2 {}).twCtl 7 = true ∧ (bus 1 {}).twCtl 7 = false ∧
    ((bus 2 { req := .holding }).twOf 7).req = .holding ∧ ((bus 0 { clear := true }).twOf 7).clear = true ∧
    ((bus 0 { pwr := .pulse }).twOf 7).pwr = .pulse ∧ ((bus 0 { pwr := .wait }).twOf 7).pwr = .wait ∧
    ((bus 0 {}).twOf 7).xact = none ∧ (bus 0 {}).twEn 7 = true ∧
    (∀ b : Bool, (bus 1 {}).twServes 7 b = true) ∧
    (∀ v ∈ [0, 1], ((bus 1 {}).setFld F.TW_TGT_ARM 7 v).flag F.TW_TGT_ARM 7 = (v == 1)) := by decide +kernel

/-! ### Witnesses: head links, Plaza and Arcades, Crossings, pins and Lamplighters -/

/-- Head link 1, enabled, a hub or a node, in the given state and with the given HL_STATUS.STATE. -/
def link (role st : Nat) (u : HlUnit) : State :=
  ((actFld (actFld base F.HL_CFG_EN 1 1) F.HL_CFG_ROLE 1 role).setFld F.HL_STATUS_STATE 1 st).setHl 1 u

/-- A table load at the hub. -/
def load (sends : Nat) (ack : Option Nat) : HlLoad :=
  { up := true, tab := 7, num := 1, codes := List.replicate 36 0, sends := sends, sentSfn := 65535, send := false, ack := ack }

/-- A burst of one codeword of 32 data bytes 7, with its parity and with its first e bytes in error. -/
def burst (e : Nat) : HlRx := { seed := 0x7FF, snr := [], cws := [(List.replicate 32 7 ++ rsParity (List.replicate 32 7)).zipIdx.map
  fun (b : Nat × Nat) => BitVec.ofNat 8 (if b.2 < e then Nat.xor b.1 0xFF else b.1)] }

/-- The comma of both running disparities, and a data byte that keeps the disparity (8b/10b). -/
theorem test_code_groups : codeGroup false (.k 0xBC) = 0b0011111010 ∧ codeGroup true (.k 0xBC) = 0b1100000101 ∧
    codeGroup false (.d 0x50) = 0b0110110101 ∧ codeGroup true (.d 0x50) = 0b1001000101 := by decide +kernel

/-- The code corrects eight byte errors and not nine (R158). -/
theorem test_header_errors : headerOf (burst 9).decoded = none ∧ headerOf (burst 8).decoded = some (List.replicate 24 7) := by
  decide +kernel

/-- The superframe of the present tick. -/
def layAt (sfs : Nat) : HlLay := { sfs := sfs }

/-- A segment of three payload words takes two words of region 11, and a poisoned one reads as all ones. -/
theorem test_head_buffer : let s := (link 1 0 {}).hlPut 1 { ch := 3, at_ := 0, words := [1, 2, 3] }
    ((s.hlOf 1).txq.map (·.cells)) = [[4096, 4097]] ∧
      ((s.setEcc rgHead 4096 { psn := true }).hlFetch ((s.hlOf 1).txq.headD { ch := 0, at_ := 0, words := [] })).2.words =
        [0xFFFFFFFF, 0xFFFFFFFF, 3] := by decide +kernel

theorem witness_HeadLinkHubResults :
    (let s := later (link 0 1 { due := [layAt 256] })
     s.timeRuns = true ∧ s.hlHub 1 = true ∧ (s.hlOf 1).due = layAt 256 :: [] ∧ (layAt 256).sfs ≤ s.stamp 0 ∧
      s.hlBellMeets 1 (layAt 256) = false ∧
      (later (link 0 1 { due := [layAt 256], bellEnd := some 512 })).hlBellMeets 1 (layAt 256) = true) ∧
    (link 0 1 { due := [layAt 256] }).stamp 0 < (layAt 256).sfs ∧ (link 0 1 {}).hlHub 1 = true ∧ ((link 0 1 {}).hlOf 1).due = [] ∧
    (∀ k ∈ [3, 4], let s := link 0 1 { sfn := 3, load := some (load k none) }; let u := s.hlOf 1
      u.load = some (load k none) ∧ (load k none).send = false ∧ (load k none).ack = none ∧
      4 ≤ (((u.sfn : Int) - (load k none).sentSfn) % 65536).toNat ∧ u.sfEnd ≤ s.ltMs) ∧
    (∀ k ∈ [8, 9], let s := later (link 0 1 { sfn := k, due := [layAt 256], load := some (load 1 (some 0)) }); let u := s.hlOf 1
      u.load = some (load 1 (some 0)) ∧ (load 1 (some 0)).tab < 8 ∧ (load 1 (some 0)).codes.length = 36 ∧
      (((u.sfn : Int) - 0) % 65536).toNat = k ∧ u.due = layAt 256 :: [] ∧ (layAt 256).sfs ≤ s.ltMs) ∧
    (link 0 1 { due := [layAt 256] }).ltMs < (layAt 256).sfs := by decide +kernel

theorem witness_HeadLinkHubResults_burst :
    (let s := later (link 0 0 { wait := true, t1 := (later base).stamp 0 - 1024 * (4 * 1152 + 768) }); let u := s.hlOf 1
     u.wait = true ∧ ((((s.stamp 0 : Int) - 16 * s.fld F.HL_CAL_RXLAT 1) - ((u.t1 : Int) + 1024 * (u.lay.nd * 1152 + u.lay.ugap))).natAbs ≤
       1024 * (4 * s.act F.HL_LINK_SRCH 1)) ∧
     ((burst 9).seed = if s.flag F.HL_STATUS_BASEU 1 then 0x7FF
       else tableSeed (s.fld F.HL_STATUS_UTAB 1) (u.genOf true (s.fld F.HL_STATUS_UTAB 1)))) ∧
    (let s := later (link 0 0 { wait := true }); let u := s.hlOf 1
     1024 * (4 * s.act F.HL_LINK_SRCH 1) <
       (((s.stamp 0 : Int) - 16 * s.fld F.HL_CAL_RXLAT 1) - ((u.t1 : Int) + 1024 * (u.lay.nd * 1152 + u.lay.ugap))).natAbs) := by
  decide +kernel

/-- A down header that a node has kept. -/
def header (launch : Int) : HlHdr :=
  { sfn := 7, dtab := 0, utab := 0, prbu := false, base := true, t1 := 0, dval := false, delay := 0, nd := 1, nu := 1, ugap := 0, t2 := launch }

theorem witness_HeadLinkNodeResults : (link 1 0 {}).timeRuns = true ∧ (link 1 0 {}).hlNode 1 = true ∧
    (∀ st ∈ [0, 1], (link 1 st {}).hlState 1 = st) ∧ ((link 1 0 {}).hlOf 1).holds false (burst 9).seed = true ∧
    (let s := later (link 1 1 { hdr := some (header (-2000000)) })
     (s.hlOf 1).hdr = some (header (-2000000)) ∧ s.hlState 1 ≠ 0 ∧ (header (-2000000)).launch ≤ (s.ltMs : Int) ∧
      s.hlNodeBell 1 (header (-2000000)) = false ∧
      (later (link 1 1 { bellEnd := some 2000000 })).hlNodeBell 1 (header (-2000000)) = true) ∧
    ((link 1 1 {}).ltMs : Int) < (header 0).launch := by
  decide +kernel

theorem witness_HeadLinkCommands :
    (let s := link 0 1 { miss := 255 }; s.hlEn 1 = true ∧ s.hlState 1 ≠ 0 ∧ s.act F.HL_LINK_NLOSS 1 ≤ (s.hlOf 1).miss) ∧
    (∀ s ∈ [link 0 1 {}, link 1 1 {}], s.writes (.fn 0) .HL_CMD 1 1 = true ∧ s.writes (.fn 0) .HL_CMD 1 2 = true ∧
      s.writes (.fn 0) .HL_CMD 1 4 = true ∧ s.writes (.fn 0) .HL_TBLCMD 1 (w32 (16 + 8 + 7)) = true) ∧
    (link 0 1 {}).act F.HL_CFG_ROLE 1 ≠ 1 ∧ (link 1 1 {}).act F.HL_CFG_ROLE 1 = 1 ∧
    (∀ e ∈ [0, us256 + 1], let s := link 0 1 { bellEnd := some e }
      (s.hlOf 1).bellEnd = some e ∧ (e ≤ s.ltMs + us256 ↔ e = 0)) ∧
    (∀ st ∈ [0, 1, 2], ((link 0 1 {}).setFld F.HL_TBLSTAT_ST 1 st).fld F.HL_TBLSTAT_ST 1 = st) ∧
    symbolBits (unpackCodes (List.replicate 36 0)) < 64 ∧ 64 ≤ symbolBits (unpackCodes (List.replicate 36 9)) := by
  decide +kernel

/-- A packet with the given destinations is presented. -/
def presented (d : Option (List Nat)) : State :=
  { base with presented := [{ typ := 15, idx := 255, ms := 0, payload := [7], dests := d }] }

theorem witness_PlazaArcadeResults :
    (∀ d ∈ [none, some [0], some [63], some [0x80], some [0xFF], some [0x100], some [0x13E], some [0x140], some [0x17E]],
      takePacket 15 255 (presented d).presented = some ({ typ := 15, idx := 255, ms := 0, payload := [7], dests := d }, [])) ∧
    takePacket 15 255 base.presented = none ∧
    base.pzClass (.thr 0) ≠ .a ∧ base.pzClass .bar0 ≠ .a ∧ base.pzClass .packet = .a ∧ (aven {}).pzClass (.thr 0) = .a ∧
    base.pzBound .market = true ∧ (base.setBlk 3 { det := true }).pzBound .market = false ∧
    (let s := actFld ((later base).setArc 63 { pc := 4, rel := 0, idle := some 0, act := true }) F.ARC_TIDLE_TIDLE 63 1
     s.arcIdleDue 63 = true) ∧ base.arcIdleDue 63 = false ∧ base.writes (.fn 0) .ARC_CMD 63 1 = true ∧
    (∀ b : Bool, ((base.setArc 63 { flp := b }).arcOf 63).flp = b) ∧ (base.arcOf 63).cur = none ∧
    (let u := (base.setArc 63 { cur := some 1 }).arcOf 63; u.cur = some 1 ∧ u.rd < 1) := by decide +kernel

theorem witness_CrossingEngineResults :
    (∃ e, ({ base with xq := [{ src := 0, ms := 0, what := .value 1 }] } : State).xq = e :: []) ∧ base.xq = [] ∧
    (let s := later ((actFld (actFld base F.XC_CFG_PRIM 127 3) F.XC_P1_P 127 1000).setCell 127 { act := true, win := some 256 })
     (s.cellOf 127).act = true ∧ (s.cellOf 127).inert = false ∧ s.xPrim 127 = 3 ∧ (s.cellOf 127).win = some 256 ∧
      256 + 256 * s.act F.XC_P1_P 127 + s.act F.XC_CFG_GRACE 127 * us256 ≤ s.ltMs ∧ s.xq = []) ∧
    base.writes (.fn 0) .XC_CMD 127 1 = true ∧ base.writes (.fn 0) .XC_CMD 127 2 = true := by
  refine ⟨⟨_, rfl⟩, rfl, by decide +kernel, by decide +kernel, by decide +kernel⟩

/-- A committed pulse. -/
def pulse (late : Bool) : LlPulse :=
  { rise := 50 * 2 ^ 40, fall := 100 * 2 ^ 40, late := late, a := 400, src := .reg, i := 0, passed := 0 }

/-- An arm of instant a that arrived at 0. -/
def arm (a : Int) : LlArm := { a := a, at_ := 0, src := .reg, i := 0 }

/-- The device with GP95's ball and accepted level as given. -/
def balled (ball lvl : Bool) : State := base.setPin 95 { ball := ball, lvl := lvl }

theorem witness_PinLamplighterResults :
    (base.timeRuns = true ∧ (∀ b : Bool, ((balled b b).pinOf 95).ball = b) ∧
      (∀ b : Bool, let u := (balled (!b) b).pinOf 95; u.ball ≠ b ∧ u.lvl = b) ∧
      (∀ b : Bool, let s := balled (!b) (!b); let u := s.pinOf 95; u.ball ≠ b ∧ u.lvl ≠ b ∧ u.smp ≠ some s.lt40 ∧ s.pmOn 95 = false) ∧
      0 < (actFld base F.XC_PMCFG_FILT 95 1).act F.XC_PMCFG_FILT 95 ∧ base.act F.XC_PMCFG_FILT 95 = 0 ∧
      (∀ v ∈ [0, 1], (actFld base F.LL_CAPCFG_EDGE 95 v).capWants 95 false = (v == 1)) ∧
      (actFld base F.LL_CAPCFG_EN 95 1).actB F.LL_CAPCFG_EN 95 = true ∧ base.act F.LL_CAPCFG_CLIM 95 = 0) ∧
    (let s := later ((actFld (actFld base F.XC_PMCFG_EN 95 1) F.XC_PMCFG_STUCKT 95 1).setPin 95 { lvl := true, last := some 0 })
     (s.pinOf 95).last = some 0 ∧ s.pmOn 95 = true ∧ 0 < s.act F.XC_PMCFG_STUCKT 95 ∧
      s.pmActive 95 true = true ∧ s.flag F.XC_PMSTAT_STUCKA 95 = false ∧
      0 + s.act F.XC_PMCFG_STUCKT 95 * 1000 * us256 ≤ s.ltMs) ∧ (base.pinOf 95).last = none ∧
    base.writes (.thr 0) .GP_OUTSET 2 0xFFFFFFFF = true ∧ base.writes (.thr 0) .GP_OUTCLR 2 0xFFFFFFFF = true ∧
    base.pinMask (base.quarterOf (.thr 0)) 2 = 0xFFFFFFFF ∧
    ({ base with owner := [(Kind.pin.key 64, 1)] } : State).pinMask (base.quarterOf (.thr 0)) 2 = 0xFFFFFFFE ∧
    base.writes (.fn 0) .LL_CMD 15 1 = true ∧ base.writes (.fn 0) .LL_CMD 15 2 = true ∧
    (∀ b : Bool, ((base.setLl 15 { act := b }).llOf 15).act = b) ∧
    (base.setFld F.HP_QQUOTA_LLQ 0 1).llPermit (base.ownerOf .lamplighter 15) = true ∧
    (base.setFld F.HP_QQUOTA_LLQ 0 0).llPermit (base.ownerOf .lamplighter 15) = false ∧
    (base.llCommitDue 15).llOutranked 15 0 = false ∧
    (let s := (later base).setLl 15 { arm := some { a := 10 ^ 11, at_ := (later base).lt40, src := .thr 0, i := 0 } }
     (s.llCommitDue 15).llOutranked 15 0 = true) := by decide +kernel

theorem witness_PinLamplighterResults_pulse :
    (∀ a ∈ [(10 ^ 6 : Int), -5], let s := later (base.setLl 15 { act := true, arm := some (arm a) })
      (s.llOf 15).arm = some (arm a) ∧ s.timeRuns = true ∧ s.actB F.LL_CFG_MODE 15 = false ∧ a * ps125 - llLead ≤ (s.lt40 : Int) ∧
      (((s.llOf 15).eMin 0 : Int) ≤ a * ps125 ↔ a = 10 ^ 6) ∧ ((s.llOf 15).eMin 0 : Int) - llLead ≤ (s.lt40 : Int)) ∧
    ((base.lt40 : Int) < max ((10 ^ 6 : Int) * ps125) ((base.setLl 15 {}).llOf 15 |>.eMin 0) - llLead) ∧
    (∀ b : Bool, (actFld base F.LL_CFG_LATEP 15 b.toNat).actB F.LL_CFG_LATEP 15 = b) ∧
    (let s := later (base.setLl 15 { com := [pulse false] })
     (s.llOf 15).com = pulse false :: [] ∧ (s.llOf 15).run = none ∧ (pulse false).rise ≤ s.lt40 ∧ base.lt40 < (pulse false).rise) ∧
    ((base.setLl 15 { run := some (pulse true) }).llOf 15).run = some (pulse true) ∧
    (later base).timeRuns = true ∧ (pulse true).fall ≤ (later base).lt40 := by decide +kernel

/-! ### Witnesses: ring ports -/

/-- A ring of Parliar, its Kerb and both receivers as given, LT at one second. -/
def ring (kst lock master : Nat) (r : Ring) : State :=
  { later (actFld (actFld (((base.setFld F.RG_KSTAT_KST 0 kst).setFld F.RG_STATUS_RXL0 0 lock).setFld F.RG_STATUS_RXL1 0 lock)
      F.RG_CFG_PERS 0 1) F.RG_CFG_PMASTER 0 master) with ring := r }

/-- A correct CSM, one with a wrong CRC, and a correct ECHO. -/
def csm : List Byte := toBytes (withCrc (csmBytes 256 0 0 false 5 0 0 1000000) true)
def badCsm : List Byte := toBytes (withCrc (csmBytes 256 0 0 false 5 0 0 1000000) false)
def echo : List Byte := toBytes (withCrc (leBytes 2 5 ++ leBytes 4 7) true)

/-- A forwarded frame that is at D for a long time. -/
def passing : RgFwd := { at_ := 0, stop := 10 ^ 15, syms := [], pkt := none, left := true }

theorem witness_CycleStartResults :
    (let s := ring 2 1 1 { csmDue := [5] }
     s.timeRuns = true ∧ s.rgMaster = true ∧ s.kerbOpen = true ∧ s.ring.csmDue = 5 :: [] ∧ 256 * 5 ≤ s.stamp 0 ∧
      s.rgBusy (s.rgDepart 0) = false ∧ within s.ring.own (s.rgDepart 0) = false ∧ s.ring.bells = []) ∧
    (ring 2 1 1 {}).ring.csmDue = [] ∧
    (let s := ring 2 1 1 { csmDue := [5], fwd := [passing] }; s.ring.csmDue = 5 :: [] ∧ s.rgBusy (s.rgDepart 0) = true) ∧
    (let s := ring 2 1 1 { ret := [(5, 3)] }; let l := fromBytes csm
     s.timeRuns = true ∧ s.rgMaster = true ∧ s.rxLocked s.rgU = true ∧ csm.length = 28 ∧ 5 = fromLe ((l.drop 10).take 2) ∧
      crc32 (l.take 24) = fromLe (l.drop 24) ∧ s.ring.ret = [(5, 3)]) ∧
    (let l := fromBytes badCsm; badCsm.length = 28 ∧ 5 = fromLe ((l.drop 10).take 2) ∧ crc32 (l.take 24) ≠ fromLe (l.drop 24)) ∧
    (let s := ring 2 1 0 { expect := true, clen := 100 }
     s.rgNode = true ∧ s.ring.expect = true ∧ s.ring.lastAt + 256 * s.ring.clen + us256 ≤ (s.ltMs : Int)) ∧
    (∀ c ∈ [4, 5], let s := ring 2 1 0 { lastCyc := some c }
     s.timeRuns = true ∧ s.rgNode = true ∧ s.rxLocked s.rgU = true ∧ s.kerbOpen = true ∧ s.ring.bells = [] ∧
      s.rgPers = 1 ∧ (fromBytes echo).length = 10 ∧ crc32 ((fromBytes echo).take 6) = fromLe ((fromBytes echo).drop 6) ∧
      5 = fromLe ((fromBytes echo).take 2) ∧ s.ring.lastCyc = some c ∧ s.ring.deltas = []) := by decide +kernel

/-- A frame of slot 3 of the node with address a, master flag m. -/
def frame (a m : Nat) : List Byte := toBytes (withCrc ([a, 3, m, 1, 0, 0, 0, 0] ++ [1, 2, 3, 4]) true)

theorem witness_RingSlotsAndFrames_slots :
    base.writes (.fn 0) .RG_SLOTCMD 0 (BitVec.ofNat 32 (2 ^ 7)) = true ∧
    (∀ b : Bool, let s := ring 2 1 0 { good := b, slotsDue := [7], clen := 10 ^ 6 }
      s.timeRuns = true ∧ s.rgPers = 1 ∧ s.kerbOpen = true ∧ s.ring.slotsDue.contains 7 = true ∧ s.ring.good = b ∧
      s.ring.t1 + 256 * (8 * s.act F.RG_SLOT_OFS8 7 : Nat) ≤ (s.ltMs : Int) ∧ s.ring.posts = [] ∧ s.ring.bells = [] ∧
      s.rgBusy (s.ring.t1 + 256 * (8 * s.act F.RG_SLOT_OFS8 7 : Nat)) = false ∧
      16 * (8 * s.act F.RG_SLOT_OFS8 7 + frameNs 0 + 64) + s.ring.cycRtt ≤ 16 * s.ring.clen) ∧
    (let s := ring 2 1 0 { good := true, slotsDue := [7], clen := 10 ^ 6, fwd := [passing] }
     s.rgBusy (s.ring.t1 + 256 * (8 * s.act F.RG_SLOT_OFS8 7 : Nat)) = true) ∧
    (let s := ring 2 1 0 { good := true, slotsDue := [7], t1 := 10 ^ 12 }; (s.ltMs : Int) < s.ring.t1) ∧
    (let s := ring 2 1 0 { good := true, slotsDue := [7], clen := 1 }
     16 * s.ring.clen < 16 * (8 * s.act F.RG_SLOT_OFS8 7 + frameNs 0 + 64) + s.ring.cycRtt) := by decide +kernel

theorem witness_RingSlotsAndFrames :
    (∀ m ∈ [0, 1], let s := actFld (ring 2 1 m {}) F.RG_CFG_ADDR 0 9; let tx := s.rgArrive 0 + 16 * (5056 + 128)
      s.timeRuns = true ∧ s.rgPers = 1 ∧ s.rxLocked s.rgU = true ∧ s.act F.RG_CFG_ADDR = 9 ∧ s.rgMaster = (m == 1) ∧
      within s.ring.own tx = false ∧ within s.ring.csm tx = false) ∧
    (let s := ring 2 1 0 { own := (0, 10 ^ 15) }; within s.ring.own (s.rgArrive 0 + 16 * (5056 + 128)) = true) ∧
    (∀ a ∈ [4, 9], let l := fromBytes (frame a 1)
      12 ≤ l.length ∧ l.getD 3 0 ≤ 64 ∧ l.length = 12 + 4 * l.getD 3 0 ∧
      crc32 (l.take (l.length - 4)) = fromLe (l.drop (l.length - 4)) ∧ l.getD 0 0 = a ∧ bit (l.getD 2 0) 0 = true) ∧
    RgSym.bad ∈ [RgSym.d 4, .bad] ∧ [RgSym.d 4, .bad].head? ≠ some (.d (BitVec.ofNat 8 9)) := by decide +kernel

/-- 64 code groups of IDLE, and 64 of no code. -/
def idles : List (Fin 1024) := (encodeLine false (List.replicate 32 idleSet).flatten).1.map (Fin.ofNat 1024)
def noise : List (Fin 1024) := List.replicate 64 0

theorem witness_KerbResults_lock : ∀ p ∈ [1, 2], let ks := (actFld (ring 0 1 0 {}) F.RG_CFG_PERS 0 p).rgK
    lockSeen ks (idles.map (·.val)) = true ∧ lockGone ks (idles.map (·.val)) = false ∧
      lockSeen ks (noise.map (·.val)) = false ∧ lockGone ks (noise.map (·.val)) = true := by decide +kernel

theorem witness_KerbResults :
    (let s := actFld (ring 0 1 1 { pll := true, since := some 0 }) F.RG_KERB_OPEN 0 1
     s.fld F.RG_KSTAT_KST = 0 ∧ s.kerbReady = true ∧ s.ring.hold = false ∧ s.kerbInstant s.kerbRelay = true) ∧
    (let s := ring 0 1 1 {}; s.fld F.RG_KSTAT_KST = 0 ∧ s.kerbInstant s.kerbRelay = false) ∧
    (let s := ring 2 1 1 { since := some 0 }; s.fld F.RG_KSTAT_KST = 2 ∧ s.kerbBar = some 1 ∧ s.kerbInstant 0 = true) ∧
    (let s := (actFld (ring 2 1 1 {}) F.RG_KERB_OPEN 0 1).setFld F.SYS_MODE_MODE 0 8
     s.fld F.RG_KSTAT_KST = 2 ∧ s.kerbBar = some 2) ∧
    (∀ k ∈ [1, 3], (ring k 1 1 {}).fld F.RG_KSTAT_KST = k) ∧ base.powered pdRing = true ∧
    (∀ w ∈ [1, 2, 4], (ring 2 1 1 {}).writes (.fn 0) .RG_CMD 0 (w32 w) = true ∧ (ring 0 1 1 {}).writes (.fn 0) .RG_CMD 0 (w32 w) = true) ∧
    (∀ p ∈ [0, 1], (ring 0 0 1 {}).powered pdRing = true ∧ (ring 0 0 1 {}).rxLocked p = false ∧ (ring 0 1 1 {}).rxLocked p = true) ∧
    (ring 2 1 1 {}).kerbOpen = true ∧ (ring 0 1 1 {}).kerbOpen = false ∧
    (∀ e ∈ [0, 10 ^ 12], assoc (ring 2 1 1 { bells := [(1, e)] }).ring.bells 1 = some e ∧
      (e ≤ (ring 2 1 1 {}).ltMs ↔ e = 0)) := by decide +kernel

/-- The Ethernet personality with a slave on port 0 and a master on port 1. -/
def eth (r : Ring) : State :=
  actFld (actFld (actFld (actFld (actFld (actFld (ring 2 1 1 r) F.RG_CFG_PERS 0 2) F.RG_PTPCFG_EN 0 1) F.RG_PTPCFG_EN 1 1)
    F.RG_PTPCFG_ROLE 1 1) F.RG_PTPCFG_PORT 1 1) F.RG_PDCFG_EN 1 1

/-- A frame of 64 bytes for a destination, with a right or a wrong FCS. -/
def ethFrame (dest : Nat) (good : Bool) : List Byte :=
  toBytes (withCrc ((leBytes 6 dest).reverse ++ List.replicate 6 2 ++ [8, 0] ++ List.replicate 46 0) good)

/-- A Sync of sequence 7 that waits since m. -/
def waiting (m : Int) : PtpWait := { seq := 7, m := m, tx := 0, corr := 0 }

theorem witness_RingEthernetResults :
    (∀ p ∈ [((eth {}).ownMac, true), (0x0180C2000001, true), (5, false)], let b := ethFrame p.1 p.2; let l := fromBytes b
      (eth {}).ethOn = true ∧ 64 ≤ b.length ∧ l.length ≤ 1522 ∧ (eth {}).ring.bells = [] ∧ fromBe (l.take 6) = p.1 ∧
      (crc32 (l.take (l.length - 4)) = fromLe (l.drop (l.length - 4)) ↔ p.2 = true) ∧
      fromBe (l.take 6) ≠ 0x0180C200000E ∧ fromBe ((l.drop 12).take 2) ≠ 0x88F7) ∧
    (∀ m ∈ [(0 : Int), 10 ^ 12], let s := eth { ptpWait := [(0, waiting m)] }
      s.timeRuns = true ∧ s.ptpSlave 0 0 0 = true ∧ s.ptpSlave 1 0 0 = false ∧ assoc s.ring.ptpWait 0 = some (waiting m) ∧
      ((s.ltMs : Int) < m + logSec (s.act F.RG_PTPCFG_SYNCLOG 0) ↔ m = 10 ^ 12)) ∧
    (let s := eth {}
     s.timeRuns = true ∧ s.ptpMaster 1 = true ∧ s.ethIdle (s.act F.RG_PTPCFG_PORT 1) = true ∧
      s.lapsed (assoc s.ring.ptpAt 1) (logSec (s.act F.RG_PTPCFG_SYNCLOG 1)) = true ∧
      s.lapsed (assoc s.ring.annAt 1) (logSec (s.act F.RG_PTPCFG_ANNLOG 1)) = true ∧
      s.actB F.RG_PDCFG_EN 1 = true ∧ s.lapsed (assoc s.ring.pdAt 1) (logSec (s.act F.RG_PDCFG_PDLOG 1)) = true ∧
      s.ethIdle 1 = true ∧ assoc s.ring.pd 1 = none) ∧
    (∀ b : Bool, (actFld (eth {}) F.RG_PTPCFG_STEP 1 b.toNat).actB F.RG_PTPCFG_STEP 1 = b) ∧
    (∀ t ∈ [(0 : Int), 10 ^ 12], let s := eth { pd := [(1, 7, t)] }
      assoc s.ring.pd 1 = some (7, t) ∧ (t + logSec (s.act F.RG_PDCFG_PDLOG 1) ≤ (s.ltMs : Int) ↔ t = 0) ∧
      ((s.ltMs : Int) < t + logSec (s.act F.RG_PDCFG_PDLOG 1) ↔ t = 10 ^ 12)) := by decide +kernel

/-! ### Witnesses: host ports -/

/-- Host ports out of reset, their links up. -/
def hosts : State :=
  { ((later base).setFld F.HP_LSTAT_DLUP 0 1).setFld F.HP_LSTAT_DLUP 1 1 with pm := { base.pm with perst := 3, aspm := 3 } }

theorem witness_HostLinkResults :
    (hosts.powered pdHost = true ∧ bit hosts.pm.perst 1 = true) ∧ ¬(base.powered pdHost = true ∧ bit base.pm.perst 1 = true) ∧
    (hosts.cfgRetry 3 = false) ∧
    (let s : State := { hosts.setFld F.SYS_MODE_MODE 0 2 with ct := base.ct }; s.cfgRetry 3 = true) ∧
    (hosts.linkUp 1 = true ∧ hosts.fld F.HP_LSTAT_LST 1 ≠ 1 ∧ hosts.mode ≠ 5) ∧
    (let s := (hosts.setFld F.SYS_MODE_MODE 0 5).setFld F.PM_CFG_DOZAX 0 1
     s.mode = 5 ∧ s.flag F.PM_CFG_DOZAX = true ∧ s.pm.dozeExit = none ∧ s.fld F.HP_LSTAT_LST 1 ≠ 1) ∧
    ((hosts.setFld F.HP_LSTAT_LST 1 1).fld F.HP_LSTAT_LST 1 = 1 ∧ bit hosts.pm.aspm 1 = true) ∧
    (let s := (hosts.setBar2 3 (0xF00C + 16 * 15) 0).setQ 3 { msixPend := [15], busMaster := true, msixEn := true }
     (s.qOf 3).msixPend.contains 15 = true ∧ s.mayMsg 3 15 = true) ∧
    0 + 256 * 50000 ≤ (later base).ltMs ∧ base.ltMs < 0 + 256 * 50000 := by decide +kernel

/-- Quarter q's mailbox holds a command with the given words. -/
def mail (q : Nat) (ws : List Word) : State :=
  ((List.range ws.length).foldl (fun s j => s.setBar2 q (4 * j) (ws.getD j 0)) hosts).setFld F.HP_CPI_IDX q 1

/-- W0 with an opcode. -/
def w0 (op : Nat) : Word := BitVec.ofNat 32 (op * 2 ^ 24 + 7)

theorem witness_MailboxResults :
    hosts.writes (.fn 3) .HP_CPI 3 64 = true ∧ hosts.writes (.fn 3) .HP_CPI 3 65 = true ∧
    (hosts.setQ 3 { cmd := some { idx := 65535, words := [] } }).qOf 3 = { cmd := some { idx := 65535, words := [] } } ∧
    hosts.mbReady 3 = false ∧
    (∀ op ∈ [0, 0x0A, 0x7F, 1, 5, 6, 9, 0x80, 0xFF], let s := mail 3 [w0 op]
      s.mbReady 3 = true ∧ mbOp (s.took 3).2 = op ∧ bits (arg (s.took 3).2 0) 23 16 = 0 ∧ (s.took 3).1.mode ≠ 8 ∧
        s.flag F.HP_UCFG_EN 3 = false) ∧
    (let s := (mail 3 [w0 5]).setFld F.SYS_MODE_MODE 0 8; s.mbReady 3 = true ∧ (s.took 3).1.mode = 8) ∧
    (let s := mail 0 [w0 6, 1, 0, 0, 2]; let v := (s.took 0).1; let ws := (s.took 0).2
     ∀ k < 3, arg ws (1 + k) &&& arg ws (4 + k) = 0 ∧
       (arg ws (1 + k) ||| arg ws (4 + k)) &&& v.pinMask 0 k = arg ws (1 + k) ||| arg ws (4 + k)) ∧
    (let ws := ((mail 0 [w0 6, 1, 0, 0, 1]).took 0).2; ∃ k < 3, arg ws (1 + k) &&& arg ws (4 + k) ≠ 0) ∧
    (∀ p ∈ [(0, 256, false), (3, 256, true)], let s := mail p.1 [w0 9, BitVec.ofNat 32 p.2.1]
      evtBad (arg (s.took p.1).2 1) = false ∧ (s.took p.1).1.evtDenied p.1 (arg (s.took p.1).2 1) = p.2.2) := by decide +kernel

theorem witness_MailboxDeferred :
    (let s := actFld (mail 0 [w0 2, 5, 1]) F.ARC_REGION_SIZE 5 1; let v := (s.took 0).1; let ws := (s.took 0).2
     s.mbReady 0 = true ∧ mbOp ws = 2 ∧ quotaBad ws = false ∧ v.sup = 0 ∧ v.quotaRefused ws = false) ∧
    (let s := actFld (mail 0 [w0 2, 5, 2]) F.ARC_REGION_SIZE 5 1; (s.took 0).1.quotaRefused (s.took 0).2 = true) ∧
    (let s := mail 3 [w0 2, 5, 1]; (s.took 3).1.sup ≠ 3 ∧ quotaBad (s.took 3).2 = false) ∧
    (let s := mail 3 [w0 3, 3]; mbOp (s.took 3).2 = 3 ∧ arg (s.took 3).2 1 = 3) ∧
    (∀ q ∈ [0, 3], let s := mail q [w0 4, 63]; mbOp (s.took q).2 = 4 ∧ arg (s.took q).2 1 = 63 ∧
      ((s.took q).1.ownerOf .thread 63 = q ↔ q = 0)) ∧
    (∀ m ∈ [3, 4, 5, 7], let s := mail 0 [w0 7, BitVec.ofNat 32 m]; let v := (s.took 0).1
      v.modeBad (s.took 0).2 = false ∧ v.modeDenied 0 = false ∧ v.mode = 3 ∧ (v.modeRefused m = true ↔ m = 7)) ∧
    (let s := mail 0 [w0 8, 0x48640001]; mbOp (s.took 0).2 = 8 ∧ arg (s.took 0).2 1 = 0x48640001) ∧
    (let s := (mail 0 [w0 0x80]).setFld F.HP_UCFG_EN 0 1; mbOp (s.took 0).2 = 0x80 ∧ (s.took 0).1.flag F.HP_UCFG_EN 0 = true) ∧
    hosts.writes (.thr 0) .HP_UDONE 0 0x80 = true ∧
    (∀ v ∈ [0, 1], (hosts.setFld F.HP_QSTAT_UPEND 0 v).flag F.HP_QSTAT_UPEND 0 = (v == 1)) ∧
    (∀ b : Bool, ((hosts.setQ 0 { late := b }).qOf 0).late = b) ∧
    (∀ v ∈ [0, 256 * 10 ^ 9], let s := ((hosts.setFld F.HP_QSTAT_UPEND 0 1).setFld F.HP_UCFG_UCTO 0 1).setQ 0 { uAt := v }
      s.flag F.HP_QSTAT_UPEND 0 = true ∧ (s.qOf 0).uAt ≤ s.ltMs ∧
      ((s.qOf 0).uAt + 256 * (1000000 * s.fld F.HP_UCFG_UCTO 0) ≤ s.ltMs ↔ v = 0)) := by decide +kernel

/-- Quarter 3's ring 15 is bound to Arcade 3, which has two items, with transfers, bus mastering and one descriptor. -/
def dma (left : Nat) : State :=
  (((((actFld { arcadeFull {} with owner := [(Kind.arcade.key 3, 3)] } F.ARC_CFG_CONS 3 1).setQ 3 { busMaster := true, xfers := [{ ring := 15, idx := 65535, left := left, moved := 0, addr := 64, psn := false, cap := 4 }] }).setFld
    F.HP_DRCFG_EN 63 1).setFld F.HP_DRCFG_ARC 63 3).setFld F.HP_DRPI_IDX 63 1)

/-- The same with no transfer yet: the descriptor has room for 4 items at address 64. -/
def dmaIdle : State :=
  let s := (dma 0).setQ 3 { busMaster := true }
  (s.setBar2 3 (descOff 15 0) 64).setBar2 3 (descOff 15 0 + 8) 4

theorem witness_DmaWatchdogResults :
    (hosts.writes (.fn 3) .HP_DRCFG 63 0x80000000 = true ∧ hosts.writes (.fn 3) .HP_DRCFG 63 0 = true ∧
      (dma 0).writes (.fn 3) .HP_DRCFG 63 0x80000004 = true ∧ bit (hosts.reg .HP_DRCFG 63).toNat 31 = false ∧
      bit ((dma 0).reg .HP_DRCFG 63).toNat 31 = true ∧ bit (Reg.written .HP_DRCFG (hosts.reg .HP_DRCFG 63) 0x80000000).toNat 31 = true ∧
      bits (Reg.written .HP_DRCFG ((dma 0).reg .HP_DRCFG 63) 0x80000004).toNat 5 0 ≠ (dma 0).fld F.HP_DRCFG_ARC 63) ∧
    (hosts.writes (.fn 3) .HP_DRPI 63 64 = true ∧ hosts.writes (.fn 3) .HP_DRPI 63 65 = true) ∧
    (((dma 2).qOf 3).xfer 15 = some { ring := 15, idx := 65535, left := 2, moved := 0, addr := 64, psn := false, cap := 4 } ∧
      ((dma 2).qOf 3).busMaster = true ∧
      (match ((dma 2).dmaRead ((dma 2).fld F.HP_DRCFG_ARC (ringIx 3 15))
          { ring := 15, idx := 65535, left := 2, moved := 0, addr := 64, psn := false, cap := 4 }).2 with
        | .item _ => true | _ => false) = true ∧
      (∀ l ∈ [0, 1], ({ ring := 15, idx := 65535, left := l, moved := 1, addr := 68, psn := false, cap := 4, tlp := [7] } : Xfer).full
        (hosts.qOf 3).mps = (l == 0)) ∧ (((dma 0).qOf 3).xfer 15).map (·.left) = some 0) ∧
    ((dmaIdle.qOf 3).xfer 15 = none ∧ dmaIdle.dmaReach 3 15 = dmaIdle ∧ dmaIdle.dmaBusy 1 = false ∧
      dmaIdle.dmaTurn 1 = some 31) ∧
    (hosts.writes (.fn 3) .HP_WDKICK 3 0xA5 = true ∧ (hosts.setFld F.HP_WDOG_PERIOD 3 7).fld F.HP_WDOG_PERIOD 3 ≠ 0 ∧
      hosts.writes (.fn 3) .HP_WDOG 3 7 = true) ∧
    (∀ a ∈ [0, 1, 2], let s := (hosts.setQ 3 { wdArmed := true, wdCyc := 250000 }).setFld F.HP_WDOG_ACTION 3 a
      (s.qOf 3).wdArmed = true ∧ s.wdCounts = true ∧ s.wdDue 3 = true ∧ s.fld F.HP_WDOG_ACTION 3 = a) ∧
    (hosts.qOf 3).wdArmed = false ∧ (hosts.setQ 3 { wdArmed := true }).wdDue 3 = false := by
  decide +kernel

/-! ### Witnesses: memory ports -/

/-- The MP0 window with the given requests and fill. -/
def xip (q : List (Nat × Nat)) (x : Option XipFill) : State := { base with mp := { xipQ := q, xip := x } }

theorem witness_XipResults :
    (let s := xip ([(2, 5), (2, 6)] ++ (1, 7) :: [(1, 8), (2, 9)]) none
     s.xipFree = true ∧ s.mp.xipQ = [(2, 5), (2, 6)] ++ (1, 7) :: [(1, 8), (2, 9)] ∧
      (∀ p ∈ [(2, 5), (2, 6)], 1 < p.1 ∧ p.1 ≤ 2) ∧ (∀ p ∈ [(1, 8), (2, 9)], 1 ≤ p.1 ∧ p.1 ≤ 2)) ∧
    base.mp.xipQ = [] ∧ base.mp.xip = none ∧
    (xip [(1, 7)] (some { line := 7, asks := [] })).xipFree = false ∧
    (∀ k : Bool, ∀ l ∈ [[], [0, 2]], (xip [] (some { line := 7, asks := l, keep := k })).mp.xip = some { line := 7, asks := l, keep := k }) ∧
    (∀ v ∈ [0, 1], let s := (xip [] (some { line := 7, asks := [0] })).setFld F.MP0_CFG_PREF 0 v
      s.flag F.MP0_CFG_PREF = (v == 1) ∧ (s.mp.xipQ.filter fun p => p.2 != 7) = [] ∧ s.powered pdMem = true ∧ s.xipHeld = false ∧
        s.flag F.MP0_STAT_RAWBUSY = false ∧ 64 * (7 + 1) < s.xipSize ∧ s.xipLine (7 + 1) = none) ∧
    (∀ w ∈ [0, 1, 2, 3], base.writes (.fn 0) .MP0_CTL 0 (w32 w) = true) ∧
    base.writes (.fn 0) .MP0_RAWCMD 0 (0 ||| 0x80000000) = true ∧
    ((base.setFld F.MP0_CTL_HOLD 0 1).xipHeld = true ∧ (base.setFld F.MP0_CTL_HOLD 0 1).flag F.MP0_STAT_RAWBUSY = false) ∧
    base.xipHeld = false ∧ (base.raise F.MP0_STAT_RAWBUSY).flag F.MP0_STAT_RAWBUSY = true ∧
    base.flag F.MP0_STAT_CONTA = false ∧ base.flag F.MP0_CFG_CONT = false ∧ (base.raise F.MP0_CFG_PREF).flag F.MP0_CFG_PREF = true ∧
    (∀ v ∈ [0, 1], let c := F.MP0_RAWCMD_DIR.put (F.MP0_RAWCMD_ALEN.put (F.MP0_RAWCMD_DUMMY.put (F.MP0_RAWCMD_LEN.put 0 256) 8) 1) v
      let s : State := { base with mp := { raw := some c } }
      s.mp.raw = some c ∧ s.mp.xip = none ∧ F.MP0_RAWCMD_DIR.get c = v ∧ 256 ≤ F.MP0_RAWCMD_LEN.get c ∧
        F.MP0_RAWCMD_DUMMY.get c ≠ 0 ∧ F.MP0_RAWCMD_ALEN.get c ≠ 0) := by
  decide +kernel

theorem witness_ScrubResults :
    (∀ v ∈ [0, 1], (base.setFld F.MP_ECC_CFG_SEN 0 v).flag F.MP_ECC_CFG_SEN = (v == 1)) ∧
    base.eccOf 14 0 = {} ∧
    (let e := (base.setEcc 3 0 { flips := 1 }).eccOf 3 0; e.psn = false ∧ e.flips ≠ 0) ∧
    base.scrubQ = [] ∧
    (let s : State := { base with scrubQ := [eccKey 3 7] }
     s.scrubQ = eccKey 3 7 :: [] ∧ 7 < regionWords 3 ∧ flippedBytes (s.eccOf 3 7).flips ≤ 2 ∧ s.flag F.MP_ECC_INJ_ARM = false) ∧
    base.writes (.fn 0) .MP_PSNCLR 0 0 = true ∧
    base.writes (.fn 0) .MP_ECC_INJ 0 (BitVec.ofNat 32 (2 ^ 31 + 14 * 2 ^ 24 + 0xFFFFFF)) = true := by decide +kernel

/-- Pages of one codeword of 32 bytes, and one that holds the given first bytes with e byte errors. -/
def small : State := (base.setFld F.MP1_CFG_PG8 0 4).setFld F.MP1_CFG_CWLEN 0 32
def page (bytes : List Nat) (e : Nat) : List Byte :=
  let d := bytes ++ List.replicate (16 - bytes.length) 0
  toBytes (((d ++ rsParity d).take e).map (Nat.xor 255) ++ (d ++ rsParity d).drop e)

theorem witness_ArchiveResults :
    (∀ k ∈ [0, 1, 2, 3, 4], base.writes (.fn 0) .MP1_CMD 0 (BitVec.ofNat 32 (2 ^ 31 + k * 2 ^ 28 + 3 * 256 + 2)) = true) ∧
    (∀ v ∈ [0, 1], (base.setFld F.MP1_STAT_BUSY 0 v).flag F.MP1_STAT_BUSY = (v == 1)) ∧
    (3 < (base.setFld F.MP1_GEOM_NBLK 0 4).fld F.MP1_GEOM_NBLK ∧ 2 < base.mpPages ∧ base.mpBad 3 = false ∧
      ((base.raise F.MP1_BBTBLK_BBTV).setReg .MP1_BBT 0 8).mpBad 3 = true ∧ ¬ 3 < (base.setFld F.MP1_GEOM_NBLK 0 3).fld F.MP1_GEOM_NBLK) ∧
    (∀ k ∈ [0, 1, 2, 3, 4], ∀ p ∈ [none, some (0x40 : Byte)],
      let s : State := { base with mp := { op := some { op := k, blk := 3, page := 2, polled := p } } }
      s.mp.op = some { op := k, blk := 3, page := 2, polled := p } ∧ s.mp.pat = none ∧ 0 ≤ s.ltMs ∧ s.ltMs ≤ 0) ∧
    base.mp.op = none ∧ ({ base with mp := { pat := some (0, 0) } } : State).mp.pat.isSome = true ∧
    0 + 256 * (1000000 * base.fld F.MP1_POLL_TOUT) < (later base).ltMs ∧ 0 + 256 * (1000 * base.fld F.MP1_POLL_POLL) ≤ (later base).ltMs ∧
    (let s := (base.setFld F.MP1_POLL_TOUT 0 1).setFld F.MP1_POLL_POLL 0 1
     s.ltMs < 256 * (1000000 * s.fld F.MP1_POLL_TOUT) ∧ s.ltMs < 256 * (1000 * s.fld F.MP1_POLL_POLL)) ∧
    (let s : State := { base with mp := { pend := [(3, 5)] } }; s.pendOf 3 = some 5 ∧ base.pendOf 3 = none) := by decide +kernel

theorem witness_ArchiveResults_pages : small.headCount (page [5] 8) = some 5 ∧ small.headCount (page [5] 9) = none ∧
    (let raw := small.mpSplit (page [5] 8); let u := small.mpUser 3 2 raw (small.mpDecode (page [5] 8))
     u.length = 16 ∧ small.mpPB ≤ 8704) ∧ small.findTable 4 0 [] = none ∧
    (small.findTable 4 0 [page [5] 0, page [5, 0, 0, 0, 1] 0]).map (·.1) = some 1 := by decide +kernel

/-- The patrol reader enabled at a block and a page of a small array. -/
def patrol (b p : Nat) (fifo : List PatEnt) (pat : Option (Nat × Nat)) : State :=
  { (((((small.setFld F.MP1_CFG_PPB 0 0).setFld F.MP1_PAT_EN 0 1).setFld F.MP1_GEOM_NBLK 0 4).setFld F.MP1_PATPOS_BLOCK 0 b).setFld F.MP1_PATPOS_PAGE 0 p).setFld
      F.MP1_PAT_PTHR 0 4 with mp := { fifo := fifo, pat := pat } }

theorem witness_PatrolResults : base.flag F.MP1_PAT_EN = false ∧
    (∀ x ∈ [(0, 30, true, true), (0, 31, false, true), (3, 31, false, false)], let s := patrol x.1 x.2.1 [] none
      s.flag F.MP1_PAT_EN = true ∧ s.flag F.MP1_STAT_BUSY = false ∧ s.mp.pat = none ∧ s.mpBad x.1 = false ∧
      s.fld F.MP1_PATPOS_BLOCK = x.1 ∧ s.fld F.MP1_PATPOS_PAGE = x.2.1 ∧
      (x.2.1 + 1 < s.mpPages ↔ x.2.2.1 = true) ∧ (x.1 + 1 < s.fld F.MP1_GEOM_NBLK ↔ x.2.2.2 = true)) ∧
    (let s := patrol 0 0 [] (some (3, 2)); s.mp.pat = some (3, 2) ∧ s.fld F.MP1_PAT_PTHR = 4 ∧ s.mp.fifo.length < 16) ∧
    16 ≤ (patrol 0 0 (List.replicate 16 { unc := true, maxc := 0, blk := 0, page := 0 }) (some (3, 2))).mp.fifo.length ∧
    (∀ a ∈ [none, some 0], ∀ x, a = some x → x + 256 * (1000000 * base.fld F.MP1_PAT_PINT) ≤ (later base).ltMs) ∧
    base.ltMs < 0 + 256 * (1000000 * (base.setFld F.MP1_PAT_PINT 0 1).fld F.MP1_PAT_PINT) ∧
    (let s := patrol 0 0 [] (some (3, 2)); maxCorr (s.mpDecode (page [5] 4)) = 4 ∧ maxCorr (s.mpDecode (page [5] 3)) = 3 ∧
      cwFails (s.mpDecode (page [5] 3)) = 0 ∧ cwFails (s.mpDecode (page [5] 9)) = 1 ∧
      (∀ k < s.mpPB, ([] : List Byte).getD k 0xFF#8 = 0xFF#8) ∧ ¬ ∀ k < s.mpPB, (page [5] 4).getD k 0xFF#8 = 0xFF#8) ∧
    (base.hostOn = true ∧ base.bar0Sees 0 (Reg.offset .MP1_PATRES 0) false = true ∧ base.powered pdMem = true ∧ base.sup = 0) ∧
    base.flag F.MP1_TATCFG_EN = false ∧
    (let s := later (base.raise F.MP1_TATCFG_EN); s.flag F.MP1_TATCFG_EN = true ∧ s.ltSec ≠ s.mp.tatSec) := by decide +kernel

/-! ### Witnesses: reset, the Map and profiles -/

/-- The reset sequence in progress, supplied and clocked, with a life-cycle state. -/
def inReset (lc : Nat) (toSafe : Bool) : State :=
  { (base.setFld F.LC_STATE_STATE 0 lc) with pm := { base.pm with inReset := true, vin := true, ref := true, toSafe := toSafe } }

theorem witness_ResetResults :
    (base.pm.inReset = false ∨ base.pm.vin = false ∨ base.pm.ref = false ∨ 20000 < 20000) ∧
    (∀ b : Bool, ¬((inReset 2 b).pm.inReset = false ∨ (inReset 2 b).pm.vin = false ∨ (inReset 2 b).pm.ref = false ∨ 20000 < 20000) ∧
      (inReset 2 b).pm.toSafe = b) ∧ (∀ k ∈ [0, 1, 2, 4, 5], (inReset k false).lcState = k) ∧
    (∀ m ∈ [0, 1, 2, 7], (base.setFld F.SYS_MODE_MODE 0 m).mode = m) ∧
    ({ base with pm := { base.pm with vin := true } } : State).pm.vin = true ∧
    ({ base with pm := { base.pm with vin := false } } : State).pm.vin = false ∧ base.lc.cmd = none ∧
    isAon (Reg.key .PM_AON_CFG 0) = true ∧ isAon (Reg.key .GP_OUT 0) = false ∧
    (∀ mv ∈ [679, 680, 719], ¬(base.mode ≤ 1 ∨ (base.mode = 7 ∧ base.pm.isolated = true) ∨ 1000 < 1000 ∨ 720 ≤ mv)) ∧
    (base.mode ≤ 1 ∨ (base.mode = 7 ∧ base.pm.isolated = true) ∨ 1000 < 1000 ∨ 720 ≤ 720) := by decide +kernel

/-- LOAD from a source, with the loader as given. -/
def loading (src : Nat) (l : Loader) : State := { (base.setFld F.SYS_MODE_MODE 0 2).setFld F.SYS_BOOT_SRC 0 src with ld := l }

/-- A Map header, and the SAFE and SIGN sections of a Map. -/
def mapHeader : List Byte :=
  toBytes (withCrc (leBytes 4 0x41524C46 ++ [1, 0, 0x64, 0x48, 0xB0, 4, 0, 0] ++ leBytes 4 64 ++ [1, 2, 3, 4, 0, 0, 0, 4, 0, 0, 0, 0]) true)
def sect (t len : Nat) (good : Bool) : List Byte :=
  toBytes (withCrc (leBytes 2 t ++ [1, 0] ++ leBytes 4 len ++ List.replicate len 0) good)

theorem witness_MapLoadResults :
    (∀ src ∈ [0, 1, 2], ∀ st ∈ [LdSt.header, .sections, .all], let s := loading src { st := st }
      s.mode = 2 ∧ s.ld.restore = false ∧ s.fld F.SYS_BOOT_SRC = src ∧ s.ld.st = st) ∧
    mapHeader.length = 32 ∧ headerErr 0 (fromBytes mapHeader) = none ∧ headerErr 1 (fromBytes mapHeader) = none ∧
    headerErr 0 (List.replicate 32 0) = some (1, 0) ∧
    (loading 1 { pushed := mapHeader ++ [7] }).ld.pushed = mapHeader ++ [7] := by
  refine ⟨by decide +kernel, by decide +kernel, by decide +kernel, by decide +kernel, by decide +kernel, rfl⟩

theorem gfMul_zero (x : Nat) : gfMul 0 x = 0 := by
  simp [gfMul, gfX, List.range, List.range.loop]

theorem gfEval_zeros (n x : Nat) (p : List Nat) (h : gfEval p x = 0) : gfEval (List.replicate n 0 ++ p) x = 0 := by
  induction n with
  | zero => exact h
  | succ n ih => rw [List.replicate_succ, List.cons_append]; unfold gfEval at ih ⊢; rw [List.foldr_cons, ih, gfMul_zero]; rfl

theorem rsDecode_codeword (r : List Nat) (h : ∀ i < 16, gfEval r.reverse (gfExp i) = 0) :
    rsDecode r = some (r.take (r.length - 16), 0) := by
  have : (rsSyndromes r).all (· == 0) = true := by
    simp only [rsSyndromes, List.all_eq_true, List.mem_map, List.mem_range, beq_iff_eq]
    rintro a ⟨i, hi, rfl⟩
    exact h i hi
  simp only [rsDecode, this, if_true]

/-- A codeword of 255 bytes whose user byte 4 is m: the generator times m, 4 places before its first byte. -/
def bootWord (m : Nat) : List Nat := List.replicate 4 0 ++ (1 :: rsGen).map (gfMul m) ++ List.replicate 234 0

theorem bootWord_decodes (m : Nat) (hm : m ∈ [0, 4]) : rsDecode (bootWord m) = some ((bootWord m).take 239, 0) := by
  have e : (bootWord m).reverse = List.replicate 234 0 ++ ((1 :: rsGen).map (gfMul m)).reverse ++ List.replicate 4 0 := by
    simp only [bootWord, List.reverse_append, List.reverse_replicate, List.append_assoc]
  have z : ∀ i < 16, ∀ m ∈ [0, 4], gfEval (((1 :: rsGen).map (gfMul m)).reverse ++ List.replicate 4 0) (gfExp i) = 0 := by
    decide +kernel
  have l : (bootWord m).length = 255 := by
    have : rsGen.length = 16 := by decide +kernel
    simp only [bootWord, List.length_append, List.length_replicate, List.length_map, List.length_cons, this]
  rw [rsDecode_codeword _ fun i hi => by rw [e, List.append_assoc]; exact gfEval_zeros _ _ _ (z i hi m hm), l]

/-- A page of a boot image in the geometry of the reset: eight codewords and 72 bytes. -/
def bootBytes (m : Nat) : List Nat := (List.replicate 8 (bootWord m)).flatten ++ List.replicate 72 0
def bootPage (m : Nat) : List Byte := toBytes (bootBytes m)

theorem raw_whole (l : List Byte) (h : l.length = State.reset.mpPB) : State.reset.mpRaw l = l := by
  rw [State.mpRaw, ← h]
  apply List.ext_getElem
  · simp only [List.length_map, List.length_range]
  · intro i h1 h2
    simp only [List.getElem_map, List.getElem_range, List.getD_eq_getElem _ _ h2]

theorem bytes_nats (l : List Nat) (h : ∀ x ∈ l, x < 256) : (toBytes l).map (·.toNat) = l := by
  rw [toBytes, List.map_map]
  exact (List.map_congr_left fun x hx => by simp [Nat.mod_eq_of_lt (h x hx)]).trans (List.map_id _)

theorem bootBytes_length : ∀ m ∈ [0, 4], (bootBytes m).length = State.reset.mpPB ∧ (bootBytes m).all (· < 256) = true := by
  decide +kernel

theorem bootBytes_cut : ∀ m ∈ [0, 4], (List.range 8).map (fun c => ((bootBytes m).drop (c * 255)).take 255) =
    List.replicate 8 (bootWord m) := by decide +kernel

theorem bootPage_split (m : Nat) (hm : m ∈ [0, 4]) : State.reset.mpSplit (bootPage m) = List.replicate 8 (bootWord m) := by
  have q : State.reset.mpQ = 8 := by decide +kernel
  have n : State.reset.fld F.MP1_CFG_CWLEN = 255 := by decide +kernel
  have ⟨hl, hb⟩ := bootBytes_length m hm
  rw [State.mpSplit, raw_whole _ (by simpa only [bootPage, toBytes, List.length_map] using hl), bootPage,
    bytes_nats _ (by simpa using hb), q, n]
  exact bootBytes_cut m hm

theorem bootPage_decodes (m : Nat) (hm : m ∈ [0, 4]) :
    State.mpDecode .reset (bootPage m) = List.replicate 8 (some ((bootWord m).take 239, 0)) := by
  rw [State.mpDecode, bootPage_split m hm, List.map_replicate, bootWord_decodes m hm]

theorem witness_MapLoadResults_nand :
    (let cws := State.mpDecode .reset (bootPage 4); mapMarked cws = true ∧ ∀ c ∈ cws, c.isSome = true) ∧
    mapMarked (State.mpDecode .reset (bootPage 0)) = false ∧
    (∀ k ∈ [0, 14, 15], ∀ p ∈ [0, 1], ∀ on : Bool, let s := loading 2 { st := .header, nandAt := (k, p), nandOn := on }
      s.mode = 2 ∧ s.ld.restore = false ∧ s.fld F.SYS_BOOT_SRC = 2 ∧ s.ld.st = .header ∧ s.ld.pushed = [] ∧ s.ld.bytes = [] ∧
        s.ld.nandAt = (k, p) ∧ s.ld.nandOn = on) := by
  rw [bootPage_decodes 4 (by decide), bootPage_decodes 0 (by decide)]
  refine ⟨⟨by decide +kernel, by decide +kernel⟩, by decide +kernel, by decide +kernel⟩

theorem witness_MapLoadResults_sections :
    (∀ x ∈ [(6, 24, 5, 9), (0x7F00, 4, 6, 1)], let v := fromBytes (sect x.1 x.2.1 true)
      let s := loading 0 { st := .sections, total := 12 + x.2.1, count := x.2.2.2, seen := [x.2.2.1] }
      (sect x.1 x.2.1 true).length = 12 + le v 4 4 ∧ le v 4 4 % 4 = 0 ∧ s.ld.bytes.length + 12 + le v 4 4 ≤ s.ld.total ∧
      crc32 (v.take (8 + le v 4 4)) = le v (8 + le v 4 4) 4 ∧ sectRank (le v 0 2) ≠ none ∧ v.getD 2 0 = 1 ∧ v.getD 3 0 = 0 ∧
      orderBad s.ld.seen (le v 0 2) (decide (s.ld.done + 1 = s.ld.count)) = false ∧
      (s.ldBody (le v 0 2) (((sect x.1 x.2.1 true).drop 8).take (le v 4 4))).1 = none) ∧
    (let v := fromBytes (sect 6 24 false); crc32 (v.take (8 + le v 4 4)) ≠ le v (8 + le v 4 4) 4) := by decide +kernel

/-- A profile of class 0 with Block 0. -/
def prof0 : Profile := { idx := 0, cls := 0, period := 2500, phase := 0, doms := 0xFFF, core := 4 }

theorem witness_MapLoadResults_checks :
    (∀ lc ∈ [1, 2, 3, 4], let s := (loading 0 { st := .all, kind := 0 }).setFld F.LC_STATE_STATE 0 lc
      s.ld.pushed = [] ∧ s.ld.comboBad = none ∧ s.admitErr = none ∧ s.ld.pstoreUse ≤ s.ld.psSize ∧ s.lcState = lc ∧ s.ld.kind = 0) ∧
    (let s := (loading 0 { st := .all, kind := 1 }).setFld F.LC_STATE_STATE 0 2; s.ld.kind ≠ 0 ∧ s.lcSlot.key = none) ∧
    (let s := loading 0 { st := .all, profiles := [prof0],
                          ents := [{ pm := 1, key := Reg.key .FP_CFG 0, val := F.FP_CFG_ROLE.put 0 1 },
                                   { pm := 1, key := Reg.key .FP_SEL 0, val := F.FP_SEL_SELPIN.put 0 127 }] }
     s.ld.comboBad = some 0) ∧
    (let s := loading 0 { st := .all, profiles := [prof0],
                          threads := [F.BK_TCFG_CLASS.put (F.BK_TCFG_EN.put 0 1) 1, 0, 1048575, 0] }
     s.ld.comboBad = none ∧ s.admitErr = some (0, 0, 2, 0)) := by decide +kernel

/-- The push interface: source 1, READY as given. -/
def push (ready : Nat) (l : Loader) : State :=
  ((loading 1 l).setFld F.SYS_PUSHSTAT_READY 0 ready).setFld F.SYS_PUSHSTAT_RECV 0 4

theorem witness_PushProfileResults :
    (∀ s ∈ [push 1 { offer := true }, push 0 { offer := true }],
      s.writes (.fn 0) .SYS_PUSHCTL 0 (BitVec.ofNat 32 (2 ^ 31 + 8192)) = true ∧ s.writes (.fn 0) .SYS_PUSHCTL 0 0x20000000 = true) ∧
    (∀ s ∈ [push 1 { offer := true, st := .sections }, push 1 { offer := true, st := .failed }, push 1 { offer := true, st := .ready }],
      s.ld.offer = true ∧ s.flag F.SYS_PUSHSTAT_READY = true ∧ s.fld F.SYS_BOOT_SRC = 1) ∧
    (∀ n ∈ [1, 8192], let s := push 0 { offer := true, chunk := some (n, true) }
      s.ld.chunk = some (n, true) ∧ s.fld F.SYS_PUSHSTAT_RECV + 4 * n < 2 ^ 24 ∧ s.eccOf rgBar2 (bar2Ecc 0 0) = {}) ∧
    (let s := push 1 { offer := true, st := .sections }
     s.ld.offer = true ∧ s.fld F.SYS_BOOT_SRC = 1 ∧ s.fld F.SYS_PUSHSTAT_RECV ≠ 0 ∧ s.ld.chunk = none ∧ s.ld.last = false ∧
      s.ld.st = .sections ∧ s.ld.restore = false) ∧
    ((push 1 {}).ld.offer = false) ∧
    (∀ n ∈ [0, 256 * 10 ^ 9], let s := { push 1 {} with ct := { base.ct with a := { base.ct.a with t := 11 * 10 ^ 9 * 2 ^ 40 } } }
      (s.lapsed (some n) (256 * 10000000000 + 1) = true ↔ n = 0)) ∧
    (let s : State := { base with map := { profiles := [prof0] } }
     s.profile 0 = some prof0 ∧ prof0.cls = 0 ∧ s.map.sw = none ∧ s.mode = 3) ∧ base.profile 3 = none ∧
    base.writes (.fn 0) .SYS_PROFCMD 0 (BitVec.ofNat 32 (2 ^ 31 + 3)) = true ∧
    ({ base with map := { sw := some { prof := 3 } } } : State).map.sw = some { prof := 3 } := by decide +kernel

/-! ### Witnesses: modes, supervision, debug and life cycle -/

/-- A mode change at a point, in a mode. -/
def change (m : Nat) (x : ChgAt) : State :=
  { base.setFld F.SYS_MODE_MODE 0 m with pm := { base.pm with chg := some { target := m, q := none, at_ := x } } }

/-- A device in WATCH or CURFEW whose source 3 may wake it, isolated or not, with a source recorded or none. -/
def asleep (m : Nat) (isolated : Bool) (src : Nat) : State :=
  let s := (((base.setFld F.SYS_MODE_MODE 0 m).setFld F.PM_AON_WKEN_CURFEN 0 4).setFld F.PM_AON_WKEN_WATCHEN 0 4).setFld F.PM_AON_WKSTAT_SRC 0 src
  { s with pm := { base.pm with armed := true, isolated := isolated,
                                chg := if isolated then none else some { target := m, q := none, at_ := .stopping } } }

theorem witness_LowPowerResults :
    (∀ x ∈ [ChgAt.links, .stopping, .accepted, .tick false], ∀ m ∈ [6, 7], let s := change m x
      s.pm.chg = some { target := m, q := none, at_ := x } ∧ s.mode = m ∧ s.entryQuiet = true ∧
      s.fld F.PM_AON_WKSTAT_SRC = 0 ∧ s.wakeOn 9 0 = false ∧ s.wakeOn 10 0 = false ∧ bit s.pm.lost pdAon = false) ∧
    (change 6 (.tick false)).linkUp 0 = false ∧ base.powered pdAon = true ∧
    (∀ m ∈ [6, 7], let s := asleep m true 0; s.wakeOn 3 0 = true ∧ s.wakeSees (s.wakeLevel 3 0) = true ∧
      s.fld F.PM_AON_WKSTAT_SRC = 0 ∧ s.pm.isolated = true ∧ s.mode = m ∧ s.flag F.PM_AON_CFG_CWTGT = false ∧
      (s.fld F.SYS_BOOT_STRAP = 0 ∨ s.fld F.SYS_BOOT_STRAP = 2) ∧ 1 ≤ s.lcState ∧ s.lcState ≤ 4) ∧
    (asleep 7 true 3).fld F.PM_AON_WKSTAT_SRC ≠ 0 ∧
    (let s := asleep 7 false 0; s.pm.isolated = false ∧ s.wakeOn 3 0 = true) ∧ base.wakeOn 3 0 = false ∧
    (∀ w ∈ [6, 7], (asleep 6 true 0).writes (.fn 0) .PM_MODEREQ 0 (F.PM_MODEREQ_TGT.put 0 w) = true ∨ w = 6) ∧
    (asleep 6 true 0).modeBusy = false ∧ (asleep 7 true 0).wakeMeets (.ringEnergy 1 120 2000) = some true ∧
    (asleep 7 true 0).wakeMeets (.ringEnergy 1 40 2000) = some false ∧ (asleep 7 true 0).wakeMeets (.ringEnergy 1 41 2000) = none ∧
    (let s := change 7 .links; (∀ p < 2, s.fld F.HP_LSTAT_LST p = 4 ∨ s.linkUp p = false)) ∧
    (let s := { (change 7 .links).setFld F.HP_LSTAT_DLUP 0 1 with ct := base.ct }
     ¬((∀ p < 2, s.fld F.HP_LSTAT_LST p = 4 ∨ s.linkUp p = false) ∨
       s.lapsed (some 0) (256 * (1000000 * (s.setFld F.PM_CFG_HLTO 0 1).fld F.PM_CFG_HLTO)) = true)) := by decide +kernel

theorem witness_LowPowerResults_early : (let s := (asleep 7 false 0).setFld F.PM_AON_WKEN_CURFEN 0 2
    s.wakeOn 2 0 = true ∧ s.wakeSees (s.wakeLevel 2 0) = true ∧ s.pm.isolated = false ∧ s.fld F.PM_AON_WKSTAT_SRC = 0) ∧
    (let s : State := loading 0 { st := .all, restore := true }
     s.ld.restore = true ∧ s.fld F.SYS_BOOT_SRC ≠ 1 ∧ s.ld.st = .all ∧ bit s.pm.lost pdAon = false ∧ s.loadCheck.2 = true) ∧
    (let s : State := loading 1 { st := .all, restore := true, last := true, pushed := [7] }
     s.ld.last = true ∧ s.loadCheck.2 = false) := by
  decide +kernel

theorem witness_SupervisionResults :
    (∀ m ∈ [1, 2, 7, 8], (base.setFld F.SYS_MODE_MODE 0 m).mode = m) ∧ base.powered pdAon = true ∧
    (sext (2559#16).toNat 16 < 2560 ∧ (920#16).toNat ≤ 920 ∧ (3700#16).toNat ≤ 3700) ∧ 2560 ≤ sext (2560#16).toNat 16 ∧
    980 < (981#16).toNat ∧ 3900 < (3901#16).toNat ∧
    (∀ b : Bool, ({ base with pm := { base.pm with hot := b } } : State).pm.hot = b) ∧
    (let s := (((base.setFld F.SYS_MODE_MODE 0 8).setFld F.PM_AON_SAFE_ARST 0 1).setFld F.PM_AON_SAFE_ARSTN 0 2).setFld F.PM_AON_SAFE_N 0 1
     let t : State := { s with aon := { s.aon with cnt := 3277 } }
     s.mode = 8 ∧ s.fld F.PM_AON_SAFE_ARST ≠ 0 ∧ s.restartDue = false ∧ t.restartDue = true ∧
       t.fld F.PM_AON_SAFE_N < t.fld F.PM_AON_SAFE_ARSTN) := by decide +kernel

theorem witness_DebugPortResults :
    (∀ b ∈ [0, 1], ∀ k ∈ [1, 2], base.writes .dbg .LC_DBGCTL 0 (BitVec.ofNat 32 (4 * b + k)) = true) ∧
    (∀ v ∈ [0, 1], (base.setFld F.SYS_MODE_PEND 0 v).flag F.SYS_MODE_PEND = (v == 1)) ∧ base.mode = 3 ∧
    (∀ m ∈ [0, 2, 9], (base.setFld F.SYS_MODE_MODE 0 m).mode = m) ∧ base.lc.haltFrom < 16 ∧ base.dbgOn = true ∧
    base.debugOpen = true ∧ (base.setFld F.LC_STATE_STATE 0 3).debugOpen = false ∧ (base.setFld F.LC_STATE_STATE 0 3).dbgOn = true ∧
    (let r := Reg.SYS_MODE; regAt (r.offset 0) = some (r, 0) ∧ r.offset 0 % 4 = 0 ∧ base.regOn r 0 = true ∧
      base.readDenied base.sup r 0 = false ∧ r.isBuf = false ∧ r ≠ .MP1_PATRES ∧ r.wide = [] ∧ r.shared = false) ∧
    (∀ f ∈ Reg.SYS_MODE.desc.fields, f.acc ≠ .rc) ∧
    (let r := Reg.ARC_TIDLE; regAt (r.offset 63) = some (r, 63) ∧ r.offset 63 % 4 = 0 ∧ r.held = false ∧ r.acts = false ∧
      r.desc.staged = true ∧ base.writes .dbg r 63 7 = true) ∧
    base.inPstore 2097148 = false ∧ base.eccOf rgMarket (2097148 / 8) = {} ∧
    (∀ k ∈ [0, 1, 2, 3, 4, 5], (base.setFld F.LC_STATE_STATE 0 k).lcState = k) ∧
    ((base.setFld F.LC_STATE_STATE 0 4).raise F.LC_STATE_TOPEN).flag F.LC_STATE_TOPEN = true := by decide +kernel

/-- The key buffer with the generator of P-256. -/
def keyed : State := ([0xf2d1176b, 0x47422ce1, 0xe5e6bcf8, 0xf240a463, 0x817d0377, 0xa033eb2d, 0x4539a1f4, 0x96c298d8,
  0xe242e34f, 0x9b7f1afe, 0x4aebe78e, 0x169e0f7c, 0x5733ce2b, 0xce5e316b, 0x6840b6cb, 0xf551bf37].foldl
    (fun a w => (a.1.setReg .LC_KEYBUF a.2 (w32 w), a.2 + 1)) (base, 0)).1

/-- A SEALED device with a key, and a token that its key signed: r and s are the digest, and the key is R - G for the
point R whose abscissa the digest is, so that the signature verifies with G + (R - G). -/
def sealed : State :=
  let d := [0xcad8bb4c, 0xd1b81552, 0x81c1ae61, 0x4f694ba7, 0x1b0244e, 0xdc81b0d5, 0x79ed3000, 0xe073897a]
  let s := ((d ++ d).foldl (fun a w => (a.1.setReg .LC_TOKEN a.2 (w32 w), a.2 + 1))
    ((base.setFld F.LC_STATE_STATE 0 3).setReg .LC_TOKEN 0 1, 4)).1
  { s with lc := { s.lc with slot0 := { key := some (0x9353d702c7b604bcc66d689d330224f0841b1b9eae98e8bd9e1d5f4e2aeb639,
                                                     0x4b6c3fb73d4b250d82bd24ff06eaf338aae09a84b6499008cda80bf1b5aba36d) } } }

theorem witness_LifeCycleResults :
    (∀ k ∈ [1, 2, 3, 4, 6], base.writes (.fn 0) .LC_CMD 0 (BitVec.ofNat 32 (0x4C43 * 65536 + k)) = true) ∧
    (∀ k ∈ [5, 7], base.writes .dbg .LC_CMD 0 (BitVec.ofNat 32 (0x4C43 * 65536 + k)) = true) ∧
    (∀ v ∈ [0, 1], (base.setFld F.LC_STATUS_BUSY 0 v).flag F.LC_STATUS_BUSY = (v == 1) ∧
      (base.setFld F.PM_STATUS_OOR 0 v).flag F.PM_STATUS_OOR = (v == 1) ∧
      (base.setFld F.LC_STATUS_SCRP 0 v).flag F.LC_STATUS_SCRP = (v == 1)) ∧
    base.mode = 3 ∧ (base.setFld F.SYS_MODE_MODE 0 5).mode = 5 ∧
    (∀ n ∈ [0, 256 * 10 ^ 9], let s := later { base with lc := { base.lc with scrpAt := n } }
      s.lc.scrpAt ≤ s.ltMs ∧ (s.scrapLate = true ↔ n = 0) ∧ (s.lc.scrpAt + 256000000 ≤ s.ltMs ↔ n = 0)) ∧
    base.lcSlot.key = none ∧ ecValid base.lcKey = false ∧ ecValid keyed.lcKey = true ∧
    sealed.lcState = 3 ∧ sealed.lcSlot.key ≠ none ∧
    sealed.tokenResult 1 0 (sealed.lcSlot.key.getD (0, 0)) = 1 ∧ base.tokenResult 1 0 (base.lcSlot.key.getD (0, 0)) ≠ 1 ∧
    ((base.setFld F.LC_STATE_STATE 0 4).raise F.LC_STATE_TOPEN).lc.slot = 0 ∧
    ((base.setFld F.LC_STATE_STATE 0 4).raise F.LC_STATE_TOPEN).lc.slot1 = {} ∧
    (∀ op ∈ [1, 2, 4, 5, 7], ({ base with lc := { base.lc with cmd := some { op := op, dest := 5 } } } : State).lc.cmd =
      some { op := op, dest := 5 }) := by decide +kernel

theorem witness_CompletionOfEvents :
    (∀ b : Bool, let s : State := { later base with ct := { (later base).ct with sc := b } }
      s.timeRuns = true ∧ s.ct.kMax < ((s.ltNs : Int) - s.tickPhase) / s.tickPeriod ∧ s.ct.sc = b ∧
        (s.ct.kMax + 1) * s.tickPeriod + s.tickPhase - 160 ≤ (s.ltNs : Int)) ∧
    (∀ d ∈ [none, some [0], some [63]], takePacket 15 255 (presented d).presented =
      some ({ typ := 15, idx := 255, ms := 0, payload := [7], dests := d }, [])) ∧
    base.pzClass .packet = .a ∧ base.pzBound .market = true ∧
    (let s := actFld ((later base).setArc 63 { pc := 4, rel := 0, idle := some 0, act := true }) F.ARC_TIDLE_TIDLE 63 1
     s.arcIdleDue 63 = true) ∧ base.writes (.fn 0) .ARC_CMD 63 1 = true ∧ (base.arcOf 63).flp = false ∧
    (hosts.powered pdHost = true ∧ bit hosts.pm.perst 1 = true ∧ hosts.cfgRetry 3 = false ∧ 0 + 256 * 50000 ≤ hosts.ltMs) ∧
    (let s := (hosts.setBar2 3 (0xF00C + 16 * 15) 0).setQ 3 { msixPend := [15], busMaster := true, msixEn := true }
     (s.qOf 3).msixPend.contains 15 = true ∧ s.mayMsg 3 15 = true) ∧
    (∀ k ∈ [0, 1, 2], let s := (hosts.setFld F.SYS_MODE_MODE 0 5).setFld F.HP_LSTAT_LST 1 k
      s.mode = 5 ∧ s.linkUp 1 = true ∧ s.fld F.HP_LSTAT_LST 1 = k ∧ bit s.pm.aspm 1 = true) := by decide +kernel

end Sys2Proof.Tests
end

section
/-! The family of the architecture: what reset leaves (R25, R398, R454), and why AonOn alone, without the canonical form of the
live registers, is no invariant (R15, R456). -/

namespace Sys2Proof.Machine

/-! ### The reset state -/

theorem regDefault_key (r : Reg) (i : Nat) : regDefault (r.key i) = r.resetWord := by
  have hk : r.key i / 16384 = r.ctorIdx := by unfold Reg.key; omega
  rw [regDefault, hk, Reg.ofNat_ctorIdx]

/-- In the register map no field of a register overlaps another, and every Reset value fits its field. -/
theorem get_resetWord (r : Reg) : ∀ f ∈ r.desc.fields, f.get r.resetWord = f.reset := by
  cases r <;> decide +kernel

theorem reset_reg {r : Reg} (h : r ≠ .LC_STATE) (i : Nat) : State.reset.reg r i = r.resetWord :=
  (if_neg (key_ne h.symm 0 i)).trans (regDefault_key r i)

theorem reset_stg (r : Reg) (i : Nat) : State.reset.stg r i = r.resetWord := regDefault_key r i

theorem reset_actw (r : Reg) (i : Nat) : State.reset.actw r i = r.resetWord := regDefault_key r i

theorem reset_aonOn : State.reset.AonOn where
  on := .inl (by decide +kernel)
  lost := by decide
  loads := by simp [State.reset]
  map := by simp [State.reset]

/-- Settles O3. The fuses' LC_STATE is the only entry of the register files, so every other register reads its Reset word;
the tables and units are those of an empty state. -/
theorem resetState : Obligations.ResetState := by
  refine ⟨⟨reset_wf, rfl, reset_aonOn, rfl⟩, fun r i f hr hf => ?_, fun _ _ => ⟨rfl, rfl⟩, fun _ => rfl, fun _ => rfl,
    fun _ => rfl, fun _ => rfl, rfl, rfl, rfl, rfl, rfl, rfl⟩
  rw [reset_reg hr, reset_stg, reset_actw]
  exact ⟨get_resetWord r f hf, get_resetWord r f hf, get_resetWord r f hf⟩

/-! ### PD_AON in a state without the canonical form -/

/-- A write of the value that an unlisted key has takes away the first entry at the key only: where a second one stands
there, it is read from then on. -/
theorem Tab.get_set_default_dup {α : Type} [DecidableEq α] (d : Nat → α) (k : Nat) (v w : α) (t : Tab α) :
    (Tab.set d ((k, v) :: (k, w) :: t) k (d k)).get d k = w := by
  simp [Tab.set, Tab.erase, Tab.get]

/-- The device in LOAD with every domain powered and PM_STATUS.OOR set. Its live registers are not in canonical form: they
list PM_STATUS twice, the second entry with no domain powered. -/
def statusTwice : State :=
  { State.reset with
    live := [(Reg.key .PM_STATUS 0, F.PM_STATUS_OOR.put Reg.PM_STATUS.resetWord 1), (Reg.key .PM_STATUS 0, 0)] }

theorem statusTwice_not_wf : ¬ statusTwice.Wf := fun h => absurd h.live (by decide +kernel)

theorem statusTwice_aonOn (q : List Instr) : ({ statusTwice with pending := q } : State).AonOn where
  on := .inl (by change statusTwice.powered pdAon = true; decide +kernel)
  lost := (by decide : bit statusTwice.pm.lost pdAon = false)
  loads := by simp [statusTwice, State.reset]
  map := by simp [statusTwice, State.reset]

/-- What clearing PM_STATUS.OOR leaves: the Reset word of PM_STATUS has been written, and the debug port answered. -/
def statusCleared : State :=
  (statusTwice.setReg .PM_STATUS 0 (regDefault (Reg.key .PM_STATUS 0))).dbgAnswer false false 0

/-- The debug port writes 1 to PM_STATUS.OOR, which is W1C (R24, R463). -/
theorem step_clearOor_statusTwice :
    step { statusTwice with
      pending := [.registerWrite .dbg (.ctl ⟨Reg.offset .PM_STATUS 0, by decide +kernel⟩) (F.PM_STATUS_OOR.put 0 1) 15] } =
    .next statusCleared := rfl

theorem statusCleared_reg_PM_STATUS : statusCleared.reg .PM_STATUS = 0 :=
  Tab.get_set_default_dup regDefault (Reg.key .PM_STATUS 0) (F.PM_STATUS_OOR.put Reg.PM_STATUS.resetWord 1) 0 []

theorem statusCleared_powered (i : Nat) : statusCleared.powered i = false := by
  have hdom : statusCleared.fld F.PM_STATUS_DOM = 0 := congrArg F.PM_STATUS_DOM.get statusCleared_reg_PM_STATUS
  simp [State.powered, hdom, bit]

/-- Refutes O6: AonOn does not ask for the canonical form of the live registers. The counterexample, not canonical by
statusTwice_not_wf, lists PM_STATUS twice; once PM_STATUS.OOR is cleared its word is the Reset word, which the
canonical form does not list, so the first entry goes and the second one, with no domain powered, is read. -/
theorem not_stepKeepsAonPowered : ¬ Obligations.StepKeepsAonPowered := by
  intro h
  obtain hon | ⟨-, hvin⟩ := (h _ _ (statusTwice_aonOn _) step_clearOor_statusTwice).on
  · exact Bool.false_ne_true ((statusCleared_powered pdAon).symm.trans hon)
  · exact Bool.false_ne_true hvin.symm

end Sys2Proof.Machine
end

section
/-! The fields of the register words and of the live registers: what a read gives after a write, and which writes leave a field
alone (R24, R26). -/

namespace Sys2Proof.Machine

/-! ### Fields of a register word -/

/-- Bit i of a word after a write of a field: the value's inside the field, the old word's elsewhere. -/
theorem getLsbD_put {f : Field} (hf : f.lo ≤ f.hi) (w : Word) (v : Nat) {i : Nat} (hi : i < 32) :
    (f.put w v).getLsbD i = if f.lo ≤ i ∧ i ≤ f.hi then v.testBit (i - f.lo) else w.getLsbD i := by
  have hw : w.toNat % 2 ^ f.lo < 2 ^ f.lo := Nat.mod_lt _ (by positivity)
  have hv : v % 2 ^ f.width < 2 ^ f.width := Nat.mod_lt _ (by positivity)
  have e : w.toNat / 2 ^ (f.hi + 1) * 2 ^ (f.hi + 1) + v % 2 ^ f.width * 2 ^ f.lo + w.toNat % 2 ^ f.lo =
      2 ^ f.lo * (2 ^ f.width * (w.toNat / 2 ^ (f.hi + 1)) + v % 2 ^ f.width) + w.toNat % 2 ^ f.lo := by
    have h2 : (2 : Nat) ^ (f.hi + 1) = 2 ^ f.lo * 2 ^ f.width := by rw [← pow_add, Field.width]; congr 1; omega
    rw [h2]; ring
  have bits_put : (f.put w v).getLsbD i = if i < f.lo then (w.toNat % 2 ^ f.lo).testBit i
      else if i - f.lo < f.width then (v % 2 ^ f.width).testBit (i - f.lo)
      else (w.toNat / 2 ^ (f.hi + 1)).testBit (i - f.lo - f.width) := by
    simp only [Field.put, w32, BitVec.getLsbD_ofNat, hi, decide_true, Bool.true_and]
    rw [e, Nat.testBit_two_pow_mul_add _ hw, Nat.testBit_two_pow_mul_add _ hv]
  rw [bits_put]
  have hwd : f.width = f.hi + 1 - f.lo := rfl
  by_cases h1 : i < f.lo
  · rw [if_pos h1, if_neg (by omega), Nat.testBit_mod_two_pow, decide_eq_true h1, Bool.true_and, BitVec.testBit_toNat]
  · by_cases h2 : i ≤ f.hi
    · rw [if_neg h1, if_pos (by omega), if_pos ⟨by omega, h2⟩, Nat.testBit_mod_two_pow, decide_eq_true (by omega),
        Bool.true_and]
    · rw [if_neg h1, if_neg (by omega), if_neg (by omega), Nat.testBit_div_two_pow,
        show i - f.lo - f.width + (f.hi + 1) = i by omega, BitVec.testBit_toNat]

/-- Bit i of a field's value is bit lo + i of the word. -/
theorem testBit_get (f : Field) (w : Word) (i : Nat) :
    (f.get w).testBit i = (decide (i < f.width) && w.getLsbD (f.lo + i)) := by
  rw [Field.get, bits, Nat.testBit_mod_two_pow, Nat.testBit_div_two_pow, Nat.add_comm i f.lo, BitVec.testBit_toNat]
  rfl

/-- A field has a value of its width, within the 32 bits of its register. -/
abbrev Field.Fits (f : Field) (v : Nat) : Prop := f.lo ≤ f.hi ∧ f.hi < 32 ∧ v ≤ maxOf f.width

/-- Two fields share no bit. -/
abbrev Field.Apart (f g : Field) : Prop := f.reg ≠ g.reg ∨ g.lo ≤ g.hi ∧ f.hi < 32 ∧ (f.hi < g.lo ∨ g.hi < f.lo)

theorem get_le (f : Field) (w : Word) : f.get w ≤ maxOf f.width := Nat.le_sub_one_of_lt (Nat.mod_lt _ (by positivity))

theorem get_put_self {f : Field} {v : Nat} (h : f.Fits v) (w : Word) : f.get (f.put w v) = v := by
  obtain ⟨hlo, hhi, hv⟩ := h
  have hlt : v < 2 ^ f.width := Nat.lt_of_le_sub_one (by positivity) hv
  have hwd : f.width = f.hi + 1 - f.lo := rfl
  refine Nat.eq_of_testBit_eq fun i => ?_
  rw [testBit_get]
  by_cases hi : i < f.width
  · rw [getLsbD_put hlo w v (by omega), if_pos (by omega), decide_eq_true hi, Bool.true_and, Nat.add_sub_cancel_left]
  · rw [decide_eq_false hi, Bool.false_and, Nat.testBit_lt_two_pow (hlt.trans_le (Nat.pow_le_pow_right (by omega) (by omega)))]

theorem get_put_apart {f g : Field} (hg : g.lo ≤ g.hi) (hf : f.hi < 32) (h : f.hi < g.lo ∨ g.hi < f.lo) (w : Word) (v : Nat) :
    f.get (g.put w v) = f.get w := by
  have hwd : f.width = f.hi + 1 - f.lo := rfl
  refine Nat.eq_of_testBit_eq fun i => ?_
  rw [testBit_get, testBit_get]
  by_cases hi : i < f.width
  · rw [getLsbD_put hg w v (by omega), if_neg (by omega)]
  · rw [decide_eq_false hi, Bool.false_and, Bool.false_and]

/-! ### Fields of the live registers -/

theorem fld_le (s : State) (f : Field) (i : Nat) : s.fld f i ≤ maxOf f.width := get_le f _

section
variable {s : State} (h : s.Wf)
include h

theorem setReg_wf (r : Reg) (i : Nat) (w : Word) : (s.setReg r i w).Wf := (setReg_keeps r i w (Keeps.refl s)).wf h
theorem setFld_wf (f : Field) (i v : Nat) : (s.setFld f i v).Wf := setReg_wf h _ _ _
theorem setThr_wf (t : Nat) (th : Thr) : (s.setThr t th).Wf := (setThr_keeps t th (Keeps.refl s)).wf h
theorem setQ_wf (q : Nat) (u : Qtr) : (s.setQ q u).Wf := (setQ_keeps q u (Keeps.refl s)).wf h

theorem fld_setFld_self {f : Field} {v : Nat} (hv : f.Fits v) (i : Nat) : (s.setFld f i v).fld f i = v := by
  rw [State.fld, State.setFld, reg_setReg_self h, get_put_self hv]

theorem fld_setFld_apart {f g : Field} (hfg : f.Apart g) (i j v : Nat) : (s.setFld g j v).fld f i = s.fld f i := by
  by_cases hk : f.reg.key i = g.reg.key j
  · obtain hne | ⟨hg, hf, hd⟩ := hfg
    · exact absurd hk (key_ne hne i j)
    · have hr : f.reg = g.reg := not_not.1 fun e => key_ne e i j hk
      have hw : (s.setFld g j v).reg f.reg i = g.put (s.reg f.reg i) v := by
        rw [State.reg, State.reg, hk]; exact reg_setReg_self h g.reg j _
      rw [State.fld, hw, get_put_apart hg hf hd, State.fld]
  · exact congrArg f.get (Tab.get_set_ne hk)

theorem fld_raise_apart {f g : Field} (hfg : f.Apart g) (i j : Nat) : (s.raise g j).fld f i = s.fld f i :=
  fld_setFld_apart h hfg i j 1

theorem fld_raiseIf_apart {f g : Field} (hfg : f.Apart g) (c : Bool) (i j : Nat) : (s.raiseIf c g j).fld f i = s.fld f i := by
  cases c
  · rfl
  · exact fld_raise_apart h hfg i j

theorem fld_bump_apart {f g : Field} (hfg : f.Apart g) (i j n : Nat) : (s.bump g j n).fld f i = s.fld f i :=
  fld_setFld_apart h hfg i j _

theorem fld_bump_self {f : Field} (hf : f.Fits 0) (i n : Nat) :
    (s.bump f i n).fld f i = min (s.fld f i + n) (maxOf f.width) :=
  fld_setFld_self h ⟨hf.1, hf.2.1, Nat.min_le_right _ _⟩ i

theorem flag_raise_self {f : Field} (hf : f.Fits 1) (i : Nat) : (s.raise f i).flag f i = true := by
  rw [State.flag, State.raise, fld_setFld_self h hf]; rfl

end

theorem fld_setFld_reg {f g : Field} (hfg : f.reg ≠ g.reg) (s : State) (i j v : Nat) : (s.setFld g j v).fld f i = s.fld f i :=
  congrArg f.get (reg_setReg_ne s hfg j i _)

end Sys2Proof.Machine
end

section
/-! What updates of live registers, notices and performed register writes do, and what they leave alone (R21-R27, R51, R372, R463). -/

namespace Sys2Proof.Machine

/-! ### Updates of the state -/

theorem each_eq {β : Type} (g : State → β) (f : State → Nat → State) (hf : ∀ s i, g (f s i) = g s) (s : State) (n : Nat) :
    g (s.each n f) = g s := by
  unfold State.each
  induction List.range n generalizing s with
  | nil => rfl
  | cons i l ih => exact (ih (f s i)).trans (hf s i)

theorem setThr_setThr {s : State} (h : s.Wf) (t : Nat) (a b : Thr) : (s.setThr t a).setThr t b = s.setThr t b :=
  congrArg (fun x => ({ s with thr := x } : State)) (Tab.set_set h.thr)

/-- What a conditional flag leaves: the state, or the state with the flag set. -/
theorem raiseIf_cases {P : State → Prop} {s : State} {f : Field} {i : Nat} (h0 : P s) (h1 : P (s.raise f i)) (c : Bool) :
    P (s.raiseIf c f i) := by
  cases c
  · exact h0
  · exact h1

theorem setReg_setThr (s : State) (r : Reg) (i k : Nat) (w : Word) (th : Thr) :
    (s.setThr k th).setReg r i w = (s.setReg r i w).setThr k th :=
  (fun x y => (rfl : ({ { s with thr := y } with live := x } : State) = { { s with live := x } with thr := y })) _ _

theorem setFld_setThr (s : State) (f : Field) (i v k : Nat) (th : Thr) :
    (s.setThr k th).setFld f i v = (s.setFld f i v).setThr k th := by
  simp only [State.setFld, setThr_reg, setReg_setThr]

theorem raiseIf_setThr (s : State) (c : Bool) (f : Field) (i k : Nat) (th : Thr) :
    (s.setThr k th).raiseIf c f i = (s.raiseIf c f i).setThr k th := by
  cases c
  · rfl
  · exact setFld_setThr s f i 1 k th

theorem raiseIf_wf {s : State} (h : s.Wf) (c : Bool) (f : Field) (i : Nat) : (s.raiseIf c f i).Wf :=
  raiseIf_cases h (setFld_wf h f i 1) c

/-! ### Updates of live registers alone -/

/-- From s to s', only live registers of the list have changed. -/
structure LiveBut (rs : List Reg) (s s' : State) : Prop where
  rest : { s' with live := s.live } = s
  reg : ∀ r i, r ∉ rs → s'.reg r i = s.reg r i

theorem LiveBut.refl (rs : List Reg) (s : State) : LiveBut rs s s := ⟨rfl, fun _ _ _ => rfl⟩

theorem liveBut_setFld {rs : List Reg} (s : State) {f : Field} (hf : f.reg ∈ rs) (i v : Nat) : LiveBut rs s (s.setFld f i v) :=
  ⟨rfl, fun r j hr => reg_setReg_ne s (fun e : r = f.reg => hr (e ▸ hf)) i j _⟩

theorem liveBut_raiseIf {rs : List Reg} (s : State) (c : Bool) {f : Field} (hf : f.reg ∈ rs) (i : Nat) :
    LiveBut rs s (s.raiseIf c f i) := raiseIf_cases (.refl rs s) (liveBut_setFld s hf i 1) c

theorem liveBut_charge (s : State) (t n : Nat) : LiveBut [.BK_USED] s (s.charge t n) := by
  unfold State.charge
  split
  · exact .refl _ s
  · exact liveBut_setFld s (by decide) t _

theorem liveBut_noteExit (s : State) (t a : Nat) : LiveBut [.BK_TSTAT] s (s.noteExit t a) :=
  liveBut_raiseIf s _ (by decide) t

section
variable {rs : List Reg} {s s' : State} (h : LiveBut rs s s')
include h

theorem LiveBut.blk : s'.blk = s.blk := by
  have e := congrArg State.blk h.rest
  exact e

theorem LiveBut.map : s'.map = s.map := by
  have e := congrArg State.map h.rest
  exact e

theorem LiveBut.mem : s'.mem = s.mem := by
  have e := congrArg State.mem h.rest
  exact e

theorem LiveBut.eccOf (rg w : Nat) : s'.eccOf rg w = s.eccOf rg w := by
  have e := congrArg (fun u : State => u.eccOf rg w) h.rest
  exact e

theorem LiveBut.overlapped (t a n : Nat) : s'.overlapped t a n = s.overlapped t a n := by
  have e := congrArg (fun u : State => u.overlapped t a n) h.rest
  exact e

theorem LiveBut.fld {f : Field} (hf : f.reg ∉ rs) (i : Nat) : s'.fld f i = s.fld f i := congrArg f.get (h.reg f.reg i hf)

theorem LiveBut.avenue (hr : .BK_TCFG ∉ rs) (t : Nat) : s'.avenue t = s.avenue t :=
  congrArg (· == 1) (h.fld (f := F.BK_TCFG_CLASS) hr t)

end

theorem charge_wf {s : State} (h : s.Wf) (t n : Nat) : (s.charge t n).Wf := (charge_keeps t n (Keeps.refl s)).wf h
theorem noteExit_wf {s : State} (h : s.Wf) (t a : Nat) : (s.noteExit t a).Wf := (noteExit_keeps t a (Keeps.refl s)).wf h

theorem noteExit_setThr (s : State) (t k a : Nat) (th : Thr) : (s.setThr k th).noteExit t a = (s.noteExit t a).setThr k th :=
  raiseIf_setThr s _ _ t k th

/-! ### What a notice leaves alone (R372) -/

/-- The registers that a notice may change. -/
def noticeRegs : List Reg := [.HP_NLOST, .HP_QSTAT, .HP_NPI, .MP_ECC_INJ]

/-- What a notice leaves alone. -/
structure Notified (s s' : State) : Prop where
  rest : { s' with live := s.live, ecc := s.ecc, scrubQ := s.scrubQ, bar2 := s.bar2, qtr := s.qtr, out := s.out } = s
  reg : ∀ r i, r ∉ noticeRegs → s'.reg r i = s.reg r i

theorem Notified.refl (s : State) : Notified s s := ⟨rfl, fun _ _ _ => rfl⟩

theorem Notified.trans {a b c : State} (h : Notified a b) (g : Notified b c) : Notified a c where
  rest := by
    have e := congrArg (fun x : State => { x with
      live := a.live, ecc := a.ecc, scrubQ := a.scrubQ, bar2 := a.bar2, qtr := a.qtr, out := a.out }) g.rest
    exact e.trans h.rest
  reg r i hr := (g.reg r i hr).trans (h.reg r i hr)

theorem Notified.thr {s s' : State} (h : Notified s s') : s'.thr = s.thr := by
  have e := congrArg State.thr h.rest
  exact e
theorem Notified.arc {s s' : State} (h : Notified s s') : s'.arc = s.arc := by
  have e := congrArg State.arc h.rest
  exact e
theorem Notified.fld {s s' : State} (h : Notified s s') {f : Field} (hf : f.reg ∉ noticeRegs) (i : Nat) :
    s'.fld f i = s.fld f i := congrArg f.get (h.reg f.reg i hf)

theorem notified_setFld (s : State) {f : Field} (hf : f.reg ∈ noticeRegs) (i v : Nat) : Notified s (s.setFld f i v) :=
  ⟨rfl, fun r j hr => reg_setReg_ne s (fun e : r = f.reg => hr (e ▸ hf)) i j _⟩

theorem notified_setQ (s : State) (q : Nat) (u : Qtr) : Notified s (s.setQ q u) := ⟨rfl, fun _ _ _ => rfl⟩

theorem notified_scrubQ (s : State) (q : List Nat) : Notified s { s with scrubQ := q } := ⟨rfl, fun _ _ _ => rfl⟩
theorem notified_setEcc (s : State) (rg w : Nat) (e : Ecc) : Notified s (s.setEcc rg w e) := ⟨rfl, fun _ _ _ => rfl⟩
theorem notified_setBar2 (s : State) (q off : Nat) (w : Word) : Notified s (s.setBar2 q off w) := ⟨rfl, fun _ _ _ => rfl⟩
theorem notified_emit (s : State) (o : Out) : Notified s (s.emit o) := ⟨rfl, fun _ _ _ => rfl⟩

theorem notified_inject (s : State) (rg : Nat) : Notified s (s.inject rg).1 := by
  unfold State.inject
  split
  · exact notified_setFld s (by decide) 0 0
  · exact .refl s

theorem notified_eccWrite (s : State) (rg w : Nat) : Notified s (s.eccWrite rg w true).1 :=
  ((notified_scrubQ s _).trans (notified_inject _ rg)).trans (notified_setEcc _ rg w _)

theorem notified_bar2Pair (s : State) (q off : Nat) (lo hi : Word) : Notified s (s.bar2Pair q off lo hi) :=
  ((notified_eccWrite s _ _).trans (notified_setBar2 _ q off lo)).trans (notified_setBar2 _ q (off + 4) hi)

theorem notified_message (s : State) (q vec : Nat) : Notified s (s.message q vec) := by
  unfold State.message
  split
  · exact notified_emit s _
  · exact notified_setQ s q _

theorem notified_notice (s : State) (q kind detail inst ms : Nat) (w2 : Word) :
    Notified s (s.notice q kind detail inst ms w2) := by
  have hq := notified_setQ s q { s.qOf q with seqN := ((s.qOf q).seqN + 1) % 65536 }
  unfold State.notice
  dsimp only
  refine hq.trans ?_
  split
  · exact (notified_setFld _ (f := F.HP_NLOST_N) (by decide) q _).trans (notified_setFld _ (f := F.HP_QSTAT_NOVF) (by decide) q 1)
  · exact (((notified_bar2Pair _ q _ _ _).trans (notified_bar2Pair _ q _ _ _)).trans
      (notified_setFld _ (f := F.HP_NPI_IDX) (by decide) q _)).trans (notified_message _ q _)

/-! ### A register write that its requester performs (R21-R27, R463) -/

theorem blkAt_of_regAt {off : Nat} {x : Reg × Nat} (h : regAt off = some x) : blkAt off ≠ none := fun e => by
  simp [regAt, e] at h

theorem regWrite_performed {s : State} {req : Req} {r : Reg} {i : Nat} {w : Word} (hon : s.regOn r i = true)
    (hden : s.writeDenied req r i = false) (hbad : s.regBad r i w = false) (hheld : r.held = false) :
    s.regWrite req r i w = s.regEffect req r i w := by
  simp [State.regWrite, hon, hden, hbad, hheld]

/-- A write that arrives where its requester reaches the register does what the register does, and the requester is told. -/
theorem arrive_performed {s : State} {req : Req} {r : Reg} {i : Nat} {w : Word} (h : s.writes req r i w = true)
    (hheld : r.held = false) (h4 : r.offset i % 4 = 0)
    (hat : regAt (r.offset i) = some (r, i)) : s.arrive req r i w = (s.regEffect req r i w).answered req := by
  simp only [State.writes, State.reaches, Bool.and_eq_true, Bool.not_eq_true', decide_eq_true_eq] at h
  obtain ⟨⟨⟨⟨-, hon⟩, hden⟩, hreq⟩, hbad⟩ := h
  have hctl : s.ctlWrite req (r.offset i) w = s.regEffect req r i w := by
    simp only [State.ctlWrite, hat]
    exact regWrite_performed hon hden hbad hheld
  cases req with
  | thr t =>
    simp only [Bool.and_eq_true, decide_eq_true_eq] at hreq
    exact (if_pos hreq).trans (regWrite_performed hon hden hbad hheld)
  | fn q =>
    simp only [Bool.and_eq_true, decide_eq_true_eq] at hreq
    obtain ⟨⟨hhost, hlt⟩, hsees⟩ := hreq
    have hoff : r.offset i / 4 * 4 = r.offset i := by omega
    simp [State.arrive, State.bar0Write, hoff, hhost, hsees, hctl, State.answered, hlt]
  | dbg =>
    simp only [Bool.and_eq_true] at hreq
    simp [State.arrive, State.dbgCtlWrite, hreq.1, hreq.2, h4, blkAt_of_regAt hat, hctl, State.answered]

end Sys2Proof.Machine
end

section
/-! The family of the tick: when a tick and its stage close occur (R37, R39). -/

namespace Sys2Proof.Machine

theorem foldl_setCapw_ct (w : State → Reg × Nat → Word) (l : List (Reg × Nat)) (s : State) :
    (l.foldl (fun s p => s.setCapw p.1 p.2 (w s p)) s).ct = s.ct := by
  induction l generalizing s with
  | nil => rfl
  | cons p l ih => exact ih _

theorem fpRefuse_ct (s : State) (n : Nat) : (s.fpRefuse n).ct = s.ct := by
  unfold State.fpRefuse
  split
  · rfl
  · dsimp only
    rw [raise_ct, raise_ct]
    exact foldl_setCapw_ct (fun s p => s.actw p.1 p.2) _ s

theorem stageClose_sc (s : State) : s.stageClose.ct.sc = true := by
  have hct : s.stageClose.ct = _ := each_eq State.ct State.fpRefuse fpRefuse_ct _ 32
  rw [hct]

theorem exec_tick_due {s : State} (hr : s.timeRuns = true)
    (hk : s.ct.kMax < ((s.ltNs : Int) - s.tickPhase) / s.tickPeriod) :
    exec .tick s = .next ((if s.ct.sc then s else s.stageClose).tickAt (((s.ltNs : Int) - s.tickPhase) / s.tickPeriod)) :=
  congrArg Host.Outcome.next (if_neg (by simp [hr, hk]))

theorem exec_tick_notDue {s : State} (hk : ((s.ltNs : Int) - s.tickPhase) / s.tickPeriod ≤ s.ct.kMax) :
    exec .tick s = .next s :=
  congrArg Host.Outcome.next (if_pos (.inr hk))

theorem exec_stageClose_due {s : State} (hr : s.timeRuns = true) (hc : s.ct.sc = false)
    (hd : (s.ct.kMax + 1) * s.tickPeriod + s.tickPhase - 160 ≤ (s.ltNs : Int)) :
    exec .stageClose s = .next s.stageClose :=
  congrArg Host.Outcome.next (if_pos ⟨hr, by simp [hc], hd⟩)

theorem exec_stageClose_done {s : State} (hc : s.ct.sc = true) : exec .stageClose s = .next s :=
  congrArg Host.Outcome.next (if_neg fun h => h.2.1 hc)

/-- Settles O29. A tick and a stage close run under the conditions of R37 and R39; what follows the capture in a stage close
leaves its mark alone. -/
theorem tickOccurs : Obligations.TickOccurs := by
  intro s hr
  exact ⟨exec_tick_due hr, exec_tick_notDue, fun hc hd => ⟨_, exec_stageClose_due hr hc hd, stageClose_sc s⟩,
    exec_stageClose_done⟩

end Sys2Proof.Machine
end

section
/-! The family of the tick: loads from a TCM and from the Market (R51, R265, R268-R270, R277, R317). -/

namespace Sys2Proof.Machine

/-! ### Reading bytes of memory -/

theorem peek_lt (s : State) (rg : Nat) : ∀ n off : Nat, s.peek rg off n < 256 ^ n
  | 0, _ => by simp [State.peek]
  | n + 1, off => by
    have hb := (s.byte rg off).isLt
    have ih := peek_lt s rg n (off + 1)
    rw [State.peek, pow_succ]
    omega

theorem peek_add (s : State) (rg k : Nat) : ∀ j off : Nat,
    s.peek rg off (j + k) = s.peek rg off j + 256 ^ j * s.peek rg (off + j) k
  | 0, off => by simp [State.peek]
  | j + 1, off => by
    rw [show j + 1 + k = (j + k) + 1 by omega, State.peek, State.peek, peek_add s rg k j (off + 1), pow_succ,
      show off + (j + 1) = off + 1 + j by omega]
    ring

/-- A word whose code is clean reads as it stands (R395). -/
theorem eccRead_clean {s : State} {rg w : Nat} (h : s.eccOf rg w = {}) : s.eccRead rg w = (s, .ok 0) := by
  rw [State.eccRead, h]; rfl

theorem memRead_clean {s : State} {rg off : Nat} (h : s.eccOf rg (off / 8) = {}) (n : Nat) :
    s.memRead rg off n = (s, some (s.peek rg off n)) := by
  have hlt : s.peek rg off n < 2 ^ (8 * n) := by rw [pow_mul]; exact peek_lt s rg n off
  rw [State.memRead, eccRead_clean h]
  simp [Nat.mod_eq_of_lt hlt]

/-! ### A TCM address (R17) -/

theorem dataAt_tcm (b : Nat) {a : Nat} (ha : a < 0x30000) : dataAt b a = .tcm (tcmAt b a).1 (tcmAt b a).2 := by
  unfold dataAt tcmAt
  split_ifs <;> rfl

theorem noteExit_tcm (s : State) (t : Nat) {a : Nat} (ha : a < 0x30000) : s.noteExit t a = s := by
  simp [State.noteExit, dataAt_tcm _ ha, DataAt.leaves, State.raiseIf]

theorem foldl_noteExit_tcm (s : State) (t : Nat) {l : List (Nat × Nat)} (hl : ∀ p ∈ l, p.1 < 0x30000) :
    l.foldl (fun s p => s.noteExit t p.1) s = s := by
  induction l with
  | nil => rfl
  | cons p l ih =>
    rw [List.foldl_cons, noteExit_tcm s t (hl p (by simp))]
    exact ih fun q hq => hl q (by simp [hq])

theorem denied_tcm (s : State) (t : Nat) (store : Bool) {p : Nat × Nat} (ha : p.1 < 0x30000) : s.denied t store p = false := by
  rw [State.denied, dataAt_tcm _ ha]

theorem ctlBad_tcm (b n : Nat) {a : Nat} (ha : a < 0x30000) : ctlBad b a n = false := by
  rw [ctlBad, dataAt_tcm _ ha]; rfl

theorem tcmAt_add (b : Nat) {a j : Nat} (h : a + j < 0x10000 ∨ 0x10000 ≤ a) :
    tcmAt b (a + j) = ((tcmAt b a).1, (tcmAt b a).2 + j) := by
  unfold tcmAt
  split_ifs
  · rfl
  · omega
  · omega
  · exact congrArg (Prod.mk _) (by omega)

/-- The bytes of an access within one TCM, taken in two parts. -/
theorem tcmValue_add (s : State) (t : Nat) {a j k : Nat} (hk : 0 < k) (h : a + (j + k) ≤ 0x10000 ∨ 0x10000 ≤ a) :
    s.tcmValue t a (j + k) = s.tcmValue t a j + 256 ^ j * s.tcmValue t (a + j) k := by
  simp only [State.tcmValue, tcmAt_add (t / 16) (a := a) (j := j) (by omega), peek_add]

/-! ### Loads from a TCM (R265, R270) -/

/-- An access is one aligned part or two. -/
theorem parts_cases {a n : Nat} (hn : 0 < n) (ha : a + n ≤ 2 ^ 32) :
    parts a n = [(a, n)] ∨ ∃ j k, 0 < j ∧ 0 < k ∧ j + k = n ∧ parts a n = [(a, j), (a + j, k)] := by
  have hm := Nat.mod_lt a hn
  by_cases h : a % n = 0
  · exact .inl (if_pos h)
  · refine .inr ⟨n - a % n, a % n, by omega, by omega, by omega, ?_⟩
    rw [parts, if_neg h]
    simp only [List.cons.injEq, Prod.mk.injEq, and_true, true_and]
    omega

/-- The parts of an access that ends at or below c begin below it. -/
theorem parts_lt {a n c : Nat} (hn : 0 < n) (hc : c ≤ 2 ^ 32) (h : a + n ≤ c) : ∀ p ∈ parts a n, p.1 < c := by
  obtain hp | ⟨j, k, hj, hk, hjk, hp⟩ := parts_cases hn (h.trans hc) <;> rw [hp] <;> simp <;> omega

/-- A load that no store of its thread overlaps takes nothing from the store buffer (R269). -/
theorem forwarded_none {s : State} {t a n : Nat} (hn : 0 < n) (h : s.overlapped t a n = false) : s.forwarded t a n = none := by
  have hc : (s.ownStores t).filter (fun e => e.covers a n) = [] := by
    refine List.filter_eq_nil_iff.2 fun e he hcov => ?_
    have hmeets := List.any_eq_false.1 h e he
    simp only [SbEnt.covers, SbEnt.meets, Bool.and_eq_true, decide_eq_true_eq] at hcov hmeets
    exact hmeets ⟨⟨hcov.1.1, by omega⟩, by omega⟩
  rw [State.forwarded, hc]; rfl

section
variable {s : State} {t a n : Nat} (h : s.TcmClean t a n)
include h

/-- A part of an access within a TCM reads its bytes. -/
theorem readPart_tcmClean {i k : Nat} (hi : i < n) (p : Nat) (hp : p = a + i) :
    s.readPart t (p, k) = (s, some (some (s.tcmValue t p k))) := by
  obtain ⟨hend, -, -, hecc⟩ := h
  subst hp
  rw [State.readPart, dataAt_tcm _ (show a + i < 0x30000 by omega)]
  simp only [memRead_clean (hecc i hi), State.tcmValue]

theorem readParts_tcmClean (hn : 0 < n) : s.readParts t a n 0 0 0 (parts a n) = (s, .val (s.tcmValue t a n)) := by
  have ⟨hend, hreg, _, _⟩ := h
  obtain hp | ⟨j, k, hj, hk, rfl, hp⟩ := parts_cases hn (show a + n ≤ 2 ^ 32 by omega)
  · simp [hp, State.readParts, readPart_tcmClean h hn a rfl]
  · simp [hp, State.readParts, readPart_tcmClean h (i := 0) (by omega) a rfl,
      readPart_tcmClean h (i := j) (by omega) (a + j) rfl, tcmValue_add s t hk hreg]

theorem load_tcmClean (hn : 0 < n) (fin : Bool) : s.load t a n fin = (s, .val (s.tcmValue t a n)) := by
  have ⟨hend, _, hover, _⟩ := h
  have hparts := parts_lt hn (c := 0x30000) (by omega) hend
  have hden : (parts a n).findIdx? (s.denied t false) = none :=
    List.findIdx?_eq_none_iff.2 fun p hp => denied_tcm s t false (hparts p hp)
  have hall : ((parts a n).all fun p => (dataAt (t / 16) p.1).isTcm) = true :=
    List.all_eq_true.2 fun p hp => by rw [dataAt_tcm _ (hparts p hp)]; rfl
  simp only [State.load, foldl_noteExit_tcm s t hparts, ctlBad_tcm _ _ (show a < 0x30000 by omega), hden,
    forwarded_none hn hover, hover, hall, readParts_tcmClean h hn]
  cases fin <;> rfl

end

theorem doLoad_tcmClean {s : State} {t a n : Nat} (h : s.TcmClean t a n) (hn : 0 < n) (mi : MemI) (fin : Bool)
    (f : Nat → List Word) :
    s.doLoad t mi a n fin f = (s, .out (f (s.tcmValue t a n)) ((parts a n).length - 1)) := by
  rw [State.doLoad, load_tcmClean h hn]; rfl

/-- The low 8n bits of a number, sign-extended (R317). -/
theorem extend_signed {n : Nat} (hn : 0 < n) (v : Nat) : extend n true v = BitVec.ofInt 32 (BitVec.ofNat (8 * n) v).toInt := by
  have hp : (2 : Nat) ^ (8 * n) = 2 * 2 ^ (8 * n - 1) := by rw [← pow_succ']; congr 1; omega
  rw [extend, if_pos rfl, sext, BitVec.toInt_eq_toNat_cond, BitVec.toNat_ofNat]
  simp only [hp, Nat.mul_lt_mul_left (show 0 < 2 by decide)]

/-- The offset of LDWO and STWO, four times its byte, is added modulo 2^32 (R317). -/
theorem toNat_add_w32_four_mul (a : Word) (k : Byte) :
    (a + w32 (4 * k.toNat)).toNat = (a.toNat + 4 * k.toNat) % 2 ^ 32 := by
  simp [w32, BitVec.toNat_add]

/-- What has begun has the stacks of before. -/
theorem begun_ds {s : State} {t : Fin 64} {r : Row} (h : s.Ready t r) : ((s.begun t r).thrOf t).ds = (s.thrOf t).ds := by
  obtain ⟨b, hb⟩ := (sameBut_begun s t r).own h.wf
  rw [hb]

/-- A memory instruction whose first attempt completes. -/
theorem memOp_out {s : State} {t : Fin 64} {r : Row} {mi : MemI} {ds : List Word} {c : Nat} (h : s.Ready t r)
    (hp : r.pr = .worker) (hl : mi.len = r.len) (ha : (s.begun t r).attempt t mi false = (s.begun t r, .out ds c)) :
    s.memOp t r mi = ((s.begun t r).charge t c).ended t r fun th => { th with ds := ds } := by
  have hf : r.pr ≠ .feeder := by rw [hp]; decide
  rw [State.memOp, issue_ready h, State.tryMem, ha]
  simp only [State.ended, State.leave, hl, if_neg hf]

section
variable {s : State} {t : Nat} {a : Word} {l : List Word} (h : (s.thrOf t).ds = a :: l) (fin : Bool)
include h

theorem attempt_ld (n : Nat) (sgn : Bool) : s.attempt t (.ld n sgn) fin =
    s.doLoad t (.ld n sgn) a.toNat n fin fun v => extend n sgn v :: l := by
  unfold State.attempt; rw [h]

theorem attempt_ldwo (k : Byte) : s.attempt t (.ldwo k) fin =
    s.doLoad t (.ldwo k) ((a.toNat + 4 * k.toNat) % 2 ^ 32) 4 fin fun v => w32 v :: l := by
  unfold State.attempt; rw [h]; simp only [toNat_add_w32_four_mul]

theorem attempt_ldwPlus : s.attempt t .ldwPlus fin =
    s.doLoad t .ldwPlus a.toNat 4 fin fun v => (a + 4) :: w32 v :: l := by
  unfold State.attempt; rw [h]

end

/-- Instruction c of thread t, which is r, loads n bytes at p from a TCM of its Block: res gives the cells it leaves from their
value, and a split access costs one slot more (R265, R270, R277). -/
def LoadsTcm (s : State) (t : Fin 64) (ds : List Word) (c : Instr) (r : Row) (p n : Nat) (res : Nat → List Word) : Prop :=
  s.Ready t r → (s.thrOf t).ds = ds → (s.begun t r).TcmClean t p n →
    exec c s = .next (((s.begun t r).charge t ((parts p n).length - 1)).ended t r fun th =>
      { th with ds := res ((s.begun t r).tcmValue t p n) })

theorem loadsTcm_of_attempt {s : State} {t : Fin 64} {ds : List Word} {c : Instr} {r : Row} {p n : Nat} {res : Nat → List Word}
    (mi : MemI) (hc : exec c s = .next (s.memOp t r mi)) (hp : r.pr = .worker) (hl : mi.len = r.len) (hn : 0 < n)
    (ha : ∀ u : State, (u.thrOf t).ds = ds → u.attempt t mi false = u.doLoad t mi p n false res) :
    LoadsTcm s t ds c r p n res := fun hr hds hcl => by
  rw [hc, memOp_out hr hp hl ((ha _ ((begun_ds hr).trans hds)).trans (doLoad_tcmClean hcl hn mi false res))]

section
variable (s : State) (t : Fin 64) (a : Word) (l : List Word)

theorem iLdb_loadsTcm : LoadsTcm s t (a :: l) (.iLdb t) { code := 0x40, pr := .worker, di := 1, dout := 1 } a.toNat 1
    fun v => BitVec.ofNat 32 v :: l :=
  loadsTcm_of_attempt (.ld 1 false) rfl rfl rfl (by decide) fun u hu => attempt_ld hu false _ _

theorem iLdbs_loadsTcm : LoadsTcm s t (a :: l) (.iLdbs t) { code := 0x41, pr := .worker, di := 1, dout := 1 } a.toNat 1
    fun v => BitVec.ofInt 32 (BitVec.ofNat 8 v).toInt :: l :=
  loadsTcm_of_attempt (.ld 1 true) rfl rfl rfl (by decide) fun u hu => by
    rw [attempt_ld hu]; simp only [extend_signed Nat.one_pos]

theorem iLdh_loadsTcm : LoadsTcm s t (a :: l) (.iLdh t) { code := 0x42, pr := .worker, di := 1, dout := 1 } a.toNat 2
    fun v => BitVec.ofNat 32 v :: l :=
  loadsTcm_of_attempt (.ld 2 false) rfl rfl rfl (by decide) fun u hu => attempt_ld hu false _ _

theorem iLdhs_loadsTcm : LoadsTcm s t (a :: l) (.iLdhs t) { code := 0x43, pr := .worker, di := 1, dout := 1 } a.toNat 2
    fun v => BitVec.ofInt 32 (BitVec.ofNat 16 v).toInt :: l :=
  loadsTcm_of_attempt (.ld 2 true) rfl rfl rfl (by decide) fun u hu => by
    rw [attempt_ld hu]; simp only [extend_signed Nat.two_pos, Nat.reduceMul]

theorem iLdw_loadsTcm : LoadsTcm s t (a :: l) (.iLdw t) { code := 0x44, pr := .worker, di := 1, dout := 1 } a.toNat 4
    fun v => BitVec.ofNat 32 v :: l :=
  loadsTcm_of_attempt (.ld 4 false) rfl rfl rfl (by decide) fun u hu => attempt_ld hu false _ _

theorem iLdwo_loadsTcm (k : Byte) : LoadsTcm s t (a :: l) (.iLdwo t k)
    { code := 0x48, imm := 1, pr := .worker, di := 1, dout := 1 } ((a.toNat + 4 * k.toNat) % 2 ^ 32) 4
    fun v => BitVec.ofNat 32 v :: l :=
  loadsTcm_of_attempt (.ldwo k) rfl rfl rfl (by decide) fun u hu => attempt_ldwo hu false k

theorem iLdwPlus_loadsTcm : LoadsTcm s t (a :: l) (.iLdwPlus t) { code := 0x4C, pr := .worker, di := 1, dout := 2 } a.toNat 4
    fun v => (a + 4) :: BitVec.ofNat 32 v :: l :=
  loadsTcm_of_attempt .ldwPlus rfl rfl rfl (by decide) fun u hu => attempt_ldwPlus hu false

end

/-! ### Loads from the Market (R265, R269) -/

theorem peek_congr {s s' : State} (h : s'.mem = s.mem) (rg : Nat) : ∀ n off : Nat, s'.peek rg off n = s.peek rg off n
  | 0, _ => rfl
  | n + 1, off => by rw [State.peek, State.peek, peek_congr h rg n, State.byte, State.byte, h]

/-- An aligned word of the Market (R17). -/
structure MarketWord (a : Nat) : Prop where
  lo : 0x10000000 ≤ a
  hi : a < 0x10200000
  aligned : a % 4 = 0

section
variable {a : Nat} (h : MarketWord a)
include h

theorem MarketWord.dataAt (b : Nat) : dataAt b a = .market (a - 0x10000000) := by
  obtain ⟨hlo, hhi, -⟩ := h
  rw [Machine.dataAt, if_neg (by omega), if_neg (by omega), if_pos ⟨hlo, hhi⟩]

theorem MarketWord.parts : parts a 4 = [(a, 4)] := if_pos h.aligned

theorem MarketWord.ctlBad (b : Nat) : ctlBad b a 4 = false := by rw [Machine.ctlBad, h.dataAt]; rfl

/-- What an access to the Market is denied by: PSTORE, the deterministic mode and the class of its thread. -/
theorem MarketWord.denied_congr {s s' : State} (hmap : s'.map = s.map) (hblk : s'.blk = s.blk) {t : Nat}
    (hav : s'.avenue t = s.avenue t) (store : Bool) : s'.denied t store (a, 4) = s.denied t store (a, 4) := by
  simp only [State.denied, h.dataAt, State.inPstore, hmap, State.detOf, State.blkOf, hblk, hav]

theorem MarketWord.denied_live {rs : List Reg} {s s' : State} (hs : LiveBut rs s s') (hr : .BK_TCFG ∉ rs) (t : Nat)
    (store : Bool) : s'.denied t store (a, 4) = s.denied t store (a, 4) := h.denied_congr hs.map hs.blk (hs.avenue hr t) store

variable {s : State} {t : Nat} (hd : s.denied t false (a, 4) = false)
include hd

theorem load_market_away (ho : s.overlapped t a 4 = false) : s.load t a 4 false = (s.noteExit t a, .away) := by
  have hs := liveBut_noteExit s t a
  have ho' := (hs.overlapped t a 4).trans ho
  simp [State.load, h.parts, h.ctlBad, h.denied_live hs (by decide), hd, forwarded_none (by decide) ho', ho', h.dataAt,
    DataAt.isTcm, List.findIdx?_cons]

theorem load_market_fin (he : s.eccOf rgMarket ((a - 0x10000000) / 8) = {}) :
    s.load t a 4 true = (s.noteExit t a, .val (s.peek rgMarket (a - 0x10000000) 4)) := by
  have hs := liveBut_noteExit s t a
  simp [State.load, h.parts, h.ctlBad, h.denied_live hs (by decide), hd, State.readParts, State.readPart, h.dataAt,
    memRead_clean ((hs.eccOf _ _).trans he), peek_congr hs.mem, List.findIdx?_cons]

end

/-- A memory instruction whose first attempt waits for a transfer (R265). -/
theorem memOp_parks {s u : State} {t : Fin 64} {r : Row} {mi : MemI} (h : s.Ready t r)
    (ha : (s.begun t r).attempt t mi false = (u, .park (.load mi))) :
    s.memOp t r mi = u.setThr t { u.thrOf t with st := .parked, park := some (.load mi), feed := none } := by
  rw [State.memOp, issue_ready h, State.tryMem, ha]; rfl

/-- LDW of a word of the Market parks its thread. -/
theorem iLdw_market {s : State} {t : Fin 64} {a : Word} {l : List Word} {r : Row} (hm : MarketWord a.toNat)
    (hds : (s.thrOf t).ds = a :: l) (hr : s.Ready t r) (hd : (s.begun t r).denied t false (a.toNat, 4) = false)
    (ho : (s.begun t r).overlapped t a.toNat 4 = false) :
    let u := (s.begun t r).noteExit t a.toNat
    s.memOp t r (.ld 4 false) =
      u.setThr t { u.thrOf t with st := .parked, park := some (.load (.ld 4 false)), feed := none } := by
  refine memOp_parks hr ?_
  rw [attempt_ld ((begun_ds hr).trans hds), State.doLoad, load_market_away hm hd ho]

theorem parkBill_bears {s : State} {t n : Nat} (h : s.bears t n) {th : Thr} (hth : th.pkSlots = (s.thrOf t).pkSlots) :
    s.parkBill t th n = ((s.charge t (n - (s.thrOf t).pkSlots)).setThr t { th with pkSlots := max n th.pkSlots }, true) := by
  rw [State.parkBill, hth, if_neg]
  rintro ⟨hb, hlt⟩
  exact h.elim hb fun hle => absurd hlt (by omega)

theorem parkBill_overrun {s : State} {t n : Nat} (h : ¬ s.bears t n) {th : Thr} (hth : th.pkSlots = (s.thrOf t).pkSlots) :
    s.parkBill t th n = (s.overrun t, false) := by
  rw [State.parkBill, hth, if_pos]
  exact ⟨fun hb => h (.inl hb), not_le.1 fun hle => h (.inr hle)⟩

/-- MEMORY_LOAD_COMPLETE of an operation that completes: the parking is billed first. -/
theorem exec_memoryLoadComplete {s u v : State} {t : Fin 64} {m : Nat} {mi : MemI} {ds : List Word} {c : Nat} {paid : Bool}
    (hp : s.parkedOn t = some (.load mi)) (ha : s.attempt t mi true = (u, .out ds c))
    (hb : s.parkBill t ((s.thrOf t).parkedFor m) (s.loadSlots t mi ((s.thrOf t).parkedFor m)) = (v, paid)) :
    exec (.memoryLoadComplete t m) s = .next (if paid then v.retryMem t mi true else v) := by
  show execMemoryLoadComplete t m s = _
  rw [execMemoryLoadComplete, hp]
  simp only [ha, hb]
  cases paid <;> rfl

/-- A thread whose parking is paid, and whose attempt now completes, takes its cells and retires. -/
theorem retryMem_out {s u : State} {t : Nat} {mi : MemI} {fin : Bool} {ds : List Word}
    (ha : s.attempt t mi fin = (u, .out ds 0)) : s.retryMem t mi fin = (u.unpark t).leave t mi.len ds := by
  rw [State.retryMem, ha]; rfl

/-- The word that MEMORY_LOAD_COMPLETE gives to LDW of a word of the Market. -/
theorem attempt_ldw_market_fin {s : State} {t : Nat} {a : Word} {l : List Word} (hm : MarketWord a.toNat)
    (hds : (s.thrOf t).ds = a :: l) (hd : s.denied t false (a.toNat, 4) = false)
    (he : s.eccOf rgMarket ((a.toNat - 0x10000000) / 8) = {}) :
    s.attempt t (.ld 4 false) true =
      (s.noteExit t a.toNat, .out (BitVec.ofNat 32 (s.peek rgMarket (a.toNat - 0x10000000) 4) :: l) 0) := by
  rw [attempt_ld hds, State.doLoad, load_market_fin hm hd he]
  simp only [splitCost, hm.parts]
  rfl

/-- A thread that is billed for its parking and goes on with LDW of a word of the Market. -/
theorem retryMem_market {s : State} {t : Nat} {a : Word} {l : List Word} {th : Thr} (hm : MarketWord a.toNat) (hw : s.Wf)
    (hds : th.ds = a :: l) (hd : s.denied t false (a.toNat, 4) = false)
    (he : s.eccOf rgMarket ((a.toNat - 0x10000000) / 8) = {}) :
    (s.setThr t th).retryMem t (.ld 4 false) true = ((s.setThr t th.unparked).noteExit t a.toNat).leave t 1
      (BitVec.ofNat 32 (s.peek rgMarket (a.toNat - 0x10000000) 4) :: l) := by
  have hatt := attempt_ldw_market_fin (s := s.setThr t th) hm (by rw [thrOf_setThr_self hw]; exact hds)
    ((hm.denied_congr rfl rfl rfl false).trans hd) he
  have hw' : (s.noteExit t a.toNat).Wf := noteExit_wf hw t _
  rw [retryMem_out hatt, State.unpark, noteExit_setThr, thrOf_setThr_self hw', setThr_setThr hw', noteExit_setThr,
    peek_congr (setThr_mem s t th)]
  rfl

section
variable {s : State} {t : Fin 64} {a : Word} {l : List Word} {m : Nat} (hm : MarketWord a.toNat)
  (hds : (s.thrOf t).ds = a :: l) (hw : s.Wf) (hp : s.parkedOn t = some (.load (.ld 4 false)))
  (hd : s.denied t false (a.toNat, 4) = false) (he : s.eccOf rgMarket ((a.toNat - 0x10000000) / 8) = {})
include hm hds hp hd he

theorem memoryLoadComplete_overrun (hb : ¬ s.bears t (s.loadSlots t (.ld 4 false) ((s.thrOf t).parkedFor m))) :
    exec (.memoryLoadComplete t m) s = .next (s.overrun t) :=
  exec_memoryLoadComplete hp (attempt_ldw_market_fin hm hds hd he) (parkBill_overrun hb rfl)

include hw

theorem memoryLoadComplete_market (hb : s.bears t (s.loadSlots t (.ld 4 false) ((s.thrOf t).parkedFor m))) :
    exec (.memoryLoadComplete t m) s =
      .next (((s.paid t (s.loadSlots t (.ld 4 false) ((s.thrOf t).parkedFor m))).noteExit t a.toNat).leave t 1
        (BitVec.ofNat 32 (s.peek rgMarket (a.toNat - 0x10000000) 4) :: l)) := by
  rw [exec_memoryLoadComplete hp (attempt_ldw_market_fin hm hds hd he) (parkBill_bears hb rfl), if_pos rfl]
  generalize s.loadSlots t (.ld 4 false) ((s.thrOf t).parkedFor m) = k
  have hs := liveBut_charge s t (k - (s.thrOf t).pkSlots)
  have hatt := retryMem_market hm (charge_wf hw t (k - (s.thrOf t).pkSlots))
    (th := { (s.thrOf t).parkedFor m with pkSlots := max k ((s.thrOf t).parkedFor m).pkSlots }) hds
    ((hm.denied_live hs (by decide) t false).trans hd) ((hs.eccOf _ _).trans he)
  rw [peek_congr hs.mem] at hatt
  exact congrArg Host.Outcome.next hatt

end

theorem loadSlots_of_not_det {s : State} {t : Nat} (hd : s.detOf t = false) (mi : MemI) (th : Thr) :
    s.loadSlots t mi th = (th.pkTen + 39) / 40 := by
  simp [State.loadSlots, hd, Thr.parkSlots]

/-- Settles O16. Each load from a TCM is one attempt that completes with the bytes of its parts; a load from the Market is an
attempt that parks, and a second one after its parking is billed. -/
theorem loadResults : Obligations.LoadResults := by
  refine ⟨fun s t a l k => ⟨iLdb_loadsTcm s t a l, iLdbs_loadsTcm s t a l, iLdh_loadsTcm s t a l, iLdhs_loadsTcm s t a l,
    iLdw_loadsTcm s t a l, iLdwo_loadsTcm s t a l k, iLdwPlus_loadsTcm s t a l⟩, fun s t a l m hlo hhi hal hds => ?_,
    fun s t mi th hd => loadSlots_of_not_det hd mi th⟩
  have hm : MarketWord a.toNat := ⟨hlo, hhi, hal⟩
  exact ⟨fun hr hd ho => congrArg _ (iLdw_market hm hds hr hd ho), fun hw hp hd he =>
    ⟨memoryLoadComplete_market hm hds hw hp hd he, memoryLoadComplete_overrun hm hds hp hd he⟩⟩

end Sys2Proof.Machine
end

section
/-! The family of the tick: releases of threads and the Bollard (R45-R53, R56). -/

namespace Sys2Proof.Machine

/-! ### Suspension (R52, R53) -/

theorem divPass_live (s : State) (b : Nat) : (s.divPass b).live = s.live := by
  unfold State.divPass
  dsimp only
  split <;> rfl

theorem divPass_thr (s : State) (b : Nat) : (s.divPass b).thr = s.thr := by
  unfold State.divPass
  dsimp only
  split <;> rfl

theorem divDrop_thr (s : State) (t : Nat) : (s.divDrop t).thr = s.thr := by
  unfold State.divDrop
  dsimp only
  split
  · rw [divPass_thr, bump_thr, setBlk_thr]
  · rfl

/-- Giving up the divider changes no register but the count of abandoned divisions (R267). -/
theorem divDrop_fld (s : State) (t : Nat) {f : Field} (hf : f.reg ≠ .BK_CNT1) (i : Nat) : (s.divDrop t).fld f i = s.fld f i := by
  unfold State.divDrop
  dsimp only
  split
  · rw [State.fld, State.reg, divPass_live]
    exact fld_setFld_reg (g := F.BK_CNT1_DIVAB) hf (s.setBlk _ _) i _ _
  · rfl

theorem divDrop_wf {s : State} (h : s.Wf) (t : Nat) : (s.divDrop t).Wf := (divDrop_keeps t (Keeps.refl s)).wf h

/-- The context of a thread that its Bollard suspends: what it is parked on is abandoned. -/
def Thr.suspended (th : Thr) : Thr :=
  { th with st := .suspended, park := none, first := false, feed := none, ripe := false, pkTen := 0, pkSlots := 0 }

/-- A suspension gives up the divider, counts, stops the thread, and notifies the Quarter of an Avenue thread. -/
theorem notified_suspend (s : State) (t : Nat) :
    Notified (((s.divDrop t).bump F.BK_OVERRUN_OVN t).setThr t (s.thrOf t).suspended) (s.suspend t) := by
  have hth : ((s.divDrop t).bump F.BK_OVERRUN_OVN t).thrOf t = s.thrOf t :=
    congrArg (fun x => Tab.get _ x t) ((bump_thr _ _ _ _).trans (divDrop_thr s t))
  unfold State.suspend
  dsimp only
  rw [hth]
  split
  · exact .refl _
  · exact (notified_setQ _ _ _).trans (notified_notice _ _ _ _ _ _ _)

section
variable {s : State} (h : s.Wf) (t : Nat)
include h

theorem suspend_thrOf : (s.suspend t).thrOf t = (s.thrOf t).suspended := by
  have hthr := (notified_suspend s t).thr
  rw [State.thrOf, hthr]
  exact thrOf_setThr_self (setFld_wf (divDrop_wf h t) _ _ _) t _

theorem suspend_fld {f : Field} (hn : f.reg ∉ noticeRegs) (hd : f.reg ≠ .BK_CNT1) (ho : f.Apart F.BK_OVERRUN_OVN) (i : Nat) :
    (s.suspend t).fld f i = s.fld f i := by
  rw [(notified_suspend s t).fld hn, State.fld, setThr_reg]
  exact (fld_bump_apart (divDrop_wf h t) ho i t 1).trans (divDrop_fld s t hd i)

theorem suspend_overruns :
    (s.suspend t).fld F.BK_OVERRUN_OVN t = min (s.fld F.BK_OVERRUN_OVN t + 1) (maxOf F.BK_OVERRUN_OVN.width) := by
  rw [(notified_suspend s t).fld (by decide), State.fld, setThr_reg]
  refine (fld_bump_self (divDrop_wf h t) (by decide) t 1).trans ?_
  rw [divDrop_fld s t (by decide)]

theorem overrun_thrOf : (s.overrun t).thrOf t = (s.thrOf t).suspended := by
  rw [State.overrun, suspend_thrOf (setFld_wf h _ _ _), setFld_thrOf]

theorem overrun_used : (s.overrun t).fld F.BK_USED_USED t = max (s.fld F.BK_USED_USED t) (s.budget t) := by
  have hmax : max (s.fld F.BK_USED_USED t) (s.budget t) ≤ maxOf F.BK_USED_USED.width :=
    max_le (fld_le s F.BK_USED_USED t) (fld_le s F.BK_BUDGET_BUDGET t)
  rw [State.overrun, suspend_fld (setFld_wf h _ _ _) t (by decide) (by decide) (by decide)]
  exact fld_setFld_self h ⟨by decide, by decide, hmax⟩ t

theorem overrun_overruns :
    (s.overrun t).fld F.BK_OVERRUN_OVN t = min (s.fld F.BK_OVERRUN_OVN t + 1) (maxOf F.BK_OVERRUN_OVN.width) := by
  rw [State.overrun, suspend_overruns (setFld_wf h _ _ _), fld_setFld_reg (by decide)]

end

/-! ### Releases and the Bollard -/

theorem exec_tickRelease_due {s : State} {t : Fin 64} (hu : s.thrUsed t = true) (hm : s.modeRuns t = true) (hb : s.blockOn t = true)
    (he : s.flag F.BK_TCFG_RELEN t = true) (hr : (s.thrOf t).rel = false)
    (hd : s.ct.tickNom + 4 * s.fld F.BK_TCFG_RELOFS t ≤ s.ltNs) : exec (.tickRelease t) s = .next (s.tickRelease t) :=
  congrArg Host.Outcome.next (if_pos (by simp [hu, hm, hb, he, hr, hd]))

/-- A thread does not run in LOAD (R436). -/
theorem mode_ne_two_of_modeRuns {s : State} {t : Nat} (hm : s.modeRuns t = true) : s.mode ≠ 2 := fun e => by
  simp [State.modeRuns, e] at hm

theorem exec_wakeRelease {s : State} {t : Fin 64} (hm : s.modeRuns t = true) (hb : s.blockOn t = true) :
    exec (.wakeRelease t) s = .next (s.wakeThread t) :=
  congrArg Host.Outcome.next (if_pos ⟨hm, hb⟩)

section
variable {s : State} {t : Nat}

theorem tickRelease_waiting (h : (s.thrOf t).st = .waiting) :
    s.tickRelease t = (s.setThr t { s.thrOf t with rel := true }).beginActivation t := by
  simp only [State.tickRelease, h]

theorem tickRelease_busy (h : (s.thrOf t).st = .active ∨ (s.thrOf t).st = .parked) :
    s.tickRelease t = (s.setThr t { s.thrOf t with rel := true }).bump F.BK_TSTAT_LOST t := by
  obtain h | h := h <;> simp only [State.tickRelease, h]

theorem tickRelease_resumes (hw : s.Wf) (h : (s.thrOf t).st = .suspended) (ha : s.avenue t = true)
    (hr : (s.thrOf t).ripe = true) : s.tickRelease t = s.setThr t { s.thrOf t with rel := true, st := .active } := by
  have ha' : (s.setThr t { s.thrOf t with rel := true }).avenue t = true := ha
  rw [State.tickRelease, h]
  dsimp only
  rw [if_pos ⟨ha', hr⟩, thrOf_setThr_self hw, setThr_setThr hw]

variable (hu : s.thrUsed t = true) (hm : s.mode ≠ 2)
include hu hm

theorem wakeThread_waiting (h : (s.thrOf t).st = .waiting) (hw : (s.thrOf t).waitTick = false) :
    s.wakeThread t = s.beginActivation t := by
  simp [State.wakeThread, hu, hm, h, hw]

theorem wakeThread_inAct (h : (s.thrOf t).st.inAct = true) : s.wakeThread t =
    if (s.thrOf t).pend then s.bump F.BK_TSTAT_LOST t else s.setThr t { s.thrOf t with pend := true } := by
  cases hst : (s.thrOf t).st with
  | waiting | stopped => simp [hst, ThrSt.inAct] at h
  | active | parked | suspended => simp [State.wakeThread, hu, hm, hst]

end

theorem exec_bollardSuspend {s : State} {t : Fin 64} {m : Nat} (hu : s.thrUsed t = true) (hm : s.modeRuns t = true)
    (hb : s.blockOn t = true) (hl : 0 < s.budget t)
    (h : (s.thrOf t).st = .active ∧ s.budget t ≤ s.fld F.BK_USED_USED t ∨
      (s.thrOf t).st = .parked ∧ ¬ s.bears t (s.slotsAfter t m)) : exec (.bollardSuspend t m) s = .next (s.overrun t) := by
  refine congrArg Host.Outcome.next (if_pos ?_)
  obtain ⟨hst, hle⟩ | ⟨hst, hbear⟩ := h
  · simp [hu, hm, hb, hst, hle, Nat.ne_of_gt hl]
  · have hlt : ¬ s.fld F.BK_USED_USED t + (((s.thrOf t).parkedFor m).parkSlots - ((s.thrOf t).parkedFor m).pkSlots) ≤
        s.budget t := fun hle => hbear (.inr hle)
    simp only [hu, hm, hb, hst]
    simpa [Nat.ne_of_gt hl] using hlt

theorem exec_bollardSuspend_inBudget {s : State} {t : Fin 64} {m : Nat} (hst : (s.thrOf t).st = .active)
    (h : s.fld F.BK_USED_USED t < s.budget t) : exec (.bollardSuspend t m) s = .next s :=
  congrArg Host.Outcome.next (if_neg (by simp [hst, h]))

/-- Settles O30. Each clause is one branch of a release; a suspension is followed through the divider, the count of overruns
and the notice to the Quarter, none of which changes the thread's context. -/
theorem releaseResults : Obligations.ReleaseResults := by
  intro s t m hw hu hm hb
  have h2 := mode_ne_two_of_modeRuns hm
  refine ⟨fun he hr hd => ⟨fun hst => ?_, fun hst => ?_, fun hst ha hripe => ?_⟩, fun hst hwt => ?_, fun hst => ?_,
    fun hl h => ?_, fun _ hst hlt => exec_bollardSuspend_inBudget hst hlt⟩
  · rw [exec_tickRelease_due hu hm hb he hr hd, tickRelease_waiting hst]
  · rw [exec_tickRelease_due hu hm hb he hr hd, tickRelease_busy hst]
  · rw [exec_tickRelease_due hu hm hb he hr hd, tickRelease_resumes hw hst ha hripe]
  · rw [exec_wakeRelease hm hb, wakeThread_waiting hu h2 hst hwt]
  · rw [exec_wakeRelease hm hb, wakeThread_inAct hu h2 hst]
  · refine ⟨s.overrun t, exec_bollardSuspend hu hm hb hl h, ?_, ?_, ?_, ?_, overrun_used hw t, overrun_overruns hw t⟩ <;>
      rw [overrun_thrOf hw] <;> rfl

end Sys2Proof.Machine
end

section
/-! The family of the tick: the completion of the events of the tick, the Plaza, the Arcades and the host interface (R37, R39,
R183, R186, R231, R232, R357, R361, R362, R377, R442, R482). -/

namespace Sys2Proof.Machine

/-! ### The Plaza (R183, R186) -/

theorem presented_wf {s : State} (h : s.Wf) (l : List Packet) : ({ s with presented := l } : State).Wf :=
  (keeps_mk.2 (plain_keeps (Keeps.refl s))).wf h

section
variable {s : State} {typ : Fin 16} {idx : Fin 256} {p : Packet} {rest : List Packet}
  (h : takePacket typ idx s.presented = some (p, rest))
include h

theorem exec_packetRoute_arcade {d : Nat} (hd : p.dests = some [d]) (hlt : d < 64) :
    exec (.packetRoute typ idx) s = .next (({ s with presented := rest } : State).arcStore d p) := by
  show execPacketRoute typ idx s = _
  simp only [execPacketRoute, h, hd, List.foldl_cons, List.foldl_nil, State.deliver, if_pos hlt]

theorem exec_packetRoute_unrouted (hd : p.dests = none) : exec (.packetRoute typ idx) s =
    .next ((({ s with presented := rest } : State).bump F.PZ_UNROUTED_UNRN).raise F.PZ_STATUS_UNRT) := by
  show execPacketRoute typ idx s = _
  simp only [execPacketRoute, h, hd]

end

/-- A packet without a route is counted and flagged. -/
theorem unrouted_effect {s : State} (h : s.Wf) :
    ((s.bump F.PZ_UNROUTED_UNRN).raise F.PZ_STATUS_UNRT).flag F.PZ_STATUS_UNRT = true ∧
    ((s.bump F.PZ_UNROUTED_UNRN).raise F.PZ_STATUS_UNRT).fld F.PZ_UNROUTED_UNRN =
      min (s.fld F.PZ_UNROUTED_UNRN + 1) (maxOf F.PZ_UNROUTED_UNRN.width) :=
  ⟨flag_raise_self (setFld_wf h _ _ _) (by decide) 0,
    (fld_raise_apart (setFld_wf h _ _ _) (by decide) 0 0).trans (fld_bump_self h (by decide) 0 1)⟩

/-- What a finished class-A transfer of so many cycles leaves (R186). -/
def State.transferNoted (s : State) (g : PzTgt) (cycles : Nat) (fourth : Bool) : State :=
  ((s.setFld F.PZ_AMAX_AMAX 0 (max (s.fld F.PZ_AMAX_AMAX) (min cycles 65535))).raiseIf (decide (cycles > 40) && s.pzBound g)
    F.PZ_STATUS_ABND).raiseIf (fourth && s.pzBound g) F.PZ_STATUS_ACONT

theorem exec_plazaTransferComplete {s : State} {r : PzReq} (h : s.pzClass r = .a) (g : PzTgt)
    (cycles : Nat) (fourth : Bool) :
    exec (.plazaTransferComplete r g cycles fourth) s = .next (s.transferNoted g cycles fourth) := by
  have hg {rs : List Reg} {u v : State} (hu : LiveBut rs u v) : v.pzBound g = u.pzBound g := by
    simp only [State.pzBound, State.blkOf, hu.blk]
  show execPlazaTransferComplete r g cycles fourth s = _
  rw [execPlazaTransferComplete, if_neg (by simp [h])]
  dsimp only
  rw [hg (liveBut_raiseIf (rs := [.PZ_STATUS]) _ _ (by decide) 0), hg (liveBut_setFld (rs := [.PZ_AMAX]) s (by decide) 0 _)]
  rfl

section
variable {s : State} (h : s.Wf) (g : PzTgt) (cycles : Nat) (fourth : Bool)
include h

theorem transferNoted_amax :
    (s.transferNoted g cycles fourth).fld F.PZ_AMAX_AMAX = max (s.fld F.PZ_AMAX_AMAX) (min cycles 65535) := by
  have hmax : max (s.fld F.PZ_AMAX_AMAX) (min cycles 65535) ≤ maxOf F.PZ_AMAX_AMAX.width :=
    max_le (fld_le s F.PZ_AMAX_AMAX 0) (Nat.min_le_right _ _)
  have hw := setFld_wf h F.PZ_AMAX_AMAX 0 (max (s.fld F.PZ_AMAX_AMAX) (min cycles 65535))
  rw [State.transferNoted, fld_raiseIf_apart (raiseIf_wf hw _ _ _) (by decide), fld_raiseIf_apart hw (by decide),
    fld_setFld_self h ⟨by decide, by decide, hmax⟩]

theorem transferNoted_abnd (hg : s.pzBound g = true) (hc : 40 < cycles) :
    (s.transferNoted g cycles fourth).flag F.PZ_STATUS_ABND = true := by
  have hw := setFld_wf h F.PZ_AMAX_AMAX 0 (max (s.fld F.PZ_AMAX_AMAX) (min cycles 65535))
  have hc' : (decide (cycles > 40) && s.pzBound g) = true := by simp [hc, hg]
  rw [State.transferNoted, State.flag, fld_raiseIf_apart (raiseIf_wf hw _ _ _) (by decide), hc']
  exact flag_raise_self hw (by decide) 0

theorem transferNoted_acont (hg : s.pzBound g = true) (hf : fourth = true) :
    (s.transferNoted g cycles fourth).flag F.PZ_STATUS_ACONT = true := by
  have hc' : (fourth && s.pzBound g) = true := by simp [hf, hg]
  rw [State.transferNoted, hc']
  exact flag_raise_self (raiseIf_wf (setFld_wf h _ _ _) _ _ _) (by decide) 0

end

/-! ### The Arcades (R231, R232) -/

theorem regAt_ARC_CMD : ∀ a : Fin 64,
    Reg.offset .ARC_CMD a % 4 = 0 ∧ regAt (Reg.offset .ARC_CMD a) = some (.ARC_CMD, a.val) := by
  decide +kernel

theorem exec_arcadeFlush {s : State} {req : Req} {a : Fin 64} (h : s.writes req .ARC_CMD a 1 = true) :
    exec (.arcadeFlush req a) s = .next ((s.arcFlush a).answered req) := by
  obtain ⟨h4, hat⟩ := regAt_ARC_CMD a
  exact congrArg Host.Outcome.next (arrive_performed h rfl h4 hat)

/-- The idle release leaves every item of the Arcade released, and no idle time running. -/
theorem exec_arcadeIdleTimeout {s : State} {a : Fin 64} (hw : s.Wf) (h : s.arcIdleDue a = true) :
    ∃ t, exec (.arcadeIdleTimeout a) s = .next t ∧ t.arcOf a = { s.arcOf a with rel := (s.arcOf a).pc, idle := none } := by
  show ∃ t, execArcadeIdleTimeout a s = .next t ∧ _
  rw [execArcadeIdleTimeout, if_neg (by simp [h])]
  refine ⟨_, rfl, ?_⟩
  rw [State.arcOf, (notified_notice _ _ _ _ _ _ _).arc, setFld_arc]
  refine arcOf_setArc_self ?_ _ _
  split
  · split
    · exact (arcMark_keeps _ _ _ (Keeps.refl s)).wf hw
    · exact hw
  · exact hw

/-! ### The host interface (R357, R361, R362, R377, R442, R482) -/

theorem hostAct_eq {β : Type} (g : State → β) (h : ∀ s q v, g (s.setFld F.HP_QSTAT_ACT q v) = g s) (s : State) :
    g s.hostAct = g s := each_eq g _ (fun u q => h u q _) s 4

theorem hostAct_pm (s : State) : s.hostAct.pm = s.pm := hostAct_eq State.pm (fun u _ _ => setFld_pm u _ _ _) s
theorem hostAct_qOf (s : State) (q : Nat) : s.hostAct.qOf q = s.qOf q :=
  hostAct_eq (·.qOf q) (fun u _ _ => setFld_qOf u _ _ _ q) s
theorem hostAct_fld (s : State) {f : Field} (hf : f.reg ≠ .HP_QSTAT) (i : Nat) : s.hostAct.fld f i = s.fld f i :=
  hostAct_eq (·.fld f i) (fun u q v => fld_setFld_reg (g := F.HP_QSTAT_ACT) hf u i q v) s
theorem hostAct_wf {s : State} (h : s.Wf) : s.hostAct.Wf := (hostAct_keeps (Keeps.refl s)).wf h

/-- A configuration request that function q answers, in each of its forms. -/
theorem exec_pcieConfigRequest {s : State} {q : Fin 4} (hp : s.powered pdHost = true) (hb : bit s.pm.perst (q / 2) = true)
    (hr : s.cfgRetry q = false) (w : Fin 1024) (b m : Bool) (x : BitVec 44) (y : BitVec 48) :
    let u := s.qOf q
    let pm (v : Nat) : State := { s with pm := { s.pm with aspm := v } }
    exec (.pcieConfigRequest q (.read w)) s = .next (s.emit (.cfg q (some (s.cfgWord q w)))) ∧
    exec (.pcieConfigRequest q (.busMaster b)) s = .next (((s.setQ q { u with busMaster := b }).emit (.cfg q (some 0))).hostAct) ∧
    exec (.pcieConfigRequest q (.msix b m)) s = .next ((s.setQ q { u with msixEn := b, fmask := m }).emit (.cfg q (some 0))) ∧
    exec (.pcieConfigRequest q (.payload b)) s =
      .next ((s.setQ q { u with mps := if b then 256 else 128 }).emit (.cfg q (some 0))) ∧
    exec (.pcieConfigRequest q (.bar0 x)) s = .next ((s.setQ q { u with bar0 := x.toNat * 2 ^ 20 }).emit (.cfg q (some 0))) ∧
    exec (.pcieConfigRequest q (.bar2 y)) s = .next ((s.setQ q { u with bar2a := y.toNat * 2 ^ 16 }).emit (.cfg q (some 0))) ∧
    exec (.pcieConfigRequest q (.aspmL1 true)) s = .next ((pm (s.pm.aspm ||| 2 ^ (q.val / 2))).emit (.cfg q (some 0))) ∧
    exec (.pcieConfigRequest q (.aspmL1 false)) s =
      .next ((pm (s.pm.aspm - (s.pm.aspm &&& 2 ^ (q.val / 2)))).emit (.cfg q (some 0))) := by
  have hg : ¬(¬ s.powered pdHost = true ∨ ¬ bit s.pm.perst (q / 2) = true) := by simp [hp, hb]
  have hr' : ¬ s.cfgRetry q = true := by simp [hr]
  refine ⟨?_, ?_, ?_, ?_, ?_, ?_, ?_, ?_⟩ <;> exact (if_neg hg).trans (if_neg hr')

theorem exec_bar0ReadTimeout {s : State} (q : Fin 4) (off : Fin 1048576) {at_ : Nat} (h : at_ + 256 * 50000 ≤ s.ltMs) :
    exec (.bar0ReadTimeout q off at_) s = .next ((s.raise F.HP_QSTAT_RDTO q).emit (.bar q off 0xFFFFFFFF false)) :=
  congrArg Host.Outcome.next (if_pos h)

theorem exec_msixPendingSend {s : State} {q : Fin 4} {vec : Fin 16} (hv : (s.qOf q).msixPend.contains vec.val = true)
    (hm : s.mayMsg q vec = true) : exec (.msixPendingSend q vec) s =
      .next ((s.setQ q { s.qOf q with msixPend := (s.qOf q).msixPend.filter (· != vec.val) }).sendMsg q vec) :=
  congrArg Host.Outcome.next (if_pos ⟨hv, hm⟩)

/-- Taking bit i out of a number clears it. -/
theorem testBit_sub_and_two_pow (w i : Nat) : (w - (w &&& 2 ^ i)).testBit i = false := by
  cases h : w.testBit i with
  | false => rw [Nat.and_two_pow, h]; simpa using h
  | true =>
    have hodd : w / 2 ^ i % 2 = 1 := by simpa [Nat.testBit_eq_decide_div_mod_eq] using h
    have hdiv : (w - 2 ^ i) / 2 ^ i = w / 2 ^ i - 1 := by simpa using Nat.sub_mul_div w (2 ^ i) 1
    rw [Nat.and_two_pow, h, Bool.toNat_true, Nat.one_mul, Nat.testBit_eq_decide_div_mod_eq, hdiv, decide_eq_false_iff_not]
    omega

theorem wakeRelease_wakeN (s : State) (p : Nat) : bit (s.wakeRelease p).pm.wakeN p = false := testBit_sub_and_two_pow _ _

/-- Link p is in L0, and its wake request is not driven (R442). -/
def State.inL0 (s : State) (p : Nat) : Prop := s.fld F.HP_LSTAT_LST p = 1 ∧ bit s.pm.wakeN p = false

theorem inL0_setFld {s : State} {p : Nat} (h : s.inL0 p) {f : Field} (hf : F.HP_LSTAT_LST.reg ≠ f.reg) (i v : Nat) :
    (s.setFld f i v).inL0 p := ⟨(fld_setFld_reg hf s p i v).trans h.1, h.2⟩

theorem inL0_dozeExit {s : State} {p : Nat} (h : s.inL0 p) (d : Option Bool) :
    ({ s with pm := { s.pm with dozeExit := d } } : State).inL0 p := h

theorem exec_hostLinkL0 {s : State} {p : Fin 2} (hw : s.Wf) (hu : s.linkUp p = true) (hl : s.fld F.HP_LSTAT_LST p ≠ 1) :
    ∃ t, exec (.hostLinkL0 p) s = .next t ∧ t.inL0 p := by
  have hv : ((s.setFld F.HP_LSTAT_LST p 1).wakeRelease p).inL0 p :=
    ⟨fld_setFld_self hw (by decide) p, wakeRelease_wakeN (s.setFld F.HP_LSTAT_LST p 1) p⟩
  show ∃ t, execHostLinkL0 p s = .next t ∧ t.inL0 p
  rw [execHostLinkL0, if_neg (by simp [hu, hl])]
  dsimp only
  generalize (s.setFld F.HP_LSTAT_LST p 1).wakeRelease p = v at hv ⊢
  split
  · refine ⟨_, rfl, inL0_dozeExit ?_ _⟩
    split
    · exact hv
    · exact inL0_setFld (inL0_setFld hv (by decide) 0 1) (by decide) 0 _
  · exact ⟨v, rfl, hv⟩

theorem exec_hostLinkL1Entry {s : State} {p : Fin 2} (hm : s.mode = 5) (hu : s.linkUp p = true)
    (hl : s.fld F.HP_LSTAT_LST p = 1 ∨ s.fld F.HP_LSTAT_LST p = 2) (ha : bit s.pm.aspm p = true) :
    exec (.hostLinkL1Entry p) s = .next (s.setFld F.HP_LSTAT_LST p 3) :=
  congrArg Host.Outcome.next (if_pos ⟨hm, hu, hl, ha⟩)

theorem exec_hostLinkTrained {s : State} (h : s.Wf) {p : Fin 2} (hp : s.powered pdHost = true) (hb : bit s.pm.perst p = true)
    (fast : Bool) : ∃ t, exec (.hostLinkTrained p fast) s = .next t ∧ t.linkUp p = true ∧ t.fld F.HP_LSTAT_LST p = 1 ∧
      t.fld F.HP_LSTAT_SPD p = if fast then 2 else 1 := by
  have hspd : F.HP_LSTAT_SPD.Fits (if fast then 2 else 1) := by cases fast <;> decide
  have h1 : (s.raise F.HP_LSTAT_DLUP p).Wf := setFld_wf h _ p 1
  have h2 := setFld_wf h1 F.HP_LSTAT_LST p 1
  have shown (f : Field) (hf : f.reg ≠ .HP_QSTAT) (u : State) : (u.wakeRelease p).hostAct.fld f p = u.fld f p :=
    hostAct_fld _ hf p
  refine ⟨_, if_neg (by simp [hp, hb]), ?_, ?_, ?_⟩
  · rw [State.linkUp, State.flag, shown _ (by decide), fld_setFld_apart h2 (by decide), fld_setFld_apart h1 (by decide)]
    exact flag_raise_self h (by decide) p
  · rw [shown _ (by decide), fld_setFld_apart h2 (by decide)]
    exact fld_setFld_self h1 (by decide) p
  · rw [shown _ (by decide)]
    exact fld_setFld_self h2 hspd p

/-! ### The release of HPn_PERST_N (R357, R358) -/

theorem linkDown_linkUp {s : State} (h : s.Wf) (p : Nat) : (s.linkDown p).linkUp p = false := by
  have hr : (s.setReg .HP_LSTAT p 0).reg F.HP_LSTAT_DLUP.reg p = 0 := reg_setReg_self h _ _ _
  rw [State.linkDown, State.linkUp, State.flag, hostAct_fld _ (by decide), State.fld, hr]
  rfl

theorem linkDown_wf {s : State} (h : s.Wf) (p : Nat) : (s.linkDown p).Wf := hostAct_wf (setReg_wf h _ _ _)
theorem linkDown_pm (s : State) (p : Nat) : (s.linkDown p).pm = s.pm := (hostAct_pm _).trans (setReg_pm s _ _ _)

theorem cfgReset_wf {s : State} (h : s.Wf) (q : Nat) : (s.cfgReset q).Wf := hostAct_wf (setQ_wf h _ _)
theorem cfgReset_pm (s : State) (q : Nat) : (s.cfgReset q).pm = s.pm := hostAct_pm _
theorem cfgReset_linkUp (s : State) (q p : Nat) : (s.cfgReset q).linkUp p = s.linkUp p :=
  congrArg (· == 1) (hostAct_fld _ (by decide) p)

theorem askReset_wf {s : State} (h : s.Wf) (q d : Nat) : (s.askReset q d).Wf := setFld_wf (setQ_wf h _ _) _ _ _
theorem askReset_pm (s : State) (q d : Nat) : (s.askReset q d).pm = s.pm := raise_pm _ _ _
theorem askReset_linkUp (s : State) (q d p : Nat) : (s.askReset q d).linkUp p = s.linkUp p :=
  congrArg (· == 1) (fld_setFld_reg (f := F.HP_LSTAT_DLUP) (g := F.HP_QSTAT_QRP) (by decide) _ p q 1)

theorem askReset_qr {s : State} (h : s.Wf) (q d : Nat) : ((s.askReset q d).qOf q).qr.isSome = true := by
  rw [State.askReset, raise_qOf, qOf_setQ_self h]; rfl

theorem askReset_qOf_ne (s : State) {q k : Nat} (hk : k ≠ q) (d : Nat) : (s.askReset q d).qOf k = s.qOf k := by
  rw [State.askReset, raise_qOf, qOf_setQ_ne s hk]

/-- Both functions of the link are reset and ask for their Quarters' reset. -/
theorem exec_perstRelease {s : State} (h : s.Wf) (p : Fin 2) : ∃ t, exec (.perstRelease p) s = .next t ∧
    bit t.pm.perst p = true ∧ t.linkUp p = false ∧ (t.qOf (2 * p)).qr.isSome = true ∧ (t.qOf (2 * p + 1)).qr.isSome = true := by
  have h0 : ({ s with pm := { s.pm with perst := s.pm.perst ||| 2 ^ p.val } } : State).Wf :=
    (keeps_mk.2 (plain_keeps (Keeps.refl s))).wf h
  have hbit : bit (s.pm.perst ||| 2 ^ p.val) p = true := by simp [bit, Nat.testBit_or, Nat.testBit_two_pow_self]
  refine ⟨_, rfl, ?_, ?_, ?_, ?_⟩
  · rw [askReset_pm, askReset_pm, cfgReset_pm, cfgReset_pm, linkDown_pm]
    exact hbit
  · rw [askReset_linkUp, askReset_linkUp, cfgReset_linkUp, cfgReset_linkUp, linkDown_linkUp h0]
  · rw [askReset_qOf_ne _ (by omega)]
    exact askReset_qr (cfgReset_wf (cfgReset_wf (linkDown_wf h0 _) _) _) _ _
  · exact askReset_qr (askReset_wf (cfgReset_wf (cfgReset_wf (linkDown_wf h0 _) _) _) _ _) _ _

/-! ### The completion of events -/

/-- Settles O60. Each event's guard is one of the conditions of its clause, so that its command takes the branch with
the effect. -/
theorem completionOfEvents : Obligations.CompletionOfEvents := by
  refine ⟨fun s hr => ⟨fun hk hc => ?_, fun hk hc => ?_, exec_stageClose_due hr⟩, ?_, ?_, ?_, ?_⟩
  · rw [exec_tick_due hr hk, if_pos hc]
  · rw [exec_tick_due hr hk, if_neg (by simp [hc])]
  · intro s typ idx p rest d cycles r g fourth hw
    refine ⟨fun ht hd hlt => exec_packetRoute_arcade ht hd hlt, fun ht hd => ?_, fun hc => ?_⟩
    · obtain ⟨hflag, hcount⟩ := unrouted_effect (presented_wf hw rest)
      exact ⟨_, exec_packetRoute_unrouted ht hd, rfl, hflag, hcount⟩
    · exact ⟨_, exec_plazaTransferComplete hc g cycles fourth, transferNoted_amax hw g cycles fourth,
        transferNoted_abnd hw g cycles fourth, transferNoted_acont hw g cycles fourth⟩
  · intro s req a hw
    refine ⟨fun hd => ?_, fun hwr _ => exec_arcadeFlush hwr⟩
    obtain ⟨t, ht, harc⟩ := exec_arcadeIdleTimeout hw hd
    exact ⟨t, ht, by rw [harc], by rw [harc]⟩
  · intro s q c w b m x y off at_ vec hw
    refine ⟨fun hp hb hr => exec_pcieConfigRequest hp hb hr w b m x y, rfl, fun ht => ?_, fun hv hm => ?_⟩
    · exact ⟨_, exec_bar0ReadTimeout q off ht, flag_raise_self hw (by decide) q, rfl⟩
    · exact ⟨_, exec_msixPendingSend hv hm, by rw [State.sendMsg, emit_qOf, qOf_setQ_self hw], rfl⟩
  · intro s p fast hw
    exact ⟨fun hp hb => exec_hostLinkTrained hw hp hb fast, rfl,
      fun hu hl => exec_hostLinkL0 hw hu hl, exec_hostLinkL1Entry, exec_perstRelease hw p⟩

end Sys2Proof.Machine
end

section
/-! The family of the Clocktower: what a CK_TIME cycle without commands is (R63, R386), and what the servo, the silence of a
domain, the end of a slew, the always-on counter and the reconstruction of LT do (R63, R71, R73, R77, R81-R84, R479). -/

namespace Sys2Proof.Machine

/-! ### Time without commands (R63, R386) -/

/-- Settles O2. An idle step is one CK_TIME cycle, which is a branch on whether CK_TIME runs. -/
theorem stepIdle : Obligations.StepIdle := by
  intro s hp
  have step_idle : step s = .next s.idle := by rw [step, hp]
  exact ⟨fun hr => step_idle.trans (congrArg Host.Outcome.next (if_pos hr)),
    fun hr => step_idle.trans (congrArg Host.Outcome.next (if_neg (by simp [hr])))⟩

/-! ### Domains and registers -/

theorem fld_setReg_ne {f : Field} {r : Reg} (h : f.reg ≠ r) (s : State) (i j : Nat) (w : Word) :
    (s.setReg r i w).fld f j = s.fld f j := congrArg f.get (reg_setReg_ne s h i j w)

theorem fld_setFld_el {f g : Field} (hfg : f.reg = g.reg) (s : State) {i j : Nat} (h : j % 16384 ≠ i % 16384) (v : Nat) :
    (s.setFld g i v).fld f j = s.fld f j := by
  rw [State.fld, State.fld, hfg]
  exact congrArg f.get (reg_setReg_el s g.reg h _)

theorem setDom_wf {s : State} (h : s.Wf) (x : Bool) (d : Domain) : (s.setDom x d).Wf := (setDom_keeps x d (Keeps.refl s)).wf h

section
variable (s : State) (x : Bool) (d : Domain)

@[simp] theorem setDom_fld (f : Field) (i : Nat) : (s.setDom x d).fld f i = s.fld f i :=
  (fun y => (rfl : ({ s with ct := y } : State).fld f i = s.fld f i)) _

@[simp] theorem dom_setDom_self : (s.setDom x d).dom x = d := by cases x <;> rfl

@[simp] theorem setDom_setDom (d' : Domain) : (s.setDom x d).setDom x d' = s.setDom x d' := by cases x <;> rfl

@[simp] theorem dom_setFld (f : Field) (i v : Nat) : (s.setFld f i v).dom x = s.dom x := by
  simp only [State.dom, setFld_ct]

end

/-! ### The servo (R71, R73) -/

/-- A measurement beyond LOCKTH ends the row of those that lock. -/
theorem countLock_beyond {s : State} {x : Bool} {theta : Int} (h : 256 * s.fld F.CT_SRV_LOCK_LOCKTH (domIx x) ≤ theta.natAbs) :
    s.countLock x theta = s.setDom x { s.dom x with lockCnt := 0 } := if_neg (Nat.not_lt.2 h)

/-- The integral term after a measurement (R71). -/
def State.servoInteg (s : State) (x : Bool) (theta : Int) : Int :=
  clampTo ((s.dom x).integ + s.fld F.CT_SRV_KI_GAIN (domIx x) * theta * 2 ^ 18) (s.fld F.CT_SRV_LIM_LIM (domIx x) * 2 ^ 42)

/-- The deviation that a measurement asks for (R71). -/
def State.servoDev (s : State) (x : Bool) (theta : Int) : Int :=
  clampTo (s.fld F.CT_SRV_KP_GAIN (domIx x) * theta * 2 ^ 18 + s.servoInteg x theta) (s.fld F.CT_SRV_LIM_LIM (domIx x) * 2 ^ 42)

/-- The value of CT_SRV_x_OFS for a measurement, which saturates. -/
def ofsOf (theta : Int) : Int := if theta < -(2 ^ 31) then -(2 ^ 31) else if theta > 2 ^ 31 - 1 then 2 ^ 31 - 1 else theta

/-- A domain whose servo has a measurement is silent no more (R73). -/
def Domain.heard (d : Domain) : Domain := { d with silence := 0, lostDone := false }

/-- The servo's registers after a measurement. -/
def State.measured (s : State) (x : Bool) (theta : Int) : State :=
  (s.bump F.CT_SRV_STAT_MEASN (domIx x)).setFld F.CT_SRV_OFS_OFS (domIx x) (wrap (ofsOf theta) 32)

/-- A measurement that makes no step moves the integral term and the increment. -/
def State.servoMove (s : State) (x : Bool) (theta : Int) : State :=
  (s.setDom x { s.dom x with integ := s.servoInteg x theta, incr := incrFor (s.servoDev x theta) }).countLock x theta

theorem wrap_ofsOf {theta : Int} (h : theta.natAbs < 2 ^ 31) : wrap (ofsOf theta) 32 = (theta % 2 ^ 32).toNat := by
  rw [ofsOf, if_neg (by omega), if_neg (by omega)]
  rfl

section
variable (s : State) (x : Bool) (theta : Int)

theorem measured_fld {f : Field} (h1 : f.reg ≠ .CT_SRV_STAT) (h2 : f.reg ≠ .CT_SRV_OFS) (i : Nat) :
    (s.measured x theta).fld f i = s.fld f i := by
  rw [State.measured, State.bump, fld_setFld_reg (g := F.CT_SRV_OFS_OFS) h2, fld_setFld_reg (g := F.CT_SRV_STAT_MEASN) h1]

theorem measured_dom : (s.measured x theta).dom x = s.dom x := (dom_setFld _ x _ _ _).trans (dom_setFld s x _ _ _)

/-- Where CT_SRV_x_STEP is 0 no measurement makes a step (R71). -/
theorem servoStep_noStep (h : s.fld F.CT_SRV_STEP_STEP (domIx x) = 0) : s.servoStep x theta =
    ((s.measured x theta).setDom x (s.dom x).heard).servoMove x theta := by
  rw [← measured_dom s x theta]
  unfold State.servoStep
  extract_lets i counted ofs shown d heard step
  have hstep : step = 0 := (setDom_fld (s.measured x theta) x _ _ _).trans
    ((measured_fld s x theta (by decide) (by decide) _).trans h)
  rw [if_neg fun hc => hc.1 hstep]
  rfl

/-- Beyond LOCKTH the row of measurements that lock ends. -/
theorem servoMove_beyond (h : 256 * s.fld F.CT_SRV_LOCK_LOCKTH (domIx x) ≤ theta.natAbs) : s.servoMove x theta =
    s.setDom x { s.dom x with integ := s.servoInteg x theta, incr := incrFor (s.servoDev x theta), lockCnt := 0 } := by
  rw [State.servoMove, countLock_beyond, dom_setDom_self, setDom_setDom]
  rwa [setDom_fld]

end

/-- A measurement that is no step and lies beyond LOCKTH moves the integral term and the increment alone. -/
theorem servoStep_beyond {s : State} {x : Bool} {theta : Int} (hofs : theta.natAbs < 2 ^ 31)
    (hstep : s.fld F.CT_SRV_STEP_STEP (domIx x) = 0) (hlock : 256 * s.fld F.CT_SRV_LOCK_LOCKTH (domIx x) ≤ theta.natAbs) :
    s.servoStep x theta =
      ((s.bump F.CT_SRV_STAT_MEASN (domIx x)).setFld F.CT_SRV_OFS_OFS (domIx x) (theta % 2 ^ 32).toNat).setDom x
        { s.dom x with silence := 0, lostDone := false, integ := s.servoInteg x theta, lockCnt := 0,
                       incr := incrFor (s.servoDev x theta) } := by
  have hfld {f : Field} (h1 : f.reg ≠ .CT_SRV_STAT) (h2 : f.reg ≠ .CT_SRV_OFS) := measured_fld s x theta h1 h2 (domIx x)
  have integ_eq : ((s.measured x theta).setDom x (s.dom x).heard).servoInteg x theta = s.servoInteg x theta := by
    simp only [State.servoInteg, dom_setDom_self, Domain.heard, setDom_fld, hfld (f := F.CT_SRV_KI_GAIN) (by decide) (by decide),
      hfld (f := F.CT_SRV_LIM_LIM) (by decide) (by decide)]
  have dev_eq : ((s.measured x theta).setDom x (s.dom x).heard).servoDev x theta = s.servoDev x theta := by
    simp only [State.servoDev, integ_eq, setDom_fld, hfld (f := F.CT_SRV_KP_GAIN) (by decide) (by decide),
      hfld (f := F.CT_SRV_LIM_LIM) (by decide) (by decide)]
  rw [servoStep_noStep s x theta hstep, servoMove_beyond, setDom_setDom, dom_setDom_self, integ_eq, dev_eq, State.measured,
    wrap_ofsOf hofs]
  · rfl
  · rw [setDom_fld, hfld (by decide) (by decide)]
    exact hlock

/-- A measurement has been taken from those that wait; the rest remain. -/
def State.tookMeas (s : State) (rest : List (Bool × Int)) : State := { s with ct := { s.ct with meas := rest } }

theorem exec_offsetMeasurement {s : State} {x : Bool} {theta : Int} {rest : List (Bool × Int)}
    (h : takeMeas x s.ct.meas = some (theta, rest)) : exec (.offsetMeasurement x) s =
      .next (if s.servo x then (s.tookMeas rest).servoStep x theta else s.tookMeas rest) := by
  change execOffsetMeasurement x s = _
  unfold execOffsetMeasurement
  rw [h]
  rfl

/-! ### Silence and slew (R63, R73, R75-R77) -/

/-- LOST is set for the silence of a domain (R73). -/
def State.quiet (s : State) (x : Bool) : State :=
  (s.setDom x { s.dom x with lostDone := true }).raise F.CT_SRV_STAT_LOST (domIx x)

/-- The silence of a domain has reached its bound, and LOST is not set for it yet. -/
structure State.SilenceDue (s : State) (x : Bool) : Prop where
  on : s.servo x = true
  new : (s.dom x).lostDone = false
  long : s.lossAt x ≤ (s.dom x).silence

theorem quiet_domSt {s : State} (h : s.Wf) (x : Bool) : (s.quiet x).domSt x = s.domSt x :=
  (fld_raise_apart (setDom_wf h x _) (by decide) _ _).trans (setDom_fld s x _ _ _)

theorem quiet_dom (s : State) (x : Bool) : (s.quiet x).dom x = { s.dom x with lostDone := true } := by
  rw [State.quiet, State.raise, dom_setFld, dom_setDom_self]

/-- A domain that is not selected enters a state without a switch. -/
theorem enterSt_unselected {s : State} {x : Bool} (h : s.flag F.CT_CTRL_SEL ≠ x) (v : Nat) :
    s.enterSt x v = s.setDomSt x v := by
  refine if_neg ?_
  simp [h]

theorem exec_domainSilence {s : State} {x : Bool} (h : s.SilenceDue x) : exec (.domainSilence x) s =
    if (s.quiet x).domSt x = 0 then
      .next (((s.quiet x).setDom x { (s.quiet x).dom x with incr := incrFor ((s.quiet x).dom x).integ }).enterSt x 2)
    else .next (s.quiet x) := if_pos ⟨h.on, by simp [h.new], h.long⟩

theorem domainSilence_unlocked {s : State} (hw : s.Wf) {x : Bool} (h : s.SilenceDue x) (hst : s.domSt x ≠ 0) :
    exec (.domainSilence x) s = .next (s.quiet x) := by
  rw [exec_domainSilence h, quiet_domSt hw, if_neg hst]

theorem domainSilence_locked {s : State} (hw : s.Wf) {x : Bool} (h : s.SilenceDue x) (hst : s.domSt x = 0)
    (hsel : s.flag F.CT_CTRL_SEL ≠ x) : exec (.domainSilence x) s =
      .next (((s.quiet x).setDom x { s.dom x with lostDone := true, incr := incrFor (s.dom x).integ }).setDomSt x 2) := by
  have hsel' : (s.quiet x).flag F.CT_CTRL_SEL ≠ x := by
    rw [State.flag, State.quiet, State.raise, fld_setFld_reg (by decide)]
    exact hsel
  rw [exec_domainSilence h, quiet_domSt hw, if_pos hst, quiet_dom, enterSt_unselected]
  exact hsel'

/-- The state in a CK_TIME cycle with no step and no switch, before the slew (R63 step 1). -/
def State.cycled (s : State) : State :=
  { s with ct := { s.ct with a := s.ct.a.cycle (s.servo false), b := s.ct.b.cycle (s.servo true), prev40 := s.lt40,
                             steps := [], selNext := none, autoDue := false, moved := false,
                             field := (s.ct.field + 1) % 5 } }

/-- A CK_TIME cycle with no step and no switch slews D and does nothing to the Lamplighters. -/
theorem ckTime_plain {s : State} (hs : s.ct.steps = []) (hn : s.ct.selNext = none) (ha : s.ct.autoDue = false) :
    s.ckTime = { s.cycled with ct := { s.cycled.ct with d := slewed s.ct.d s.slew } } := by
  have step : s.ckStep = { s.cycled with ct := { s.cycled.ct with d := slewed s.ct.d s.slew } } := by
    unfold State.ckStep
    rw [hs, hn, ha]
    rfl
  rw [State.ckTime, step]
  rfl

theorem slewed_eq_zero {d : Int} {m : Nat} (h : d.natAbs ≤ m) : slewed d m = 0 := by
  unfold slewed
  split <;> omega

theorem exec_slewConverged {s : State} (hr : s.timeRuns = true) (hd : s.ct.d ≠ 0) (h0 : s.ckTime.ct.d = 0) :
    exec .slewConverged s = .next s.idle := congrArg Host.Outcome.next (if_pos ⟨hr, hd, h0⟩)

/-! ### The always-on counter (R81, R82) -/

theorem between_zero (l n : Nat) : between l n 0 = l % 2 ^ 104 := by simp [between]

theorem stamp40_zero (s : State) : s.stamp40 0 = s.lt40 % 2 ^ 104 := between_zero _ _

@[simp] theorem aonCount_timeRuns (s : State) : s.aonCount.timeRuns = s.timeRuns := rfl

/-- The edge is stamped at phase 0, before anything of the cycle, so the count changes nothing in its stamp. -/
theorem aonCount_stamp40 (s : State) : s.aonCount.stamp40 0 = s.stamp40 0 := by
  rw [stamp40_zero, stamp40_zero]
  rfl

theorem exec_aonEdgeStamp_stopped {s : State} (h : s.timeRuns = false) : exec .aonEdgeStamp s = .next s.aonCount :=
  if_pos (by simp [h])

/-- Within a calibration window an edge is counted, stamped and recorded. -/
theorem exec_aonEdgeStamp_inWindow {s : State} (hr : s.timeRuns = true) (ho : s.ct.winOpen = true)
    (hc : s.ct.winCnt < 2 ^ s.ct.winW) : exec .aonEdgeStamp s = .next { s with
      ct := { s.ct with winCnt := s.ct.winCnt + 1, winLast := s.stamp40 0 }
      aon := { s.aon with cnt := (s.aon.cnt + 1) % 2 ^ 48, latchPrev := s.aon.latch,
                          latch := s.aonCount.entryRec (s.stamp40 0) } } := by
  have hopen : s.aonCount.ct.winOpen = true := ho
  have noEnd : (if s.aonCount.ct.winOpen ∧ s.aonCount.ct.winCnt ≥ 2 ^ s.aonCount.ct.winW then s.aonCount.calWindow
      else s.aonCount) = s.aonCount := if_neg fun h => Nat.not_le.2 hc h.2
  change execAonEdgeStamp s = _
  unfold execAonEdgeStamp
  rw [if_neg (by simp [hr])]
  dsimp only
  rw [noEnd, if_pos hopen, aonCount_stamp40]
  rfl

theorem exec_aonCalWindow_end {s : State} (hr : s.timeRuns = true) (ho : s.ct.winOpen = true)
    (hc : s.ct.winCnt = 2 ^ s.ct.winW) : exec .aonCalWindow s = .next s.calWindow :=
  congrArg Host.Outcome.next (if_pos ⟨hr, ho, hc⟩)

/-- The calibration window that starts where one ends (R81). -/
def State.nextWindow (s : State) : CT :=
  { s.ct with winW := s.fld F.CT_AON_CFG_CALW, winCnt := 0, winStart := s.ct.winLast, winBad := false }

/-- AON_CAL has a new value (R81). -/
def State.calibrated (s : State) (cal : Nat) : State :=
  ((s.setReg .CT_AON_CAL_LO 0 (w32 cal)).setReg .CT_AON_CAL_HI 0 (w32 (cal / 2 ^ 32))).raise F.CT_AON_CFG_CALV

theorem calWindow_spoiled {s : State} (h : s.ct.winBad = true) : s.calWindow = { s with ct := s.nextWindow } := by
  simp only [State.calWindow, h, if_true]
  rfl

theorem calibrated_calw {s : State} (h : s.Wf) (cal : Nat) :
    (s.calibrated cal).fld F.CT_AON_CFG_CALW = s.fld F.CT_AON_CFG_CALW := by
  rw [State.calibrated, fld_raise_apart (setReg_wf (setReg_wf h _ _ _) _ _ _) (by decide), fld_setReg_ne (by decide),
    fld_setReg_ne (by decide)]

theorem calWindow_good {s : State} (hw : s.Wf) (h : s.ct.winBad = false) : s.calWindow =
    { s.calibrated (wrap ((s.ct.winLast : Int) - s.ct.winStart) 104 / 2 ^ 8 / 2 ^ s.ct.winW) with ct := s.nextWindow } := by
  rw [State.nextWindow, ← calibrated_calw hw]
  simp only [State.calWindow, h, Bool.false_eq_true, if_false]
  rfl

theorem toNat_emod_div_div (x : Int) (n k w : Nat) : (x % 2 ^ n / 2 ^ k / 2 ^ w).toNat = wrap x n / 2 ^ k / 2 ^ w := by
  have hx : x % 2 ^ n = (wrap x n : Int) := by
    rw [wrap, Int.toNat_of_nonneg (Int.emod_nonneg _ (by positivity))]
    norm_cast
  rw [hx]
  norm_cast

/-! ### The reconstruction of LT (R83, R84) -/

/-- The AON count since the entry record (R83). -/
def State.aonSince (s : State) (e : EntryRec) : Nat := wrap ((s.aon.cnt : Int) - e.aon) 48

/-- LT from the entry record and the AON count, in 2^-40 ns (R83). -/
def State.wakeLt (s : State) (e : EntryRec) : Nat := (e.lt / 2 ^ 8 + s.aonSince e * e.cal) * 2 ^ 8 % 2 ^ 104

/-- AONBAD: LT cannot be trusted (R84). -/
def State.aonBad (s : State) (e : EntryRec) : Bool := !e.calv || s.aon.rcSeen || s.aon.supplyBad

/-- The uncertainty of LT after the time that the AON count has bridged (R84). -/
def State.wakeUnc (s : State) (e : EntryRec) : Nat :=
  (s.aonSince e * e.cal * e.drift + (10 ^ 9 * 2 ^ 32 - 1)) / (10 ^ 9 * 2 ^ 32)

/-- Both domains stand at LT, at the increments of the record (R83). -/
def State.restart (s : State) (e : EntryRec) : State :=
  { s with ct := { s.ct with a := { s.ct.a with t := s.wakeLt e, incr := e.incrA, silence := 0 },
                             b := { s.ct.b with t := s.wakeLt e, incr := e.incrB, silence := 0 },
                             d := 0, steps := [], selNext := none, autoDue := false,
                             winBad := s.ct.winOpen || s.ct.winBad } }

/-- The states of the domains after a wake (R84). -/
def State.wakeStates (s : State) (stA stB : Nat) : State := (s.setDomSt false stA).setDomSt true stB

/-- The wake registers of the Clocktower, but for the flags of the wake (R83-R85). -/
def State.wakeShown (s : State) (e : EntryRec) (dAon unc : Nat) : State :=
  ((((s.setReg .CT_WAKE_LT_LO 0 (w32 (e.lt / 2 ^ 40))).setReg .CT_WAKE_LT_HI 0 (w32 (e.lt / 2 ^ 72))).setReg .CT_WAKE_DAON_LO 0
    (w32 dAon)).setReg .CT_WAKE_DAON_HI 0 (w32 (dAon / 2 ^ 32))).setReg .CT_WAKE_UNC 0 (w32 unc)

/-- The flags of the wake (R84, R85). -/
def State.wakeFlags (s : State) (bad prev : Bool) : State :=
  (((s.setFld F.CT_WAKE_STAT_AONBAD 0 (if bad then 1 else 0)).setFld F.CT_WAKE_STAT_PREV 0 (if prev then 1 else 0)).raise
    F.CT_WAKE_STAT_RECON).raise F.CT_STATUS_WAKE

/-- A reconstruction in its four parts. -/
theorem reconstruct_eq (s : State) (e : EntryRec) : s.reconstruct e =
    (((s.restart e).wakeStates (if s.aonBad e then 3 else afterWake e.stA) (if s.aonBad e then 3 else afterWake e.stB)).wakeShown
      e (s.aonSince e) (if s.aonBad e ∨ s.wakeUnc e > 0xFFFFFFFF then 0xFFFFFFFF else s.wakeUnc e)).wakeFlags
        (s.aonBad e) s.aon.prev := rfl

section
variable {s : State} (h : s.Wf)
include h

theorem wakeStates_wf (a b : Nat) : (s.wakeStates a b).Wf := setFld_wf (setFld_wf h _ _ _) _ _ _

theorem wakeShown_wf (e : EntryRec) (dAon unc : Nat) : (s.wakeShown e dAon unc).Wf :=
  setReg_wf (setReg_wf (setReg_wf (setReg_wf (setReg_wf h _ _ _) _ _ _) _ _ _) _ _ _) _ _ _

theorem wakeStates_domSt {a b : Nat} (ha : a < 4) (hb : b < 4) :
    (s.wakeStates a b).domSt false = a ∧ (s.wakeStates a b).domSt true = b := by
  have ha' : F.CT_SRV_STAT_STATE.Fits a := ⟨by decide, by decide, Nat.le_of_lt_succ ha⟩
  have hb' : F.CT_SRV_STAT_STATE.Fits b := ⟨by decide, by decide, Nat.le_of_lt_succ hb⟩
  exact ⟨(fld_setFld_el (i := 1) (j := 0) rfl _ (by decide) b).trans (fld_setFld_self h ha' 0),
    fld_setFld_self (setFld_wf h _ _ _) hb' 1⟩

theorem wakeFlags_flags (prev : Bool) : (s.wakeFlags false prev).flag F.CT_WAKE_STAT_RECON = true ∧
    (s.wakeFlags false prev).flag F.CT_WAKE_STAT_AONBAD = false ∧ (s.wakeFlags false prev).flag F.CT_STATUS_WAKE = true := by
  have w1 := setFld_wf h F.CT_WAKE_STAT_AONBAD 0 0
  have w2 := setFld_wf w1 F.CT_WAKE_STAT_PREV 0 (if prev then 1 else 0)
  refine ⟨?_, ?_, flag_raise_self (setFld_wf w2 F.CT_WAKE_STAT_RECON 0 1) (by decide) 0⟩
  · rw [State.flag, State.wakeFlags, State.raise, fld_setFld_reg (by decide)]
    exact flag_raise_self w2 (by decide) 0
  · rw [State.flag, State.wakeFlags, State.raise, fld_setFld_reg (by decide)]
    exact congrArg (· == 1) ((fld_raise_apart w2 (by decide) 0 0).trans
      ((fld_setFld_apart w1 (by decide) 0 0 _).trans (fld_setFld_self h (by decide) 0)))

end

section
variable (s : State)

theorem wakeShown_domSt (e : EntryRec) (dAon unc : Nat) (x : Bool) : (s.wakeShown e dAon unc).domSt x = s.domSt x := by
  simp only [State.domSt, State.wakeShown]
  repeat rw [fld_setReg_ne (by decide)]

theorem wakeFlags_domSt (bad prev x : Bool) : (s.wakeFlags bad prev).domSt x = s.domSt x := by
  simp only [State.domSt, State.wakeFlags, State.raise]
  repeat rw [fld_setFld_reg (by decide)]

/-- What no register write changes is, after a reconstruction, what the restart of the domains has left. -/
theorem reconstruct_apart {β : Type} (g : State → β)
    (hg : ∀ (u : State) (r : Reg) (i : Nat) (w : Word), g (u.setReg r i w) = g u) (e : EntryRec) :
    g (s.reconstruct e) = g (s.restart e) := by
  rw [reconstruct_eq]
  simp only [State.wakeFlags, State.wakeShown, State.wakeStates, State.setDomSt, State.raise, State.setFld, hg]

end

theorem wakeLt_lt (s : State) (e : EntryRec) : s.wakeLt e < 2 ^ 104 := Nat.mod_lt _ (by positivity)

theorem wrap_natCast_of_lt {v n : Nat} (h : v < 2 ^ n) : wrap v n = v := by
  rw [wrap, ← Int.natCast_mod, Nat.mod_eq_of_lt h, Int.toNat_natCast]

/-- LT where both domains stand at one time and D is 0. -/
theorem lt40_of_domains {s : State} {t : Nat} (ha : s.ct.a.t = t) (hb : s.ct.b.t = t) (hd : s.ct.d = 0) (ht : t < 2 ^ 104) :
    s.lt40 = t := by
  rw [State.lt40, State.tSel, ha, hb, ite_self, hd, Int.add_zero, wrap_natCast_of_lt ht]

/-- The end of a reconstruction, at LT `was` before it: its edge is stamped and recorded (R82, R83). -/
def State.woken (s : State) (was : Nat) : State :=
  { s with ld := { s.ld with since := s.ld.since + s.ltNs - was }
           aon := { s.aon with reconDue := false, rcSeen := s.aon.rc, latchPrev := s.aon.latch, latch := s.entryRec s.lt40 } }

theorem exec_ltReconstruct {s : State} (hp : s.timePowered = true) (hd : s.aon.reconDue = true) (hprev : s.aon.prev = false) :
    exec .ltReconstruct s = .next ((s.aonCount.reconstruct s.aon.latch).woken s.ltNs) := by
  have hlatch : (if s.aonCount.aon.prev then s.aonCount.aon.latchPrev else s.aonCount.aon.latch) = s.aon.latch := by
    rw [show s.aonCount.aon.prev = false from hprev]
    rfl
  change execLtReconstruct s = _
  unfold execLtReconstruct
  rw [if_pos ⟨hp, hd⟩]
  dsimp only
  rw [hlatch]
  generalize s.aonCount.reconstruct s.aon.latch = u
  rfl

theorem aonCount_wf {s : State} (h : s.Wf) : s.aonCount.Wf := (aonCount_keeps (Keeps.refl s)).wf h

theorem restart_wf {s : State} (h : s.Wf) (e : EntryRec) : (s.restart e).Wf := (keeps_mk.2 (plain_keeps (Keeps.refl s))).wf h

theorem aonCount_aonSince (s : State) (e : EntryRec) :
    s.aonCount.aonSince e = (((s.aon.cnt : Int) + 1 - e.aon) % 2 ^ 48).toNat := by
  have hcnt : (s.aonCount.aon.cnt : Int) = ((s.aon.cnt : Int) + 1) % 2 ^ 48 := by
    change (((s.aon.cnt + 1) % 2 ^ 48 : Nat) : Int) = _
    norm_cast
  rw [State.aonSince, hcnt, wrap]
  norm_num [Int.emod_sub_emod]

theorem afterWake_lt {st : Nat} (h : st < 4) : afterWake st < 4 := by
  unfold afterWake
  split <;> omega

/-- u is s after LT has been rebuilt from the entry record e without AONBAD (R83-R85). -/
structure State.Rebuilt (s : State) (e : EntryRec) (u : State) : Prop where
  ct : u.ct = (s.restart e).ct
  aon : u.aon = s.aon
  thr : u.thr = s.thr
  mem : u.mem = s.mem
  stA : u.domSt false = afterWake e.stA
  stB : u.domSt true = afterWake e.stB
  recon : u.flag F.CT_WAKE_STAT_RECON = true
  good : u.flag F.CT_WAKE_STAT_AONBAD = false
  wake : u.flag F.CT_STATUS_WAKE = true

theorem reconstruct_rebuilt {s : State} (hw : s.Wf) {e : EntryRec} (hbad : s.aonBad e = false) (ha : e.stA < 4) (hb : e.stB < 4) :
    s.Rebuilt e (s.reconstruct e) := by
  have hr := restart_wf hw e
  obtain ⟨hA, hB⟩ := wakeStates_domSt hr (afterWake_lt ha) (afterWake_lt hb)
  have hstate := reconstruct_eq s e
  rw [hbad] at hstate
  obtain ⟨hrecon, hgood, hwake⟩ := wakeFlags_flags (wakeShown_wf (wakeStates_wf hr _ _) _ _ _) _
  refine ⟨reconstruct_apart s State.ct setReg_ct e, reconstruct_apart s State.aon setReg_aon e,
    reconstruct_apart s State.thr setReg_thr e, reconstruct_apart s State.mem setReg_mem e, ?_, ?_, hstate ▸ hrecon,
    hstate ▸ hgood, hstate ▸ hwake⟩ <;> rw [hstate]
  · rw [wakeFlags_domSt, wakeShown_domSt]
    exact hA
  · rw [wakeFlags_domSt, wakeShown_domSt]
    exact hB

section
variable {s u : State} {e : EntryRec} (h : s.Rebuilt e u)
include h

theorem State.Rebuilt.tA : u.ct.a.t = s.wakeLt e := by rw [h.ct]; rfl
theorem State.Rebuilt.tB : u.ct.b.t = s.wakeLt e := by rw [h.ct]; rfl
theorem State.Rebuilt.d : u.ct.d = 0 := by rw [h.ct]; rfl
theorem State.Rebuilt.incrA : u.ct.a.incr = e.incrA := by rw [h.ct]; rfl
theorem State.Rebuilt.incrB : u.ct.b.incr = e.incrB := by rw [h.ct]; rfl
theorem State.Rebuilt.latch : u.aon.latch = s.aon.latch := by rw [h.aon]
theorem State.Rebuilt.lt40 : u.lt40 = u.ct.a.t := (lt40_of_domains h.tA h.tB h.d (wakeLt_lt s e)).trans h.tA.symm

end

/-! ### The events of the Clocktower -/

/-- Settles O28. The servo's move, the silence, the slew and the calibration window are branches of their events under the
stated conditions; the edge's stamp is taken at phase 0; the reconstruction is followed through its registers. -/
theorem clockEventResults : Obligations.ClockEventResults := by
  refine ⟨fun s x theta rest hw hm => ⟨fun hoff => ?_, fun hon hofs hstep hlock => ?_⟩,
    fun s x hw => ⟨fun hon hnew hlong => ?_, fun hr hd hle hs hn ha => ?_, exec_aonEdgeStamp_stopped,
      exec_aonEdgeStamp_inWindow, fun hr ho hc => ⟨fun hb => ?_, fun hb => ?_⟩, rfl, rfl⟩,
    fun s hw hp hd hprev hcal hrc hsup ha hb => ?_⟩
  · rw [exec_offsetMeasurement hm, if_neg (by simp [hoff])]
    rfl
  · rw [exec_offsetMeasurement hm, if_pos hon, servoStep_beyond (s := s.tookMeas rest) hofs hstep hlock]
    rfl
  · have due : s.SilenceDue x := ⟨hon, hnew, hlong⟩
    exact ⟨domainSilence_unlocked hw due, domainSilence_locked hw due⟩
  · have converged : s.ckTime.ct.d = 0 := by
      rw [ckTime_plain hs hn ha]
      exact slewed_eq_zero hle
    exact ⟨exec_slewConverged hr hd converged, converged⟩
  · rw [exec_aonCalWindow_end hr ho hc, calWindow_spoiled hb]
    rfl
  · rw [exec_aonCalWindow_end hr ho hc, calWindow_good hw hb, ← toNat_emod_div_div]
    rfl
  · have hbad : s.aonCount.aonBad s.aon.latch = false := by simp [State.aonBad, State.aonCount, hcal, hrc, hsup]
    have hexec := exec_ltReconstruct hp hd hprev
    have hu := reconstruct_rebuilt (aonCount_wf hw) hbad ha hb
    generalize s.aonCount.reconstruct s.aon.latch = u at hexec hu
    have hlt := hu.tA
    rw [State.wakeLt, aonCount_aonSince] at hlt
    exact ⟨_, hexec, hlt, hu.tB.trans hu.tA.symm, hu.d, hu.incrA, hu.incrB, hu.stA, hu.stB, hu.recon, hu.good, hu.wake,
      congrArg Aon.cnt hu.aon, rfl, hu.latch, congrArg u.entryRec hu.lt40, hu.thr, hu.mem⟩

end Sys2Proof.Machine
end

section
/-! The family of the field ports: what a read of a protected buffer leaves alone (R395), a port's launches, frames and select
releases as controller, and its select periods as target (R89-R111). -/

namespace Sys2Proof.Machine

/-! ### Reads of protected memory (R395) -/

/-- The registers that a read of protected memory may change. -/
def eccRegs : List Reg := [.MP_ECC_CNT, .MP_ECC_STAT, .MP_ECC_LASTADDR]

/-- What a read of protected memory leaves alone. -/
structure CodeRead (s s' : State) : Prop where
  rest : { s' with live := s.live, ecc := s.ecc, scrubQ := s.scrubQ } = s
  reg : ∀ r i, r ∉ eccRegs → s'.reg r i = s.reg r i

theorem CodeRead.refl (s : State) : CodeRead s s := ⟨rfl, fun _ _ _ => rfl⟩

theorem CodeRead.trans {a b c : State} (h : CodeRead a b) (g : CodeRead b c) : CodeRead a c where
  rest := by
    have e := congrArg (fun x : State => { x with live := a.live, ecc := a.ecc, scrubQ := a.scrubQ }) g.rest
    exact e.trans h.rest
  reg r i hr := (g.reg r i hr).trans (h.reg r i hr)

theorem CodeRead.fld {s s' : State} (h : CodeRead s s') {f : Field} (hf : f.reg ∉ eccRegs) (i : Nat) : s'.fld f i = s.fld f i :=
  congrArg f.get (h.reg f.reg i hf)

/-- What depends on no live register and no code state is unchanged. -/
theorem CodeRead.apart {β : Type} {s s' : State} (h : CodeRead s s') (g : State → β)
    (hg : ∀ u l e q, g { u with live := l, ecc := e, scrubQ := q } = g u) : g s' = g s :=
  (hg s' _ _ _).symm.trans (congrArg g h.rest)

/-- A state of which protected memory has been read is the old one with other live registers and code states. -/
theorem CodeRead.eq_mk {s s' : State} (h : CodeRead s s') :
    ∃ l e q, s' = { s with live := l, ecc := e, scrubQ := q } := by
  have e := congrArg (fun x : State => { x with live := s'.live, ecc := s'.ecc, scrubQ := s'.scrubQ }) h.rest
  exact ⟨s'.live, s'.ecc, s'.scrubQ, e⟩

theorem codeRead_setFld (s : State) {f : Field} (hf : f.reg ∈ eccRegs) (i v : Nat) : CodeRead s (s.setFld f i v) :=
  ⟨rfl, fun r j hr => reg_setReg_ne s (fun e : r = f.reg => hr (e ▸ hf)) i j _⟩

theorem codeRead_scrubQ (s : State) (q : List Nat) : CodeRead s { s with scrubQ := q } := ⟨rfl, fun _ _ _ => rfl⟩
theorem codeRead_setEcc (s : State) (rg w : Nat) (e : Ecc) : CodeRead s (s.setEcc rg w e) := ⟨rfl, fun _ _ _ => rfl⟩

theorem codeRead_eccRead (s : State) (rg w : Nat) : CodeRead s (s.eccRead rg w).1 := by
  unfold State.eccRead
  dsimp only
  split
  · exact codeRead_setFld s (by decide) rg _
  · split
    · exact .refl s
    · split
      · exact ((codeRead_setFld s (f := F.MP_ECC_CNT_CORR) (by decide) rg _).trans
          (codeRead_setFld _ (f := F.MP_ECC_STAT_CORR) (by decide) 0 1)).trans (codeRead_scrubQ _ _)
      · exact ((((codeRead_setFld s (f := F.MP_ECC_CNT_UNC) (by decide) rg _).trans
          (codeRead_setFld _ (f := F.MP_ECC_STAT_UNC) (by decide) 0 1)).trans
          (codeRead_setFld _ (f := F.MP_ECC_STAT_LASTREG) (by decide) 0 rg)).trans
          (codeRead_setFld _ (f := F.MP_ECC_LASTADDR_WIDX) (by decide) 0 w)).trans (codeRead_setEcc _ rg w _)

theorem codeRead_bufRead (s : State) (r : Reg) (i : Nat) : CodeRead s (s.bufRead r i).1 := by
  have hread := codeRead_eccRead s (bufRegion r) (portEcc r i)
  unfold State.bufRead
  split
  next he => rwa [he] at hread
  next he => rwa [he] at hread

theorem codeRead_portWord (s : State) (r : Reg) (i : Nat) : CodeRead s (s.portWord r i).1 := codeRead_bufRead s r i

theorem codeRead_portWords (s : State) (r : Reg) (l : List Nat) : CodeRead s (s.portWords r l).1 := by
  have folded (a : State × List Word) :
      CodeRead a.1 (l.foldl (fun a i => ((a.1.portWord r i).1, a.2 ++ [(a.1.portWord r i).2])) a).1 := by
    induction l generalizing a with
    | nil => exact .refl a.1
    | cons i l ih => exact (codeRead_portWord a.1 r i).trans (ih ((a.1.portWord r i).1, a.2 ++ [(a.1.portWord r i).2]))
  exact folded (s, [])

theorem codeRead_fpTxWords (s : State) (n : Nat) (l : List Nat) : CodeRead s (s.fpTxWords n l).1 :=
  codeRead_portWords s .FP_TXBUF _

theorem codeRead_fpReplyBits (s : State) (n : Nat) (p : FpSel) (b : Nat) : CodeRead s (s.fpReplyBits n p b).1 := by
  have hfst : (s.fpReplyBits n p b).1 =
      (if p.reply = .armed then s.fpLoadSel n p (b / s.fpW n + 1) else (s, p)).1 := rfl
  rw [hfst]
  split
  · exact codeRead_fpTxWords s n _
  · exact .refl s

theorem fpReplyBits_length (s : State) (n : Nat) (p : FpSel) (b : Nat) : (s.fpReplyBits n p b).2.length = b := by
  have padded (l : List Bool) (v : Bool) : (l.take b ++ List.replicate (b - (l.take b).length) v).length = b := by
    simp only [List.length_append, List.length_replicate, List.length_take]
    omega
  exact padded _ _

/-! ### Launch entries that are due (R94, R97) -/

theorem fpDueList_eq_nil {s : State} {n x : Nat} (h : ∀ j < 8, s.fpDue n x j = false) : s.fpDueList n x = [] := by
  have hfilter : (List.range 8).filter (s.fpDue n x) = [] :=
    List.filter_eq_nil_iff.2 fun j hj => by simp [h j (List.mem_range.1 hj)]
  rw [State.fpDueList, hfilter]
  rfl

theorem fpDueList_eq_singleton {s : State} {n x i : Nat} (hi : i < 8) (hdue : s.fpDue n x i = true)
    (h : ∀ j < 8, j ≠ i → s.fpDue n x j = false) : s.fpDueList n x = [i] := by
  have hfilter : (List.range 8).filter (s.fpDue n x) = [i] := by
    rw [List.filter_congr (q := (· == i)) fun j hj => ?_, List.filter_beq,
      List.count_eq_one_of_mem List.nodup_range (List.mem_range.2 hi), List.replicate_one]
    by_cases hj' : j = i
    · simp [hj', hdue]
    · simp [hj', h j (List.mem_range.1 hj) hj']
  have index : (s.act F.FP_LAUNCH_OFS5 (8 * n + i) * 8 + i) % 8 = i := by omega
  rw [State.fpDueList, hfilter]
  exact congrArg (fun k => [k]) index

theorem fpLaunches_of_none_due {s : State} {n x : Nat} (h : ∀ j < 8, s.fpDue n x j = false) : s.fpLaunches n x = s := by
  rw [State.fpLaunches, fpDueList_eq_nil h]
  rfl

theorem fpLaunches_of_one_due {s : State} {n x i : Nat} (hi : i < 8) (hdue : s.fpDue n x i = true)
    (h : ∀ j < 8, j ≠ i → s.fpDue n x j = false) : s.fpLaunches n x = s.fpLaunchOne n i := by
  rw [State.fpLaunches, fpDueList_eq_singleton hi hdue h]
  rfl

/-- An entry that is due at an instant is due at its nominal instant. -/
theorem fpDue_nominal {s : State} {n x i : Nat} (h : s.fpDue n x i = true) : s.fpDue n (s.fpNominal n i) i = true := by
  simp only [State.fpDue, Bool.and_eq_true, decide_eq_true_eq] at h ⊢
  exact ⟨h.1, le_rfl⟩

/-! ### Launches (R96, R97, R99, R101) -/

/-- Port n, with the unit v, has started a frame at launch edge l (R96, R103). -/
def State.fpStarted (s : State) (n : Nat) (v : FpUnit) (entry : Option Nat) (l : Nat) : State :=
  let p := (s.setFp n v).fpTxWords n [0]
  p.1.setFp n { v with frame := some { at_ := l, entry := entry, sent := p.2 }, hist := (l / 2 ^ 32 :: v.hist).take 4,
                       launched := v.launched + 1 }

section
variable {s : State} {n i : Nat}

theorem fpStart_setFp (hw : s.Wf) (v : FpUnit) (entry : Option Nat) (l : Nat)
    (hchk : s.actB F.FP_SEL_SELCHK n = true → s.fpSelected n = true) :
    (s.setFp n v).fpStart n entry l = s.fpStarted n v entry l := by
  have passes : ¬ ((s.setFp n v).actB F.FP_SEL_SELCHK n = true ∧ ¬ (s.setFp n v).fpSelected n = true) :=
    fun h => h.2 (hchk h.1)
  rw [State.fpStart, if_neg passes, fpOf_setFp_self hw]
  rfl

theorem fpStart_setFp_unselected (v : FpUnit) (entry : Option Nat) (l : Nat) (hchk : s.actB F.FP_SEL_SELCHK n = true)
    (hsel : s.fpSelected n = false) : (s.setFp n v).fpStart n entry l = (s.setFp n v).bump F.FP_ERR_NOSEL n :=
  if_pos ⟨hchk, fun selected => Bool.false_ne_true (hsel.symm.trans selected)⟩

theorem fpBusyAt_idle (h : (s.fpOf n).frame = none) (l : Nat) : s.fpBusyAt n l = false := by
  rw [State.fpBusyAt, h]

theorem fpLaunchOne_skipped (h : s.fpBusyAt n (s.fpEdge n i) = true ∨ s.fpNominal n i ≤ s.ct.tickPrev) :
    s.fpLaunchOne n i = ((s.setFp n { s.fpOf n with done := i :: (s.fpOf n).done }).bump F.FP_ERR_SKIPN n).raise
      F.FP_STATUS_SKIP n := by
  simp only [State.fpLaunchOne]
  rw [if_neg fun hne => ?_, if_pos (by simpa using h)]
  obtain ⟨hbusy, -, hlate⟩ := hne
  exact h.elim hbusy fun hle => hlate (decide_eq_true hle)

theorem fpLaunchOne_idle (h : (s.fpOf n).frame = none) (hlate : ¬ s.fpNominal n i ≤ s.ct.tickPrev) : s.fpLaunchOne n i =
    (s.setFp n { s.fpOf n with done := i :: (s.fpOf n).done }).fpStart n (some i) (s.fpEdge n i) := by
  simp only [State.fpLaunchOne]
  rw [if_neg (by simp [h]), if_neg (by simp [fpBusyAt_idle h, hlate])]

/-- A command launch where no entry is due and a frame is out is pending (R99). -/
theorem fpCommand_busy (hq : ∀ j < 8, s.fpDue n s.fieldEdge j = false) (h : (s.fpOf n).frame.isSome = true) :
    s.fpCommand n = s.setFp n { s.fpOf n with pend := true } := by
  simp only [State.fpCommand, fpLaunches_of_none_due hq]
  exact if_pos h

theorem fpCommand_idle (hw : s.Wf) (hq : ∀ j < 8, s.fpDue n s.fieldEdge j = false) (h : (s.fpOf n).frame = none)
    (hchk : s.actB F.FP_SEL_SELCHK n = false) :
    s.fpCommand n = s.fpStarted n { s.fpOf n with pend := false } none s.fieldEdge := by
  simp only [State.fpCommand, fpLaunches_of_none_due hq]
  rw [if_neg (by simp [h]), fpStart_setFp hw _ _ _ (by simp [hchk])]

end

section
variable {s : State} {n : Fin 32}

theorem exec_fpLaunch {i : Fin 8} (hr : s.timeRuns = true) (hc : s.fpCtl n = true) (hdue : s.fpDue n s.fieldEdge i = true)
    (h : ∀ j < 8, j ≠ i.val → s.fpDue n (s.fpNominal n i) j = false) :
    exec (.fpLaunch n i) s = .next (s.fpLaunchOne n i) := by
  rw [← fpLaunches_of_one_due i.isLt (fpDue_nominal hdue) h]
  exact if_pos ⟨hr, hc, hdue⟩

theorem exec_fpLaunch_not_due {i : Fin 8} (h : s.fpDue n s.fieldEdge i = false) : exec (.fpLaunch n i) s = .next s :=
  if_neg fun hdue => Bool.false_ne_true (h.symm.trans hdue.2.2)

theorem exec_fpPendingLaunch (hr : s.timeRuns = true) (hc : s.fpCtl n = true) (hp : (s.fpOf n).pend = true) :
    exec (.fpPendingLaunch n) s = .next (s.fpCommand n) := congrArg Host.Outcome.next (if_pos ⟨hr, hc, hp⟩)

end

/-! ### Commands (R99, R111) -/

theorem regAt_FP_CMD : ∀ n : Fin 32, Reg.offset .FP_CMD n % 4 = 0 ∧ regAt (Reg.offset .FP_CMD n) = some (.FP_CMD, n.val) := by
  decide +kernel

theorem arrive_FP_CMD {s : State} {req : Req} {n : Fin 32} {w : Word} (h : s.writes req .FP_CMD n w = true) :
    s.arrive req .FP_CMD n w = (s.fpCmd n w).answered req := by
  obtain ⟨h4, hat⟩ := regAt_FP_CMD n
  exact arrive_performed h rfl h4 hat

theorem fpCmd_go (s : State) (n : Nat) : s.fpCmd n 1 =
    if ¬ s.fpCtl n then s.raise F.FP_STATUS_CMDREF n
    else if (s.fpOf n).pend then s.bump F.FP_ERR_CMDLOST n
    else s.fpCommand n := rfl

theorem fpCmd_arm_target {s : State} {n : Nat} (h : s.fpTarget n = true) :
    s.fpCmd n 2 = s.setFp n { s.fpOf n with armed := some (s.fld F.FP_TSTAT_TSEQ n) } := if_neg fun refused => refused.2 h

theorem fpCmd_arm_refused {s : State} {n : Nat} (h : s.fpTarget n = false) : s.fpCmd n 2 = s.raise F.FP_STATUS_CMDREF n :=
  if_pos ⟨rfl, by simp [h]⟩

theorem fpCmd_discard (s : State) (n : Nat) : s.fpCmd n 4 =
    s.setFp n { s.fpOf n with armed := none, sel := (s.fpOf n).sel.map fun p => { p with tag := none } } := rfl

section
variable {s : State} {req : Req} {n : Fin 32}

theorem exec_fpGo (h : s.writes req .FP_CMD n 1 = true) : exec (.fpGo req n) s = .next ((s.fpCmd n 1).answered req) :=
  congrArg Host.Outcome.next (arrive_FP_CMD h)

theorem exec_fpArm (h : s.writes req .FP_CMD n 2 = true) : exec (.fpArm req n) s = .next ((s.fpCmd n 2).answered req) :=
  congrArg Host.Outcome.next (arrive_FP_CMD h)

theorem exec_fpDiscard (h : s.writes req .FP_CMD n 4 = true) : exec (.fpDiscard req n) s = .next ((s.fpCmd n 4).answered req) :=
  congrArg Host.Outcome.next (arrive_FP_CMD h)

end

/-! ### The end of a frame, and the select release (R92, R100, R103, R104, R106) -/

section
variable {s : State} {n ms : Nat} {items : List Word}

/-- The packets of port n that still wait (R104). -/
abbrev State.fpWaiting (s : State) (n : Nat) : List Packet := s.presented.filter fun p => p.typ == 1 && p.idx == n

theorem fpDeliver_room (h : (s.fpWaiting n).length < 2) :
    s.fpDeliver n ms items = s.present { typ := 1, idx := n, ms := ms, payload := items } := if_neg (Nat.not_le.2 h)

theorem fpDeliver_full (h : 2 ≤ (s.fpWaiting n).length) : s.fpDeliver n ms items = s.bump F.FP_DROP_DROPN n := if_pos h

end

/-- The select is released after the frame (R100). -/
def State.fpReleases (s : State) (n : Nat) (fr : FpFrame) : Bool :=
  s.act F.FP_SEL_SELREL n == 1 || (s.act F.FP_SEL_SELREL n == 2 && s.fpLastEntry n fr.entry)

/-- The frame of port n is out: its bits have been sent, the port is idle, and a release of the select may be due (R92, R100). -/
def State.fpFrameOut (s : State) (n : Nat) (fr : FpFrame) : State :=
  let p := s.fpTxWords n ((List.range (s.fpF n)).drop fr.sent.length)
  (p.1.emit (.fpFrame n fr.at_ (s.fpT n) (s.act F.FP_CFG_CMODE n) (s.fpBits n (fr.sent ++ p.2)))).setFp n { s.fpOf n with
    frame := none
    rel := if s.fpReleases n fr then (s.fpOf n).rel ++ [s.fpE n fr + 5 * s.act F.FP_SEL_TRAIL n * 2 ^ 40] else (s.fpOf n).rel }

theorem fpFrameOut_presented (s : State) (n : Nat) (fr : FpFrame) : (s.fpFrameOut n fr).presented = s.presented :=
  (codeRead_fpTxWords s n _).apart State.presented fun _ _ _ _ => rfl

theorem fpE_eq (s : State) (n : Nat) (fr : FpFrame) : s.fpE n fr = fr.at_ + s.fpF n * s.fpW n * (s.fpT n * 2 ^ 40) := by
  rw [State.fpE, Nat.mul_assoc (s.fpF n * s.fpW n)]

section
variable {s : State} {n : Fin 32} {rx : List Bool} {fr : FpFrame}

theorem exec_fpFrameEnd_idle (h : (s.fpOf n).frame = none) : exec (.fpFrameEnd n rx) s = .next s := by
  change execFpFrameEnd n rx s = _
  rw [execFpFrameEnd, h]

theorem exec_fpFrameEnd_early (h : (s.fpOf n).frame = some fr) (he : s.lt40 < s.fpE n fr) :
    exec (.fpFrameEnd n rx) s = .next s := by
  change execFpFrameEnd n rx s = _
  rw [execFpFrameEnd, h]
  exact if_pos (.inr he)

theorem exec_fpFrameEnd_ended (h : (s.fpOf n).frame = some fr) (hr : s.timeRuns = true) (he : s.fpE n fr ≤ s.lt40) :
    exec (.fpFrameEnd n rx) s =
      if (s.fpOf n).launched ≤ s.act F.FP_RPL_RPLOFS n then .next ((s.fpFrameOut n fr).bump F.FP_ERR_PRIME n)
      else .next ((s.fpFrameOut n fr).fpDeliver n ((s.fpOf n).hist.getD (s.act F.FP_RPL_RPLOFS n) (fr.at_ / 2 ^ 32))
        (s.fpItems n (s.fpF n) rx)) := by
  have hread := codeRead_fpTxWords s n ((List.range (s.fpF n)).drop fr.sent.length)
  have ended : ¬ (¬ s.timeRuns = true ∨ s.lt40 < s.fpE n fr) := by simp [hr, he]
  change execFpFrameEnd n rx s = _
  simp only [execFpFrameEnd, h, if_neg ended, State.fpFrameOut]
  generalize s.fpTxWords n ((List.range (s.fpF n)).drop fr.sent.length) = p at hread ⊢
  obtain ⟨l, e, q, hp⟩ := hread.eq_mk
  rw [hp]
  rfl

theorem exec_fpSelectRelease_early {t : Nat} {rest : List Nat} (h : (s.fpOf n).rel = t :: rest) (ht : s.lt40 < t) :
    exec (.fpSelectRelease n) s = .next s := by
  change execFpSelectRelease n s = _
  simp only [execFpSelectRelease, h]
  exact if_pos (.inr ht)

theorem exec_fpSelectRelease_due {t : Nat} {rest : List Nat} (h : (s.fpOf n).rel = t :: rest) (hr : s.timeRuns = true)
    (ht : t ≤ s.lt40) : exec (.fpSelectRelease n) s = match s.fpPin n with
      | some g => .next ((s.setFp n { s.fpOf n with rel := rest }).setGpOut g (!s.fpPol n))
      | none => .next (s.setFp n { s.fpOf n with rel := rest }) := by
  change execFpSelectRelease n s = _
  simp only [execFpSelectRelease, h]
  exact if_neg (by simp [hr, ht])

end

/-- Settles O31. One entry that is due is the whole list of launches, and none due leaves a command its edge; the words read
from the transmit buffer at a frame's end change no configuration of the port. -/
theorem fieldPortControllerResults : Obligations.FieldPortControllerResults := by
  refine ⟨fun s req n i hw => ⟨fun hr hc hdue honly => ⟨fun hskip => ?_, fun hidle hlate hchk => ?_,
      fun hidle hlate hchk hsel => ?_⟩, exec_fpLaunch_not_due, fun hr hc hp hq => ⟨fun hf => ?_, fun hf hchk => ?_⟩,
      fun hwr => ⟨fun hc => ?_, fun hc hp => ?_, fun hc hp hq => ⟨fun hf => ?_, fun hf hchk => ?_⟩⟩⟩,
    fun s n rx fr t rest hw hr => ?_⟩
  · rw [exec_fpLaunch hr hc hdue honly, fpLaunchOne_skipped hskip]
  · rw [exec_fpLaunch hr hc hdue honly, fpLaunchOne_idle hidle hlate, fpStart_setFp hw _ _ _ (by simp [hchk])]
    rfl
  · rw [exec_fpLaunch hr hc hdue honly, fpLaunchOne_idle hidle hlate, fpStart_setFp_unselected _ _ _ hchk hsel]
  · rw [exec_fpPendingLaunch hr hc hp, fpCommand_busy hq hf]
  · rw [exec_fpPendingLaunch hr hc hp, fpCommand_idle hw hq hf hchk]
    rfl
  · rw [exec_fpGo hwr, fpCmd_go, if_pos (by simp [hc])]
  · rw [exec_fpGo hwr, fpCmd_go, if_neg (by simp [hc]), if_pos hp]
  · rw [exec_fpGo hwr, fpCmd_go, if_neg (by simp [hc]), if_neg (by simp [hp]), fpCommand_busy hq hf]
  · rw [exec_fpGo hwr, fpCmd_go, if_neg (by simp [hc]), if_neg (by simp [hp]), fpCommand_idle hw hq hf hchk]
    rfl
  · intro u r e
    have hE : e = s.fpE n fr := (fpE_eq s n fr).symm
    clear_value e
    subst hE
    refine ⟨exec_fpFrameEnd_early, fun hf he => ⟨fun hl => ?_, fun hl hroom => ?_, fun hl hfull => ?_⟩,
      exec_fpFrameEnd_idle, fun hrel => ⟨exec_fpSelectRelease_early hrel, fun ht => ⟨fun g hg => ?_, fun hg => ?_⟩⟩⟩
    · rw [exec_fpFrameEnd_ended hf hr he, if_pos hl]
      rfl
    · rw [exec_fpFrameEnd_ended hf hr he, if_neg (Nat.not_le.2 hl),
        fpDeliver_room (by rw [State.fpWaiting, fpFrameOut_presented]; exact hroom)]
      rfl
    · rw [exec_fpFrameEnd_ended hf hr he, if_neg (Nat.not_le.2 hl),
        fpDeliver_full (by rw [State.fpWaiting, fpFrameOut_presented]; exact hfull)]
      rfl
    · rw [exec_fpSelectRelease_due hrel hr ht, hg]
    · rw [exec_fpSelectRelease_due hrel hr ht, hg]

/-! ### Select periods of a target (R107, R108, R110, R111) -/

/-- A select period of port n has put its reply on SDO, and the count of accepted and rejected frames moves on (R110, R111). -/
def State.fpReplied (s : State) (n : Nat) (sel : FpSel) (b : Nat) : State :=
  let q := s.fpReplyBits n sel b
  (q.1.emit (.fpReply n sel.ms q.2)).setFld F.FP_TSTAT_TSEQ n ((s.fld F.FP_TSTAT_TSEQ n + 1) % 65536)

/-- The select period is over, and its frame rejected or not (R110). -/
def State.fpPeriodOver (s : State) (n : Nat) (sel : FpSel) (b : Nat) (rej : Bool) : State :=
  (s.fpReplied n sel b).setFp n { s.fpOf n with sel := none, first := false, lastRej := rej }

section
variable {s : State} {n p : Fin 32} {rx : List Bool} {sel : FpSel}

theorem exec_fpSelectStart_inactive (h : s.fpBall n = false) : exec (.fpSelectStart n p) s = .next s := if_pos (by simp [h])

/-- The first select period after the port has been enabled replies with the idle pattern, and counts no late reply (R111). -/
theorem exec_fpSelectStart_first (hr : s.timeRuns = true) (he : s.fpEn n = true) (ht : s.fpTarget n = true)
    (hb : s.fpBall n = true) (hs : (s.fpOf n).sel = none) (hf : (s.fpOf n).first = true) :
    exec (.fpSelectStart n p) s = .next (s.setFp n { s.fpOf n with
      armed := none
      sel := some { ms := s.stamp (match s.fpPin n with | some g => if g < 16 then p.val else 0 | none => 0)
                    reply := .idle, tag := (s.fpOf n).armed, ignore := false
                    sent := List.replicate (s.fpF n) (BitVec.ofNat 32 ((s.reg .FP_IDLEPAT n).toNat % 2 ^ s.fpW n)) } }) := by
  have choice : s.fpChoose n = .idle := if_pos hf
  change execFpSelectStart n p s = _
  unfold execFpSelectStart
  rw [if_neg (by simp [hr, he, ht, hb, hs])]
  simp only [choice, hf, State.fpPat]
  rfl

theorem exec_fpSelectEnd_active (h : (s.fpOf n).sel = some sel) (hb : s.fpBall n = true) :
    exec (.fpSelectEnd n rx) s = .next s := by
  change execFpSelectEnd n rx s = _
  rw [execFpSelectEnd, h]
  exact if_pos hb

theorem exec_fpSelectEnd_ignored (h : (s.fpOf n).sel = some sel) (hb : s.fpBall n = false) (hi : sel.ignore = true) :
    exec (.fpSelectEnd n rx) s = .next (s.setFp n { s.fpOf n with sel := none }) := by
  change execFpSelectEnd n rx s = _
  simp only [execFpSelectEnd, h, hb, hi, Bool.false_eq_true, if_true, if_false]

theorem exec_fpSelectEnd_empty (h : (s.fpOf n).sel = some sel) (hb : s.fpBall n = false) (hi : sel.ignore = false) :
    exec (.fpSelectEnd n []) s = .next ((s.setFp n { s.fpOf n with
      sel := none, armed := if (s.fpOf n).armed.isSome then (s.fpOf n).armed else sel.tag }).bump F.FP_TCNT_EMPTY n) := by
  change execFpSelectEnd n [] s = _
  simp only [execFpSelectEnd, h, hb, hi, Bool.false_eq_true, if_false, List.length_nil, if_true]

/-- A select period with sampling edges: too long, of a broken last word, or a frame (R110). -/
theorem exec_fpSelectEnd_sampled (h : (s.fpOf n).sel = some sel) (hb : s.fpBall n = false) (hi : sel.ignore = false)
    (hrx : rx ≠ []) : exec (.fpSelectEnd n rx) s = .next (
      let after := s.fpPeriodOver n sel rx.length
      if 256 * s.fpW n < rx.length then
        (((after true).setFld F.FP_TSTAT_RJCAUSE n 2).raise F.FP_STATUS_REJ n).bump F.FP_RJCNT_RJLONG n
      else if rx.length % s.fpW n ≠ 0 then
        (((after true).setFld F.FP_TSTAT_RJCAUSE n 1).raise F.FP_STATUS_REJ n).bump F.FP_RJCNT_RJPART n
      else (after false).fpDeliver n sel.ms (s.fpItems n (rx.length / s.fpW n) rx)) := by
  have hread := codeRead_fpReplyBits s n sel rx.length
  have tseq := hread.fld (f := F.FP_TSTAT_TSEQ) (by decide) n
  have hlen : rx.length ≠ 0 := fun e => hrx (List.length_eq_zero_iff.1 e)
  change execFpSelectEnd n rx s = _
  simp only [execFpSelectEnd, h, hb, hi, Bool.false_eq_true, if_false, if_neg hlen, State.fpPeriodOver, State.fpReplied]
  generalize s.fpReplyBits n sel rx.length = q at hread tseq ⊢
  have emitted : (q.1.emit (.fpReply n sel.ms q.2)).fld F.FP_TSTAT_TSEQ n = s.fld F.FP_TSTAT_TSEQ n := tseq
  rw [emitted]
  by_cases hlong : 256 * s.fpW n < rx.length
  · simp only [hlong, or_true, decide_true, if_true]
  · by_cases hpart : rx.length % s.fpW n = 0
    · obtain ⟨l, e, r, hq⟩ := hread.eq_mk
      simp only [hlong, hpart, ne_eq, not_true, or_false, decide_false, if_false]
      rw [hq]
      rfl
    · simp only [hlong, hpart, ne_eq, not_false_eq_true, true_or, decide_true, if_true, if_false]

end

/-- Settles O32. A written command is one bit of FP_CMD; the first period's choice is the idle pattern; the words of
the reply that its end reads from the transmit buffer change neither the port's configuration nor the count of frames. -/
theorem fieldPortTargetResults : Obligations.FieldPortTargetResults := by
  refine fun s req n p rx sel hw => ⟨fun hwr => ⟨fun ht => ?_, fun ht => ?_⟩, fun hwr => ?_, exec_fpSelectStart_inactive,
    exec_fpSelectStart_first, exec_fpSelectEnd_active, exec_fpSelectEnd_ignored, fun h hb hi hrx => ?_,
    fun h hb hi hrx => ⟨fpReplyBits_length s n sel _, fun hlong => ?_, fun hle hpart => ?_, fun hle hwhole => ?_⟩⟩
  · rw [exec_fpArm hwr, fpCmd_arm_target ht]
  · rw [exec_fpArm hwr, fpCmd_arm_refused ht]
  · rw [exec_fpDiscard hwr, fpCmd_discard]
  · subst hrx
    exact exec_fpSelectEnd_empty h hb hi
  · rw [exec_fpSelectEnd_sampled h hb hi hrx, if_pos hlong]
    rfl
  · rw [exec_fpSelectEnd_sampled h hb hi hrx, if_neg (Nat.not_lt.2 hle), if_pos hpart]
    rfl
  · rw [exec_fpSelectEnd_sampled h hb hi hrx, if_neg (Nat.not_lt.2 hle), if_neg (not_not.2 hwhole)]
    rfl

end Sys2Proof.Machine
end

section
/-! The family of the two-wire ports: the writes of TW_CMD, a controller's transactions, and the events of the bus (R120-R136). -/

namespace Sys2Proof.Machine

/-! ### Time, records, and the writes of TW_CMD (R62, R140, R142) -/

/-- LT depends on no register but the selection of its domain (R62). -/
theorem lt40_setFld {f : Field} (hf : f.reg ≠ .CT_CTRL) (s : State) (i v : Nat) : (s.setFld f i v).lt40 = s.lt40 := by
  rw [State.lt40, State.tSel, State.flag, fld_setFld_reg (f := F.CT_CTRL_SEL) hf.symm]
  rfl

@[simp] theorem emit_fld (s : State) (o : Out) (f : Field) (i : Nat) : (s.emit o).fld f i = s.fld f i :=
  congrArg f.get (emit_reg s o f.reg i)

@[simp] theorem setTw_fld (s : State) (n : Nat) (u : TwUnit) (f : Field) (i : Nat) : (s.setTw n u).fld f i = s.fld f i :=
  congrArg f.get (setTw_reg s n u f.reg i)

theorem lt40_emit (s : State) (o : Out) : (s.emit o).lt40 = s.lt40 := rfl

section
variable (s : State) (n kind status ms : Nat) (a10 : Bool) (addr : Nat) (data : List Byte)

@[simp] theorem twRecord_twOf (k : Nat) : (s.twRecord n kind status ms a10 addr data).twOf k = s.twOf k := rfl
@[simp] theorem twRecord_fld (f : Field) (i : Nat) : (s.twRecord n kind status ms a10 addr data).fld f i = s.fld f i := rfl
@[simp] theorem twRecord_out : (s.twRecord n kind status ms a10 addr data).out = s.out := rfl

end

theorem regAt_TW_CMD : ∀ n : Fin 8, Reg.offset .TW_CMD n % 4 = 0 ∧ regAt (Reg.offset .TW_CMD n) = some (.TW_CMD, n.val) := by
  decide +kernel

theorem arrive_TW_CMD {s : State} {req : Req} {n : Fin 8} {w : Word} (h : s.writes req .TW_CMD n w = true) :
    s.arrive req .TW_CMD n w = (s.twCmd n w).answered req := by
  obtain ⟨h4, hat⟩ := regAt_TW_CMD n
  exact arrive_performed h rfl h4 hat

section
variable {s : State} {req : Req} {n : Fin 8}

theorem exec_twGo (h : s.writes req .TW_CMD n 1 = true) : exec (.twGo req n) s = .next ((s.twGo n).answered req) :=
  congrArg Host.Outcome.next (arrive_TW_CMD h)

theorem exec_twClear (h : s.writes req .TW_CMD n 2 = true) : exec (.twClear req n) s = .next ((s.twClear n).answered req) :=
  congrArg Host.Outcome.next (arrive_TW_CMD h)

theorem exec_twPrst (h : s.writes req .TW_CMD n 4 = true) : exec (.twPrst req n) s = .next ((s.twPrst n).answered req) :=
  congrArg Host.Outcome.next (arrive_TW_CMD h)

theorem exec_twReq (h : s.writes req .TW_CMD n 8 = true) : exec (.twReq req n) s = .next ((s.twReq n).answered req) :=
  congrArg Host.Outcome.next (arrive_TW_CMD h)

theorem exec_twUnreq (h : s.writes req .TW_CMD n 16 = true) : exec (.twUnreq req n) s = .next ((s.twUnreq n).answered req) :=
  congrArg Host.Outcome.next (arrive_TW_CMD h)

end

/-! ### GO and the start of a transaction (R120, R121, R124, R136) -/

section
variable {s : State} {n : Nat}

theorem twGo_refused (h : s.twEn n = false ∨ s.twCtl n = false ∨ s.twNames n = false) :
    s.twGo n = s.raise F.TW_STATUS_CMDREF n := if_pos (by simpa using h)

theorem twGo_accepted (he : s.twEn n = true) (hc : s.twCtl n = true) (hn : s.twNames n = true) :
    s.twGo n = if s.twStuck n then s.twStuckGo n
      else if (s.twOf n).pend then s.bump F.TW_CNT_CMDLOST n
      else if (s.twOf n).mayStart then s.twStart n
      else s.setTw n { s.twOf n with pend := true } := if_neg (by simp [he, hc, hn])

end

theorem exec_twTransactionStart {s : State} {n : Fin 8} (he : s.twEn n = true) (hs : s.twStuck n = false)
    (hp : (s.twOf n).pend = true) (hm : (s.twOf n).mayStart = true) :
    exec (.twTransactionStart n) s = .next (s.twStart n) := congrArg Host.Outcome.next (if_pos (by simp [he, hs, hp, hm]))

/-! ### The end of a transaction (R122, R123, R135) -/

/-- The unit of a port whose transaction is over; a clear that waited for it runs (R135). -/
def TwUnit.ended (u : TwUnit) : TwUnit := { (if u.clearWait then u.startClear else u) with xact := none }

theorem TwUnit.ended_busy (u : TwUnit) : u.ended.busy = u.busy := by
  unfold TwUnit.ended
  split <;> rfl

theorem TwUnit.ended_free {u : TwUnit} (h : u.free = false) : u.ended.free = false := by
  unfold TwUnit.ended
  split
  · rfl
  · exact h

theorem TwUnit.ended_of_not_waiting {u : TwUnit} (h : u.clearWait = false) : u.ended = { u with xact := none } := by
  simp [TwUnit.ended, h]

/-- The end of a transaction in the registers of its port: the status, the tries and the count of NACKs (R123). -/
def State.twResult (s : State) (n : Nat) (x : TwXact) (status : Nat) : State :=
  let t := (s.setFld F.TW_XSTAT_CODE n status).setFld F.TW_XSTAT_TRIES n (min 15 x.losses)
  if status = 1 ∨ status = 2 then t.bump F.TW_CNT_NACKN n else t

theorem twEnd_eq (s : State) (n : Nat) (x : TwXact) (status : Nat) (data : List Byte) : s.twEnd n x status data =
    ((s.setTw n (s.twOf n).ended).twResult n x status).twRecord n 0 status x.start x.a10 x.addr data := rfl

section
variable {s : State} {n : Nat} {x : TwXact} {status : Nat} {data : List Byte}

theorem twResult_out : (s.twResult n x status).out = s.out := by
  simp only [State.twResult, apply_ite State.out, bump_out, setFld_out, ite_self]

theorem twResult_twOf (k : Nat) : (s.twResult n x status).twOf k = s.twOf k := by
  simp only [State.twResult, apply_ite (State.twOf · k), bump_twOf, setFld_twOf, ite_self]

theorem twEnd_out : (s.twEnd n x status data).out = s.out := twResult_out

section
variable (hw : s.Wf)
include hw

theorem twResult_fld_apart {f : Field} (hc : f.Apart F.TW_XSTAT_CODE) (ht : f.Apart F.TW_XSTAT_TRIES)
    (hn : f.Apart F.TW_CNT_NACKN) (i : Nat) : (s.twResult n x status).fld f i = s.fld f i := by
  have h1 := setFld_wf hw F.TW_XSTAT_CODE n status
  have shown := (fld_setFld_apart h1 ht i n (min 15 x.losses)).trans (fld_setFld_apart hw hc i n status)
  unfold State.twResult
  dsimp only
  split
  · exact (fld_bump_apart (setFld_wf h1 _ _ _) hn i n 1).trans shown
  · exact shown

theorem twResult_code (hs : status ≤ 15) : (s.twResult n x status).fld F.TW_XSTAT_CODE n = status := by
  have h1 := setFld_wf hw F.TW_XSTAT_CODE n status
  have shown := (fld_setFld_apart h1 (f := F.TW_XSTAT_CODE) (g := F.TW_XSTAT_TRIES) (by decide) n n (min 15 x.losses)).trans
    (fld_setFld_self hw (f := F.TW_XSTAT_CODE) ⟨by decide, by decide, hs⟩ n)
  unfold State.twResult
  dsimp only
  split
  · exact (fld_bump_apart (setFld_wf h1 _ _ _) (by decide) n n 1).trans shown
  · exact shown

theorem twResult_nacked (hs : status = 1 ∨ status = 2) : (s.twResult n x status).fld F.TW_CNT_NACKN n =
    min (s.fld F.TW_CNT_NACKN n + 1) (maxOf F.TW_CNT_NACKN.width) := by
  have h1 := setFld_wf hw F.TW_XSTAT_CODE n status
  rw [State.twResult, if_pos hs, fld_bump_self (setFld_wf h1 _ _ _) (by decide),
    fld_setFld_reg (by decide), fld_setFld_reg (by decide)]

theorem twEnd_fld_apart {f : Field} (hc : f.Apart F.TW_XSTAT_CODE) (ht : f.Apart F.TW_XSTAT_TRIES)
    (hn : f.Apart F.TW_CNT_NACKN) (i : Nat) : (s.twEnd n x status data).fld f i = s.fld f i :=
  twResult_fld_apart ((setTw_keeps n _ (Keeps.refl s)).wf hw) hc ht hn i

theorem twEnd_code (hs : status ≤ 15) : (s.twEnd n x status data).fld F.TW_XSTAT_CODE n = status :=
  twResult_code ((setTw_keeps n _ (Keeps.refl s)).wf hw) hs

theorem twEnd_nacked (hs : status = 1 ∨ status = 2) : (s.twEnd n x status data).fld F.TW_CNT_NACKN n =
    min (s.fld F.TW_CNT_NACKN n + 1) (maxOf F.TW_CNT_NACKN.width) :=
  twResult_nacked ((setTw_keeps n _ (Keeps.refl s)).wf hw) hs

theorem twEnd_twOf : (s.twEnd n x status data).twOf n = (s.twOf n).ended := by
  rw [twEnd_eq, twRecord_twOf, twResult_twOf, twOf_setTw_self hw]

end
end

theorem byteKind_eq_one_or_two {x : TwXact} {k : Nat} (h : x.byteKind k ≠ 0) : x.byteKind k = 1 ∨ x.byteKind k = 2 := by
  unfold TwXact.byteKind at h ⊢
  split_ifs at h ⊢ <;> simp at h ⊢

/-- The NACK of byte k is shown in TW_XSTAT, the message goes out, and the bus stops (R120, R123). -/
def State.twNacked (s : State) (n : Nat) (x : TwXact) (k : Nat) : State :=
  (((s.setFld F.TW_XSTAT_BYTEI n k).setFld F.TW_XSTAT_BITI n 8).emit (.twMsg n (x.nacked k))).setTw n
    ((s.twOf n).stopped s.lt40)

section
variable {s : State} {n : Fin 8} {x : TwXact} {k : Fin 67} {rx : List Byte}

theorem twNacked_wf (hw : s.Wf) : (s.twNacked n x k).Wf :=
  (setTw_keeps _ _ (emit_keeps _ (setFld_keeps _ _ _ (setFld_keeps _ _ _ (Keeps.refl s))))).wf hw

theorem twNacked_twOf (hw : s.Wf) : (s.twNacked n x k).twOf n = (s.twOf n).stopped s.lt40 := by
  rw [State.twNacked, twOf_setTw_self ((emit_keeps _ (Keeps.refl _)).wf (setFld_wf (setFld_wf hw _ _ _) _ _ _))]

theorem twNacked_out : (s.twNacked n x k).out = .twMsg n (x.nacked k) :: s.out := by
  rw [State.twNacked, setTw_out, State.emit, setFld_out, setFld_out]

theorem twNacked_bytei (hw : s.Wf) : (s.twNacked n x k).fld F.TW_XSTAT_BYTEI n = k.val := by
  have hk : k.val ≤ maxOf F.TW_XSTAT_BYTEI.width := (Nat.lt_succ_iff.1 k.isLt).trans (by decide)
  rw [State.twNacked, setTw_fld, emit_fld, fld_setFld_apart (setFld_wf hw _ _ _) (by decide),
    fld_setFld_self hw ⟨by decide, by decide, hk⟩]

theorem twNacked_biti (hw : s.Wf) : (s.twNacked n x k).fld F.TW_XSTAT_BITI n = 8 := by
  rw [State.twNacked, setTw_fld, emit_fld, fld_setFld_self (setFld_wf hw _ _ _) (by decide)]

theorem twNacked_nackn : (s.twNacked n x k).fld F.TW_CNT_NACKN n = s.fld F.TW_CNT_NACKN n := by
  rw [State.twNacked, setTw_fld, emit_fld, fld_setFld_reg (by decide), fld_setFld_reg (by decide)]

theorem exec_twTransactionEnd_complete (hx : (s.twOf n).xact = some x) (hwait : x.wait = false) (hs : s.twStuck n = false) :
    exec (.twTransactionEnd n none rx) s =
      let data := (rx ++ List.replicate x.rlen 0).take x.rlen
      .next (((s.emit (.twMsg n (twToks (x.parts data) ++ [.stop]))).setTw n ((s.twOf n).stopped s.lt40)).twEnd n x 0 data) := by
  change execTwTransactionEnd n none rx s = _
  simp only [execTwTransactionEnd, hx, hwait, hs]
  rfl

theorem exec_twTransactionEnd_nack (hx : (s.twOf n).xact = some x) (hwait : x.wait = false) (hs : s.twStuck n = false)
    (hk : x.byteKind k ≠ 0) :
    exec (.twTransactionEnd n (some k) rx) s = .next ((s.twNacked n x k).twEnd n x (x.byteKind k) []) := by
  have hlt : (((s.setFld F.TW_XSTAT_BYTEI n k).setFld F.TW_XSTAT_BITI n 8).emit (.twMsg n (x.nacked k))).lt40 = s.lt40 := by
    rw [lt40_emit, lt40_setFld (by decide), lt40_setFld (by decide)]
  change execTwTransactionEnd n (some k) rx s = _
  simp only [execTwTransactionEnd, hx, hwait, hs, if_neg hk, hlt]
  rfl

end

/-! ### Arbitration (R125, R126) -/

section
variable {s : State} {n : Fin 8} {x : TwXact}

theorem exec_twArbitrationLoss {k : Fin 67} {b : Fin 9} (hx : (s.twOf n).xact = some x) (hwait : x.wait = false)
    (hsend : x.sends k b = some true) : exec (.twArbitrationLoss n k b) s =
      .next (((s.emit (.twMsg n (twToks ((x.parts []).take k)))).setTw n
        { (s.twOf n).lose (s.twTgt n) ((x.head ++ x.again).headD 0) k b with
          xact := some { x with wait := true, losses := x.losses + 1 } }).twLoss n k b) := by
  change execTwArbitrationLoss n k b s = _
  simp only [execTwArbitrationLoss, hx]
  exact if_neg (by simp [hwait, hsend])

theorem exec_twArbitrationRetry (hx : (s.twOf n).xact = some x) (hwait : x.wait = true) (hs : s.twStuck n = false) :
    exec (.twArbitrationRetry n) s =
      if x.losses > x.retry then .next (s.twEnd n x 3 [])
      else if ¬ (s.twOf n).open_ ∨ (s.twOf n).clear then .next s
      else .next (s.setTw n { s.twOf n with
        busy := true, free := false, start := s.twMs n, follows := false, lostAt := none
        xact := some { x with wait := false, start := s.twMs n } }) := by
  change execTwArbitrationRetry n s = _
  simp only [execTwArbitrationRetry, hx]
  exact if_neg (by simp [hwait, hs])

end

/-! ### The bus, in-band requests and low lines (R120, R128-R134) -/

section
variable {s : State} {n : Fin 8}

theorem exec_twBusFree (he : s.twEn n = true) (hb : (s.twOf n).busy = false) (ht : (s.twOf n).talks = false)
    (hq : (s.twOf n).quiet + s.twBuf n ≤ s.lt40) : exec (.twBusFree n) s =
      .next (s.setTw n { s.twOf n with
        free := true, sdaLow := false, sclLow := false
        req := if (s.twOf n).req = .waiting ∧ ¬ s.twStuck n then .holding else (s.twOf n).req }) :=
  if_neg (by simp [he, hb, ht, hq])

theorem exec_message_start (he : s.twEn n = true) (ht : (s.twOf n).talks = false) :
    exec (.messageOfAnotherController n .start) s =
      .next (s.setTw n { s.twOf n with
        busy := true, free := false, start := s.twMs n, follows := true, lostAt := none
        req := if (s.twOf n).req = .holding then .waiting else (s.twOf n).req }) := if_neg (by simp [he, ht])

theorem exec_message_stop (he : s.twEn n = true) (ht : (s.twOf n).talks = false) :
    exec (.messageOfAnotherController n .stop) s =
      .next (if (s.twOf n).busy then s.setTw n ((s.twOf n).stopped s.lt40) else s) := if_neg (by simp [he, ht])

theorem twAnswered_of_answer {a : Nat} (h : s.twAnswer n = some a) (other : Option (Fin 128)) :
    s.twAnswered n (other.map Fin.val) = if other.all (a ≤ ·.val) then .none else .waiting := by
  cases other <;> simp [State.twAnswered, h]

theorem exec_message_roll {a : Nat} {other : Option (Fin 128)} (he : s.twEn n = true) (ht : (s.twOf n).talks = false)
    (hb : (s.twOf n).busy = true) (hf : (s.twOf n).follows = true) (ha : s.twAnswer n = some a) :
    exec (.messageOfAnotherController n (.roll other)) s =
      .next ((s.setTw n { s.twOf n with req := if other.all (a ≤ ·.val) then .none else .waiting }).emit
        (.twMsg n [.byte 0x07 true, .byte (BitVec.ofNat 8 (a * 2)) false])) := by
  rw [← twAnswered_of_answer ha]
  change execMessageOfAnotherController n (.roll other) s = _
  simp only [execMessageOfAnotherController, he, ht, hb, hf, ha]
  rfl

theorem exec_inBandRequest {d : Nat} (he : s.twEn n = true) (hf : (s.twOf n).free = true) (hd : d ≤ 1000) :
    exec (.inBandRequest n d) s =
      if d < 100 then .next (s.bump F.TW_IBR_SPUR n)
      else
        let v := s.bump F.TW_IBR_REQN n
        if v.act F.TW_CFG_IBREN n = 1 ∧ v.twCtl n ∧ ¬ v.twStuck n then
          .next (v.setTw n { (s.twOf n).stopped v.lt40 with rollDue := some ((s.twStamp n - d * twCyc) / 2 ^ 32) })
        else .next v :=
  (if_neg (by simp [he, hf])).trans (if_neg (Nat.not_lt.2 hd))

/-- A request that the port takes makes a roll-call due (R128, R130, R131). -/
theorem exec_inBandRequest_taken {d : Nat} (he : s.twEn n = true) (hf : (s.twOf n).free = true) (hlow : 100 ≤ d)
    (hd : d ≤ 1000) (hi : s.act F.TW_CFG_IBREN n = 1) (hc : s.twCtl n = true) (hs : s.twStuck n = false) :
    exec (.inBandRequest n d) s =
      .next ((s.bump F.TW_IBR_REQN n).setTw n { (s.twOf n).stopped s.lt40 with
        rollDue := some ((s.twStamp n - d * twCyc) / 2 ^ 32) }) := by
  have hstuck : (s.bump F.TW_IBR_REQN n).twStuck n = false :=
    (congrArg (· == 1) (fld_setFld_reg (f := F.TW_STATUS_STUCK) (g := F.TW_IBR_REQN) (by decide) s n n _)).trans hs
  have hlt : (s.bump F.TW_IBR_REQN n).lt40 = s.lt40 := lt40_setFld (by decide) s n _
  rw [exec_inBandRequest he hf hd, if_neg (Nat.not_lt.2 hlow), ← hlt]
  exact if_pos ⟨hi, hc, by simp [hstuck]⟩

theorem exec_twHang (he : s.twEn n = true) (hf : (s.twOf n).free = true) : exec (.twHang n) s =
    .next ((((s.setTw n { s.twOf n with sdaLow := true }).raise F.TW_STATUS_HANG n).bump F.TW_IBR_HANGN n).twBusEvent n 0) :=
  if_neg (by simp [he, hf])

/-- The time-out of SDA is flagged, and delivered as a record (R134, R140). -/
def State.twSdaTimeout (s : State) (n : Nat) : State :=
  ((s.setTw n { s.twOf n with sdaLow := true }).raise F.TW_STATUS_SDALTO n).twBusEvent n 2

theorem twSdaTimeout_twOf (hw : s.Wf) : (s.twSdaTimeout n).twOf n = { s.twOf n with sdaLow := true } := by
  rw [State.twSdaTimeout, State.twBusEvent, twRecord_twOf, raise_twOf, twOf_setTw_self hw]

theorem twSdaTimeout_twStuck (hw : s.Wf) : (s.twSdaTimeout n).twStuck n = s.twStuck n := by
  rw [State.twStuck, State.flag, State.twSdaTimeout, State.twBusEvent, twRecord_fld,
    fld_raise_apart ((setTw_keeps _ _ (Keeps.refl s)).wf hw) (by decide), setTw_fld]
  rfl

theorem exec_sdaLowTimeout (hw : s.Wf) (he : s.twEn n = true) (hb : (s.twOf n).busy = false) (ht : (s.twOf n).talks = false) :
    exec (.sdaLowTimeout n) s =
      if s.actB F.TW_TO_AUTOCLR n ∧ s.twCtl n ∧ ¬ s.twStuck n then
        .next ((s.twSdaTimeout n).setTw n ({ s.twOf n with sdaLow := true } : TwUnit).startClear)
      else .next (s.twSdaTimeout n) := by
  rw [← twSdaTimeout_twStuck hw, ← twSdaTimeout_twOf hw]
  exact if_neg (by simp [he, hb, ht])

theorem exec_sclLowTimeout_idle (hw : s.Wf) (he : s.twEn n = true) (hx : (s.twOf n).xact = none) :
    exec (.sclLowTimeout n) s =
      .next (((s.setTw n { s.twOf n with sclLow := true, free := false, roll := none }).raise F.TW_STATUS_SCLLTO n).twBusEvent
        n 1) := by
  have idle : ((((s.setTw n { s.twOf n with sclLow := true, free := false, roll := none }).raise
      F.TW_STATUS_SCLLTO n).twBusEvent n 1).twOf n).xact = none := by
    rw [State.twBusEvent, twRecord_twOf, raise_twOf, twOf_setTw_self hw, hx]
  change execSclLowTimeout n s = _
  simp only [execSclLowTimeout, he, idle]
  rfl

end

/-- Settles O33. The guards of each command are those of its clause; the end of a transaction changes of the port's fields
its status, tries and count of NACKs alone, a request's count leaves LT, and a flagged time-out the unit. -/
theorem twoWireBusResults : Obligations.TwoWireBusResults := by
  refine ⟨fun s req n rx k b x hw => ⟨fun hwr => ⟨fun href => ?_, fun he hc hn => ⟨fun hs => ?_, fun hs =>
      ⟨fun hp => ?_, fun hp hm => ?_, fun hp hm => ?_⟩⟩⟩, exec_twTransactionStart, fun hx hwait hs =>
      ⟨exec_twTransactionEnd_complete hx hwait hs, fun hk => ?_, exec_twArbitrationLoss hx hwait⟩, fun hx hwait hs =>
      ⟨fun hused => ?_, fun hleft hopen hclear => ?_⟩⟩,
    fun s n d other a hw he => ⟨fun hb ht hq => ?_, fun ht hreq => ?_, fun ht hreq => ?_, exec_message_roll he,
      fun ht hb => ?_, fun hf => ⟨fun hd => ?_, fun hlow hd => exec_inBandRequest_taken he hf hlow hd, exec_twHang he hf⟩,
      fun hb ht => ⟨fun hauto => ?_, fun hauto hc hs => ?_⟩, exec_sclLowTimeout_idle hw he⟩⟩
  · rw [exec_twGo hwr, twGo_refused href]
  · rw [exec_twGo hwr, twGo_accepted he hc hn, if_pos hs]
  · rw [exec_twGo hwr, twGo_accepted he hc hn, if_neg (by simp [hs]), if_pos hp]
  · rw [exec_twGo hwr, twGo_accepted he hc hn, if_neg (by simp [hs]), if_neg (by simp [hp]), if_pos hm]
    rfl
  · rw [exec_twGo hwr, twGo_accepted he hc hn, if_neg (by simp [hs]), if_neg (by simp [hp]), if_neg (by simp [hm])]
  · have hkind := byteKind_eq_one_or_two hk
    have hv : (s.twNacked n x k).Wf := twNacked_wf hw
    refine ⟨_, exec_twTransactionEnd_nack hx hwait hs hk, ?_⟩
    rw [twEnd_twOf hv, twNacked_twOf hw, twEnd_out, twNacked_out, twEnd_code hv (by omega),
      twEnd_fld_apart hv (by decide) (by decide) (by decide), twNacked_bytei hw,
      twEnd_fld_apart hv (by decide) (by decide) (by decide), twNacked_biti hw, twEnd_nacked hv hkind, twNacked_nackn]
    exact ⟨rfl, TwUnit.ended_busy _, TwUnit.ended_free rfl, rfl, rfl, rfl, rfl, rfl⟩
  · rw [exec_twArbitrationRetry hx hwait hs, if_pos hused]
  · rw [exec_twArbitrationRetry hx hwait hs, if_neg (Nat.not_lt.2 hleft), if_neg (by simp [hopen, hclear])]
  · rw [exec_twBusFree he hb ht hq]
    simp
  · rw [exec_message_start he ht, if_neg hreq]
  · rw [exec_message_start he ht, if_pos hreq]
  · rw [exec_message_stop he ht, if_pos hb]
    rfl
  · rw [exec_inBandRequest he hf (by omega), if_pos hd]
  · rw [exec_sdaLowTimeout hw he hb ht, if_neg (by simp [hauto])]
    rfl
  · rw [exec_sdaLowTimeout hw he hb ht, if_pos (by simp [hauto, hc, hs])]
    rfl

end Sys2Proof.Machine
end

section
/-! The recovery of the two-wire ports: roll-calls, the port's own requests, bus clears, PRST and the target role (R130-R140). -/

namespace Sys2Proof.Machine

/-! ### Roll-calls and the port's own requests (R130, R132, R133) -/

section
variable {s : State} {n : Fin 8} {ms : Nat}

theorem exec_rollCall (he : s.twEn n = true) (hd : (s.twOf n).rollDue = some ms) (ho : (s.twOf n).open_ = true)
    (ht : (s.twOf n).talks = false) (hs : s.twStuck n = false) : exec (.rollCall n) s =
      .next (s.setTw n { s.twOf n with
        rollDue := none, roll := some ms, busy := true, free := false, start := s.twMs n, follows := false, lostAt := none }) := by
  rw [← hd]
  exact congrArg Host.Outcome.next (if_pos (by simp [he, hd, ho, ht, hs]))

/-- The roll-call of the port is over, and its own request with it or not (R130, R133). -/
def State.twRolled (s : State) (n : Nat) (other : Option Nat) : State :=
  s.setTw n { (s.twOf n).stopped s.lt40 with roll := none, req := s.twAnswered n other }

theorem exec_rollCallEnd_answered {w : Option (Fin 128)} {a : Nat} (hr : (s.twOf n).roll = some ms)
    (ha : lowestAns (s.twAnswer n) (w.map Fin.val) = some a) : exec (.rollCallEnd n w) s =
      .next (((s.twRolled n (w.map Fin.val)).emit (.twMsg n (rollToks (some a)))).twRecord n 3 0 ms false a []) := by
  change execRollCallEnd n w s = _
  simp only [execRollCallEnd, hr, ha]
  rfl

theorem exec_rollCallEnd_unanswered {w : Option (Fin 128)} (hr : (s.twOf n).roll = some ms)
    (ha : lowestAns (s.twAnswer n) (w.map Fin.val) = none) : exec (.rollCallEnd n w) s =
      .next ((((s.twRolled n (w.map Fin.val)).emit (.twMsg n (rollToks none))).bump F.TW_IBR_NOANS n).twRecord
        n 4 0 ms false 0 []) := by
  change execRollCallEnd n w s = _
  simp only [execRollCallEnd, hr, ha]
  rfl

theorem twReq_refused (h : s.twTgt n = false) : s.twReq n = s.raise F.TW_STATUS_CMDREF n := if_pos (by simp [h])

theorem twReq_raised (ht : s.twTgt n = true) (he : s.twEn n = true) : s.twReq n = s.setTw n { s.twOf n with
    req := if (s.twOf n).free ∧ ¬ (s.twOf n).sdaLow ∧ ¬ s.twStuck n then .holding else .waiting } :=
  (if_neg (by simp [ht])).trans (if_neg (by simp [he]))

theorem exec_twRequestRelease (h : (s.twOf n).req = .holding) :
    exec (.twRequestRelease n) s = .next (s.setTw n { s.twOf n with req := .released }) :=
  congrArg Host.Outcome.next (if_pos h)

end

/-! ### Bus clears and the power pulse (R135, R136) -/

section
variable {s : State} {n : Fin 8}

theorem twClear_refused (h : s.twCtl n = false) : s.twClear n = s.raise F.TW_STATUS_CMDREF n := if_pos (by simp [h])

theorem twClear_accepted (hc : s.twCtl n = true) (he : s.twEn n = true) (hs : s.twStuck n = false) : s.twClear n =
    if (s.twOf n).xact.isSome then s.setTw n { s.twOf n with clearWait := true } else s.setTw n (s.twOf n).startClear :=
  (if_neg (by simp [hc])).trans (if_neg (by simp [he, hs]))

theorem exec_busClearEnd_cleared (h : (s.twOf n).clear = true) : exec (.busClearEnd n true) s =
    .next ((((s.setTw n { (s.twOf n).stopped s.lt40 with clear := false, sdaLow := false }).emit (.twMsg n [.stop])).raise
      F.TW_STATUS_CLRD n).twBusEvent n 3) := if_neg (by simp [h])

/-- The port may pulse its power pin: AUTOPWR is set, a pin is named, and no further clear has run (R136). -/
def State.twMayPulse (s : State) (n : Nat) : Bool :=
  s.actB F.TW_CLR_AUTOPWR n && (s.twPwrPin n).isSome && !(s.twOf n).further

/-- The unit of a port after a bus clear that has left SDA low (R136). -/
def State.twFailedUnit (s : State) (n : Nat) : TwUnit :=
  { s.twOf n with clear := false, sdaLow := true, pend := false, rollDue := none, pwr := if s.twMayPulse n then .pulse else .off }

/-- A bus clear has left SDA low: the port is STUCK (R136). -/
def State.twFailed (s : State) (n : Nat) : State :=
  ((s.setTw n (s.twFailedUnit n)).raise F.TW_STATUS_STUCK n).twBusEvent n 4

theorem exec_busClearEnd_failed (h : (s.twOf n).clear = true) (hp : (s.twOf n).pend = false) :
    exec (.busClearEnd n false) s = .next (match (s.twOf n).xact with
      | some x => (s.twFailed n).twEnd n x 5 []
      | none => s.twFailed n) := by
  change execBusClearEnd n false s = _
  simp only [execBusClearEnd, h, hp]
  rfl

theorem twFailed_wf (hw : s.Wf) : (s.twFailed n).Wf :=
  (twBusEvent_keeps _ _ (raise_keeps _ _ (setTw_keeps _ _ (Keeps.refl s)))).wf hw

theorem twFailed_twOf (hw : s.Wf) : (s.twFailed n).twOf n = s.twFailedUnit n := by
  rw [State.twFailed, State.twBusEvent, twRecord_twOf, raise_twOf, twOf_setTw_self hw]

theorem twFailed_stuck (hw : s.Wf) : (s.twFailed n).fld F.TW_STATUS_STUCK n = 1 := by
  rw [State.twFailed, State.twBusEvent, twRecord_fld, State.raise,
    fld_setFld_self ((setTw_keeps _ _ (Keeps.refl s)).wf hw) (by decide)]

theorem exec_powerPulseEnd (h : (s.twOf n).pwr = .pulse) :
    exec (.powerPulseEnd n) s = .next (s.setTw n { s.twOf n with pwr := .wait }) := congrArg Host.Outcome.next (if_pos h)

theorem exec_powerWaitEnd (h : (s.twOf n).pwr = .wait) :
    exec (.powerWaitEnd n) s = .next (s.setTw n { s.twOf n with pwr := .off, further := true, clear := true }) :=
  congrArg Host.Outcome.next (if_pos h)

/-- A bus clear that fails leaves the port STUCK with SDA low, whether or not a transaction ends with it (R136). -/
theorem exec_busClearEnd_stuck (hw : s.Wf) (h : (s.twOf n).clear = true) (hp : (s.twOf n).pend = false)
    (hq : (s.twOf n).clearWait = false) : ∃ t, exec (.busClearEnd n false) s = .next t ∧
      t.flag F.TW_STATUS_STUCK n = true ∧ t.twOf n = { s.twFailedUnit n with xact := none } := by
  refine ⟨_, exec_busClearEnd_failed h hp, ?_⟩
  have hstuck := twFailed_stuck (n := n) hw
  have hunit := twFailed_twOf (n := n) hw
  cases hx : (s.twOf n).xact with
  | none =>
    refine ⟨congrArg (· == 1) hstuck, hunit.trans ?_⟩
    rw [← hx]
    rfl
  | some x =>
    have hv := twFailed_wf (n := n) hw
    refine ⟨congrArg (· == 1) ((twEnd_fld_apart hv (by decide) (by decide) (by decide) n).trans hstuck), ?_⟩
    rw [twEnd_twOf hv, hunit]
    exact TwUnit.ended_of_not_waiting (u := s.twFailedUnit n) hq

end

/-! ### PRST (R137, R138) -/

theorem twStop_idle {s : State} {n : Nat} (h : (s.twOf n).xact = none) :
    s.twStop n = (s.setTw n {}).setFld F.TW_STATUS_STUCK n 0 := by
  rw [State.twStop, h]

/-- The line check of a port that starts afresh: a bus clear where SDA alone is low (R138). -/
theorem twEnable_fresh {s : State} {n : Nat} (h : s.twOf n = {}) : s.twEnable n =
    let f := s.fresh.2
    let low := f.getLsbD 0 && !f.getLsbD 1 && s.twCtl n
    s.fresh.1.setTw n { sdaLow := f.getLsbD 0, sclLow := f.getLsbD 1, quiet := s.lt40, clear := low } := by
  have hunit : s.fresh.1.twOf n = {} := h
  have hctl : s.fresh.1.twCtl n = s.twCtl n := rfl
  have hlt : s.fresh.1.lt40 = s.lt40 := rfl
  have hlow : (s.fresh.2.getLsbD 0 = true ∧ ¬ s.fresh.2.getLsbD 1 = true ∧ s.twCtl n = true) ↔
      (s.fresh.2.getLsbD 0 && !s.fresh.2.getLsbD 1 && s.twCtl n) = true := by simp [and_assoc]
  simp only [State.twEnable, hunit, hctl, hlt, hlow]
  cases s.fresh.2.getLsbD 0 && !s.fresh.2.getLsbD 1 && s.twCtl n <;> rfl

theorem twPrst_idle {s : State} {n : Nat} (hw : s.Wf) (he : s.twEn n = true) (hx : (s.twOf n).xact = none) :
    let v := (s.setTw n {}).setFld F.TW_STATUS_STUCK n 0
    let low := v.fresh.2.getLsbD 0 && !v.fresh.2.getLsbD 1 && s.twCtl n
    s.twPrst n = v.fresh.1.setTw n
      { sdaLow := v.fresh.2.getLsbD 0, sclLow := v.fresh.2.getLsbD 1, quiet := s.lt40, clear := low } := by
  have hunit : ((s.setTw n {}).setFld F.TW_STATUS_STUCK n 0).twOf n = {} := by rw [setFld_twOf, twOf_setTw_self hw]
  have hlt : ((s.setTw n {}).setFld F.TW_STATUS_STUCK n 0).lt40 = s.lt40 := lt40_setFld (by decide) _ n 0
  rw [State.twPrst, if_pos he, twStop_idle hx, twEnable_fresh hunit, hlt]
  rfl

/-! ### The target role (R127, R139) -/

/-- The armed reply of the port, read for a message of k bytes. -/
def State.twReply (s : State) (n k : Nat) : State × List Byte :=
  s.twBytes .TW_TGTBUF n (if s.flag F.TW_TGT_ARM n then min k (s.fld F.TW_TGT_TLEN n) else 0)

/-- The k bytes that a read receives: the armed reply, and then 0xFF. -/
def State.twReadData (s : State) (n k : Nat) : List Byte := ((s.twReply n k).2 ++ List.replicate k 0xFF).take k

/-- The START and the address bytes of a read at the port's own address (R121). -/
def State.twReadHead (s : State) (n : Nat) : List TwTok :=
  let a10 := s.actB F.TW_CFG_OWN10 n
  let own := s.act F.TW_CFG_OWNADDR n
  .start :: (if a10 then (twAddr true own false).map (.byte · true) ++ [.start] else []) ++
    ((twAddr a10 own true).take 1).map (.byte · true)

/-- The message of a read of k bytes at the port's own address. -/
def State.twReadToks (s : State) (n k : Nat) : List TwTok :=
  let sent := s.twReadData n k
  s.twReadHead n ++ sent.zipIdx.map (fun e => .byte e.1 (e.2 + 1 != sent.length)) ++ [.stop]

/-- The port has served a read: the bus stops, the message is over, and no reply is armed. -/
def State.twRead (s : State) (n k : Nat) : State :=
  let v := (s.twReply n k).1
  ((v.setTw n ((v.twOf n).stopped v.lt40)).emit (.twMsg n (s.twReadToks n k))).setFld F.TW_TGT_ARM n 0

section
variable {s : State} {n : Fin 8}

theorem exec_twTargetWrite {data : List Byte} (h : s.twServes n false = true) : exec (.twTargetWrite n data) s =
    let a10 := s.actB F.TW_CFG_OWN10 n
    let own := s.act F.TW_CFG_OWNADDR n
    .next (((s.setTw n ((s.twOf n).stopped s.lt40)).emit (.twMsg n (.start :: (twAddr a10 own false).map (.byte · true) ++
      (data.take 33).zipIdx.map (fun e => .byte e.1 (decide (e.2 < 32))) ++ [.stop]))).twRecord n 1
        (if 32 < data.length then 2 else 0) (s.twMsgStart n) a10 own (data.take 32)) := if_neg (by simp [h])

theorem exec_twTargetRead {k : Fin 256} (h : s.twServes n true = true) : exec (.twTargetRead n k) s =
    .next ((if s.flag F.TW_TGT_ARM n then s.twRead n k else (s.twRead n k).bump F.TW_CNT_NOREPLY n).twRecord n 2 0
      (s.twMsgStart n) (s.actB F.TW_CFG_OWN10 n) (s.act F.TW_CFG_OWNADDR n) (s.twReadData n k)) := if_neg (by simp [h])

end

/-- Settles O34. A bus clear that fails ends in one state of the port, with a transaction or without; PRST checks the lines
of a port that has forgotten everything; the rest follows its guards. -/
theorem twoWireRecoveryResults : Obligations.TwoWireRecoveryResults := by
  refine ⟨fun s req n w a ms hw => ⟨exec_rollCall, fun hr => ⟨fun ha => ?_, fun ha => ?_⟩, fun hwr => ⟨fun ht => ?_, fun ht he => ?_⟩,
      exec_twRequestRelease, fun hwr => exec_twUnreq hwr, fun hwr => ⟨fun hc => ?_, fun hc he hs => ⟨fun hx => ?_, fun hx => ?_⟩⟩,
      fun hclear => ⟨exec_busClearEnd_cleared hclear, fun hp hq => ?_⟩, exec_powerPulseEnd, exec_powerWaitEnd,
      fun hwr he hx => ?_⟩, fun s n data k hw => ⟨exec_twTargetWrite, fun hserves => ?_⟩⟩
  · exact exec_rollCallEnd_answered hr ha
  · exact exec_rollCallEnd_unanswered hr ha
  · rw [exec_twReq hwr, twReq_refused ht]
  · rw [exec_twReq hwr, twReq_raised ht he]
    simp
  · rw [exec_twClear hwr, twClear_refused hc]
  · rw [exec_twClear hwr, twClear_accepted hc he hs, if_pos hx]
  · rw [exec_twClear hwr, twClear_accepted hc he hs, if_neg (by simp [hx])]
    rfl
  · obtain ⟨t, hexec, hstuck, hunit⟩ := exec_busClearEnd_stuck hw hclear hp hq
    refine ⟨t, hexec, hstuck, ?_⟩
    rw [hunit]
    refine ⟨rfl, rfl, ?_⟩
    simp [State.twFailedUnit, State.twMayPulse, and_assoc]
  · rw [exec_twPrst hwr, twPrst_idle hw he hx]
    rfl
  · refine ⟨s.twReadToks n k, fun harm => ?_, fun harm => ?_, s.twReadHead n, rfl⟩
    · rw [exec_twTargetRead hserves, if_pos harm]
      rfl
    · rw [exec_twTargetRead hserves, if_neg (by simp [harm])]
      rfl

end Sys2Proof.Machine
end

section
/-! The course of a head link: what fills its transmit buffer, moves its tables and loads on or delivers what it has received
leaves that course alone (R150-R173), and a head link does not bear on time (R63). -/

namespace Sys2Proof.Machine

/-! ### What leaves the course of a head link alone (R150-R173) -/

/-- The registers that table loads and commits, management payloads and the transmit buffer may change. -/
def hlSideRegs : List Reg :=
  [.HL_TBLSTAT, .HL_TBL, .HL_SNR, .HL_ERR2, .MP_ECC_CNT, .MP_ECC_STAT, .MP_ECC_LASTADDR, .MP_ECC_INJ]

/-- The fields of HL_STATUS and HL_ERR that a received burst may change besides. -/
def hlSideFlds : List Field := [F.HL_STATUS_TBLMIS, F.HL_ERR_CWFAIL, F.HL_ERR_TBLMISN]

/-- A field that none of them changes. -/
abbrev Field.HlSteady (f : Field) : Prop := f.reg ∉ hlSideRegs ∧ ∀ g ∈ hlSideFlds, f.Apart g

/-- A head link without its buffer, its tables, its loads and what it has yet to report. -/
def HlUnit.core (u : HlUnit) : HlUnit :=
  { u with evs := [], txq := [], gen := [], committed := [], load := none, loadQ := [], loadNum := 0, pendTab := []
           commits := [], acks := [], stale := none }

/-- From s to s', the course of link n goes on: only its buffer, tables, loads and reports have changed, with the registers
and counters that go with them, and nothing has been sent. -/
structure HlQuiet (n : Nat) (s s' : State) : Prop where
  wf : s.Wf → s'.Wf
  out : s'.out = s.out
  unit : s.Wf → (s'.hlOf n).core = (s.hlOf n).core
  fld : s.Wf → ∀ f : Field, f.HlSteady → ∀ i, s'.fld f i = s.fld f i

section
variable {n : Nat} {s v : State}

theorem HlQuiet.refl (n : Nat) (s : State) : HlQuiet n s s := ⟨id, rfl, fun _ => rfl, fun _ _ _ _ => rfl⟩

theorem HlQuiet.trans {a b c : State} (h : HlQuiet n a b) (g : HlQuiet n b c) : HlQuiet n a c where
  wf hw := g.wf (h.wf hw)
  out := g.out.trans h.out
  unit hw := (g.unit (h.wf hw)).trans (h.unit hw)
  fld hw f hf i := (g.fld (h.wf hw) f hf i).trans (h.fld hw f hf i)

theorem HlQuiet.ite {a b : State} {c : Prop} [Decidable c] (ha : HlQuiet n s a) (hb : HlQuiet n s b) :
    HlQuiet n s (if c then a else b) := by
  split
  · exact ha
  · exact hb

theorem HlQuiet.foldl {β : Type} {f : State → β → State} (h : HlQuiet n s v)
    (hf : ∀ v b, HlQuiet n s v → HlQuiet n s (f v b)) (l : List β) : HlQuiet n s (l.foldl f v) := by
  induction l generalizing v with
  | nil => exact h
  | cons b l ih => exact ih (hf v b h)

/-- What depends on the link's course alone is unchanged. -/
theorem HlQuiet.unit_apart {β : Type} (h : HlQuiet n s v) (hw : s.Wf) (g : HlUnit → β) (hg : ∀ u : HlUnit, g u.core = g u) :
    g (v.hlOf n) = g (s.hlOf n) := by
  rw [← hg, h.unit hw, hg]

/-- An update of side registers that leaves the head links alone. -/
theorem hlQuiet_of_regs (hwf : s.Wf → v.Wf) (hout : v.out = s.out) (hhl : v.hl = s.hl)
    (hreg : ∀ r i, r ∉ hlSideRegs → v.reg r i = s.reg r i) : HlQuiet n s v where
  wf := hwf
  out := hout
  unit _ := by rw [State.hlOf, State.hlOf, hhl]
  fld _ f hf i := congrArg f.get (hreg f.reg i hf.1)

/-- A write of a side register leaves the course alone. -/
theorem HlQuiet.setReg (h : HlQuiet n s v) {r : Reg} (i : Nat) (w : Word) (hr : r ∈ hlSideRegs := by decide) :
    HlQuiet n s (v.setReg r i w) :=
  h.trans (hlQuiet_of_regs (fun hw => setReg_wf hw r i w) rfl rfl fun q j hq =>
    reg_setReg_ne v (fun e : q = r => hq (e ▸ hr)) i j w)

theorem HlQuiet.setFld (h : HlQuiet n s v) {f : Field} (i x : Nat) (hf : f.reg ∈ hlSideRegs := by decide) :
    HlQuiet n s (v.setFld f i x) := h.setReg i _ hf

theorem HlQuiet.setSideFld (h : HlQuiet n s v) {f : Field} (i x : Nat) (hf : f ∈ hlSideFlds := by decide) :
    HlQuiet n s (v.setFld f i x) where
  wf hw := setFld_wf (h.wf hw) f i x
  out := h.out
  unit := h.unit
  fld hw g hg j := (fld_setFld_apart (h.wf hw) (hg.2 f hf) j i x).trans (h.fld hw g hg j)

/-- The unit is replaced by one of the course that the start has. -/
theorem HlQuiet.putHl {x : HlUnit} (h : HlQuiet n s v) (hx : x.core = (s.hlOf n).core := by rfl) :
    HlQuiet n s (v.setHl n x) where
  wf hw := (setHl_keeps n x (Keeps.refl v)).wf (h.wf hw)
  out := h.out
  unit hw := by rw [hlOf_setHl_self (h.wf hw), hx]
  fld := h.fld

/-- The unit is replaced by one of the course that it has now. -/
theorem HlQuiet.setHl {x : HlUnit} (h : HlQuiet n s v) (hx : x.core = (v.hlOf n).core := by rfl) :
    HlQuiet n s (v.setHl n x) := h.trans ((HlQuiet.refl n v).putHl hx)

theorem HlQuiet.present (h : HlQuiet n s v) (p : Packet) : HlQuiet n s (v.present p) :=
  h.trans (hlQuiet_of_regs (present_keeps p (Keeps.refl v)).wf rfl rfl fun _ _ _ => rfl)

theorem HlQuiet.hlEvent (h : HlQuiet n s v) (m kind low : Nat) : HlQuiet n s (v.hlEvent m kind low) := .ite h (.present h _)

/-! ### The transmit buffer and the loads (R161, R171, R172, R394, R395) -/

theorem CodeRead.hlQuiet (h : CodeRead s v) (hwf : s.Wf → v.Wf) : HlQuiet n s v :=
  hlQuiet_of_regs hwf (h.apart State.out fun _ _ _ _ => rfl) (h.apart State.hl fun _ _ _ _ => rfl) fun r i hr =>
    h.reg r i fun he => hr ((by decide : ∀ q ∈ eccRegs, q ∈ hlSideRegs) r he)

theorem HlQuiet.inject (h : HlQuiet n s v) (rg : Nat) : HlQuiet n s (v.inject rg).1 := by
  unfold State.inject
  split
  · exact .setFld h 0 0
  · exact h

theorem HlQuiet.eccWrite (h : HlQuiet n s v) (rg w : Nat) : HlQuiet n s (v.eccWrite rg w true).1 := by
  have queued : HlQuiet n v { v with scrubQ := v.scrubQ.filter (· ≠ eccKey rg w) } :=
    hlQuiet_of_regs (fun hw => { hw with }) rfl rfl fun _ _ _ => rfl
  exact ((h.trans queued).inject rg).trans
    (hlQuiet_of_regs (setEcc_keeps rg w _ (Keeps.refl _)).wf rfl rfl fun _ _ _ => rfl)

theorem HlQuiet.hlPut (h : HlQuiet n s v) (g : HlSeg) : HlQuiet n s (v.hlPut n g) :=
  h.trans (.putHl (.foldl (.refl n v) (fun _ c hu => hu.eccWrite rgHead c) _))

theorem HlQuiet.hlMgmt (h : HlQuiet n s v) (words : List Word) : HlQuiet n s (v.hlMgmt n words) := h.hlPut _

theorem hlFetch_codeRead (s : State) (g : HlSeg) : CodeRead s (s.hlFetch g).1 := by
  unfold State.hlFetch
  generalize g.cells.zipIdx = l
  induction l generalizing s g with
  | nil => exact .refl s
  | cons c l ih =>
    have hread := codeRead_eccRead s rgHead c.1
    rw [List.foldl_cons]
    split
    next he => rw [he] at hread; exact hread.trans (ih _ _)
    next he => rw [he] at hread; exact hread.trans (ih _ _)

theorem HlQuiet.hlFetch (h : HlQuiet n s v) (g : HlSeg) : HlQuiet n s (v.hlFetch g).1 :=
  h.trans ((hlFetch_codeRead v g).hlQuiet (hlFetch_keeps g (Keeps.refl v)).wf)

theorem HlQuiet.hlFetchAll (h : HlQuiet n s v) (wait l : List HlSeg) : HlQuiet n s (v.hlFetchAll wait l).1 := by
  have folded (a : State × List HlSeg) (ha : HlQuiet n s a.1) : HlQuiet n s (l.foldl (fun a g =>
      if wait.contains g then (a.1, a.2 ++ [g]) else ((a.1.hlFetch g).1, a.2 ++ [(a.1.hlFetch g).2])) a).1 := by
    induction l generalizing a with
    | nil => exact ha
    | cons g l ih =>
      refine ih _ ?_
      dsimp only
      split
      · exact ha
      · exact ha.hlFetch g
  exact folded (v, []) h

/-- What leaves is one burst; what led to it changes the buffer alone. -/
theorem hlSend_eq_emit (n : Nat) (s : State) (up : Bool) (start cut : Int) (nsym : Nat) (probe : Bool) (codes : List Nat)
    (seed : Nat) (header : List Nat) : ∃ v bytes syms, HlQuiet n s v ∧
      s.hlSend n up start cut nsym probe codes seed header = v.emit (.hlBurst n up start bytes syms) := by
  refine ⟨_, _, _, ?_, rfl⟩
  exact .putHl (.hlFetchAll (.refl n s) _ _)

theorem HlQuiet.hlStartLoad (h : HlQuiet n s v) (up : Bool) (t : Nat) (codes : List Word) :
    HlQuiet n s (v.hlStartLoad n up t codes) := .setFld (.setHl h) n 1

theorem HlQuiet.hlReload (h : HlQuiet n s v) (up : Bool) (t : Nat) : HlQuiet n s (v.hlReload n up t) := .ite h (.setHl h)

theorem HlQuiet.hlLoadFail (h : HlQuiet n s v) (l : HlLoad) : HlQuiet n s (v.hlLoadFail n l) :=
  .hlEvent (.setFld (.setHl h) n 3) n 4 _

theorem HlQuiet.hlRetry (h : HlQuiet n s v) : HlQuiet n s (v.hlRetry n) := by
  unfold State.hlRetry
  dsimp only
  split
  · exact .ite h (.ite (.setHl h) (.hlLoadFail h _))
  · exact h

theorem HlQuiet.setHlTable (h : HlQuiet n s v) (up : Bool) (t : Nat) (ws : List Word) : HlQuiet n s (v.setHlTable n up t ws) :=
  .foldl h (fun _ _ hu => .setReg hu _ _) _

theorem HlQuiet.hlReplace (h : HlQuiet n s v) (up : Bool) (t : Nat) (ws : List Word) : HlQuiet n s (v.hlReplace n up t ws) :=
  .setHl (.setHlTable h up t ws)

theorem HlQuiet.hlHubCommit (h : HlQuiet n s v) : HlQuiet n s (v.hlHubCommit n) := by
  unfold State.hlHubCommit
  dsimp only
  split
  · split
    · exact .ite h (.setFld (.setFld (.setHl (.hlReplace h _ _ _)) n 0) n _)
    · exact h
  · exact h

theorem HlQuiet.hlNodeCommit (h : HlQuiet n s v) (sfn : Nat) : HlQuiet n s (v.hlNodeCommit n sfn) := by
  refine .foldl (.setHl h) (fun v c hv => ?_) _
  split
  · exact .setFld (.setHl (.hlReplace hv _ _ _)) n _
  · exact hv

theorem HlQuiet.hlNextLoad (h : HlQuiet n s v) : HlQuiet n s (v.hlNextLoad n) := by
  unfold State.hlNextLoad
  dsimp only
  split
  · exact .hlStartLoad (.setHl h) _ _ _
  · exact h

theorem HlQuiet.hlQueueLoad (h : HlQuiet n s v) : HlQuiet n s (v.hlQueueLoad n) := by
  unfold State.hlQueueLoad
  dsimp only
  split
  · exact .ite (.hlMgmt (.setHl h) _) h
  · exact h

theorem HlQuiet.hlReport (h : HlQuiet n s v) : HlQuiet n s (v.hlReport n) :=
  .foldl (.setHl h) (fun _ e hu => hu.hlEvent n e.1 e.2) _

/-! ### Deliveries (R160, R162, R169-R172) -/

theorem HlQuiet.hlMismatch (h : HlQuiet n s v) : HlQuiet n s (v.hlMismatch n) :=
  .setSideFld (.setSideFld h n 1) n _

theorem HlQuiet.hlSnr (h : HlQuiet n s v) (d sec : Nat) (vals : List Byte) : HlQuiet n s (v.hlSnr n d sec vals) :=
  .foldl h (fun _ _ hu => .setReg hu _ _) _

theorem HlQuiet.mgmtUnknown (h : HlQuiet n s v) : HlQuiet n s (v.bump F.HL_ERR2_MGMTUNK n) := .setFld h n _

theorem HlQuiet.hlMgmtRx (h : HlQuiet n s v) (sfn : Nat) (ws : List Word) : HlQuiet n s (v.hlMgmtRx n sfn ws) := by
  unfold State.hlMgmtRx
  dsimp only
  split
  · exact .ite h.mgmtUnknown (.setHl h)
  · refine .ite h.mgmtUnknown ?_
    split
    · exact .ite (.setFld (.setHl h) n 2) h
    · exact h
  · exact .ite h.mgmtUnknown (.foldl h (fun _ _ hu => .setReg hu _ _) _)
  · exact h.mgmtUnknown

theorem HlQuiet.hlDeliver (h : HlQuiet n s v) (sfn : Nat) (cws : List HlCw) : HlQuiet n s (v.hlDeliver n sfn cws) := by
  refine .foldl h (fun v ci hv => ?_) _
  split
  · exact .setSideFld hv n _
  next bytes errs _ =>
    have corrected : HlQuiet n s (if errs = 0 then v else v.bump F.HL_ERR2_CWCORR n) := .ite hv (.setFld hv n _)
    have delivered := corrected.foldl (f := fun s g => if g.1 = 0x7E then s.hlMgmtRx n sfn (g.2.drop 1)
        else s.present { typ := 3, idx := 64 * n + g.1, ms := 32 * (g.2.headD 0).toNat, payload := g.2.drop 1 })
      (fun _ g hu => .ite (hu.hlMgmtRx sfn _) (hu.present _)) (parseSegs 60 (if ci.2 = 0 then bytes.drop 24 else bytes)).1
    exact .ite delivered.mgmtUnknown delivered

end

/-! ### Events, states and time (R62, R172, R173) -/

/-- What depends on no presented packet is unchanged by a link event. -/
theorem hlEvent_apart {β : Type} (g : State → β) (hg : ∀ (u : State) p, g { u with presented := p } = g u) (s : State)
    (n kind low : Nat) : g (s.hlEvent n kind low) = g s := by
  unfold State.hlEvent
  split
  · rfl
  · exact hg s _

@[simp] theorem hlEvent_hlOf (s : State) (m kind low n : Nat) : (s.hlEvent m kind low).hlOf n = s.hlOf n :=
  hlEvent_apart (·.hlOf n) (fun _ _ => rfl) s m kind low

@[simp] theorem hlEvent_fld (s : State) (m kind low : Nat) (f : Field) (i : Nat) : (s.hlEvent m kind low).fld f i = s.fld f i :=
  hlEvent_apart (·.fld f i) (fun _ _ => rfl) s m kind low

@[simp] theorem setHl_fld (s : State) (n : Nat) (x : HlUnit) (f : Field) (i : Nat) : (s.setHl n x).fld f i = s.fld f i := rfl

theorem setHl_wf {s : State} (h : s.Wf) (n : Nat) (x : HlUnit) : (s.setHl n x).Wf := (setHl_keeps n x (Keeps.refl s)).wf h

section
variable {s : State} {n st : Nat}

theorem hlEnter_wf (h : s.Wf) (n st : Nat) : (s.hlEnter n st).Wf := (hlEnter_keeps n st (Keeps.refl s)).wf h

@[simp] theorem hlEnter_hlOf (s : State) (n st k : Nat) : (s.hlEnter n st).hlOf k = s.hlOf k := by
  unfold State.hlEnter
  split
  · rfl
  · exact hlEvent_hlOf _ n _ _ k

theorem hlEnter_hlState (h : s.Wf) (hst : st ≤ 3) : (s.hlEnter n st).hlState n = st := by
  unfold State.hlEnter
  split
  next same => exact same
  next =>
    rw [State.hlState, hlEvent_fld, fld_raise_apart (setFld_wf h _ n st) (by decide)]
    exact fld_setFld_self h ⟨by decide, by decide, hst⟩ n

theorem hlEnter_linkchg (h : s.Wf) (hst : s.hlState n ≠ st) : (s.hlEnter n st).flag F.HL_STATUS_LINKCHG n = true := by
  rw [State.hlEnter, if_neg hst, State.flag, hlEvent_fld]
  exact flag_raise_self (setFld_wf h _ n st) (by decide) n

@[simp] theorem hlEnter_act (f : Field) (i : Nat) : (s.hlEnter n st).act f i = s.act f i := by
  unfold State.hlEnter
  split
  · rfl
  · exact hlEvent_apart (·.act f i) (fun _ _ => rfl) _ n _ _

end

/-- The tables of a superframe as HL_STATUS shows them (R163). -/
def State.hlShow (s : State) (n dtab utab : Nat) (base : Bool) : State :=
  ((s.setFld F.HL_STATUS_DTAB n dtab).setFld F.HL_STATUS_UTAB n utab).setFld F.HL_STATUS_BASEU n (if base then 1 else 0)

section
variable {s : State} {n dtab utab : Nat} {base : Bool}

@[simp] theorem hlShow_hlOf (k : Nat) : (s.hlShow n dtab utab base).hlOf k = s.hlOf k := by
  rw [State.hlShow, setFld_hlOf, setFld_hlOf, setFld_hlOf]

theorem hlShow_fld_reg {f : Field} (hf : f.reg ≠ .HL_STATUS) (i : Nat) : (s.hlShow n dtab utab base).fld f i = s.fld f i := by
  rw [State.hlShow, fld_setFld_reg hf, fld_setFld_reg hf, fld_setFld_reg hf]

section
variable (h : s.Wf)
include h

theorem hlShow_wf : (s.hlShow n dtab utab base).Wf := setFld_wf (setFld_wf (setFld_wf h _ n _) _ n _) _ n _

theorem hlShow_hlState : (s.hlShow n dtab utab base).hlState n = s.hlState n := by
  have hdtab := setFld_wf h F.HL_STATUS_DTAB n dtab
  rw [State.hlState, State.hlShow, fld_setFld_apart (setFld_wf hdtab _ n _) (by decide), fld_setFld_apart hdtab (by decide),
    fld_setFld_apart h (by decide), State.hlState]

theorem hlShow_dtab (hd : dtab < 8) : (s.hlShow n dtab utab base).fld F.HL_STATUS_DTAB n = dtab := by
  have hdtab := setFld_wf h F.HL_STATUS_DTAB n dtab
  rw [State.hlShow, fld_setFld_apart (setFld_wf hdtab _ n _) (by decide), fld_setFld_apart hdtab (by decide),
    fld_setFld_self h ⟨by decide, by decide, Nat.le_of_lt_succ hd⟩]

theorem hlShow_utab (hu : utab < 8) : (s.hlShow n dtab utab base).fld F.HL_STATUS_UTAB n = utab := by
  have hdtab := setFld_wf h F.HL_STATUS_DTAB n dtab
  rw [State.hlShow, fld_setFld_apart (setFld_wf hdtab _ n _) (by decide),
    fld_setFld_self hdtab ⟨by decide, by decide, Nat.le_of_lt_succ hu⟩]

end
end

/-! ### The head links do not bear on time (R63) -/

section
variable (s : State) (n : Nat) (x : HlUnit)

theorem ite_setHl {c : Prop} [Decidable c] (a b : State) :
    (if c then a else b).setHl n x = if c then a.setHl n x else b.setHl n x := apply_ite (State.setHl · n x) c a b

theorem enterSt_setHl (y : Bool) (v : Nat) : (s.setHl n x).enterSt y v = (s.enterSt y v).setHl n x := by
  unfold State.enterSt
  dsimp only
  rw [ite_setHl]
  rfl

theorem setReg_setHl (r : Reg) (i : Nat) (w : Word) : (s.setHl n x).setReg r i w = (s.setReg r i w).setHl n x :=
  (fun l h => (rfl : ({ { s with hl := h } with live := l } : State) = { { s with live := l } with hl := h })) _ _

theorem setFld_setHl (f : Field) (i v : Nat) : (s.setHl n x).setFld f i v = (s.setFld f i v).setHl n x := by
  simp only [State.setFld, setHl_reg, setReg_setHl]

theorem raise_setHl (f : Field) (i : Nat) : (s.setHl n x).raise f i = (s.raise f i).setHl n x := setFld_setHl s n x f i 1

theorem setHl_flag (f : Field) (i : Nat) : (s.setHl n x).flag f i = s.flag f i := rfl
theorem setHl_dom (y : Bool) : (s.setHl n x).dom y = s.dom y := rfl
theorem setHl_setDom (y : Bool) (d : Domain) : (s.setHl n x).setDom y d = (s.setDom y d).setHl n x := rfl
theorem setHl_stepMoves : (s.setHl n x).stepMoves = s.stepMoves := rfl

theorem stepDom_setHl (y : Bool) (d : Int) : (s.setHl n x).stepDom y d = (s.stepDom y d).setHl n x := by
  unfold State.stepDom
  dsimp only
  rw [setHl_flag, setHl_dom, setHl_setDom, setHl_stepMoves]
  generalize s.setDom y _ = v
  split
  · rfl
  · split
    · exact raise_setHl { v with ct := _ } n x _ _
    · rfl

theorem afterStep_setHl (y : Bool) : (s.setHl n x).afterStep y = (s.afterStep y).setHl n x := by
  unfold State.afterStep
  rw [raise_setHl]
  generalize s.raise F.CT_SRV_STAT_STEPD (domIx y) = v
  dsimp only
  rw [setHl_dom, setHl_setDom, enterSt_setHl, ite_setHl, ite_setHl]
  rfl

theorem stepOne_setHl (p : Bool × CtStep) : (s.setHl n x).stepOne p = (s.stepOne p).setHl n x := by
  rw [State.stepOne, stepDom_setHl, afterStep_setHl]
  rfl

theorem foldl_stepOne_setHl (l : List (Bool × CtStep)) :
    l.foldl State.stepOne (s.setHl n x) = (l.foldl State.stepOne s).setHl n x := by
  induction l generalizing s with
  | nil => rfl
  | cons p l ih => rw [List.foldl_cons, stepOne_setHl, ih, List.foldl_cons]

theorem switch_setHl (y : Bool) (f : Field) : ((s.setHl n x).switchTo y).raise f = ((s.switchTo y).raise f).setHl n x :=
  (congrArg (State.raise · f) (setFld_setHl { s with ct := _ } n x F.CT_CTRL_SEL 0 (domIx y))).trans (raise_setHl _ n x f 0)

theorem switchDue_setHl (sel : Option Bool) (auto : Bool) :
    (s.setHl n x).switchDue sel auto = (s.switchDue sel auto).setHl n x := by
  have automatic (v : State) : (v.setHl n x).switchDue none auto = (v.switchDue none auto).setHl n x := by
    unfold State.switchDue
    dsimp only
    rw [setHl_flag, switch_setHl, ite_setHl]
    rfl
  cases sel with
  | none => exact automatic s
  | some y =>
    have written : (s.setHl n x).switchDue (some y) auto = ((if s.flag F.CT_CTRL_SEL = y then s else
        (s.switchTo y).raise F.CT_STATUS_SWM).setHl n x).switchDue none auto := by
      rw [ite_setHl, ← switch_setHl]
      rfl
    exact written.trans (automatic _)

theorem ckStep_setHl : (s.setHl n x).ckStep = s.ckStep.setHl n x := by
  unfold State.ckStep
  have cycle (c : CT) : { s.setHl n x with ct := c } = ({ s with ct := c } : State).setHl n x := rfl
  dsimp only
  rw [cycle, foldl_stepOne_setHl, switchDue_setHl]
  rfl

theorem stamp_setHl (p : Nat) : (s.setHl n x).stamp p = s.stamp p := by
  rw [State.stamp, State.stamp40, ckStep_setHl]
  rfl

theorem hlEdge_setHl (sfs ph : Nat) : (s.setHl n x).hlEdge sfs ph = s.hlEdge sfs ph := by
  unfold State.hlEdge
  rw [stamp_setHl, ckStep_setHl]
  rfl

end

end Sys2Proof.Machine
end

section
/-! The family of the head links at the hub: superframes, table loads and their commits, and received up bursts (R150-R173). -/

namespace Sys2Proof.Machine

/-! ### The hub's superframe (R150, R163, R171, R173, R174) -/

/-- The superframe that starts has counted a missing up header and moved its loads on (R171, R173). -/
def State.hlPrepared (s : State) (n : Nat) : State :=
  ((((s.raiseLost n (s.hlOf n).wait).hlRetry n).hlHubCommit n).hlNextLoad n).hlQueueLoad n

/-- The burst of superframe d is away at t: the number moves on, and its up header is awaited (R150, R165). -/
def State.hlAway (s : State) (n : Nat) (d : HlLay) (t lat sector : Nat) (probe base : Bool) (tab : Nat) : State :=
  (s.setHl n { s.hlOf n with
    sfn := ((s.hlOf n).sfn + 1) % 65536, lay := d, t1 := t + 16 * lat, wait := true, sector := sector, sfEnd := d.upEnd t
    prbNow := false, prbCnt := if probe then 0 else (s.hlOf n).prbCnt + 1 }).hlShow n tab tab base

theorem hlStart_eq (s : State) (n : Nat) (d : HlLay) (t : Nat) (sect : Option (List Word)) :
    ∃ cut probe codes seed header sector base tab, s.hlStart n d t sect =
      (((s.hlPrepared n).hlSend n false t cut d.nd probe codes seed header).hlAway n d t
        ((s.hlPrepared n).fld F.HL_CAL_TXLAT n) sector probe base tab).hlReport n := by
  unfold State.hlStart
  extract_lets lost s1 s2 u sector tab base int probe t1 hd codes seed cut s3 u' s4 s5
  exact ⟨cut, probe, codes, seed, hd, sector, base, tab, rfl⟩

theorem hlPrepared_quiet (s : State) (n : Nat) : HlQuiet n (s.raiseLost n (s.hlOf n).wait) (s.hlPrepared n) :=
  .hlQueueLoad (.hlNextLoad (.hlHubCommit (.hlRetry (.refl n _))))

section
variable {s : State} {n : Nat}

theorem raiseLost_wf (h : s.Wf) (lost : Bool) : (s.raiseLost n lost).Wf := (raiseLost_keeps n lost (Keeps.refl s)).wf h

theorem raiseLost_true (s : State) (n : Nat) : s.raiseLost n true =
    (s.bump F.HL_ERR_HDRLOST n).setHl n { s.hlOf n with miss := (s.hlOf n).miss + 1 } := rfl

theorem raiseLost_out (lost : Bool) : (s.raiseLost n lost).out = s.out := by
  cases lost
  · rfl
  · rw [raiseLost_true, setHl_out, bump_out]

theorem raiseLost_hlOf (h : s.Wf) (lost : Bool) : (s.raiseLost n lost).hlOf n =
    { s.hlOf n with miss := if lost then (s.hlOf n).miss + 1 else (s.hlOf n).miss } := by
  have counted : (s.bump F.HL_ERR_HDRLOST n).Wf := setFld_wf h _ n _
  cases lost
  · rfl
  · rw [raiseLost_true, hlOf_setHl_self counted]
    rfl

theorem raiseLost_txlat (lost : Bool) : (s.raiseLost n lost).fld F.HL_CAL_TXLAT n = s.fld F.HL_CAL_TXLAT n := by
  cases lost
  · rfl
  · rw [raiseLost_true, setHl_fld, State.bump, fld_setFld_reg (by decide)]

theorem raiseLost_hdrlost (h : s.Wf) (lost : Bool) : (s.raiseLost n lost).fld F.HL_ERR_HDRLOST n =
    if lost then min (s.fld F.HL_ERR_HDRLOST n + 1) (maxOf F.HL_ERR_HDRLOST.width) else s.fld F.HL_ERR_HDRLOST n := by
  cases lost
  · rfl
  · rw [raiseLost_true, setHl_fld, fld_bump_self h (by decide)]
    rfl

theorem hlAway_wf (h : s.Wf) (d : HlLay) (t lat sector : Nat) (probe base : Bool) (tab : Nat) :
    (s.hlAway n d t lat sector probe base tab).Wf := hlShow_wf (setHl_wf h n _)

theorem hlAway_hlOf (h : s.Wf) (d : HlLay) (t lat sector : Nat) (probe base : Bool) (tab : Nat) :
    (s.hlAway n d t lat sector probe base tab).hlOf n = { s.hlOf n with
      sfn := ((s.hlOf n).sfn + 1) % 65536, lay := d, t1 := t + 16 * lat, wait := true, sector := sector, sfEnd := d.upEnd t
      prbNow := false, prbCnt := if probe then 0 else (s.hlOf n).prbCnt + 1 } := by
  rw [State.hlAway, hlShow_hlOf, hlOf_setHl_self h]

theorem hlAway_fld {f : Field} (hf : f.reg ≠ .HL_STATUS) (d : HlLay) (t lat sector : Nat) (probe base : Bool) (tab i : Nat) :
    (s.hlAway n d t lat sector probe base tab).fld f i = s.fld f i := by
  rw [State.hlAway, hlShow_fld_reg hf, setHl_fld]

/-- A hub's superframe that starts sends one burst, and the unit waits for its up header. -/
theorem hlStart_sends (h : s.Wf) {u : HlUnit} (hu : s.hlOf n = u) (d : HlLay) (t : Nat) (sect : Option (List Word)) :
    let v := s.hlStart n d t sect
    (∃ bytes syms, v.out = .hlBurst n false t bytes syms :: s.out) ∧ (v.hlOf n).sfn = (u.sfn + 1) % 65536 ∧
      (v.hlOf n).due = u.due ∧ (v.hlOf n).lay = d ∧ (v.hlOf n).wait = true ∧
      (v.hlOf n).t1 = t + 16 * s.fld F.HL_CAL_TXLAT n ∧ (v.hlOf n).miss = (if u.wait then u.miss + 1 else u.miss) ∧
      v.fld F.HL_ERR_HDRLOST n = (if u.wait then min (s.fld F.HL_ERR_HDRLOST n + 1) (maxOf F.HL_ERR_HDRLOST.width)
        else s.fld F.HL_ERR_HDRLOST n) := by
  subst hu
  obtain ⟨cut, probe, codes, seed, header, sector, base, tab, hstart⟩ := hlStart_eq s n d t sect
  obtain ⟨v, bytes, syms, hv, hsend⟩ := hlSend_eq_emit n (s.hlPrepared n) false t cut d.nd probe codes seed header
  have hr : (s.raiseLost n (s.hlOf n).wait).Wf := raiseLost_wf h _
  have prepared := hlPrepared_quiet s n
  have sent := prepared.trans hv
  have hlat : (s.hlPrepared n).fld F.HL_CAL_TXLAT n = s.fld F.HL_CAL_TXLAT n :=
    (prepared.fld hr _ (by decide) n).trans (raiseLost_txlat _)
  have hw : (v.emit (.hlBurst n false t bytes syms)).Wf := (emit_keeps _ (Keeps.refl v)).wf (sent.wf hr)
  have haway := hlAway_wf hw (n := n) d t (s.fld F.HL_CAL_TXLAT n) sector probe base tab
  have reported := HlQuiet.hlReport (.refl n ((v.emit (.hlBurst n false t bytes syms)).hlAway n d t
    (s.fld F.HL_CAL_TXLAT n) sector probe base tab))
  have after {β : Type} (g : HlUnit → β) (hg : ∀ u : HlUnit, g u.core = g u) := reported.unit_apart haway g hg
  have before {β : Type} (g : HlUnit → β) (hg : ∀ u : HlUnit, g u.core = g u) := sent.unit_apart hr g hg
  simp only [hlAway_hlOf hw, emit_hlOf] at after
  simp only [raiseLost_hlOf h] at before
  rw [hstart, hsend, hlat]
  refine ⟨⟨bytes, syms, reported.out.trans (congrArg (_ :: ·) (sent.out.trans (raiseLost_out _)))⟩, ?_, ?_,
    after HlUnit.lay fun _ => rfl, after HlUnit.wait fun _ => rfl, after HlUnit.t1 fun _ => rfl, ?_, ?_⟩
  · rw [after HlUnit.sfn fun _ => rfl, before HlUnit.sfn fun _ => rfl]
  · rw [after HlUnit.due fun _ => rfl, before HlUnit.due fun _ => rfl]
  · rw [after HlUnit.miss fun _ => rfl, before HlUnit.miss fun _ => rfl]
  · rw [reported.fld haway F.HL_ERR_HDRLOST (by decide), hlAway_fld (by decide), emit_fld,
      sent.fld hr F.HL_ERR_HDRLOST (by decide), raiseLost_hdrlost h]

theorem hlBellMeets_setHl_due (h : s.Wf) (rest : List HlLay) (d : HlLay) :
    (s.setHl n { s.hlOf n with due := rest }).hlBellMeets n d = s.hlBellMeets n d := by
  rw [State.hlBellMeets, hlOf_setHl_self h]
  rfl

end

section
variable {s : State} {n : Fin 2} {ph : Fin 4} {sect : Option (List Word)} {d : HlLay} {rest : List HlLay}

theorem exec_hlSuperframe_due (h : s.Wf) (hr : s.timeRuns = true) (hub : s.hlHub n = true) (hdue : (s.hlOf n).due = d :: rest)
    (hsfs : d.sfs ≤ s.stamp (8 * ph)) : exec (.hlSuperframe n ph sect) s =
      let v := s.setHl n { s.hlOf n with due := rest }
      if s.hlBellMeets n d then .next (v.bump F.HL_ERR_SFSKIP n) else .next (v.hlStart n d (s.hlEdge d.sfs ph) sect) := by
  have started : ¬ (¬ s.timeRuns = true ∨ ¬ s.hlHub n = true ∨ s.stamp (8 * ph) < d.sfs) := by simp [hr, hub, hsfs]
  change execHlSuperframe n ph sect s = _
  simp only [execHlSuperframe, hdue, if_neg started, hlBellMeets_setHl_due h, hlEdge_setHl]

theorem exec_hlSuperframe_none (hdue : (s.hlOf n).due = []) : exec (.hlSuperframe n ph sect) s = .next s := by
  change execHlSuperframe n ph sect s = _
  simp only [execHlSuperframe, hdue]

theorem exec_hlSuperframe_early (hdue : (s.hlOf n).due = d :: rest) (hsfs : s.stamp (8 * ph) < d.sfs) :
    exec (.hlSuperframe n ph sect) s = .next s := by
  change execHlSuperframe n ph sect s = _
  simp only [execHlSuperframe, hdue]
  exact if_pos (.inr (.inr hsfs))

end

/-! ### Table loads and commits at the hub (R171) -/

section
variable {s : State} {n : Nat} {l : HlLoad} {a : Nat}

/-- Four superframes have ended without an acknowledgement of a load that is out. -/
theorem hlRetry_due (hub : s.hlHub n = true) (hl : (s.hlOf n).load = some l) (hs : l.send = false) (ha : l.ack = none)
    (h4 : 4 ≤ wrap (((s.hlOf n).sfn : Int) - l.sentSfn) 16) (hend : (s.hlOf n).sfEnd ≤ s.ltMs) : s.hlRetry n =
      if l.sends < 4 then s.setHl n { s.hlOf n with load := some { l with send := true } } else s.hlLoadFail n l := by
  simp only [State.hlRetry, hl]
  exact if_neg (by simp [hub, hs, ha, h4, hend])

theorem hlLoadFail_load (h : s.Wf) : ((s.hlLoadFail n l).hlOf n).load = none := by
  rw [State.hlLoadFail, hlEvent_hlOf, setFld_hlOf, hlOf_setHl_self h]

theorem hlLoadFail_st (h : s.Wf) : (s.hlLoadFail n l).fld F.HL_TBLSTAT_ST n = 3 := by
  rw [State.hlLoadFail, hlEvent_fld]
  exact fld_setFld_self (setHl_wf h n _) (by decide) n

/-- A run of registers that is written element by element reads as written. -/
theorem reg_foldl_setReg (h : s.Wf) (r : Reg) (b : Nat) (w : Nat → Word) {k i : Nat} (hk : b + k ≤ 16384) (hi : i < k) :
    ((List.range k).foldl (fun s j => s.setReg r (b + j) (w j)) s).reg r (b + i) = w i := by
  induction k with
  | zero => exact absurd hi (Nat.not_lt_zero i)
  | succ k ih =>
    rw [List.range_succ, List.foldl_append, List.foldl_cons, List.foldl_nil]
    by_cases last : i = k
    · subst last
      exact reg_setReg_self ((keeps_foldl (Keeps.refl s) fun _ _ hu => setReg_keeps r _ _ hu).wf h) r _ _
    · rw [reg_setReg_el _ r (by omega), ih (by omega) (by omega)]

theorem hlTable_setHlTable_self (h : s.Wf) (hn : n < 2) (up : Bool) {t : Nat} (ht : t < 8) {ws : List Word}
    (hws : ws.length = 36) : (s.setHlTable n up t ws).hlTable n up t = ws := by
  have hb : (n * 2 + (if up then 1 else 0)) * 8 + t < 32 := by split <;> omega
  refine List.ext_getElem (by simp [State.hlTable, hws]) fun i hi hi' => ?_
  have hi : i < 36 := hws ▸ hi'
  simp only [State.hlTable, List.getElem_map, List.getElem_range, State.setHlTable, State.each]
  rw [reg_foldl_setReg h .HL_TBL _ _ (by omega) hi, List.getD_eq_getElem ws _ hi']

theorem genOf_toggle (u : HlUnit) (up : Bool) (t : Nat) : (u.toggle up t).genOf up t = 1 - u.genOf up t := by
  by_cases held : tabIx up t ∈ u.gen <;> simp [HlUnit.toggle, HlUnit.genOf, held]

/-- A table takes its content and its generation toggles; then the load is over, and its commit is reported. -/
def State.hlCommitted (s : State) (n : Nat) (l : HlLoad) (a : Nat) : State :=
  let v := s.hlReplace n l.up l.tab l.codes
  ((v.setHl n { v.hlOf n with load := none, committed := tabIx l.up l.tab :: (s.hlOf n).committed
                              evs := (s.hlOf n).evs ++ [(3, tabCode l.up l.tab)] }).setFld F.HL_TBLSTAT_ST n 0).setFld
    F.HL_TBLSTAT_SFNEFF n ((a + 9) % 65536)

theorem hlHubCommit_eq (hl : (s.hlOf n).load = some l) (ha : l.ack = some a) : s.hlHubCommit n =
    if wrap (((s.hlOf n).sfn : Int) - a) 16 < 9 then s else s.hlCommitted n l a := by
  simp only [State.hlHubCommit, hl, ha]
  rfl

theorem hlReplace_wf (h : s.Wf) (up : Bool) (t : Nat) (ws : List Word) : (s.hlReplace n up t ws).Wf :=
  (hlReplace_keeps n up t ws (Keeps.refl s)).wf h

theorem setHlTable_hlOf (up : Bool) (t : Nat) (ws : List Word) (k : Nat) : (s.setHlTable n up t ws).hlOf k = s.hlOf k :=
  each_eq (·.hlOf k) _ (fun v _ => setReg_hlOf v .HL_TBL _ _ k) s 36

theorem setHlTable_wf (h : s.Wf) (up : Bool) (t : Nat) (ws : List Word) : (s.setHlTable n up t ws).Wf :=
  (setHlTable_keeps n up t ws (Keeps.refl s)).wf h

theorem hlReplace_hlOf (h : s.Wf) (up : Bool) (t : Nat) (ws : List Word) :
    (s.hlReplace n up t ws).hlOf n = (s.hlOf n).toggle up t := by
  rw [State.hlReplace, hlOf_setHl_self (setHlTable_wf h up t ws), setHlTable_hlOf]

theorem hlCommitted_hlOf (h : s.Wf) : (s.hlCommitted n l a).hlOf n = { (s.hlOf n).toggle l.up l.tab with
    load := none, committed := tabIx l.up l.tab :: (s.hlOf n).committed
    evs := (s.hlOf n).evs ++ [(3, tabCode l.up l.tab)] } := by
  rw [State.hlCommitted]
  simp only [setFld_hlOf, hlOf_setHl_self (hlReplace_wf h _ _ _), hlReplace_hlOf h]

theorem setHl_hlTable (x : HlUnit) (k t : Nat) (up : Bool) : (s.setHl n x).hlTable k up t = s.hlTable k up t := rfl

theorem setFld_hlTable (s : State) {f : Field} (hf : .HL_TBL ≠ f.reg) (i x k t : Nat) (up : Bool) :
    (s.setFld f i x).hlTable k up t = s.hlTable k up t := List.map_congr_left fun _ _ => reg_setReg_ne s hf i _ _

theorem hlCommitted_table (h : s.Wf) (hn : n < 2) (ht : l.tab < 8) (hc : l.codes.length = 36) :
    (s.hlCommitted n l a).hlTable n l.up l.tab = l.codes := by
  rw [State.hlCommitted, setFld_hlTable _ (by decide), setFld_hlTable _ (by decide), setHl_hlTable, State.hlReplace,
    setHl_hlTable, hlTable_setHlTable_self h hn l.up ht hc]

theorem hlCommitted_st (h : s.Wf) : (s.hlCommitted n l a).fld F.HL_TBLSTAT_ST n = 0 := by
  have hv := setHl_wf (hlReplace_wf (n := n) h l.up l.tab l.codes) n { (s.hlReplace n l.up l.tab l.codes).hlOf n with
    load := none, committed := tabIx l.up l.tab :: (s.hlOf n).committed
    evs := (s.hlOf n).evs ++ [(3, tabCode l.up l.tab)] }
  rw [State.hlCommitted, fld_setFld_apart (setFld_wf hv _ n 0) (by decide)]
  exact fld_setFld_self hv (by decide) n

theorem hlCommitted_sfneff (h : s.Wf) : (s.hlCommitted n l a).fld F.HL_TBLSTAT_SFNEFF n = (a + 9) % 65536 :=
  fld_setFld_self (setFld_wf (setHl_wf (hlReplace_wf h _ _ _) n _) _ n 0)
    ⟨by decide, by decide, Nat.le_of_lt_succ (Nat.mod_lt _ (by decide))⟩ n

theorem hlAtStart_eq {d : HlLay} {rest : List HlLay} (hdue : (s.hlOf n).due = d :: rest) :
    s.hlAtStart n = decide (d.sfs ≤ s.ltMs) := by
  rw [State.hlAtStart, hdue]

end

theorem exec_hlTableLoadRetry (s : State) (n : Fin 2) : exec (.hlTableLoadRetry n) s = .next (s.hlRetry n) := rfl

theorem exec_hlTableCommit_hub {s : State} {n : Fin 2} (hub : s.hlHub n = true) :
    exec (.hlTableCommit n) s = .next (if s.hlAtStart n then s.hlHubCommit n else s) := if_pos hub

/-! ### The hub receives an up burst (R154, R162, R164, R165, R169) -/

/-- The instant T4 of an up burst that arrives in the present CK_TIME cycle (R164). -/
def State.hlT4 (s : State) (n : Nat) : Int := (s.stamp 0 : Int) - 16 * s.fld F.HL_CAL_RXLAT n

/-- How far an up burst is from the instant at which the layout of its superframe expects it (R154). -/
def State.hlOffset (s : State) (n : Nat) : Nat :=
  let u := s.hlOf n
  (s.hlT4 n - ((u.t1 : Int) + smp (u.lay.nd * 1152 + u.lay.ugap))).natAbs

/-- The pilot seed of a burst in table t of a direction, or in the base table (R167). -/
def HlUnit.seedFor (u : HlUnit) (up base : Bool) (t : Nat) : Nat := if base then 0x7FF else tableSeed t (u.genOf up t)

/-- An up header has been heard: it is awaited no longer, and no loss is counted (R173). -/
def State.hlHeard (s : State) (n : Nat) : State := s.setHl n { s.hlOf n with wait := false, miss := 0 }

/-- The link of a header that has been heard is up (R173). -/
def State.hlLinked (s : State) (n : Nat) : State := if s.hlState n = 0 then (s.hlHeard n).hlUp n else s.hlHeard n

/-- A ranging value dm stands first; TURN and the mean delay are shown (R164, R165). -/
def State.hlRanged (s : State) (n turn : Nat) (dm : Int) : State :=
  let v := s.setReg .HL_TURN n (w32 turn)
  let ds := (dm :: (v.hlOf n).deltas).take 8
  ((v.setHl n { v.hlOf n with deltas := ds }).setFld F.HL_DELAY_DELAY n
    (wrap (shown (ds.foldl (· + ·) 0) (32 * ds.length)) 16)).raise F.HL_DELAY_DVAL n

/-- A burst whose pilots match is delivered, and its failed codewords reported (R162, R172). -/
def State.hlTake (s : State) (n sfn : Nat) (cws : List HlCw) : State :=
  let v := s.hlDeliver n sfn cws
  if cwFails cws = 0 then v else v.hlEvent n 2 (cwFails cws)

/-- A node's report of a stale table asks for its load again (R169). -/
def State.hlAsked (s : State) (n b : Nat) : State := if bit b 4 then s.hlReload n (bit b 3) (b % 8) else s

/-- A burst whose pilots match no table: the table is to be loaded again, and the mismatch is reported (R169, R172). -/
def State.hlUpMiss (s : State) (n : Nat) (base : Bool) (utab : Nat) : State :=
  (if base then s.hlMismatch n else (s.hlMismatch n).hlReload n true utab).hlEvent n 6 (tabCode true utab)

section
variable {s v : State} {n : Nat}

theorem HlQuiet.hlAsked (h : HlQuiet n s v) (b : Nat) : HlQuiet n s (v.hlAsked n b) := .ite (h.hlReload _ _) h

theorem HlQuiet.hlUpMiss (h : HlQuiet n s v) (base : Bool) (utab : Nat) : HlQuiet n s (v.hlUpMiss n base utab) :=
  .hlEvent (.ite h.hlMismatch (h.hlMismatch.hlReload _ _)) n 6 _

theorem HlQuiet.hlTake (h : HlQuiet n s v) (sfn : Nat) (cws : List HlCw) : HlQuiet n s (v.hlTake n sfn cws) :=
  .ite (h.hlDeliver sfn cws) (.hlEvent (h.hlDeliver sfn cws) n 2 _)

theorem hlUp_wf (h : s.Wf) : (s.hlUp n).Wf := (hlUp_keeps n (Keeps.refl s)).wf h

theorem hlUp_hlState (h : s.Wf) : (s.hlUp n).hlState n = 1 := hlEnter_hlState h (by decide)

theorem hlUp_core (h : s.Wf) : ((s.hlUp n).hlOf n).core = { (s.hlOf n).core with deltas := [] } := by
  rw [State.hlUp, hlOf_setHl_self (hlEnter_wf h n 1), hlEnter_hlOf]
  rfl

theorem hlUp_act (f : Field) (i : Nat) : (s.hlUp n).act f i = s.act f i := hlEnter_act f i

theorem hlHeard_wf (h : s.Wf) : (s.hlHeard n).Wf := setHl_wf h n _

theorem hlHeard_hlOf (h : s.Wf) : (s.hlHeard n).hlOf n = { s.hlOf n with wait := false, miss := 0 } := hlOf_setHl_self h n _

theorem hlLinked_wf (h : s.Wf) : (s.hlLinked n).Wf := by
  unfold State.hlLinked
  split
  · exact hlUp_wf (hlHeard_wf h)
  · exact hlHeard_wf h

theorem hlLinked_hlState (h : s.Wf) : (s.hlLinked n).hlState n ≠ 0 := by
  unfold State.hlLinked
  split
  next => rw [hlUp_hlState (hlHeard_wf h)]; decide
  next up => exact up

theorem hlLinked_act (f : Field) (i : Nat) : (s.hlLinked n).act f i = s.act f i := by
  unfold State.hlLinked
  split
  · exact hlUp_act f i
  · rfl

theorem hlLinked_core (h : s.Wf) : ((s.hlLinked n).hlOf n).core = { (s.hlOf n).core with
    wait := false, miss := 0, deltas := if s.hlState n = 0 then [] else (s.hlOf n).deltas } := by
  unfold State.hlLinked
  split
  next => rw [hlUp_core (hlHeard_wf h), hlHeard_hlOf h]; rfl
  next => rw [hlHeard_hlOf h]; rfl

section
variable (h : s.Wf) (turn : Nat) (dm : Int)
include h

theorem hlRanged_wf : (s.hlRanged n turn dm).Wf := setFld_wf (setFld_wf (setHl_wf (setReg_wf h _ n _) n _) _ n _) _ n 1

theorem hlRanged_hlOf : (s.hlRanged n turn dm).hlOf n = { s.hlOf n with deltas := (dm :: (s.hlOf n).deltas).take 8 } := by
  simp only [State.hlRanged, raise_hlOf, setFld_hlOf, hlOf_setHl_self (setReg_wf h .HL_TURN n (w32 turn)), setReg_hlOf]

theorem hlRanged_dval : (s.hlRanged n turn dm).flag F.HL_DELAY_DVAL n = true :=
  flag_raise_self (setFld_wf (setHl_wf (setReg_wf h _ n _) n _) _ n _) (by decide) n

theorem hlRanged_turn : (s.hlRanged n turn dm).reg .HL_TURN n = w32 turn := by
  have shown (v : State) {f : Field} (hf : .HL_TURN ≠ f.reg) (x : Nat) : (v.setFld f n x).reg .HL_TURN n = v.reg .HL_TURN n :=
    reg_setReg_ne v hf n n _
  rw [State.hlRanged, State.raise, shown _ (by decide), shown _ (by decide), setHl_reg, reg_setReg_self h]

end

theorem hlRanged_hlState (turn : Nat) (dm : Int) : (s.hlRanged n turn dm).hlState n = s.hlState n := by
  rw [State.hlState, State.hlRanged, State.raise, fld_setFld_reg (by decide), fld_setFld_reg (by decide), setHl_fld]
  exact congrArg F.HL_STATUS_STATE.get (reg_setReg_ne s (by decide) n n _)

theorem hlLinked_hlRanged_core (h : s.Wf) (turn : Nat) (dm : Int) : (((s.hlLinked n).hlRanged n turn dm).hlOf n).core =
    { (s.hlOf n).core with wait := false, miss := 0
                           deltas := (dm :: if s.hlState n = 0 then [] else (s.hlOf n).deltas).take 8 } := by
  have ranged (u : HlUnit) : ({ u with deltas := (dm :: u.deltas).take 8 } : HlUnit).core =
      { u.core with deltas := (dm :: u.core.deltas).take 8 } := rfl
  rw [hlRanged_hlOf (hlLinked_wf h), ranged, hlLinked_core h]

/-- HL_TURN holds its one field. -/
theorem reg_HL_TURN (s : State) (n : Nat) : s.reg .HL_TURN n = w32 (s.fld F.HL_TURN_TURN n) := by
  refine BitVec.eq_of_toNat_eq ?_
  simp [State.fld, Field.get, bits, w32, F.HL_TURN_TURN, Nat.mod_eq_of_lt (BitVec.isLt (s.reg .HL_TURN n))]

/-- What a heard header has left stands wherever the link's course has gone on from it (R164, R165, R173). -/
theorem HlQuiet.of_ranged (h : s.Wf) {turn : Nat} {dm : Int} (hq : HlQuiet n ((s.hlLinked n).hlRanged n turn dm) v) :
    (v.hlOf n).wait = false ∧ (v.hlOf n).miss = 0 ∧ v.hlState n ≠ 0 ∧ v.reg .HL_TURN n = w32 turn ∧
      v.flag F.HL_DELAY_DVAL n = true ∧
      (v.hlOf n).deltas = (dm :: if s.hlState n = 0 then [] else (s.hlOf n).deltas).take 8 := by
  have linked := hlLinked_wf (n := n) h
  have ranged := hlRanged_wf (n := n) linked turn dm
  have unit := (hq.unit ranged).trans (hlLinked_hlRanged_core h turn dm)
  have state := (hq.fld ranged F.HL_STATUS_STATE (by decide) n).trans (hlRanged_hlState turn dm)
  have shown := hq.fld ranged F.HL_TURN_TURN (by decide) n
  have valid := hq.fld ranged F.HL_DELAY_DVAL (by decide) n
  refine ⟨congrArg HlUnit.wait unit, congrArg HlUnit.miss unit, fun searching =>
      hlLinked_hlState h (state.symm.trans searching), ?_,
    (congrArg (· == 1) valid).trans (hlRanged_dval linked turn dm), congrArg HlUnit.deltas unit⟩
  rw [reg_HL_TURN, shown, ← reg_HL_TURN, hlRanged_turn linked]

end

section
variable {s : State} {n : Fin 2} {rx : HlRx} {hd : List Nat}

theorem exec_hlUpBurstRx_outside (hoff : smp (4 * s.act F.HL_LINK_SRCH n) < s.hlOffset n) :
    exec (.hlUpBurstRx n rx) s = .next s := if_pos (.inr (.inr (.inr hoff)))

theorem exec_hlUpBurstRx_no_header (hr : s.timeRuns = true) (hub : s.hlHub n = true) (hwait : (s.hlOf n).wait = true)
    (hin : s.hlOffset n ≤ smp (4 * s.act F.HL_LINK_SRCH n)) (hnone : headerOf rx.decoded = none) (hseed : rx.seed =
      (s.hlOf n).seedFor true (s.flag F.HL_STATUS_BASEU n) (s.fld F.HL_STATUS_UTAB n)) :
    exec (.hlUpBurstRx n rx) s = .next (s.hlTake n (wrap (((s.hlOf n).sfn : Int) - 1) 16) rx.decoded) := by
  have received : ¬ (¬ s.timeRuns = true ∨ ¬ s.hlHub n = true ∨ ¬ (s.hlOf n).wait = true ∨
      s.hlOffset n > smp (4 * s.act F.HL_LINK_SRCH n)) := by simp [hr, hub, hwait, hin]
  refine (if_neg received).trans ?_
  simp only [hnone]
  exact congrArg Host.Outcome.next (if_neg (not_not.2 hseed))

/-- With a header the hub keeps the ranging value and takes the burst, or finds its pilots to be those of no table. -/
theorem exec_hlUpBurstRx_header (hr : s.timeRuns = true) (hub : s.hlHub n = true) (hwait : (s.hlOf n).wait = true)
    (hin : s.hlOffset n ≤ smp (4 * s.act F.HL_LINK_SRCH n)) (hhd : headerOf rx.decoded = some hd) :
    exec (.hlUpBurstRx n rx) s =
      let turn := fromLe ((hd.drop 4).take 4)
      let v := ((s.hlLinked n).hlRanged n turn
        ((s.hlT4 n - (s.hlOf n).t1) - 16 * turn + 32 * sext ((s.hlLinked n).act F.HL_ASYM_ASYM n) 16)).hlAsked n (hd.getD 8 0)
      let utab := s.fld F.HL_STATUS_UTAB n
      let base := s.flag F.HL_STATUS_BASEU n
      let w := v.hlTake n (fromLe (hd.take 2)) rx.decoded
      if rx.seed ≠ (v.hlOf n).seedFor true base utab then .next (v.hlUpMiss n base utab)
      else .next (if bit (hd.getD 2 0) 3 then w.hlSnr n 1 utab rx.snr else w) := by
  have received : ¬ (¬ s.timeRuns = true ∨ ¬ s.hlHub n = true ∨ ¬ (s.hlOf n).wait = true ∨
      s.hlOffset n > smp (4 * s.act F.HL_LINK_SRCH n)) := by simp [hr, hub, hwait, hin]
  refine (if_neg received).trans ?_
  simp only [hhd]
  rfl

/-- After an up burst with a header the link is up, and its ranging value stands first (R165, R173). -/
theorem exec_hlUpBurstRx_ranged (hr : s.timeRuns = true) (hub : s.hlHub n = true) (hwait : (s.hlOf n).wait = true)
    (hin : s.hlOffset n ≤ smp (4 * s.act F.HL_LINK_SRCH n)) (hhd : headerOf rx.decoded = some hd) :
    let turn := fromLe ((hd.drop 4).take 4)
    ∃ t, exec (.hlUpBurstRx n rx) s = .next t ∧ HlQuiet n ((s.hlLinked n).hlRanged n turn
      ((s.hlT4 n - (s.hlOf n).t1) - 16 * turn + 32 * sext (s.act F.HL_ASYM_ASYM n) 16)) t := by
  have asked (turn : Nat) (dm : Int) : HlQuiet n ((s.hlLinked n).hlRanged n turn dm)
      (((s.hlLinked n).hlRanged n turn dm).hlAsked n (hd.getD 8 0)) := .hlAsked (.refl n _) _
  rw [exec_hlUpBurstRx_header hr hub hwait hin hhd, hlLinked_act]
  dsimp only
  split
  · exact ⟨_, rfl, (asked _ _).hlUpMiss _ _⟩
  · exact ⟨_, rfl, .ite (((asked _ _).hlTake _ _).hlSnr 1 _ _) ((asked _ _).hlTake _ _)⟩

end

theorem wrap_16 (x : Int) : wrap x 16 = (x % 65536).toNat := rfl

theorem hlOffset_eq (s : State) (n : Nat) : s.hlOffset n = (((s.stamp 0 : Int) - 16 * s.fld F.HL_CAL_RXLAT n) -
    (((s.hlOf n).t1 : Int) + 1024 * ((s.hlOf n).lay.nd * 1152 + (s.hlOf n).lay.ugap))).natAbs := by
  simp [State.hlOffset, State.hlT4, smp]

/-- Settles O35. What prepares a superframe, fills its burst and reports on it leaves the link's course alone, so one burst has
left and the number, layout and counts are those set at the start; likewise nothing that follows an up header undoes what the
header has set. -/
theorem headLinkHubResults : Obligations.HeadLinkHubResults := by
  refine ⟨fun s n ph sect d rest l a hw hub => ⟨fun hr hdue hsfs => ⟨fun hb => ?_, fun hb => ?_⟩, exec_hlSuperframe_none,
      exec_hlSuperframe_early, fun hl hsend hack h4 hend => ⟨fun hlt => ?_, fun hge => ?_⟩,
      fun hl hack htab hcodes => ⟨fun hdue hsfs h9 => ?_, fun hdue hsfs => ?_, fun h9 => ?_⟩⟩,
    fun s n rx hd hw hr hub => ⟨fun hwait hout => ?_, fun hwait hin => ⟨fun hnone hseed => ?_, fun hhd => ?_⟩⟩⟩
  · have hv : (s.setHl n { s.hlOf n with due := rest }).Wf := setHl_wf hw n _
    obtain ⟨⟨bytes, syms, hout⟩, hsent⟩ := hlStart_sends hv (hlOf_setHl_self hw n _) d (s.hlEdge d.sfs ph) sect
    exact ⟨_, bytes, syms, (exec_hlSuperframe_due hw hr hub hdue hsfs).trans (if_neg (by simp [hb])), hout, hsent⟩
  · exact (exec_hlSuperframe_due hw hr hub hdue hsfs).trans (if_pos hb)
  · rw [exec_hlTableLoadRetry, hlRetry_due hub hl hsend hack h4 hend, if_pos hlt]
  · rw [exec_hlTableLoadRetry, hlRetry_due hub hl hsend hack h4 hend, if_neg (Nat.not_lt.2 hge)]
    exact ⟨_, rfl, hlLoadFail_load hw, hlLoadFail_st hw⟩
  · rw [exec_hlTableCommit_hub hub, hlAtStart_eq hdue, if_pos (decide_eq_true hsfs), hlHubCommit_eq hl hack,
      wrap_16, if_neg (Nat.not_lt.2 h9)]
    refine ⟨_, rfl, ?_, hlCommitted_table hw n.isLt htab hcodes, ?_, hlCommitted_st hw, hlCommitted_sfneff hw⟩
    · rw [hlCommitted_hlOf hw]
    · rw [hlCommitted_hlOf hw]
      exact genOf_toggle _ _ _
  · rw [exec_hlTableCommit_hub hub, hlAtStart_eq hdue, if_neg (by simpa using hsfs)]
  · rw [exec_hlTableCommit_hub hub, hlHubCommit_eq hl hack, wrap_16, if_pos h9, ite_self]
  · refine exec_hlUpBurstRx_outside ?_
    rwa [hlOffset_eq]
  · rw [exec_hlUpBurstRx_no_header hr hub hwait (by rwa [hlOffset_eq]) hnone hseed]
    rfl
  · obtain ⟨t, hexec, hquiet⟩ := exec_hlUpBurstRx_ranged hr hub hwait (by rwa [hlOffset_eq]) hhd
    exact ⟨t, hexec, hquiet.of_ranged hw⟩

end Sys2Proof.Machine
end

section
/-! The family of the head links at a node: received down bursts, and the up burst that answers one (R153-R174). -/

namespace Sys2Proof.Machine

/-! ### A node receives a down burst (R153, R162, R163, R166, R169) -/

/-- The header that a node reads in the bytes of codeword 0, of a burst that arrived at t2 (R163). -/
def downHdr (h : List Nat) (t2 : Int) : HlHdr :=
  { sfn := fromLe (h.take 2), dtab := h.getD 2 0 % 8, utab := h.getD 2 0 / 8 % 8, prbu := bit (h.getD 2 0) 7
    base := bit (h.getD 3 0) 0, t1 := 256 * fromLe ((h.drop 4).take 8) + h.getD 12 0, dval := bit (h.getD 13 0) 3
    delay := fromLe ((h.drop 14).take 2), nd := h.getD 16 0 % 16, nu := h.getD 16 0 / 16, ugap := fromLe ((h.drop 18).take 2)
    t2 := t2 }

/-- A node of a decoded header leaves SEARCH, and is in step where the header gives its delay (R166, R173). -/
def State.hlFound (s : State) (n : Nat) (dval : Bool) : State :=
  let v := if s.hlState n = 0 then s.hlEnter n 1 else s
  if dval ∧ v.hlState n = 1 then v.hlEnter n 2 else v

/-- The header is kept, and its delay and tables are shown (R163, R166). -/
def State.hlHolds (s : State) (n : Nat) (hd : HlHdr) (bad : Nat) : State :=
  (((s.setHl n { s.hlOf n with miss := 0, hdr := some hd, t1 := hd.t1, cwBad := bad }).setFld F.HL_DELAY_DVAL n
    (if hd.dval then 1 else 0)).setFld F.HL_DELAY_DELAY n hd.delay).hlShow n hd.dtab hd.utab hd.base

/-- The header's delay is offered as a measurement of each domain (R166). -/
def State.hlOffers (s : State) (n : Nat) (hd : HlHdr) : State :=
  if hd.dval then [false, true].foldl (fun s x => s.offer x (4 + n) ((hd.t1 + 16 * hd.delay : Nat) -
    ((s.domStamp x 0 : Int) - 16 * s.fld F.HL_CAL_RXLAT n))) s else s

/-- A COMMIT of a pending table is noted once (R171). -/
def State.hlNotes (s : State) (n b at_ : Nat) : State :=
  let u := s.hlOf n
  if bit b 4 ∧ u.pendTab.any (fun p => p.1 == b % 16) ∧ ¬ u.commits.contains (b % 16, at_) then
    s.setHl n { u with commits := (b % 16, at_) :: u.commits } else s

/-- A probe is averaged, and both halves of the averages are reported to the hub (R170). -/
def State.hlProbed (s : State) (n dtab : Nat) (snr : List Byte) : State :=
  let v := s.hlSnr n 0 dtab snr
  let rep (s : State) (part : Nat) : State :=
    s.hlMgmt n (w32 (3 * 2 ^ 24 + dtab * 65536 + part) :: (List.range 45).map fun j =>
      s.reg .HL_SNR (((n * 2) * 8 + dtab) * 90 + 45 * part + j))
  rep (rep v 0) 1

section
variable {s v : State} {n : Nat}

theorem HlQuiet.offer (h : HlQuiet n s v) (x : Bool) (src : Nat) (theta : Int) : HlQuiet n s (v.offer x src theta) :=
  .ite (h.trans (hlQuiet_of_regs (fun hw => { hw with }) rfl rfl fun _ _ _ => rfl)) h

theorem HlQuiet.hlOffers (h : HlQuiet n s v) (hd : HlHdr) : HlQuiet n s (v.hlOffers n hd) :=
  .ite (.foldl h (fun _ _ hu => .offer hu _ _ _) _) h

theorem HlQuiet.hlNotes (h : HlQuiet n s v) (b at_ : Nat) : HlQuiet n s (v.hlNotes n b at_) := .ite (.setHl h) h

theorem HlQuiet.hlProbed (h : HlQuiet n s v) (dtab : Nat) (snr : List Byte) : HlQuiet n s (v.hlProbed n dtab snr) :=
  .hlMgmt (.hlMgmt (.hlSnr h 0 dtab snr) _) _

theorem hlFound_linked (h : s.Wf) (dval : Bool) : (s.hlFound n dval).Wf ∧ (s.hlFound n dval).hlState n ≠ 0 := by
  have entered {v : State} (hv : v.Wf) (st : Nat) (h0 : st ≠ 0) (h3 : st ≤ 3) :
      (v.hlEnter n st).Wf ∧ (v.hlEnter n st).hlState n ≠ 0 := ⟨hlEnter_wf hv n st, by rwa [hlEnter_hlState hv h3]⟩
  have linked : (if s.hlState n = 0 then s.hlEnter n 1 else s).Wf ∧
      (if s.hlState n = 0 then s.hlEnter n 1 else s).hlState n ≠ 0 := by
    split
    next => exact entered h 1 (by decide) (by decide)
    next up => exact ⟨h, up⟩
  unfold State.hlFound
  generalize (if s.hlState n = 0 then s.hlEnter n 1 else s) = v at linked ⊢
  dsimp only
  split
  · exact entered linked.1 2 (by decide) (by decide)
  · exact linked

/-- A value too wide is cut to its field. -/
theorem fld_setFld_cut (h : s.Wf) {f : Field} (hf : f.Fits 0) (i x : Nat) : (s.setFld f i x).fld f i = x % 2 ^ f.width := by
  have cut : s.setFld f i x = s.setFld f i (x % 2 ^ f.width) := by
    rw [State.setFld, State.setFld, Field.put, Field.put, Nat.mod_mod]
  rw [cut]
  exact fld_setFld_self h ⟨hf.1, hf.2.1, Nat.le_sub_one_of_lt (Nat.mod_lt _ (by positivity))⟩ i

section
variable (h : s.Wf) (hd : HlHdr) (bad : Nat)
include h

theorem hlHolds_wf : (s.hlHolds n hd bad).Wf := hlShow_wf (setFld_wf (setFld_wf (setHl_wf h n _) _ n _) _ n _)

theorem hlHolds_hlOf : (s.hlHolds n hd bad).hlOf n =
    { s.hlOf n with miss := 0, hdr := some hd, t1 := hd.t1, cwBad := bad } := by
  rw [State.hlHolds, hlShow_hlOf, setFld_hlOf, setFld_hlOf, hlOf_setHl_self h]

theorem hlHolds_hlState : (s.hlHolds n hd bad).hlState n = s.hlState n := by
  rw [State.hlHolds, hlShow_hlState (setFld_wf (setFld_wf (setHl_wf h n _) _ n _) _ n _), State.hlState,
    fld_setFld_reg (by decide), fld_setFld_reg (by decide), setHl_fld, State.hlState]

theorem hlHolds_delay : (s.hlHolds n hd bad).fld F.HL_DELAY_DELAY n = hd.delay % 65536 := by
  rw [State.hlHolds, hlShow_fld_reg (by decide)]
  exact fld_setFld_cut (setFld_wf (setHl_wf h n _) _ n _) (by decide) n hd.delay

theorem hlHolds_dtab (hdtab : hd.dtab < 8) : (s.hlHolds n hd bad).fld F.HL_STATUS_DTAB n = hd.dtab :=
  hlShow_dtab (setFld_wf (setFld_wf (setHl_wf h n _) _ n _) _ n _) hdtab

theorem hlHolds_utab (hutab : hd.utab < 8) : (s.hlHolds n hd bad).fld F.HL_STATUS_UTAB n = hd.utab :=
  hlShow_utab (setFld_wf (setFld_wf (setHl_wf h n _) _ n _) _ n _) hutab

/-- What a header has left stands wherever the node's course has gone on from it (R163, R166, R173). -/
theorem HlQuiet.of_held (hq : HlQuiet n ((s.hlFound n hd.dval).hlHolds n hd bad) v) (hdtab : hd.dtab < 8)
    (hutab : hd.utab < 8) : (v.hlOf n).hdr = some hd ∧ (v.hlOf n).miss = 0 ∧ v.hlState n ≠ 0 ∧
      v.fld F.HL_DELAY_DELAY n = hd.delay % 65536 ∧ v.fld F.HL_STATUS_DTAB n = hd.dtab ∧ v.fld F.HL_STATUS_UTAB n = hd.utab := by
  obtain ⟨found, linked⟩ := hlFound_linked (n := n) h hd.dval
  have held := hlHolds_wf (n := n) found hd bad
  have unit := (hq.unit held).trans (congrArg HlUnit.core (hlHolds_hlOf found hd bad))
  have state := (hq.fld held F.HL_STATUS_STATE (by decide) n).trans (hlHolds_hlState found hd bad)
  exact ⟨congrArg HlUnit.hdr unit, congrArg HlUnit.miss unit, fun searching => linked (state.symm.trans searching),
    (hq.fld held F.HL_DELAY_DELAY (by decide) n).trans (hlHolds_delay found hd bad),
    (hq.fld held F.HL_STATUS_DTAB (by decide) n).trans (hlHolds_dtab found hd bad hdtab),
    (hq.fld held F.HL_STATUS_UTAB (by decide) n).trans (hlHolds_utab found hd bad hutab)⟩

end
end

section
variable {s : State} {n : Fin 2} {rx : HlRx} {h : List Nat}

theorem exec_hlDownBurstRx_no_header (hr : s.timeRuns = true) (hnode : s.hlNode n = true) (hnone : headerOf rx.decoded = none) :
    exec (.hlDownBurstRx n rx) s =
      let v := if s.hlState n = 0 then s else s.hlNoHeader n
      .next (if (v.hlOf n).holds false rx.seed then v.hlDeliver n 0 rx.decoded else v.hlMismatch n) := by
  have received : ¬ (¬ s.timeRuns = true ∨ ¬ s.hlNode n = true) := by simp [hr, hnode]
  refine (if_neg received).trans ?_
  simp only [hnone]

theorem exec_hlDownBurstRx_header (hr : s.timeRuns = true) (hnode : s.hlNode n = true) (hh : headerOf rx.decoded = some h) :
    exec (.hlDownBurstRx n rx) s =
      let hd := downHdr h (s.hlT4 n)
      let v := ((((s.hlFound n hd.dval).hlHolds n hd (cwFails rx.decoded)).hlOffers n hd).hlNotes n (h.getD 20 0)
        (fromLe ((h.drop 22).take 2))).hlNodeCommit n hd.sfn
      let w := v.hlMismatch n
      if rx.seed ≠ (v.hlOf n).seedFor false hd.base hd.dtab then
        .next (if hd.base then w else w.setHl n { w.hlOf n with stale := some (tabIx false hd.dtab) })
      else if ¬ bit (h.getD 2 0) 6 then .next (v.hlDeliver n hd.sfn rx.decoded)
      else .next ((v.hlDeliver n hd.sfn rx.decoded).hlProbed n hd.dtab rx.snr) := by
  have received : ¬ (¬ s.timeRuns = true ∨ ¬ s.hlNode n = true) := by simp [hr, hnode]
  refine (if_neg received).trans ?_
  simp only [hh]
  rfl

/-- After a down burst with a header its course follows that header (R163, R166). -/
theorem exec_hlDownBurstRx_held (hr : s.timeRuns = true) (hnode : s.hlNode n = true) (hh : headerOf rx.decoded = some h) :
    let hd := downHdr h (s.hlT4 n)
    ∃ t, exec (.hlDownBurstRx n rx) s = .next t ∧ HlQuiet n ((s.hlFound n hd.dval).hlHolds n hd (cwFails rx.decoded)) t := by
  have noted (v : State) (hd : HlHdr) : HlQuiet n v (((v.hlOffers n hd).hlNotes n (h.getD 20 0)
      (fromLe ((h.drop 22).take 2))).hlNodeCommit n hd.sfn) := .hlNodeCommit (.hlNotes (.hlOffers (.refl n v) hd) _ _) _
  rw [exec_hlDownBurstRx_header hr hnode hh]
  dsimp only
  split
  · exact ⟨_, rfl, .ite (noted _ _).hlMismatch (.setHl (noted _ _).hlMismatch)⟩
  · split
    · exact ⟨_, rfl, (noted _ _).hlDeliver _ _⟩
    · exact ⟨_, rfl, ((noted _ _).hlDeliver _ _).hlProbed _ _⟩

end

/-! ### A node sends its up burst (R153, R164, R174) -/

section
variable {s : State} {n : Fin 2} {hd : HlHdr}

theorem exec_hlUpBurstTx_early (hh : (s.hlOf n).hdr = some hd) (he : (s.ltMs : Int) < hd.launch) :
    exec (.hlUpBurstTx n) s = .next s := by
  change execHlUpBurstTx n s = _
  simp only [execHlUpBurstTx, hh]
  exact if_pos (.inr (.inr (.inr he)))

section
variable (hh : (s.hlOf n).hdr = some hd) (hr : s.timeRuns = true) (hnode : s.hlNode n = true) (hst : s.hlState n ≠ 0)
  (hl : hd.launch ≤ (s.ltMs : Int))
include hh hr hnode hst hl

theorem exec_hlUpBurstTx_bell (hb : s.hlNodeBell n hd = true) :
    exec (.hlUpBurstTx n) s = .next ((s.setHl n { s.hlOf n with hdr := none }).bump F.HL_ERR_SFSKIP n) := by
  have due : ¬ (¬ s.timeRuns = true ∨ ¬ s.hlNode n = true ∨ s.hlState n = 0 ∨ (s.ltMs : Int) < hd.launch) := by
    simp [hr, hnode, hst, hl]
  change execHlUpBurstTx n s = _
  simp only [execHlUpBurstTx, hh, if_neg due]
  exact if_pos hb

theorem exec_hlUpBurstTx_send (hb : s.hlNodeBell n hd = false) : ∃ cut probe codes seed header, exec (.hlUpBurstTx n) s =
    .next (let w := ((s.hlOf n).acks.foldl (fun s w => s.hlMgmt n [w]) s).hlSend n true hd.launch cut hd.nu probe codes
            seed header
      (w.setHl n { w.hlOf n with hdr := none, acks := [], stale := none }).setReg .HL_TURN n
        (w32 (wrap ((hd.launch - hd.t2) / 16) 32))) := by
  have due : ¬ (¬ s.timeRuns = true ∨ ¬ s.hlNode n = true ∨ s.hlState n = 0 ∨ (s.ltMs : Int) < hd.launch) := by
    simp [hr, hnode, hst, hl]
  change ∃ cut probe codes seed header, execHlUpBurstTx n s = _
  simp only [execHlUpBurstTx, hh, if_neg due, hb]
  exact ⟨_, _, _, _, _, rfl⟩

/-- The acknowledgements join the buffer, one burst leaves, and the header's turn is over. -/
theorem exec_hlUpBurstTx_sent (hb : s.hlNodeBell n hd = false) : ∃ v bytes syms, HlQuiet n s v ∧ exec (.hlUpBurstTx n) s =
    .next (let w := v.emit (.hlBurst n true hd.launch bytes syms)
      (w.setHl n { w.hlOf n with hdr := none, acks := [], stale := none }).setReg .HL_TURN n
        (w32 (wrap ((hd.launch - hd.t2) / 16) 32))) := by
  have acked : HlQuiet n s ((s.hlOf n).acks.foldl (fun s w => s.hlMgmt n [w]) s) :=
    .foldl (.refl n s) (fun _ _ hu => hu.hlMgmt _) _
  obtain ⟨cut, probe, codes, seed, header, hexec⟩ := exec_hlUpBurstTx_send hh hr hnode hst hl hb
  obtain ⟨v, bytes, syms, hv, hsend⟩ := hlSend_eq_emit n ((s.hlOf n).acks.foldl (fun s w => s.hlMgmt n [w]) s) true hd.launch
    cut hd.nu probe codes seed header
  exact ⟨v, bytes, syms, acked.trans hv, by rw [hexec, hsend]⟩

end
end

theorem hlNoHeader_eq (s : State) (n : Nat) : s.hlNoHeader n =
    (s.bump F.HL_ERR_HDRLOST n).setHl n { s.hlOf n with miss := (s.hlOf n).miss + 1, hdr := none } := by
  rw [State.hlNoHeader, bump_hlOf]

theorem hlNoHeader_holds {s : State} (h : s.Wf) (n seed : Nat) (up : Bool) :
    ((s.hlNoHeader n).hlOf n).holds up seed = (s.hlOf n).holds up seed := by
  have counted : (s.bump F.HL_ERR_HDRLOST n).Wf := setFld_wf h _ n _
  rw [hlNoHeader_eq, hlOf_setHl_self counted]
  rfl

/-- Settles O36. A lost header changes no table, so the pilots are judged by the tables held before; what follows a decoded
header, and what fills the up burst, leaves the link's course alone. -/
theorem headLinkNodeResults : Obligations.HeadLinkNodeResults := by
  refine fun s n rx h hd hw hr hnode => ⟨fun hnone => ?_, fun hh => ?_, fun hhdr hst => ⟨fun hl hb => ?_,
    fun hl hb => exec_hlUpBurstTx_bell hhdr hr hnode hst hl hb, exec_hlUpBurstTx_early hhdr⟩⟩
  · have held : ((if s.hlState n = 0 then s else s.hlNoHeader n).hlOf n).holds false rx.seed =
        (s.hlOf n).holds false rx.seed := by
      split
      · rfl
      · exact hlNoHeader_holds hw n rx.seed false
    rw [exec_hlDownBurstRx_no_header hr hnode hnone]
    dsimp only
    rw [held, hlNoHeader_eq]
    rfl
  · obtain ⟨t, hexec, hquiet⟩ := exec_hlDownBurstRx_held hr hnode hh
    obtain ⟨hdr, miss, state, delay, dtab, utab⟩ := hquiet.of_held hw _ _ (Nat.mod_lt _ (by decide))
      (Nat.mod_lt _ (by decide))
    exact ⟨t, downHdr h (s.hlT4 n), hexec, hdr, miss, state, rfl, rfl, rfl, delay, dtab, utab⟩
  · obtain ⟨v, bytes, syms, hv, hexec⟩ := exec_hlUpBurstTx_sent hhdr hr hnode hst hl hb
    have hsent : (v.emit (.hlBurst n true hd.launch bytes syms)).Wf := (emit_keeps _ (Keeps.refl v)).wf (hv.wf hw)
    refine ⟨_, bytes, syms, hexec, congrArg (_ :: ·) hv.out, ?_, ?_, ?_, ?_⟩
    · rw [setReg_hlOf, hlOf_setHl_self hsent]
    · rw [setReg_hlOf, hlOf_setHl_self hsent]
    · rw [setReg_hlOf, hlOf_setHl_self hsent]
    · rw [reg_setReg_self (setHl_wf hsent n _)]
      rfl

end Sys2Proof.Machine
end

section
/-! The loss of a head link, and the commands of HL_CMD and HL_TBLCMD (R170-R174). -/

namespace Sys2Proof.Machine

/-! ### The loss of a link (R173) -/

section
variable {s : State} {n : Nat}

theorem setHlTable_fld {f : Field} (hf : f.reg ≠ .HL_TBL) (v : State) (up : Bool) (t : Nat) (ws : List Word) (i : Nat) :
    (v.setHlTable n up t ws).fld f i = v.fld f i :=
  each_eq (·.fld f i) _ (fun v _ => congrArg f.get (reg_setReg_ne v hf _ i _)) v 36

/-- At a hub and at a node the link enters its lowest state and its delay is no longer valid; a node's tables are not among
the registers that show it. -/
theorem hlDown_fld {f : Field} (hf : f.reg ≠ .HL_TBL) (i : Nat) : ∃ x, (s.hlDown n).fld f i =
    (((s.hlEnter n 0).setHl n x).setFld F.HL_DELAY_DVAL n 0).fld f i := by
  unfold State.hlDown
  dsimp only
  split
  · exact ⟨_, each_eq (·.fld f i) _ (fun v k => setHlTable_fld hf v _ _ _ i) _ 16⟩
  · exact ⟨_, rfl⟩

theorem hlDown_fld_status {f : Field} (hf : f.reg = .HL_STATUS) (i : Nat) : (s.hlDown n).fld f i = (s.hlEnter n 0).fld f i := by
  obtain ⟨x, hx⟩ := hlDown_fld (s := s) (n := n) (f := f) (by rw [hf]; decide) i
  rw [hx, fld_setFld_reg (by rw [hf]; decide), setHl_fld]

theorem hlDown_hlState (h : s.Wf) : (s.hlDown n).hlState n = 0 := by
  rw [State.hlState, hlDown_fld_status rfl]
  exact hlEnter_hlState h (by decide)

theorem hlDown_linkchg (h : s.Wf) (hst : s.hlState n ≠ 0) : (s.hlDown n).flag F.HL_STATUS_LINKCHG n = true := by
  rw [State.flag, hlDown_fld_status rfl]
  exact hlEnter_linkchg h hst

theorem hlDown_dval (h : s.Wf) : (s.hlDown n).flag F.HL_DELAY_DVAL n = false := by
  obtain ⟨x, hx⟩ := hlDown_fld (s := s) (n := n) (f := F.HL_DELAY_DVAL) (by decide) n
  rw [State.flag, hx, fld_setFld_self (setHl_wf (hlEnter_wf h n 0) n x) (by decide)]
  rfl

theorem exec_hlLinkLoss_lost {n : Fin 2} (he : s.hlEn n = true) (hst : s.hlState n ≠ 0)
    (hl : s.act F.HL_LINK_NLOSS n ≤ (s.hlOf n).miss) : exec (.hlLinkLoss n) s = .next (s.hlDown n) :=
  congrArg Host.Outcome.next (if_pos ⟨he, hst, hl⟩)

end

/-! ### Commands and the Bell (R170, R171, R173, R174) -/

theorem regAt_HL_CMD : ∀ n : Fin 2, Reg.offset .HL_CMD n % 4 = 0 ∧ regAt (Reg.offset .HL_CMD n) = some (.HL_CMD, n.val) := by
  decide +kernel

theorem regAt_HL_TBLCMD : ∀ n : Fin 2, Reg.offset .HL_TBLCMD n % 4 = 0 ∧
    regAt (Reg.offset .HL_TBLCMD n) = some (.HL_TBLCMD, n.val) := by
  decide +kernel

/-- The word of HL_TBLCMD that asks for a load of a table (R171). -/
def tblWord (up : Bool) (tab : Fin 8) : Word := w32 (16 + 8 * up.toNat + tab)

theorem tblWord_fields : ∀ (up : Bool) (tab : Fin 8), bit (tblWord up tab).toNat 4 = true ∧ bit (tblWord up tab).toNat 3 = up ∧
    bits (tblWord up tab).toNat 2 0 = tab := by decide +kernel

section
variable {s : State} {req : Req} {n : Fin 2} {w : Word}

theorem arrive_HL_CMD (h : s.writes req .HL_CMD n w = true) : s.arrive req .HL_CMD n w = (s.hlCmd n w).answered req := by
  obtain ⟨h4, hat⟩ := regAt_HL_CMD n
  exact arrive_performed h rfl h4 hat

theorem arrive_HL_TBLCMD (h : s.writes req .HL_TBLCMD n w = true) :
    s.arrive req .HL_TBLCMD n w = (s.hlTblCmd n w).answered req := by
  obtain ⟨h4, hat⟩ := regAt_HL_TBLCMD n
  exact arrive_performed h rfl h4 hat

theorem exec_hlBell (h : s.writes req .HL_CMD n 1 = true) : exec (.hlBell req n) s =
    .next ((s.setHl n { s.hlOf n with bellReq := true }).answered req) := congrArg Host.Outcome.next (arrive_HL_CMD h)

theorem exec_hlLrst (h : s.writes req .HL_CMD n 2 = true) : exec (.hlLrst req n) s =
    .next ((if s.hlEn n then s.hlDown n else s).answered req) := by
  have written : s.hlCmd n 2 = if bit (2 : Word).toNat 1 ∧ s.hlEn n then s.hlDown n else s := rfl
  have lrst : s.hlCmd n 2 = if s.hlEn n then s.hlDown n else s :=
    written.trans (if_congr (and_iff_right (by decide)) rfl rfl)
  exact congrArg Host.Outcome.next ((arrive_HL_CMD h).trans (congrArg (State.answered · req) lrst))

theorem exec_hlPrbnow (h : s.writes req .HL_CMD n 4 = true) : exec (.hlPrbnow req n) s =
    .next ((if s.act F.HL_CFG_ROLE n = 1 then s.raise F.HL_STATUS_CMDREF n
      else s.setHl n { s.hlOf n with prbNow := true }).answered req) := congrArg Host.Outcome.next (arrive_HL_CMD h)

theorem exec_hlTblcmdGo {up : Bool} {tab : Fin 8} (h : s.writes req .HL_TBLCMD n (tblWord up tab) = true) :
    exec (.hlTblcmdGo req n up tab) s = .next ((s.hlTblCmd n (tblWord up tab)).answered req) := by
  have word : w32 (16 + 8 * b2n up + tab) = tblWord up tab := by cases up <;> rfl
  change Host.Outcome.next (s.arrive req .HL_TBLCMD n (w32 (16 + 8 * b2n up + tab))) = _
  rw [word, arrive_HL_TBLCMD h]

theorem hlTblCmd_go (s : State) (n : Nat) (up : Bool) (tab : Fin 8) : s.hlTblCmd n (tblWord up tab) =
    let st := s.fld F.HL_TBLSTAT_ST n
    let ws := (List.range 36).map fun j => s.reg .HL_TBLSHD (36 * n + j)
    if s.act F.HL_CFG_ROLE n = 1 ∨ st = 1 ∨ st = 2 then s.raise F.HL_STATUS_CMDREF n
    else if symbolBits (unpackCodes ws) < 64 then s.setFld F.HL_TBLSTAT_ST n 3
    else s.hlStartLoad n up tab ws := by
  obtain ⟨go, dir, num⟩ := tblWord_fields up tab
  simp only [State.hlTblCmd, go, dir, num, not_true, if_false]

theorem exec_hlBellEnd {e : Nat} (h : (s.hlOf n).bellEnd = some e) : exec (.hlBellEnd n) s =
    .next (if e ≤ s.ltMs + us256 then (s.setHl n { s.hlOf n with bellEnd := none }).hlEvent n 5 0 else s) := by
  change execHlBellEnd n s = _
  simp only [execHlBellEnd, h]

end

/-- Settles O37. A link that is lost enters its lowest state before its tables are forgotten; each command is one bit of the
word written, and a load asked for is refused at a node and while another is under way. -/
theorem headLinkCommands : Obligations.HeadLinkCommands := by
  refine fun s req n up tab e hw => ⟨fun he hst hl => ⟨exec_hlLinkLoss_lost he hst hl, hlDown_hlState hw, hlDown_linkchg hw hst,
    hlDown_dval hw⟩, exec_hlLrst, exec_hlBell, fun hwr => ⟨fun hrole => ?_, fun hrole => ?_⟩,
    fun hbell he => ?_, fun hbell he => ?_, fun hwr => ⟨fun hbusy => ?_, fun hrole h1 h2 => ⟨fun hshort => ?_, fun hlong => ?_⟩⟩⟩
  · rw [exec_hlPrbnow hwr, if_pos hrole]
  · rw [exec_hlPrbnow hwr, if_neg hrole]
  · rw [exec_hlBellEnd hbell, if_pos he]
  · rw [exec_hlBellEnd hbell, if_neg (Nat.not_le.2 he)]
  · rw [exec_hlTblcmdGo hwr, hlTblCmd_go]
    dsimp only
    rw [if_pos hbusy]
  · rw [exec_hlTblcmdGo hwr, hlTblCmd_go]
    dsimp only
    rw [if_neg (by simp [hrole, h1, h2]), if_pos hshort]
  · rw [exec_hlTblcmdGo hwr, hlTblCmd_go]
    dsimp only
    rw [if_neg (by simp [hrole, h1, h2]), if_neg (Nat.not_lt.2 hlong)]
    rfl

end Sys2Proof.Machine
end

section
/-! The family of the Plaza: where a presented packet goes and what a class-A transfer leaves (R178, R182, R183, R186), and what
the idle timeout and FLUSH leave of an Arcade (R231, R232). -/

namespace Sys2Proof.Machine

/-! ### A presented packet (R183, R186) -/

theorem exec_packetRoute_absent {s : State} {typ : Fin 16} {idx : Fin 256} (h : takePacket typ idx s.presented = none) :
    exec (.packetRoute typ idx) s = .next s := by
  change execPacketRoute typ idx s = _
  simp only [execPacketRoute, h]

theorem exec_packetRoute_one {s : State} {typ : Fin 16} {idx : Fin 256} {p : Packet} {rest : List Packet} {d : Nat}
    (h : takePacket typ idx s.presented = some (p, rest)) (hd : p.dests = some [d]) :
    exec (.packetRoute typ idx) s = .next (({ s with presented := rest } : State).deliver d p) := by
  change execPacketRoute typ idx s = _
  simp only [execPacketRoute, h, hd, List.foldl_cons, List.foldl_nil]

section
variable (s : State) (p : Packet) {d : Nat}

theorem deliver_crossing (h : 0x80 ≤ d) (h' : d < 0x100) :
    s.deliver d p = s.xSample (d - 0x80) (s.pktMs p) (.packet p.payload) := by
  rw [State.deliver, if_neg (by omega), if_pos ⟨h, h'⟩]

theorem deliver_headLink_zero (h : 0x100 ≤ d) (h' : d < 0x13F) : s.deliver d p = s.hlQueue 0 (d - 0x100) p := by
  rw [State.deliver, if_neg (by omega), if_neg (by omega), if_pos ⟨h, h'⟩]

theorem deliver_headLink_one (h : 0x140 ≤ d) (h' : d < 0x17F) : s.deliver d p = s.hlQueue 1 (d - 0x140) p := by
  rw [State.deliver, if_neg (by omega), if_neg (by omega), if_neg (by omega), if_pos ⟨h, h'⟩]

end

/-! ### A completed transfer (R178, R182, R186) -/

theorem exec_plazaTransferComplete_notA {s : State} {r : PzReq} (h : s.pzClass r ≠ .a) (g : PzTgt) (cycles : Nat)
    (fourth : Bool) : exec (.plazaTransferComplete r g cycles fourth) s = .next s := if_pos h

theorem transferNoted_bound {s : State} {g : PzTgt} (h : s.pzBound g = true) (cycles : Nat) (fourth : Bool) :
    s.transferNoted g cycles fourth = ((s.setFld F.PZ_AMAX_AMAX 0 (max (s.fld F.PZ_AMAX_AMAX) (min cycles 65535))).raiseIf
      (decide (40 < cycles)) F.PZ_STATUS_ABND).raiseIf fourth F.PZ_STATUS_ACONT := by
  simp only [State.transferNoted, h, Bool.and_true, gt_iff_lt]

theorem transferNoted_unbound {s : State} {g : PzTgt} (h : s.pzBound g = false) (cycles : Nat) (fourth : Bool) :
    s.transferNoted g cycles fourth = s.setFld F.PZ_AMAX_AMAX 0 (max (s.fld F.PZ_AMAX_AMAX) (min cycles 65535)) := by
  simp only [State.transferNoted, h, Bool.and_false]
  rfl

/-! ### The idle timeout (R231) -/

/-- The register that shows the idle releases of Arcade a (R231). -/
def idleField (a : Nat) : Field := if a < 32 then F.ARC_IDLEN0_IDLE else F.ARC_IDLEN1_IDLE

theorem idleField_cases {P : Field → Prop} (h0 : P F.ARC_IDLEN0_IDLE) (h1 : P F.ARC_IDLEN1_IDLE) (a : Nat) : P (idleField a) := by
  unfold idleField
  split
  · exact h0
  · exact h1

/-- Setting bit i of a field keeps it within a width that holds the bit. -/
theorem or_two_pow_le_maxOf {v i n : Nat} (hv : v ≤ maxOf n) (hi : i < n) : v ||| 2 ^ i ≤ maxOf n :=
  Nat.le_sub_one_of_lt (Nat.or_lt_two_pow (Nat.lt_of_le_sub_one (by positivity) hv) (Nat.pow_lt_pow_right (by decide) hi))

theorem bit_or_two_pow (v i : Nat) : bit (v ||| 2 ^ i) i = true := by
  simp [bit, Nat.testBit_or, Nat.testBit_two_pow_self]

/-- The Arcade's bit in ARC_IDLEN is set, whatever stood there. -/
theorem idleField_marked {s : State} (h : s.Wf) (a : Nat) :
    bit ((s.setFld (idleField a) 0 (s.fld (idleField a) ||| 2 ^ (a % 32))).fld (idleField a)) (a % 32) = true := by
  have hw : (idleField a).width = 32 := idleField_cases (P := (·.width = 32)) (by decide) (by decide) a
  obtain ⟨hlo, hhi⟩ : (idleField a).lo ≤ (idleField a).hi ∧ (idleField a).hi < 32 :=
    idleField_cases (P := fun f => f.lo ≤ f.hi ∧ f.hi < 32) (by decide) (by decide) a
  have hfit : s.fld (idleField a) ||| 2 ^ (a % 32) ≤ maxOf (idleField a).width :=
    or_two_pow_le_maxOf (fld_le s _ 0) (hw.symm ▸ Nat.mod_lt a (by decide : 0 < 32))
  rw [fld_setFld_self h ⟨hlo, hhi, hfit⟩]
  exact bit_or_two_pow _ _

theorem exec_arcadeIdleTimeout_notDue {s : State} {a : Fin 64} (h : s.arcIdleDue a = false) :
    exec (.arcadeIdleTimeout a) s = .next s := if_pos (by simp [h])

theorem exec_arcadeIdleTimeout_idlen {s t : State} {a : Fin 64} (hw : s.Wf) (h : s.arcIdleDue a = true)
    (ht : exec (.arcadeIdleTimeout a) s = .next t) : bit (t.fld (idleField a)) (a.val % 32) = true := by
  have hreg : (idleField a).reg ∉ noticeRegs := idleField_cases (P := (·.reg ∉ noticeRegs)) (by decide) (by decide) a
  change execArcadeIdleTimeout a s = _ at ht
  rw [execArcadeIdleTimeout, if_neg (by simp [h])] at ht
  obtain rfl := Host.Outcome.next.inj ht
  rw [(notified_notice _ _ _ _ _ _ _).fld hreg]
  refine idleField_marked ((setArc_keeps _ _ (Keeps.refl _)).wf ?_) a
  split
  · split
    · exact (arcMark_keeps _ _ _ (Keeps.refl s)).wf hw
    · exact hw
  · exact hw

/-! ### FLUSH (R222, R225, R232) -/

/-- Of an Arcade's packets those that Rd has passed leave, and otherwise only Rd and what hangs on it follow. -/
theorem settle_eq (c : Arc) : ∃ cur rd ct,
    c.settle = { c with pkts := c.pkts.dropWhile fun p => decide (p.2 ≤ c.rd), cur := cur, rd := rd, ct := ct } := by
  unfold Arc.settle
  dsimp only
  split
  · exact ⟨_, _, _, rfl⟩
  · exact ⟨_, _, _, rfl⟩

theorem arcEngage_live (s : State) (a : Nat) : (s.arcEngage a).live = s.live := by
  unfold State.arcEngage
  dsimp only
  split
  · split
    · rfl
    · rfl
  · rfl

theorem arcEngage_arcOf {s : State} (h : s.Wf) (a : Nat) : ∃ ct, (s.arcEngage a).arcOf a = { s.arcOf a with ct := ct } := by
  unfold State.arcEngage
  dsimp only
  split
  · split
    · exact ⟨_, arcOf_setArc_self h _ _⟩
    · exact ⟨_, rfl⟩
  · exact ⟨_, rfl⟩

theorem arcSettle_fld (s : State) (a : Nat) (f : Field) (i : Nat) : (s.arcSettle a).fld f i = s.fld f i :=
  congrArg (fun l : Tab Word => f.get (l.get regDefault (f.reg.key i))) (arcEngage_live _ a)

/-- What settling leaves of an Arcade: the packets not passed, and everything but Rd, LIM and what hangs on them. -/
theorem arcSettle_arcOf {s : State} (h : s.Wf) (a : Nat) : ∃ cur rd ct lim, (s.arcSettle a).arcOf a =
    { s.arcOf a with
      pkts := (s.arcOf a).pkts.dropWhile fun p => decide (p.2 ≤ (s.arcOf a).rd), cur := cur, rd := rd, ct := ct, lim := lim } := by
  obtain ⟨cur, rd, _, hsettle⟩ := settle_eq (s.arcOf a)
  obtain ⟨ct, hengage⟩ := arcEngage_arcOf
    ((setArc_keeps a ((s.arcOf a).settle.follow (s.arcQl a)) (Keeps.refl s)).wf h) a
  refine ⟨cur, rd, ct, ((s.arcOf a).settle.follow (s.arcQl a)).lim, ?_⟩
  rw [State.arcSettle, hengage, arcOf_setArc_self h, Arc.follow, hsettle]

/-- The complete packets that a flush leaves: the one that the consumer has begun (R232). -/
def Arc.begun (c : Arc) : List (Nat × Nat) := c.pkts.filter fun p => c.cur = some p.2

/-- Where Rd stands before the end of the packet begun, the flush's survivors have not been passed. -/
theorem begun_unpassed {c : Arc} (h : ∀ e, c.cur = some e → c.rd < e) :
    (c.begun.dropWhile fun p => decide (p.2 ≤ c.rd)) = c.begun := by
  rw [List.dropWhile_eq_self_iff]
  intro hl
  have hmem := List.getElem_mem hl
  have hcur : c.cur = some c.begun[0].2 := of_decide_eq_true (List.mem_filter.1 hmem).2
  simp [h _ hcur]

theorem arcFlush_pending {s : State} {a : Nat} (h : (s.arcOf a).flp = true) : s.arcFlush a = s := if_pos h

/-- What a FLUSH leaves where none is pending. -/
theorem arcFlush_eq {s : State} {a : Nat} (h : (s.arcOf a).flp = false) :
    s.arcFlush a = ((s.setArc a { s.arcOf a with pkts := (s.arcOf a).begun, flp := true }).arcSettle a).bump F.ARC_CNT_FLUSHN a
      ((s.arcOf a).pkts.length - (s.arcOf a).begun.length) := if_neg (by simp [h])

section
variable {s : State} (hw : s.Wf) {a : Nat} (h : (s.arcOf a).flp = false)
include hw h

theorem arcFlush_arcOf (hrd : ∀ e, (s.arcOf a).cur = some e → (s.arcOf a).rd < e) : ∃ cur rd ct lim,
    (s.arcFlush a).arcOf a =
      { s.arcOf a with pkts := (s.arcOf a).begun, flp := true, cur := cur, rd := rd, ct := ct, lim := lim } := by
  obtain ⟨cur, rd, ct, lim, hsettle⟩ := arcSettle_arcOf
    ((setArc_keeps a { s.arcOf a with pkts := (s.arcOf a).begun, flp := true } (Keeps.refl s)).wf hw) a
  refine ⟨cur, rd, ct, lim, ?_⟩
  rw [arcFlush_eq h, bump_arcOf, hsettle, arcOf_setArc_self hw]
  dsimp only
  rw [begun_unpassed hrd]

theorem arcFlush_flushn : (s.arcFlush a).fld F.ARC_CNT_FLUSHN a =
    min (s.fld F.ARC_CNT_FLUSHN a + ((s.arcOf a).pkts.length - (s.arcOf a).begun.length)) (maxOf F.ARC_CNT_FLUSHN.width) := by
  have hset := (setArc_keeps a { s.arcOf a with pkts := (s.arcOf a).begun, flp := true } (Keeps.refl s)).wf hw
  rw [arcFlush_eq h, fld_bump_self ((arcSettle_keeps a (Keeps.refl _)).wf hset) (by decide), arcSettle_fld]
  rfl

end

/-- Settles O38. A packet with one destination is delivered there, and the ranges of the destinations exclude each other; a
transfer notes its flags under R182's bound; a flush keeps the packet begun, which settling leaves since Rd has not passed it. -/
theorem plazaArcadeResults : Obligations.PlazaArcadeResults := by
  refine ⟨fun s typ idx p rest r g d cycles fourth => ⟨fun ht => ⟨exec_packetRoute_unrouted ht, exec_packetRoute_arcade ht,
    fun hd hlo hhi => ?_, fun hd hlo hhi => ?_, fun hd hlo hhi => ?_⟩, exec_packetRoute_absent,
    fun hc => exec_plazaTransferComplete_notA hc g cycles fourth, fun hc => ⟨fun hb => ?_, fun hb => ?_⟩⟩,
    fun s req a hw => ⟨fun hdue => ?_, exec_arcadeIdleTimeout_notDue, fun hwr => ⟨fun hflp => ?_, fun hflp hrd => ?_⟩⟩⟩
  · rw [exec_packetRoute_one ht hd, deliver_crossing _ p hlo hhi]
  · rw [exec_packetRoute_one ht hd, deliver_headLink_zero _ p hlo hhi]
  · rw [exec_packetRoute_one ht hd, deliver_headLink_one _ p hlo hhi]
  · rw [exec_plazaTransferComplete hc, transferNoted_bound hb]
  · rw [exec_plazaTransferComplete hc, transferNoted_unbound hb]
  · obtain ⟨t, ht, harc⟩ := exec_arcadeIdleTimeout hw hdue
    exact ⟨t, ht, by rw [harc], by rw [harc], by rw [harc], exec_arcadeIdleTimeout_idlen hw hdue ht⟩
  · rw [exec_arcadeFlush hwr, arcFlush_pending hflp]
  · obtain ⟨cur, rd, ct, lim, harc⟩ := arcFlush_arcOf hw hflp hrd
    exact ⟨s.arcFlush a, exec_arcadeFlush hwr, by rw [harc], congrArg Arc.pkts harc, by rw [harc], by rw [harc],
      by rw [harc], arcFlush_flushn hw hflp⟩

end Sys2Proof.Machine
end

section
/-! The family of the Crossings: what a pass of the engine records (R191, R195), the deadline of a WINDOW cell that falls due
(R192, R200), and the commands of XC_CMD (R196, R212). -/

namespace Sys2Proof.Machine

/-! ### The engine's queue (R191, R195) -/

theorem exec_crossingPass_empty {s : State} (h : s.xq = []) (delay : Nat) : exec (.crossingPass delay) s = .next s := by
  change execCrossingPass delay s = _
  simp only [execCrossingPass, h]

/-- What the engine records of an entry's delay: the longest, saturating, and a flag beyond 1000 CK_CORE cycles (R195). -/
def State.delayNoted (s : State) (delay : Nat) : State :=
  (s.setFld F.XC_EVMAX_N 0 (max (s.fld F.XC_EVMAX_N) (min delay 65535))).raiseIf (decide (1000 < delay)) F.XC_STATUS_EVLATE

theorem exec_crossingPass_cons {s : State} {e : XEnt} {rest : List XEnt} (h : s.xq = e :: rest) (delay : Nat) :
    exec (.crossingPass delay) s = .next ((({ s with xq := rest } : State).xPass e).delayNoted delay) := by
  change execCrossingPass delay s = _
  simp only [execCrossingPass, h]
  rfl

/-! ### Deadlines (R192, R200) -/

/-- An awaited interval end is due where LT has reached it plus GRACE and no entry of it waits in the queue (R192). -/
def State.xDue (s : State) (c : Nat) (d : Nat × Nat) : Bool :=
  decide (d.2 + s.act F.XC_CFG_GRACE c * us256 ≤ s.ltMs) && !(s.xq.any fun e => decide (e.what = .deadline c d.1 d.2))

section
variable {s : State} {c : Fin 128}

theorem xDue_iff {d : Nat × Nat} : s.xDue c d = true ↔
    d.2 + s.act F.XC_CFG_GRACE c * us256 ≤ s.ltMs ∧ ∀ e ∈ s.xq, e.what ≠ .deadline c d.1 d.2 := by
  simp [State.xDue]

/-- An open window awaits its end and nothing else (R200). -/
theorem xAwaited_window {tr : Nat} (hprim : s.xPrim c = 3) (hwin : (s.cellOf c).win = some tr) :
    s.xAwaited c = [(1, tr + 256 * s.act F.XC_P1_P c)] := by
  simp only [State.xAwaited, hprim, hwin, Option.map_some]
  rfl

/-- The only awaited end that is due joins the queue. -/
theorem exec_crossingDeadline_one {d : Nat × Nat} (hact : (s.cellOf c).act = true) (hinert : (s.cellOf c).inert = false)
    (hone : s.xAwaited c = [d]) (hdue : s.xDue c d = true) :
    exec (.crossingDeadline c) s = .next (s.xJoin { src := 0x1FF, ms := d.2, what := .deadline c d.1 d.2 }) := by
  have due : (s.xAwaited c).filter (s.xDue c) = [d] := by rw [hone, List.filter_cons_of_pos hdue, List.filter_nil]
  unfold State.xDue at due
  change execCrossingDeadline c s = _
  simp only [execCrossingDeadline, due, List.foldl_nil]
  exact if_neg (by simp [hact, hinert])

end

/-! ### Commands of a cell (R196, R212) -/

theorem regAt_XC_CMD : ∀ c : Fin 128,
    Reg.offset .XC_CMD c % 4 = 0 ∧ regAt (Reg.offset .XC_CMD c) = some (.XC_CMD, c.val) := by
  decide +kernel

theorem arrive_XC_CMD {s : State} {req : Req} {c : Fin 128} {w : Word} (h : s.writes req .XC_CMD c w = true) :
    s.arrive req .XC_CMD c w = (s.xcCmd c w).answered req := by
  obtain ⟨h4, hat⟩ := regAt_XC_CMD c
  exact arrive_performed h rfl h4 hat

section
variable {s : State} {w : Word}

/-- RESET alone puts the cell in its initial state, and a Q that falls by it has changed for its pin (R196, R215). -/
theorem xcCmd_reset (hreset : bit w.toNat 0 = true) (hrearm : bit w.toNat 1 = false) (c : Nat) : s.xcCmd c w =
    if (s.cellOf c).q then (s.setCell c (s.cellOf c).initial).xDrive c else s.setCell c (s.cellOf c).initial := by
  simp [State.xcCmd, hreset, hrearm]

/-- REARM alone lets a stopped cell arm again, and changes nothing else (R212). -/
theorem xcCmd_rearm (hreset : bit w.toNat 0 = false) (hrearm : bit w.toNat 1 = true) (c : Nat) :
    s.xcCmd c w = s.setCell c { s.cellOf c with stopped := false, lastArm := none } := by
  simp [State.xcCmd, hreset, hrearm]

end

section
variable {s : State} {req : Req} {c : Fin 128}

theorem exec_xcReset (h : s.writes req .XC_CMD c 1 = true) :
    exec (.xcReset req c) s = .next ((s.xcCmd c 1).answered req) :=
  congrArg Host.Outcome.next (arrive_XC_CMD h)

theorem exec_xcRearm (h : s.writes req .XC_CMD c 2 = true) :
    exec (.xcRearm req c) s = .next ((s.xcCmd c 2).answered req) :=
  congrArg Host.Outcome.next (arrive_XC_CMD h)

end

/-- Settles O39. The oldest entry is the head of the queue; an open window awaits one end, so that end is the one that joins;
RESET and REARM are one bit of XC_CMD each. -/
theorem crossingEngineResults : Obligations.CrossingEngineResults := by
  refine fun s req c e rest delay tr _ => ⟨fun hq => exec_crossingPass_cons hq delay,
    fun hq => exec_crossingPass_empty hq delay, fun hact hinert hprim hwin hend hwaits => ?_, fun hwr => ?_, fun hwr => ?_⟩
  · exact exec_crossingDeadline_one hact hinert (xAwaited_window hprim hwin) (xDue_iff.2 ⟨hend, hwaits⟩)
  · rw [exec_xcReset hwr, xcCmd_reset (by decide) (by decide)]
    rfl
  · rw [exec_xcRearm hwr, xcCmd_rearm (by decide) (by decide)]

end Sys2Proof.Machine
end

section
/-! The family of the Arcades: IN, INM, OUT and OUTM (R221, R224, R268, R321, R322), the delivery of an item that a thread has
waited for (R53, R265), and a thread parked on an empty Arcade that asks again (R224). -/

namespace Sys2Proof.Machine

/-! ### What an attempt at an Arcade comes to (R221, R224, R322) -/

section
variable {s w : State} {t : Nat} {n : Byte} {a v : Word} {l : List Word}

/-- An item of the Arcade goes to the thread, which parks until its data has come (R53, R224, R265). -/
theorem arcAsk_item {k : Nat} (hin : s.mayIn t k = true) (hheld : (s.thrOf t).heldFor k = none)
    (hget : s.arcGet k = (w, .item v)) (mi : MemI) :
    s.arcAsk t mi k = (w.setThr t ((w.thrOf t).holding k v), .park (.load mi)) := by
  simp [State.arcAsk, hin, hheld, hget]

theorem attempt_arcIn (s : State) (t : Nat) (n : Byte) : s.attempt t (.arcIn n) false = s.arcAsk t (.arcIn n) n.toNat :=
  rfl

theorem attempt_arcIn_fin (hheld : (s.thrOf t).heldFor n.toNat = some v) : s.attempt t (.arcIn n) true =
    (s.setThr t ((s.thrOf t).delivered n.toNat), .out (v :: (s.thrOf t).ds) 0) := by
  unfold State.attempt; simp only [hheld, if_true]

theorem attempt_arcInm (hds : (s.thrOf t).ds = a :: l) (ha : inDataTcm a = true) (hal : a.toNat % 4 = 0) :
    s.attempt t (.arcInm n) false = s.arcAsk t (.arcInm n) n.toNat := by
  unfold State.attempt; rw [hds]; simp [ha, hal]

theorem arcGive_room (hroom : s.sbRoom t = true) (mi : MemI) (k : Nat) (v : Word) (ds : List Word) : s.arcGive t mi k v ds =
    (s.sbPush t { thr := t, addr := 0, size := 0, data := v.toNat, arc := some k }, .out ds 0) := if_pos hroom

theorem attempt_arcOut (hds : (s.thrOf t).ds = v :: l) (hout : s.mayOut t n.toNat = true) (hroom : s.sbRoom t = true)
    (fin : Bool) : s.attempt t (.arcOut n) fin =
      (s.sbPush t { thr := t, addr := 0, size := 0, data := v.toNat, arc := some n.toNat }, .out l 0) := by
  unfold State.attempt; rw [hds]; simp [hout, arcGive_room hroom]

theorem toNat_w32_tcmValue (s : State) (t a : Nat) : (w32 (s.tcmValue t a 4)).toNat = s.tcmValue t a 4 :=
  Nat.mod_eq_of_lt (peek_lt s _ 4 _)

theorem attempt_arcOutm (hds : (s.thrOf t).ds = a :: l) (ha : inDataTcm a = true) (hal : a.toNat % 4 = 0)
    (hout : s.mayOut t n.toNat = true) (hclean : s.TcmClean t a.toNat 4) (hroom : s.sbRoom t = true) (fin : Bool) :
    s.attempt t (.arcOutm n) fin =
      (s.sbPush t { thr := t, addr := 0, size := 0, data := s.tcmValue t a.toNat 4, arc := some n.toNat },
        .out ((a + 4) :: l) 0) := by
  unfold State.attempt; rw [hds]
  simp [ha, hal, hout, load_tcmClean hclean, arcGive_room hroom, toNat_w32_tcmValue]

end

/-! ### IN, INM, OUT and OUTM issue (R321, R322) -/

/-- A memory instruction whose first attempt completes and leaves state w. -/
theorem memOp_completes {s w : State} {t : Fin 64} {r : Row} {mi : MemI} {ds : List Word} (h : s.Ready t r)
    (hp : r.pr ≠ .feeder) (hl : mi.len = r.len) (ha : (s.begun t r).attempt t mi false = (w, .out ds 0)) :
    s.memOp t r mi = w.ended t r fun th => { th with ds := ds } := by
  rw [State.memOp, issue_ready h, State.tryMem, ha]
  simp [State.charge, State.leave, State.ended, hl, hp]

section
variable {n : Byte} (hn : n.toNat < 64) (t : Fin 64) (s : State)
include hn

theorem exec_iIn : exec (.iIn t n) s = .next (s.memOp t { code := 0x90, imm := 1, dout := 1 } (.arcIn n)) := by
  change execIIn t n s = _
  rw [execIIn, decide_eq_true hn]

theorem exec_iOut : exec (.iOut t n) s = .next (s.memOp t { code := 0x91, imm := 1, di := 1 } (.arcOut n)) := by
  change execIOut t n s = _
  rw [execIOut, decide_eq_true hn]

theorem exec_iInm : exec (.iInm t n) s = .next (s.memOp t { code := 0x92, imm := 1, di := 1, dout := 1 } (.arcInm n)) := by
  change execIInm t n s = _
  rw [execIInm, decide_eq_true hn]

theorem exec_iOutm : exec (.iOutm t n) s = .next (s.memOp t { code := 0x93, imm := 1, di := 1, dout := 1 } (.arcOutm n)) := by
  change execIOutm t n s = _
  rw [execIOutm, decide_eq_true hn]

end

/-! ### The item that IN has waited for is delivered (R53, R265) -/

/-- A thread that is billed for its parking and goes on with IN, whose item it holds. -/
theorem retryMem_arcIn_fin {s : State} {t : Nat} {n : Byte} {th : Thr} {v : Word} (hw : s.Wf)
    (hheld : th.heldFor n.toNat = some v) : (s.setThr t th).retryMem t (.arcIn n) true =
      ((s.setThr t th.unparked).setThr t (th.unparked.delivered n.toNat)).leave t 2 (v :: th.ds) := by
  have hself := thrOf_setThr_self hw t th
  rw [retryMem_out (attempt_arcIn_fin (by rw [hself]; exact hheld)), State.unpark]
  simp only [hself, setThr_setThr hw, thrOf_setThr_self hw]
  rfl

section
variable {s : State} {t : Fin 64} {n : Byte} {m : Nat} {v : Word} (hp : s.parkedOn t = some (.load (.arcIn n)))
  (hheld : (s.thrOf t).heldFor n.toNat = some v)
include hp hheld

theorem memoryLoadComplete_arcIn_overrun (hb : ¬ s.bears t (s.loadSlots t (.arcIn n) ((s.thrOf t).parkedFor m))) :
    exec (.memoryLoadComplete t m) s = .next (s.overrun t) := by
  rw [exec_memoryLoadComplete hp (attempt_arcIn_fin hheld) (parkBill_overrun hb rfl), if_neg Bool.false_ne_true]

theorem memoryLoadComplete_arcIn (hw : s.Wf) (hb : s.bears t (s.loadSlots t (.arcIn n) ((s.thrOf t).parkedFor m))) :
    let u := s.paid t (s.loadSlots t (.arcIn n) ((s.thrOf t).parkedFor m))
    exec (.memoryLoadComplete t m) s =
      .next ((u.setThr t ((u.thrOf t).delivered n.toNat)).leave t 2 (v :: (s.thrOf t).ds)) := by
  rw [exec_memoryLoadComplete hp (attempt_arcIn_fin hheld) (parkBill_bears hb rfl), if_pos rfl]
  generalize s.loadSlots t (.arcIn n) ((s.thrOf t).parkedFor m) = k
  have hc := charge_wf hw t (k - (s.thrOf t).pkSlots)
  have hgo := retryMem_arcIn_fin (t := t) hc
    (th := { (s.thrOf t).parkedFor m with pkSlots := max k ((s.thrOf t).parkedFor m).pkSlots }) hheld
  simp only [State.paid, thrOf_setThr_self hc]
  exact congrArg Host.Outcome.next hgo

end

/-! ### A thread parked on an empty Arcade (R224) -/

theorem exec_inUnpark_readable {s u : State} {t : Fin 64} {m : Nat} {n : Byte} {paid : Bool}
    (hp : s.parkedOn t = some (.arc (.arcIn n))) (hr : 0 < (s.arcOf n.toNat).readable) (hb : s.parkPass t m = (u, paid)) :
    exec (.inUnpark t m) s = .next (if paid then u.retryMem t (.arcIn n) false else u) := by
  change execInUnpark t m s = _
  simp only [execInUnpark, hp, hr, hb, or_true, if_true]
  cases paid <;> rfl

theorem exec_inUnpark_empty {s : State} {t : Fin 64} {n : Byte} (hp : s.parkedOn t = some (.arc (.arcIn n)))
    (hr : (s.arcOf n.toNat).readable = 0) (hin : s.mayIn t n.toNat = true) (m : Nat) : exec (.inUnpark t m) s = .next s := by
  change execInUnpark t m s = _
  simp [execInUnpark, hp, hr, hin]

theorem LiveBut.mayIn {rs : List Reg} {s s' : State} (h : LiveBut rs s s') (t a : Nat) : s'.mayIn t a = s.mayIn t a := by
  have e := congrArg (fun u : State => u.mayIn t a) h.rest
  exact e

theorem parkedOn_park {s : State} {t : Nat} {p : Park} (h : s.parkedOn t = some p) : (s.thrOf t).park = some p := by
  dsimp only [State.parkedOn] at h
  split at h
  · exact h
  · cases h

/-- A thread parked on its Arcade that asks again and takes an item now waits for the item's data. -/
theorem retryMem_arcIn_item {s w : State} {t : Nat} {n : Byte} {v : Word} (hpark : (s.thrOf t).park = some (.arc (.arcIn n)))
    (hin : s.mayIn t n.toNat = true) (hheld : (s.thrOf t).heldFor n.toNat = none) (hget : s.arcGet n.toNat = (w, .item v)) :
    let x := w.setThr t ((w.thrOf t).holding n.toNat v)
    s.retryMem t (.arcIn n) false = x.setThr t { x.thrOf t with park := some (.load (.arcIn n)) } := by
  rw [State.retryMem, attempt_arcIn, arcAsk_item hin hheld hget]
  simp [hpark, State.waitsOn]

section
variable {s : State} {t : Fin 64} {n : Byte} {m : Nat} (hp : s.parkedOn t = some (.arc (.arcIn n)))
  (hr : 0 < (s.arcOf n.toNat).readable)
include hp hr

theorem inUnpark_overrun (hb : ¬ s.bears t (s.slotsAfter t m)) : exec (.inUnpark t m) s = .next (s.overrun t) := by
  rw [exec_inUnpark_readable hp hr (parkBill_overrun hb rfl), if_neg Bool.false_ne_true]

theorem inUnpark_item {w : State} {v : Word} (hw : s.Wf) (hb : s.bears t (s.slotsAfter t m)) (hin : s.mayIn t n.toNat = true)
    (hheld : (s.thrOf t).heldFor n.toNat = none) (hget : (s.parkPass t m).1.arcGet n.toNat = (w, .item v)) :
    let x := w.setThr t ((w.thrOf t).holding n.toNat v)
    exec (.inUnpark t m) s = .next (x.setThr t { x.thrOf t with park := some (.load (.arcIn n)) }) := by
  have hpass : s.parkPass t m = _ := parkBill_bears hb rfl
  have hc := charge_wf hw t (s.slotsAfter t m - (s.thrOf t).pkSlots)
  rw [hpass] at hget
  rw [exec_inUnpark_readable hp hr hpass, if_pos rfl, retryMem_arcIn_item _ _ _ hget]
  · rw [thrOf_setThr_self hc]; exact parkedOn_park hp
  · exact ((liveBut_charge s t _).mayIn t _).trans hin
  · rw [thrOf_setThr_self hc]; exact hheld

end

/-- Settles O19. Each instruction is one attempt at its Arcade: OUT and OUTM complete it into the store buffer, IN and INM take an
item and park. A parked thread is billed for its parking before it attempts again. -/
theorem arcadeAccessResults : Obligations.ArcadeAccessResults := by
  refine ⟨fun s w t n a v l hn => ⟨fun c r mi hc => ?_, ?_, ?_⟩, fun s w t n m v hw => ⟨fun hp hheld => ?_, fun hp hr => ?_,
    fun hp hr hin => exec_inUnpark_empty hp hr hin m⟩⟩
  · simp only [List.mem_cons, Prod.mk.injEq, List.not_mem_nil, or_false] at hc
    obtain ⟨rfl, rfl, rfl⟩ | ⟨rfl, rfl, rfl⟩ := hc <;> intro u hr haddr hin hheld hget
    · rw [exec_iIn hn, memOp_parks hr ((attempt_arcIn u t n).trans (arcAsk_item hin hheld hget _))]
    · obtain ⟨hds, ha, hal⟩ := haddr rfl
      rw [exec_iInm hn,
        memOp_parks hr ((attempt_arcInm ((begun_ds hr).trans hds) ha hal).trans (arcAsk_item hin hheld hget _))]
  · intro r u hr hds hout hroom
    rw [exec_iOut hn, memOp_completes hr (by decide) rfl (attempt_arcOut ((begun_ds hr).trans hds) hout hroom false)]
  · intro r u hr hds ha hal hout hclean hroom
    rw [exec_iOutm hn, memOp_completes hr (by decide) rfl
      (attempt_arcOutm ((begun_ds hr).trans hds) ha hal hout hclean hroom false)]
  · exact ⟨memoryLoadComplete_arcIn hp hheld hw, memoryLoadComplete_arcIn_overrun hp hheld⟩
  · exact ⟨inUnpark_item hp hr hw, inUnpark_overrun hp hr⟩

end Sys2Proof.Machine
end
